-- ==== Sys2Proof/Word.lean ====
section
/-! DEFINITION. The word types of the module's registers, addresses and stamps (R4, R30, R392). -/

namespace Sys2Proof

/-- A register word (R30). -/
abbrev Word := BitVec 32

/-- A byte of DRAM or of the mailbox. -/
abbrev Byte := BitVec 8

/-- A link address (R392). -/
abbrev LinkAddr := BitVec 40

/-- A Bourdon stamp: ticks[53:0] in bits [63:10], fine units in bits [9:0] (R4). -/
abbrev Stamp := BitVec 64

/-- A signed quantity of fine units or steps, held in full width. -/
abbrev Fine := Int

end Sys2Proof
end

