-- ==== Sys2Proof/Syntax.lean ====
section
/-! DEFINITION. The commands of the module: one constructor of `Instr` for every row of spec/opcode_table.json, with its
operands. What a party outside decides or what physics decides (a written value, a stamp at which a transition happens, a
converted code) is an operand; what the module holds is in State. -/

namespace Sys2Proof

/-- The register pages (R396). -/
inductive Page where
  | dev | flt | hkp | clk | evr | bgl | phl | nvm | sec | slu | mem | dsc | pol | acq | oct | seq | mce | cdi
deriving DecidableEq, Repr

/-- The types of register fields (R32). -/
inductive FTy where
  | rw | ro | lv | st | sq | sc | wo | ct
deriving DecidableEq, Repr

/-- A number of each page type, for the key of a field. -/
def Page.code : Page → Nat
  | .dev => 0 | .flt => 1 | .hkp => 2 | .clk => 3 | .evr => 4 | .bgl => 5 | .phl => 6 | .nvm => 7 | .sec => 8
  | .slu => 9 | .mem => 10 | .dsc => 11 | .pol => 12 | .acq => 13 | .oct => 14 | .seq => 15 | .mce => 16 | .cdi => 17

/-- PAGE_ID.BLOCK (R396). -/
def Page.block : Page → Nat
  | .dev => 0x01 | .flt => 0x02 | .hkp => 0x03 | .clk => 0x04 | .evr => 0x05 | .bgl => 0x06 | .phl => 0x07
  | .nvm => 0x08 | .sec => 0x09 | .slu => 0x0A | .mem => 0x0B | .dsc => 0x0C | .pol => 0x10 | .acq => 0x11
  | .oct => 0x12 | .seq => 0x13 | .mce => 0x14 | .cdi => 0x15

/-- Instances of each page (R396). -/
def Page.count : Page → Nat
  | .phl => 2 | .dsc => 4 | .pol => 64 | .acq => 64 | .oct => 64 | .seq => 16 | .mce => 4 | .cdi => 8
  | _ => 1

/-- The fabric address of instance 0 (R395, R396). -/
def Page.base : Page → Nat
  | .dev => 0x0000 | .flt => 0x1000 | .hkp => 0x2000 | .clk => 0x3000 | .evr => 0x4000 | .bgl => 0x5000
  | .phl => 0x6000 | .nvm => 0x8000 | .sec => 0x9000 | .slu => 0xA000 | .mem => 0xB000 | .dsc => 0xC000
  | .pol => 0x100000 | .acq => 0x200000 | .oct => 0x300000 | .seq => 0x400000 | .mce => 0x500000 | .cdi => 0x600000

/-- The summary index of instance 0 (R396). -/
def Page.summary : Page → Nat
  | .dev => 0 | .flt => 1 | .hkp => 2 | .clk => 3 | .evr => 4 | .bgl => 5 | .phl => 6 | .nvm => 8 | .sec => 9
  | .slu => 10 | .mem => 11 | .dsc => 12 | .pol => 16 | .acq => 80 | .oct => 144 | .seq => 208 | .mce => 224 | .cdi => 228

/-- The initiators of register requests, by their INIT code (R25, R43). -/
inductive Initiator where
  | mp | ph0 | ph1 | jtag
deriving DecidableEq, Repr

/-- A page and its instance. -/
structure PageRef where
  page : Page
  inst : Nat
deriving DecidableEq, Repr

/-- A DAC queue (R127): the level queue of a polder or the queue of a DS controller. -/
inductive QId where
  | lvl (p : Fin 64)
  | ds (d : Fin 32)
deriving DecidableEq, Repr

/-- A sequencer or an engine (R191): binding 0 to 15 is SQ00 to SQ15, 16 to 19 is ME0 to ME3. -/
abbrev Bind := Fin 20

/-- What one channel's converter yields for one conversion: the code before it saturates, and whether a limit acted (R103). -/
structure ConvResult where
  tch : Fin 512
  code : Int
  limited : Bool
deriving DecidableEq, Repr

/-- An error that the code over a 64-bit word shows (R171, R172): its link address, and whether it was found in the vector cache,
otherwise in DRAM. -/
structure EccErr where
  addr : LinkAddr
  cache : Bool := false
deriving DecidableEq, Repr

/-- A packet on a link, as its SOP, data and EOP blocks carry it (R366, R371): the SEQ of the SOP, the header, the payload, the CRC of
the EOP. -/
structure Packet where
  seq : BitVec 12
  header : BitVec 128
  payload : List Word
  crc : BitVec 32
deriving DecidableEq, Repr

/-- The sync headers that a lane has received last, oldest first (R365). -/
structure LaneSync where
  lane : Fin 4
  hdrs : List (BitVec 2)
deriving DecidableEq, Repr

/-- What a lane fails by (R365, R378): the sync headers of a window, or ALIGN blocks missed in a row. -/
inductive LossWhy where
  | headers (w : List (BitVec 2))
  | aligns (missed : Nat)
deriving DecidableEq, Repr

/-- A lane and what it fails by. -/
structure LaneLoss where
  lane : Fin 4
  why : LossWhy
deriving DecidableEq, Repr

/-- An ALIGN block (R366): the lane it arrived on, the lane number it carries, its arrival in picoseconds. -/
structure AlignRx where
  rx : Fin 4
  num : BitVec 3
  ps : Nat
deriving DecidableEq, Repr

/-- The fields of a TS block (R367). -/
structure TsFields where
  lane : BitVec 3
  rate : Bool
  maxver : BitVec 2
  role : BitVec 2
  lmask : BitVec 4
  epoch : BitVec 8
  nrxseq : BitVec 12
  hops : BitVec 3
  rt : Bool
deriving DecidableEq, Repr

/-- Four consecutive long windows of the lock count, by their count differences (R332). -/
structure LockWindows where
  d0 : BitVec 16
  d1 : BitVec 16
  d2 : BitVec 16
  d3 : BitVec 16
deriving DecidableEq, Repr

/-- A window of the lock count that shows a count difference: of 65,536 reference cycles or of 1,024 (R332). -/
inductive LockWindow where
  | long (d : BitVec 16)
  | short (d : BitVec 16)
deriving DecidableEq, Repr

/-- The classes that credits are counted in (R374): non-posted headers, posted headers, posted data, captures, events. -/
inductive CreditClass where
  | np | ph | pd | cap | evs
deriving DecidableEq, Repr

/-- A record of the NVM as the flash holds it (R452). `commit` is the commit word read, `crcOk` whether the CRC field agrees. -/
structure NvmRecord where
  typ : BitVec 16
  ver : BitVec 16
  seq : BitVec 64
  payload : List Byte
  commit : Word
  crcOk : Bool
deriving DecidableEq, Repr

/-- A firmware image in a slot (R447); `body` and `sig` are its bytes, `pad` and `tail` those of the header that should be zero, at
offsets 10 and 16,320. -/
structure FwImage where
  minor : BitVec 16
  major : BitVec 16
  svn : BitVec 8
  lcmask : BitVec 8
  key : List Byte
  digest : List Byte
  sig : List Byte
  body : List Byte
  pad : List Byte := List.replicate 6 0
  tail : List Byte := List.replicate 64 0
deriving DecidableEq, Repr

/-- The deskew values one channel's self-calibration measured (R160). -/
structure CalResult where
  ch : Fin 512
  ddsk : BitVec 16
  cdsk : BitVec 16
deriving DecidableEq, Repr

/-- The commands. The docstring of each constructor names its row. -/
inductive Instr where
  /-- REGISTER_WRITE: a write of `size` bytes at fabric address `addr`. -/
  | registerWrite (i : Initiator) (addr : LinkAddr) (size : Nat) (v : Word)
  /-- EVT_ACK_WRITE. -/
  | evtAckWrite (i : Initiator) (pg : PageRef) (v : Word)
  /-- LOCK_WRITE. -/
  | lockWrite (i : Initiator) (pg : PageRef) (v : Word)
  /-- FORCE_WRITE. -/
  | forceWrite (i : Initiator) (pg : PageRef) (v : Word)
  /-- IX_ADDR_WRITE. -/
  | ixAddrWrite (i : Initiator) (pg : PageRef) (v : Word)
  /-- IX_DATA_READ. -/
  | ixDataRead (i : Initiator) (pg : PageRef)
  /-- IX_DATA_WRITE. -/
  | ixDataWrite (i : Initiator) (pg : PageRef) (v : Word)
  /-- IX_POSTED_WRITE_COMPLETE: the oldest posted write of the page. -/
  | ixPostedWriteComplete (pg : PageRef)
  /-- OCTMAP_WRITE: OCTMAP_HI when `hi`, OCTMAP_LO otherwise. -/
  | octmapWrite (i : Initiator) (p : Fin 64) (hi : Bool) (v : Word)
  /-- DSMAP_WRITE. -/
  | dsmapWrite (i : Initiator) (p : Fin 64) (v : Word)
  /-- RUN. -/
  | run (i : Initiator) (p : Fin 64) (scope : Bool)
  /-- STOP. -/
  | stop (i : Initiator) (p : Fin 64) (scope : Bool)
  /-- ABORT. -/
  | abort (i : Initiator) (p : Fin 64) (scope : Bool)
  /-- PAUSE. -/
  | pause (i : Initiator) (p : Fin 64) (scope : Bool)
  /-- RESUME. -/
  | resume (i : Initiator) (p : Fin 64) (scope : Bool)
  /-- DIKE. -/
  | dike (i : Initiator) (p : Fin 64) (scope : Bool)
  /-- RELEASE. -/
  | release (i : Initiator) (p : Fin 64) (scope : Bool)
  /-- RELEASE_COMPLETE. -/
  | releaseComplete (p : Fin 64)
  /-- START_CONDITION_MET: of the binding `b`. -/
  | startConditionMet (b : Bind)
  /-- PAUSE_TAKEN: of the binding `b`. -/
  | pauseTaken (b : Bind)
  /-- STOPPING_COMPLETE: of the polder `p` and the members that stop with it. -/
  | stoppingComplete (p : Fin 64)
  /-- PIN_EDGE: the next edge of the channel in merged time order. -/
  | pinEdge (ch : Fin 512)
  /-- COMPARATOR_TRANSITION: CMPH when `high`; `t` and `sub`, sixteenths of a fine unit, are the time as the channel's copy of the
  count and its interpolator at the nominal scale read it (R275), before the compare offset; `det`: the comparator detects a violation
  that this transition begins (R90 leaves short ones open). -/
  | comparatorTransition (ch : Fin 512) (high : Bool) (rising : Bool) (t : Stamp) (sub : BitVec 4) (det : Bool)
  /-- STOP_ON_FAIL. -/
  | stopOnFail (p : Fin 64)
  /-- DRIVER_OVERCURRENT. -/
  | driverOvercurrent (ch : Fin 512) (t : Stamp)
  /-- CLAMP_OVERCURRENT. -/
  | clampOvercurrent (ch : Fin 512) (t : Stamp)
  /-- CHANNEL_DIE_INIT. -/
  | channelDieInit (d : Fin 8)
  /-- CONV. -/
  | conv (i : Initiator) (p : Fin 64)
  /-- BURST. -/
  | burst (i : Initiator) (p : Fin 64)
  /-- BURST_STOP. -/
  | burstStop (i : Initiator) (p : Fin 64)
  /-- FORCE_ON. -/
  | forceOn (i : Initiator) (p : Fin 64)
  /-- FORCE_OFF. -/
  | forceOff (i : Initiator) (p : Fin 64)
  /-- APPLY. -/
  | apply (i : Initiator) (p : Fin 64)
  /-- PMU_MODE_WRITE. -/
  | pmuModeWrite (i : Initiator) (ch : Fin 512) (mode : BitVec 2)
  /-- MODE_RECONNECT. -/
  | modeReconnect (ch : Fin 512)
  /-- RANGE_CHANGE: a write of IRANGE. -/
  | rangeChange (i : Initiator) (ch : Fin 512) (r : BitVec 3)
  /-- RANGE_CHANGE_COMPLETE. -/
  | rangeChangeComplete (ch : Fin 512) (t : Stamp)
  /-- PMU_FORCE_WRITE. -/
  | pmuForceWrite (i : Initiator) (ch : Fin 512) (code : BitVec 18)
  /-- CONVERSION_LATCH: of the conversion of polder `p` whose hold start is `t0`. -/
  | conversionLatch (p : Fin 64) (t0 : Stamp) (rs : List ConvResult)
  /-- ARRAY_RETURN: of the conversion whose hold start is `t0`. -/
  | arrayReturn (p : Fin 64) (t0 : Stamp)
  /-- NOP (queue entry). -/
  | nop (q : QId) (cont : Bool)
  /-- SET. -/
  | set (q : QId) (cont : Bool) (tch : BitVec 9) (dac : BitVec 3) (g : Bool) (code : BitVec 16)
  /-- SETALL. -/
  | setall (q : QId) (cont : Bool) (dac : BitVec 3) (g : Bool) (code : BitVec 16)
  /-- LSWITCH. -/
  | lswitch (q : QId) (cont : Bool) (lset : BitVec 4)
  /-- DSSET. -/
  | dsset (q : QId) (cont : Bool) (g : Bool) (code : BitVec 16)
  /-- DSON. -/
  | dson (q : QId) (cont : Bool)
  /-- DSOFF. -/
  | dsoff (q : QId) (cont : Bool)
  /-- DAC_QUEUE_TICK. -/
  | dacQueueTick (q : QId)
  /-- GAIN_SWITCH_END. -/
  | gainSwitchEnd (q : QId)
  /-- QUEUE_PUSH: a write of LQPUSH_HI or QPUSH_HI. -/
  | queuePush (i : Initiator) (q : QId) (hi : Word)
  /-- QUEUE_DIV_WRITE. -/
  | queueDivWrite (i : Initiator) (q : QId) (v : BitVec 16)
  /-- DS_OVERCURRENT. -/
  | dsOvercurrent (d : Fin 32) (t : Stamp)
  /-- DS_SENSE_OPEN. -/
  | dsSenseOpen (d : Fin 32) (t : Stamp)
  /-- DS_RAMP_END. -/
  | dsRampEnd (d : Fin 32)
  /-- TSET_CLEAR. -/
  | tsetClear (i : Initiator) (p : Fin 64) (set : BitVec 6)
  /-- SELFCAL. -/
  | selfcal (i : Initiator) (d : Fin 8)
  /-- SELFCAL_DONE: `t0` the die temperature at the end, in °C. -/
  | selfcalDone (d : Fin 8) (t0 : BitVec 8) (rs : List CalResult)
  /-- PATTERN_REFILL: `n` more words of the path ahead that stand in no locked or pinned span are resident; `ce`, `ue`: the correctable
  and the uncorrectable errors that reading DRAM and the vector cache for the binding has shown since the last one. -/
  | patternRefill (b : Bind) (n : Nat) (ce : List EccErr) (ue : List EccErr)
  /-- PATROL_SCRUB: as read over all of DRAM. -/
  | patrolScrub (ce : List LinkAddr) (ue : List LinkAddr)
  /-- PRELOAD: a write of PRE_VA_HI with GO. -/
  | preload (i : Initiator) (b : Bind) (va : BitVec 8) (compact : Bool)
  /-- PRELOAD_DONE. -/
  | preloadDone (b : Bind)
  /-- AUTO_RESUME. -/
  | autoResume (b : Bind)
  /-- SEGMENT_FETCH. -/
  | segmentFetch (q : Fin 16) (entry : BitVec 15)
  /-- SEGMENT_WORD_ISSUE. -/
  | segmentWordIssue (q : Fin 16)
  /-- LCLR. -/
  | lclr (i : Initiator) (b : Bind)
  /-- MICROWORD_ISSUE. -/
  | microwordIssue (m : Fin 4)
  /-- WAIT: the wait of the microword in execution ends with its condition. -/
  | wait (m : Fin 4) (wsel : BitVec 5) (wpol : Bool)
  /-- WAIT_TIMEOUT. -/
  | waitTimeout (m : Fin 4) (nxt : BitVec 14)
  /-- BRANCH_NONE. -/
  | branchNone (m : Fin 4) (nxt : BitVec 14)
  /-- BRANCH_2_WAY. -/
  | branch2Way (m : Fin 4) (nxt : BitVec 14) (bc0 : BitVec 4)
  /-- BRANCH_4_WAY. -/
  | branch4Way (m : Fin 4) (nxt : BitVec 14) (bc0 bc1 : BitVec 4)
  /-- BRANCH_8_WAY. -/
  | branch8Way (m : Fin 4) (nxt : BitVec 14) (bc0 bc1 bc2 : BitVec 4)
  /-- BRANCH_16_WAY. -/
  | branch16Way (m : Fin 4) (nxt : BitVec 14) (bc0 bc1 bc2 bc3 : BitVec 4)
  /-- RETURN: `retva` when the word's VOP is RETVA. -/
  | ret (m : Fin 4) (retva : Bool)
  /-- CALL. -/
  | call (m : Fin 4) (nxt : BitVec 14)
  /-- LOOP_TEST. -/
  | loopTest (m : Fin 4) (nxt : BitVec 14)
  /-- BEGIN. -/
  | begin (m : Fin 4) (lsel : BitVec 3) (imm : BitVec 18) (nxt : BitVec 14)
  /-- BEGIN_W. -/
  | beginW (m : Fin 4) (lsel : BitVec 3) (imm : BitVec 18) (nxt : BitVec 14)
  /-- BEGIN_R. -/
  | beginR (m : Fin 4) (lsel : BitVec 3) (nxt : BitVec 14)
  /-- BEGIN_RW. -/
  | beginRw (m : Fin 4) (lsel : BitVec 3) (nxt : BitVec 14)
  /-- LOAD. -/
  | load (m : Fin 4) (lsel : BitVec 3) (imm : BitVec 18)
  /-- LOADR. -/
  | loadr (m : Fin 4) (lsel : BitVec 3)
  /-- LOOP_DEC. -/
  | loopDec (m : Fin 4) (lsel : BitVec 3)
  /-- LOOP_INC. -/
  | loopInc (m : Fin 4) (lsel : BitVec 3)
  /-- BREAK. -/
  | breakLoop (m : Fin 4)
  /-- VA_INC. -/
  | vaInc (m : Fin 4) (tset : BitVec 6)
  /-- HOLD. -/
  | hold (m : Fin 4) (tset : BitVec 6)
  /-- JMP. -/
  | jmp (m : Fin 4) (tset : BitVec 6) (imm : BitVec 18)
  /-- JMPH. -/
  | jmph (m : Fin 4) (tset : BitVec 6) (imm : BitVec 18)
  /-- RETVA. -/
  | retva (m : Fin 4) (tset : BitVec 6)
  /-- REL. -/
  | rel (m : Fin 4) (tset : BitVec 6) (imm : BitVec 18)
  /-- IDX. -/
  | idx (m : Fin 4) (tset : BitVec 6) (imm : BitVec 18) (lsel : BitVec 3)
  /-- GATE_ON. -/
  | gateOn (m : Fin 4) (t : Stamp)
  /-- GATE_OFF. -/
  | gateOff (m : Fin 4) (t : Stamp)
  /-- GATE_WORD: from vector start `t` to `te`. -/
  | gateWord (m : Fin 4) (t te : Stamp)
  /-- TRIG. -/
  | trig (m : Fin 4) (t : Stamp)
  /-- MARK. -/
  | mark (m : Fin 4) (t : Stamp)
  /-- FLAG_SET. -/
  | flagSet (m : Fin 4) (k : Fin 4) (t : Stamp)
  /-- FLAG_CLEAR. -/
  | flagClear (m : Fin 4) (k : Fin 4) (t : Stamp)
  /-- FLAG_TOGGLE. -/
  | flagToggle (m : Fin 4) (k : Fin 4) (t : Stamp)
  /-- END. -/
  | endTest (m : Fin 4)
  /-- ENGINE_EVENT_PULSE. -/
  | engineEventPulse (m : Fin 4) (line : Fin 4) (code : BitVec 4) (t : Stamp)
  /-- ENGINE_EVENT_ASSERT. -/
  | engineEventAssert (m : Fin 4) (line : Fin 4) (code : BitVec 4) (t : Stamp)
  /-- ENGINE_EVENT_DEASSERT. -/
  | engineEventDeassert (m : Fin 4) (line : Fin 4) (code : BitVec 4) (t : Stamp)
  /-- CHECK. -/
  | check (i : Initiator) (m : Fin 4)
  /-- CRC_DONE. -/
  | crcDone (m : Fin 4)
  /-- AUTO_TIMEOUT. -/
  | autoTimeout (p : Fin 64)
  /-- RECORD_COMPLETE. -/
  | recordComplete (p : Fin 64)
  /-- RETENTION_EXPIRY: of the items of source `src` stamped before `t`. -/
  | retentionExpiry (p : Fin 64) (src : Fin 4) (t : Stamp)
  /-- MASK_ACTION. -/
  | maskAction (p : Fin 64)
  /-- STREAM_ENABLE: a write of ACQCTL.EN in STREAM mode. -/
  | streamEnable (i : Initiator) (p : Fin 64) (en : Bool)
  /-- SCOPE_SAMPLE: of the octet at `t`; `lost` when the die discards it (R19). -/
  | scopeSample (o : Fin 64) (t : Stamp) (lost : Bool)
  /-- GRANULE_FLUSH_TIMEOUT. -/
  | granuleFlushTimeout (s : Fin 256)
  /-- GRANULE_DRAINED: the oldest handed granule of the stream. -/
  | granuleDrained (s : Fin 256)
  /-- SPILLRD_WRITE. -/
  | spillrdWrite (i : Initiator) (hi : Bool) (v : Word)
  /-- SPILLWAY_EVALUATION. -/
  | spillwayEvaluation
  /-- RECLAIM_DONE. -/
  | reclaimDone (p : Fin 64)
  /-- TDC_CALIBRATION_DONE: raw results of the two calibration pulses (R276). -/
  | tdcCalibrationDone (ch : Fin 512) (m1 m2 : BitVec 16)
  /-- TDC_WINDOW_CLOSE. -/
  | tdcWindowClose (ch : Fin 512)
  /-- TDC_RECORD_TIMEOUT. -/
  | tdcRecordTimeout (ch : Fin 512)
  /-- FREQ_GATE_CLOSE. -/
  | freqGateClose (ch : Fin 512)
  /-- PAIR_WINDOW_EXPIRE: of the pair whose START channel is template channel `tch`. -/
  | pairWindowExpire (p : Fin 64) (tch : Fin 512)
  /-- ROUTER_EVENT_ARRIVAL: of event number `k` in flight. -/
  | routerEventArrival (k : Nat)
  /-- EVENT_DELIVERY. -/
  | eventDelivery
  /-- LEVEE_CROSSING. -/
  | leveeCrossing (ch : Fin 512) (high : Bool) (assert : Bool) (t : Stamp)
  /-- DS_LEVEE_CROSSING. -/
  | dsLeveeCrossing (d : Fin 32) (assert : Bool) (t : Stamp)
  /-- SUBSCRIPTION_CHANGE. -/
  | subscriptionChange (src : BitVec 12) (t : Stamp)
  /-- MUTE_WINDOW_CLOSE: of timer `k` of the polder. -/
  | muteWindowClose (p : Fin 64) (k : Fin 4)
  /-- HOST_EVENT_PULSE. -/
  | hostEventPulse (i : Initiator) (k : BitVec 8) (code : BitVec 4)
  /-- HOST_EVENT_ASSERT. -/
  | hostEventAssert (i : Initiator) (k : BitVec 8) (code : BitVec 4)
  /-- HOST_EVENT_DEASSERT. -/
  | hostEventDeassert (i : Initiator) (k : BitVec 8) (code : BitVec 4)
  /-- XO_FAIL. -/
  | xoFail
  /-- MPLL_LOCK: the count differences of four consecutive long windows. -/
  | mpllLock (diff : LockWindows)
  /-- MPLL_UNLOCK: a window of either length. -/
  | mpllUnlock (diff : LockWindow)
  /-- RELOCK. -/
  | relock (i : Initiator)
  /-- REFSEL_WRITE. -/
  | refselWrite (i : Initiator) (v : BitVec 2)
  /-- BCLK_LOSS. -/
  | bclkLoss
  /-- BCLK_QUALIFIED: `bofs` BCLK against the corrected crystal in 0.1 ppm; `pherr` the phase between the outputs and BCLK in
  fine-phase steps. -/
  | bclkQualified (bofs : Int) (pherr : Int)
  /-- SMALL_STEP. -/
  | smallStep
  /-- PHASE_SLEW_STEP. -/
  | phaseSlewStep
  /-- PHSTEP. -/
  | phstep (i : Initiator) (n : BitVec 16)
  /-- OUTDIV_WRITE. -/
  | outdivWrite (i : Initiator) (k : Fin 12) (n : BitVec 12) (p q : BitVec 10)
  /-- OUTDIV_CHANGE_DONE. -/
  | outdivChangeDone (k : Fin 12)
  /-- EPOCH_WRAP. -/
  | epochWrap
  /-- BDN_LO_READ. -/
  | bdnLoRead (i : Initiator)
  /-- XO_AGE_UPDATE. -/
  | xoAgeUpdate (v : Int)
  /-- EPOCH_FRAME: the frame's bits 24 to 183, bit 24 first; `tm` the stamp of the marker edge; `resid` what the TDC resolves of
  the aligned edge below a fine unit, in sixteenths (R360); `pherr` whether a phase error that falls between two fine-phase steps
  is rounded up (R335). -/
  | epochFrame (bits : BitVec 160) (tm : Stamp) (resid : BitVec 4) (pherr : Bool)
  /-- ECHO_RECEIVE: `te` the stamp of the returned edge, none where the echo is missing. -/
  | echoReceive (te : Option Stamp)
  /-- BTRIG_IN_TRANSITION. -/
  | btrigInTransition (k : Fin 4) (level : Bool) (rx : Stamp)
  /-- TIMED_LAUNCH. -/
  | timedLaunch (k : Fin 4)
  /-- SYNC_LOST. -/
  | syncLost
  /-- REALIGN. -/
  | realign (i : Initiator)
  /-- XCAL. -/
  | xcal (i : Initiator)
  /-- XCAL_DONE. -/
  | xcalDone
  /-- MOFS_APPLY. -/
  | mofsApply
  /-- LANE_BLOCK_LOCK. -/
  | laneBlockLock (port : Fin 2) (lane : LaneSync)
  /-- LANE_FAIL. -/
  | laneFail (port : Fin 2) (lane : LaneLoss)
  /-- DEGRADE_DONE. -/
  | degradeDone (port : Fin 2)
  /-- TS_BLOCK: the block after its type byte. -/
  | tsBlock (port : Fin 2) (ts : BitVec 56)
  /-- TRAINING_STATE_TIMEOUT. -/
  | trainingStateTimeout (port : Fin 2)
  /-- LINK_ACTIVE. -/
  | linkActive (port : Fin 2)
  /-- RETRAIN: by a write of PHCFG.RETRAIN (`i` the initiator) or by the port itself (`none`). -/
  | retrain (i : Option Initiator) (port : Fin 2)
  /-- RETRAIN_DONE: the retrain completes with the resume point exchanged, the SEQ of the far end's first new packet, or (`none`)
  fails. -/
  | retrainDone (port : Fin 2) (ok : Option (BitVec 12))
  /-- RD. -/
  | rd (port : Fin 2) (pk : Packet)
  /-- WR. -/
  | wr (port : Fin 2) (pk : Packet)
  /-- DMAWR. -/
  | dmawr (port : Fin 2) (pk : Packet)
  /-- ACK. -/
  | ack (port : Fin 2) (seq : BitVec 12)
  /-- NAK. -/
  | nak (port : Fin 2) (seq : BitVec 12)
  /-- CREDIT_UPDATE. -/
  | creditUpdate (port : Fin 2) (cls : CreditClass) (n : BitVec 16)
  /-- DEGRADE_COMMAND: the lanes that survive at the sender. -/
  | degradeCommand (port : Fin 2) (lanes : BitVec 4)
  /-- REPLAY_TIMEOUT. -/
  | replayTimeout (port : Fin 2)
  /-- CAPWITHHELD. -/
  | capwithheld (port : Fin 2)
  /-- EVS_SEND. -/
  | evsSend (port : Fin 2)
  /-- PORT_DOWN. -/
  | portDown (port : Fin 2)
  /-- LINK_LOSS_HOLD. -/
  | linkLossHold
  /-- SESSCTL_GO. -/
  | sessctlGo (i : Initiator) (port : Fin 2) (req : BitVec 2)
  /-- SMBUS_STATUS_READ. -/
  | smbusStatusRead
  /-- SMBUS_TEMP_READ. -/
  | smbusTempRead
  /-- SMBUS_THERMAL_READ. -/
  | smbusThermalRead
  /-- SMBUS_LIFECYCLE_READ. -/
  | smbusLifecycleRead
  /-- SMBUS_IDENTITY_READ. -/
  | smbusIdentityRead
  /-- SMBUS_CLEAR_ALERT. -/
  | smbusClearAlert
  /-- BYPASS. -/
  | bypass
  /-- SAMPLE_PRELOAD: `pins` the levels the boundary register captures, `shift` the value shifted in. -/
  | samplePreload (pins shift : List Bool)
  /-- EXTEST. -/
  | extest (pins shift : List Bool)
  /-- IDCODE. -/
  | idcode
  /-- EXTEST_PULSE. -/
  | extestPulse (pins shift : List Bool)
  /-- EXTEST_TRAIN. -/
  | extestTrain (pins shift : List Bool)
  /-- REGACC: a register read or write. -/
  | regacc (write : Bool) (addr : LinkAddr) (v : Word)
  /-- DEVICE_RESET. -/
  | deviceReset (i : Initiator) (key : BitVec 8)
  /-- DEVICE_RESET_DONE. -/
  | deviceResetDone
  /-- FAULT_OCCURRENCE. -/
  | faultOccurrence (s : Fin 192) (t : Stamp)
  /-- FAULT_CAUSE_GONE. -/
  | faultCauseGone (s : Fin 192)
  /-- QUIET_EXPIRY. -/
  | quietExpiry (s : Fin 192)
  /-- FAULT_CLEAR: a write of CLRCTL with GO. -/
  | faultClear (i : Initiator) (src : BitVec 8) (all : Bool) (self : Bool)
  /-- SELFERR. -/
  | selferr (t : Stamp)
  /-- FLT_PARITY_SCAN: the configuration words found with bad parity. -/
  | fltParityScan (bad : List (Fin 192)) (t : Stamp)
  /-- KEEPALIVE_TIMEOUT. -/
  | keepaliveTimeout (d : Fin 8)
  /-- EXIT. -/
  | exit (i : Initiator)
  /-- PWRGD_MAIN_DEASSERT. -/
  | pwrgdMainDeassert (t : Stamp)
  /-- PWRGD_MAIN_ASSERT. -/
  | pwrgdMainAssert
  /-- SURPRISE_POWER_LOSS. -/
  | surprisePowerLoss
  /-- HOUSEKEEPING_ROUND: the 128 results in slot order; `railOut` the rail slots outside their ranges. -/
  | housekeepingRound (smp : List (BitVec 16)) (railOut : List (Fin 24)) (t : Stamp)
  /-- EARLY_THROTTLE_EXPIRY. -/
  | earlyThrottleExpiry
  /-- SUBSTITUTION_HOLD_END. -/
  | substitutionHoldEnd
  /-- THACK. -/
  | thack (i : Initiator)
  /-- THACK_DONE. -/
  | thackDone
  /-- SENSCLR. -/
  | sensclr (i : Initiator) (sens : BitVec 6) (all : Bool)
  /-- THRESHOLD_WRITE: THRB when `b`, THRA otherwise. -/
  | thresholdWrite (i : Initiator) (b : Bool) (v : Word)
  /-- PWRGD_AUX_ASSERT. -/
  | pwrgdAuxAssert
  /-- PWRGD_AUX_DEASSERT. -/
  | pwrgdAuxDeassert
  /-- OTP_READ. -/
  | otpRead
  /-- IMAGE_VERIFY. -/
  | imageVerify
  /-- NVM_LOAD. -/
  | nvmLoad
  /-- BOOT_READY. -/
  | bootReady
  /-- WATCHDOG_EXPIRY. -/
  | watchdogExpiry
  /-- NVM_RECORD_WRITE: a write of WRCTL with GO. -/
  | nvmRecordWrite (i : Initiator) (typ : BitVec 16)
  /-- WR_DONE: `ok` the flash programmed and verified. -/
  | wrDone (ok : Bool)
  /-- REFRESH. -/
  | refresh (i : Initiator)
  /-- DAILY_REFRESH: `old` the records (by SEQ) older than 12 months, `slotB` and `slotA` whether the slot is. -/
  | dailyRefresh (old : List (BitVec 64)) (slotA slotB : Bool)
  /-- HOURS_RECORD. -/
  | hoursRecord
  /-- CALSAVE. -/
  | calsave (i : Initiator)
  /-- ADV. -/
  | adv (i : Initiator)
  /-- PROG. -/
  | prog (i : Initiator) (slot : Fin 4)
  /-- REVOKE. -/
  | revoke (i : Initiator) (slot : Fin 4)
  /-- LIFECYCLE_ADVANCE. -/
  | lifecycleAdvance (i : Initiator) (key : BitVec 8) (target : BitVec 2)
  /-- LC_DONE. -/
  | lcDone
  /-- CHREQ. -/
  | chreq (i : Initiator) (port : Fin 2)
  /-- AUTH_GO. -/
  | authGo (i : Initiator) (port : Fin 2) (slot : BitVec 2)
  /-- AUTH_RESULT. -/
  | authResult (port : Fin 2)
  /-- GET_CERT. -/
  | getCert (i : Initiator) (port : Fin 2)
  /-- ATTEST. -/
  | attest (i : Initiator) (port : Fin 2)
  /-- ATTEST_DONE. -/
  | attestDone (port : Fin 2)
  /-- FW_UPDATE. -/
  | fwUpdate (i : Initiator) (port : Fin 2)
  /-- NVM_READ. -/
  | nvmRead (i : Initiator) (port : Fin 2)
  /-- MB_DONE: `ok` the flash programmed and verified, for an operation that writes it. -/
  | mbDone (port : Fin 2) (ok : Bool)
  /-- PHY_READY. -/
  | phyReady
  /-- ALIGN_BLOCK: the ALIGN blocks of the locked lanes. -/
  | alignBlock (port : Fin 2) (ok : List AlignRx)
  /-- REALIGNED: `pherr` within one fine-phase step. -/
  | realigned (pherr : Int)
  /-- OUTPUT_DELAY_STEP. -/
  | outputDelayStep (k : Fin 12)
  /-- REFRESH_DONE. -/
  | refreshDone
  /-- WITHOUT_HOST_ALERT. -/
  | withoutHostAlert
  /-- PRE_TRIGGER_FILL_END. -/
  | preTriggerFillEnd (p : Fin 64)
deriving DecidableEq, Repr

end Sys2Proof
end

