-- ==== Sys2Proof/Decode.lean ====
section
/-! DEFINITION. spec/opcode_table.json gives no row any bits: a command is no word, and no word spells one. What has bits are the
blocks of the Porhus link: the packet header (R371) and the TS block (R367). -/

namespace Sys2Proof

/-- The command that a word spells by the table's bits: none, since the table gives no row bits. -/
def decodeTableWord (_nbits _w : Nat) : Option Instr := none

/-- The control blocks of a lane (R366). -/
inductive LinkBlock where
  | ts | align | lctl | sop | eop | idle
deriving DecidableEq, Repr

/-- The control block that a first byte names (R366). -/
def linkBlock (b : Byte) : Option LinkBlock :=
  if b = 0xB4 then some .ts else if b = 0xD2 then some .align else if b = 0xE1 then some .lctl else if b = 0x87 then some .sop
  else if b = 0x99 then some .eop else if b = 0x1E then some .idle else none

/-! The packet header (R371). -/

/-- TYPE. -/
def Packet.ptype (k : Packet) : BitVec 4 := k.header.extractLsb' 0 4
/-- RETRY. -/
def Packet.retry (k : Packet) : Bool := k.header.getLsbD 4
/-- HOP. -/
def Packet.hop (k : Packet) : BitVec 3 := k.header.extractLsb' 5 3
/-- TAG. -/
def Packet.tag (k : Packet) : BitVec 12 := k.header.extractLsb' 8 12
/-- EPOCH. -/
def Packet.epoch (k : Packet) : BitVec 8 := k.header.extractLsb' 20 8
/-- STATUS. -/
def Packet.status (k : Packet) : BitVec 4 := k.header.extractLsb' 28 4
/-- LEN, in words. -/
def Packet.len (k : Packet) : Nat := (k.header.extractLsb' 32 11).toNat
/-- ADDR. -/
def Packet.addr (k : Packet) : LinkAddr := k.header.extractLsb' 48 40
/-- STREAM. -/
def Packet.stream (k : Packet) : BitVec 8 := k.header.extractLsb' 88 8

/-- The header with these fields; the others are zero. -/
def packHeader (typ : BitVec 4) (retry : Bool) (hop : BitVec 3) (tag : BitVec 12) (epoch : BitVec 8) (status : BitVec 4)
    (len : BitVec 11) (addr : LinkAddr) (stream : BitVec 8) : BitVec 128 :=
  typ.setWidth 128 ||| (BitVec.ofBool retry).setWidth 128 <<< 4 ||| hop.setWidth 128 <<< 5 ||| tag.setWidth 128 <<< 8
    ||| epoch.setWidth 128 <<< 20 ||| status.setWidth 128 <<< 28 ||| len.setWidth 128 <<< 32 ||| addr.setWidth 128 <<< 48
    ||| stream.setWidth 128 <<< 88

/-! The TS block after its type byte (R367). -/

/-- The fields of a block. -/
def tsOf (w : BitVec 56) : TsFields :=
  { lane := w.extractLsb' 0 3, rate := w.getLsbD 3, maxver := w.extractLsb' 4 2, role := w.extractLsb' 6 2
    lmask := w.extractLsb' 8 4, epoch := w.extractLsb' 12 8, nrxseq := w.extractLsb' 20 12, hops := w.extractLsb' 32 3
    rt := w.getLsbD 35 }

/-- The block of some fields; bits 55 to 36 are zero. -/
def tsWord (t : TsFields) : BitVec 56 :=
  t.lane.setWidth 56 ||| (BitVec.ofBool t.rate).setWidth 56 <<< 3 ||| t.maxver.setWidth 56 <<< 4 ||| t.role.setWidth 56 <<< 6
    ||| t.lmask.setWidth 56 <<< 8 ||| t.epoch.setWidth 56 <<< 12 ||| t.nrxseq.setWidth 56 <<< 20 ||| t.hops.setWidth 56 <<< 32
    ||| (BitVec.ofBool t.rt).setWidth 56 <<< 35

end Sys2Proof
end

