-- ==== Sys2Proof/Config.lean ====
section
/-! DEFINITION. What the manual leaves open. Every constant here is opaque: nothing in Lean can evaluate it. A function of a
counter is applied to State.free, which a use advances; a function of operands is a fixed but unknown function. -/

namespace Sys2Proof.Config

/-- Which of the FREE granules a grant takes (R260). -/
opaque granulePick : Nat → Nat

/-- A value of up to 32 bits that the manual does not state. -/
opaque freeWord : Nat → BitVec 32

/-- A decision that the manual leaves open (a rounding, a loss within a bound). -/
opaque freeBool : Nat → Bool

/-- The 256 random bits of a challenge (R463). -/
opaque nonce : Nat → BitVec 256

/-- SHA-256 (FIPS 180-4), named but not defined by the manual. -/
opaque sha256 : List Byte → List Byte

/-- SLH-DSA-SHA2-192s verification (FIPS 205) under a public key and a context string of a signature over a message; named but
not defined by the manual: key, context, message, signature. -/
opaque slhVerify : List Byte → List Byte → List Byte → List Byte → Bool

/-- SLH-DSA-SHA2-192s signature by the device's identity (R461, R462), of a message under a context string: context, message. -/
opaque slhSign : List Byte → List Byte → List Byte

/-- The contents of the boot ROM (R462), which the manual does not give. -/
opaque bootRom : List Byte

/-- The correctable and the uncorrectable errors that loading a span to pin it shows (R171, R172, R176): what DRAM has suffered is not
the commands' to say. -/
opaque loadErrs : Nat → List EccErr × List EccErr

/-- Whether a clamp of a channel carries more than 1 mA (R85): channel, voltage codes of the high and the low clamp in 10 mV above
−2.500 V, Bourdon count. What is on the pin is seen outside the module only. -/
opaque clampFlow : Nat → Int → Int → BitVec 64 → Bool

/-- Whether a DS controller that is ON regulates at its current limit (R126): controller, Bourdon count. -/
opaque limiting : Nat → BitVec 64 → Bool

/-- The strap balls SMBA1 and SMBA0 (R388): the board ties them. -/
opaque smbaStraps : BitVec 2

end Sys2Proof.Config
end

