-- ==== Sys2Proof/Machine/Fields.lean ====
section
/-! DEFINITION. The register map: every field of every page, by the register tables of spec/ (each definition cites the
rule of its table), with its type (R32), its privilege (R44, R406) and its reset value (R33). The definitions are named
PAGE_REGISTER_FIELD as the manual names the field (R7). -/

namespace Sys2Proof.Machine

/-- The key of a field in the register store: page, instance, indirect space (0 for the page itself), offset or word
address, and lowest bit. -/
def fldKey (page inst space off lo : Nat) : Nat :=
  page + 32 * (lo + 32 * (off + 16777216 * (space + 16 * inst)))

/-- One field of the register map. `space` 0 is the page itself and `off` a byte offset; otherwise `off` is the word
address in the indirect space. -/
structure Fld where
  page : Page
  space : Nat
  off : Nat
  lo : Nat
  w : Fin 33
  ty : FTy
  priv : Bool
  rst : Nat
deriving DecidableEq, Repr

def Fld.key (f : Fld) (n : Nat) : Nat := fldKey f.page.code n f.space f.off f.lo

/-! Reset values that depend on the index (R336, R408). -/

def outDivN (i : Nat) : Nat := [4, 16, 6, 40, 64, 128, 12, 8, 16, 64, 0, 0].getD i 0
def outDivP (i : Nat) : Nat := [0, 0, 2, 24, 0, 0, 0, 0, 0, 0, 0, 0].getD i 0
def outDivQ (i : Nat) : Nat := [1, 1, 5, 25, 1, 1, 1, 1, 1, 1, 1, 1].getD i 1
def outEn (i : Nat) : Nat := if i ≤ 8 ∧ i ≠ 4 then 1 else 0

/-- The class of a fault source (R408, R426): 0 NOTICE, 1 POLDER, 2 DIE, 3 DEVICE. -/
def fltClass (s : Nat) : Nat :=
  if s < 96 then 1
  else if s < 128 then (if s % 4 = 2 then 0 else if s % 4 = 3 then 2 else 1)
  else if s < 184 then 1 else 3

/-- The default reaction of a fault source (R408): 0 LOG, 1 DIKE_POLDER, 2 DIKE_DIE, 3 EMBANK. -/
def fltReact (s : Nat) : Nat :=
  if s < 96 then 1
  else if s < 128 then (if s % 4 = 0 then 1 else if s % 4 = 3 then 2 else 0)
  else if s < 184 then 0
  else if s = 185 then 1
  else if s = 188 ∨ s = 189 ∨ s = 190 ∨ s = 191 then 3 else 0

/-- The default of AUTOREC of a fault source (R408). -/
def fltAutorec (s : Nat) : Nat :=
  if s < 96 then 1
  else if s < 128 then (if s % 4 = 3 then 0 else 1)
  else if 188 ≤ s then 0 else 1

namespace F

/-! The common header (R33, R47). The words EVT, COND, FORCE, LOCK and LOCKVIO of a page are held whole; COND fields that a
chapter names are fields of their own. -/

abbrev PAGE_ID_BLOCK (p : Page) : Fld := ⟨p, 0, 0x000, 24, 8, .ro, false, p.block⟩
abbrev PAGE_ID_INST (p : Page) (n : Nat) : Fld := ⟨p, 0, 0x000, 16, 8, .ro, false, n⟩
abbrev PAGE_ID_MAJOR (p : Page) : Fld := ⟨p, 0, 0x000, 8, 8, .ro, false, 1⟩
abbrev PAGE_ID_MINOR (p : Page) : Fld := ⟨p, 0, 0x000, 0, 8, .ro, false, 0⟩
abbrev PAGE_CAPS (p : Page) : Fld := ⟨p, 0, 0x004, 0, 32, .ro, false, 0⟩
abbrev EVT (p : Page) : Fld := ⟨p, 0, 0x010, 0, 32, .st, false, 0⟩
abbrev EVT_SEQ (p : Page) : Fld := ⟨p, 0, 0x014, 0, 16, .lv, false, 0⟩
abbrev EVT_ACK (p : Page) : Fld := ⟨p, 0, 0x018, 0, 16, .sq, false, 0⟩
abbrev EVT_MASK (p : Page) : Fld := ⟨p, 0, 0x01C, 0, 32, .rw, false, 0xFFFFFFFF⟩
abbrev FORCE (p : Page) : Fld := ⟨p, 0, 0x024, 0, 32, .rw, true, 0⟩
abbrev LOCK (p : Page) : Fld := ⟨p, 0, 0x028, 0, 32, .wo, false, 0⟩
abbrev LOCKVIO_REASON (p : Page) : Fld := ⟨p, 0, 0x02C, 28, 4, .ro, false, 0⟩
abbrev LOCKVIO_INIT (p : Page) : Fld := ⟨p, 0, 0x02C, 26, 2, .ro, false, 0⟩
abbrev LOCKVIO_IX (p : Page) : Fld := ⟨p, 0, 0x02C, 25, 1, .ro, false, 0⟩
abbrev LOCKVIO_ADDR (p : Page) : Fld := ⟨p, 0, 0x02C, 0, 24, .ro, false, 0⟩
abbrev IX_ADDR_SPACE (p : Page) : Fld := ⟨p, 0, 0x030, 24, 4, .rw, false, 0⟩
abbrev IX_ADDR_ADDR (p : Page) : Fld := ⟨p, 0, 0x030, 0, 24, .rw, false, 0⟩
abbrev IX_DATA (p : Page) : Fld := ⟨p, 0, 0x034, 0, 32, .rw, false, 0⟩
abbrev IX_CTRL_WPEND (p : Page) : Fld := ⟨p, 0, 0x038, 16, 5, .lv, false, 0⟩
abbrev IX_CTRL_STRIDE (p : Page) : Fld := ⟨p, 0, 0x038, 0, 8, .rw, false, 1⟩

/-- The header fields of page `p`, instance `n`. -/
def hdr (p : Page) (n : Nat) : List Fld :=
  [PAGE_ID_BLOCK p, PAGE_ID_INST p n, PAGE_ID_MAJOR p, PAGE_ID_MINOR p, PAGE_CAPS p, EVT p, EVT_SEQ p, EVT_ACK p,
   EVT_MASK p, FORCE p, LOCK p, LOCKVIO_REASON p, LOCKVIO_INIT p, LOCKVIO_IX p, LOCKVIO_ADDR p, IX_ADDR_SPACE p,
   IX_ADDR_ADDR p, IX_DATA p, IX_CTRL_WPEND p, IX_CTRL_STRIDE p]

/-! Page DEV. -/

/-! 18_address_map.md R400. -/

abbrev DEV_STATE_BOOT : Fld := ⟨.dev, 0, 0x00C, 0, 3, .lv, false, 0⟩
abbrev DEV_STATE_EMBANK : Fld := ⟨.dev, 0, 0x00C, 3, 1, .lv, false, 0⟩
abbrev DEV_STATE_THERMREC : Fld := ⟨.dev, 0, 0x00C, 4, 1, .lv, false, 0⟩
abbrev DEV_STATE_LIFECYCLE : Fld := ⟨.dev, 0, 0x00C, 5, 2, .lv, false, 0⟩
abbrev DEV_STATE_MAINPWR : Fld := ⟨.dev, 0, 0x00C, 7, 1, .lv, false, 0⟩
abbrev DEV_STATE_RSTBUSY : Fld := ⟨.dev, 0, 0x00C, 8, 1, .lv, false, 0⟩
abbrev DEV_COND_ANYPG : Fld := ⟨.dev, 0, 0x020, 0, 1, .lv, false, 0⟩
abbrev DEV_DEVID_PART : Fld := ⟨.dev, 0, 0x040, 0, 16, .ro, false, 0x5120⟩
abbrev DEV_DEVID_VENDOR : Fld := ⟨.dev, 0, 0x040, 16, 16, .ro, false, 2941⟩
abbrev DEV_REVID_SIL_MINOR : Fld := ⟨.dev, 0, 0x044, 0, 8, .ro, false, 1⟩
abbrev DEV_REVID_SIL_MAJOR : Fld := ⟨.dev, 0, 0x044, 8, 8, .ro, false, 10⟩
abbrev DEV_REVID_ORDSFX : Fld := ⟨.dev, 0, 0x044, 16, 16, .ro, false, 0x4146⟩
abbrev DEV_JTAGID_ID : Fld := ⟨.dev, 0, 0x048, 0, 32, .ro, false, 0x151206BB⟩
abbrev DEV_SERIAL_LO_SN : Fld := ⟨.dev, 0, 0x04C, 0, 32, .ro, false, 0⟩
abbrev DEV_SERIAL_HI_SN : Fld := ⟨.dev, 0, 0x050, 0, 32, .ro, false, 0⟩
abbrev DEV_CAPS0_NCH : Fld := ⟨.dev, 0, 0x054, 0, 10, .ro, false, 512⟩
abbrev DEV_CAPS0_NPOL : Fld := ⟨.dev, 0, 0x054, 10, 7, .ro, false, 64⟩
abbrev DEV_CAPS0_NSQ : Fld := ⟨.dev, 0, 0x054, 17, 5, .ro, false, 16⟩
abbrev DEV_CAPS0_NME : Fld := ⟨.dev, 0, 0x054, 22, 3, .ro, false, 4⟩
abbrev DEV_CAPS0_NDS : Fld := ⟨.dev, 0, 0x054, 25, 6, .ro, false, 32⟩
abbrev DEV_CAPS1_DRAM : Fld := ⟨.dev, 0, 0x058, 0, 8, .ro, false, 16⟩
abbrev DEV_CAPS1_VCACHE : Fld := ⟨.dev, 0, 0x058, 8, 8, .ro, false, 32⟩
abbrev DEV_CAPS1_SLUICE : Fld := ⟨.dev, 0, 0x058, 16, 8, .ro, false, 64⟩
abbrev DEV_CAPS1_LINKVER : Fld := ⟨.dev, 0, 0x058, 24, 2, .ro, false, 3⟩
abbrev DEV_CAPS1_BUGLEVER : Fld := ⟨.dev, 0, 0x058, 26, 2, .ro, false, 2⟩
abbrev DEV_FWVER_MINOR : Fld := ⟨.dev, 0, 0x05C, 0, 16, .lv, false, 0⟩
abbrev DEV_FWVER_MAJOR : Fld := ⟨.dev, 0, 0x05C, 16, 16, .lv, false, 0⟩
abbrev DEV_ROMVER_V : Fld := ⟨.dev, 0, 0x060, 0, 16, .ro, false, 1⟩
abbrev DEV_RSTCTL_KEY : Fld := ⟨.dev, 0, 0x064, 0, 8, .rw, true, 0⟩
abbrev DEV_RSTCTL_GO : Fld := ⟨.dev, 0, 0x064, 8, 1, .sc, true, 0⟩
abbrev DEV_RSTCAUSE_POR : Fld := ⟨.dev, 0, 0x068, 0, 1, .lv, false, 1⟩
abbrev DEV_RSTCAUSE_DEVRST : Fld := ⟨.dev, 0, 0x068, 1, 1, .lv, false, 0⟩
abbrev DEV_RSTCAUSE_FWWDT : Fld := ⟨.dev, 0, 0x068, 2, 1, .lv, false, 0⟩
abbrev DEV_RSTCNT_N : Fld := ⟨.dev, 0, 0x06C, 0, 32, .ct, false, 0⟩
abbrev DEV_PGEVCTL_EN : Fld := ⟨.dev, 0, 0x070, 0, 1, .rw, false, 0⟩
abbrev DEV_PGSUMW_W : Fld := ⟨.dev, 0, 0x07C, 0, 8, .lv, false, 0⟩
abbrev DEV_PGSUM_P (i : Nat) : Fld := ⟨.dev, 0, 0x080 + 4 * i, 0, 32, .lv, false, 0⟩

/-! Page FLT. -/

/-! 19_faults_and_embankment.md R425. -/

abbrev FLT_STATE_EMBANK : Fld := ⟨.flt, 0, 0x00C, 0, 1, .lv, false, 0⟩
abbrev FLT_STATE_SELFERR : Fld := ⟨.flt, 0, 0x00C, 1, 1, .lv, false, 0⟩
abbrev FLT_STATE_ISO : Fld := ⟨.flt, 0, 0x00C, 2, 8, .lv, false, 0⟩
abbrev FLT_STATE_NACT : Fld := ⟨.flt, 0, 0x00C, 10, 8, .lv, false, 0⟩
abbrev FLT_STATE_NLAT : Fld := ⟨.flt, 0, 0x00C, 18, 8, .lv, false, 0⟩
abbrev FLT_COND_EMBANK : Fld := ⟨.flt, 0, 0x020, 0, 1, .lv, false, 0⟩
abbrev FLT_COND_SELFERR : Fld := ⟨.flt, 0, 0x020, 1, 1, .lv, false, 0⟩
abbrev FLT_COND_ISO : Fld := ⟨.flt, 0, 0x020, 2, 8, .lv, false, 0⟩
abbrev FLT_EMBCTL_EXIT : Fld := ⟨.flt, 0, 0x040, 0, 1, .sc, true, 0⟩
abbrev FLT_EMBINFO_CAUSE : Fld := ⟨.flt, 0, 0x044, 0, 2, .lv, false, 0⟩
abbrev FLT_EMBINFO_SRC : Fld := ⟨.flt, 0, 0x044, 2, 8, .lv, false, 0⟩
abbrev FLT_EMBINFO_EXITERR : Fld := ⟨.flt, 0, 0x044, 10, 4, .lv, false, 0⟩
abbrev FLT_EMB_T_LO_T : Fld := ⟨.flt, 0, 0x048, 0, 32, .lv, false, 0⟩
abbrev FLT_EMB_T_HI_T : Fld := ⟨.flt, 0, 0x04C, 0, 32, .lv, false, 0⟩
abbrev FLT_CLRCTL_SRC : Fld := ⟨.flt, 0, 0x050, 0, 8, .rw, true, 0⟩
abbrev FLT_CLRCTL_ALL : Fld := ⟨.flt, 0, 0x050, 8, 1, .rw, true, 0⟩
abbrev FLT_CLRCTL_SELF : Fld := ⟨.flt, 0, 0x050, 9, 1, .rw, true, 0⟩
abbrev FLT_CLRCTL_GO : Fld := ⟨.flt, 0, 0x050, 10, 1, .sc, true, 0⟩
abbrev FLT_RECLIM_RLIM : Fld := ⟨.flt, 0, 0x054, 0, 4, .rw, true, 8⟩
abbrev FLT_RECLIM_RWIN : Fld := ⟨.flt, 0, 0x054, 16, 16, .rw, true, 1000⟩
abbrev FLT_ACTSUM_S (i : Nat) : Fld := ⟨.flt, 0, 0x058 + 4 * i, 0, 32, .lv, false, 0⟩
abbrev FLT_LATSUM_S (i : Nat) : Fld := ⟨.flt, 0, 0x070 + 4 * i, 0, 32, .lv, false, 0⟩
abbrev FLT_LASTSRC_SRC : Fld := ⟨.flt, 0, 0x088, 0, 8, .lv, false, 0⟩
abbrev FLT_LASTSRC_VALID : Fld := ⟨.flt, 0, 0x088, 8, 1, .lv, false, 0⟩
abbrev FLT_LASTT_LO_T : Fld := ⟨.flt, 0, 0x08C, 0, 32, .lv, false, 0⟩
abbrev FLT_LASTT_HI_T : Fld := ⟨.flt, 0, 0x090, 0, 32, .lv, false, 0⟩
abbrev FLT_NVMSKIP_N : Fld := ⟨.flt, 0, 0x094, 0, 32, .ct, false, 0⟩
/-! 19_faults_and_embankment.md R426. -/

abbrev FLT_X1_EN (i : Nat) : Fld := ⟨.flt, 1, i, 0, 1, .rw, true, 1⟩
abbrev FLT_X1_CLASS (i : Nat) : Fld := ⟨.flt, 1, i, 1, 2, .ro, false, fltClass i⟩
abbrev FLT_X1_REACT (i : Nat) : Fld := ⟨.flt, 1, i, 3, 2, (if i = 188 ∨ i = 189 then .ro else .rw), true, fltReact i⟩
abbrev FLT_X1_AUTOREC (i : Nat) : Fld := ⟨.flt, 1, i, 5, 1, .rw, true, fltAutorec i⟩
abbrev FLT_X1_QUIET (i : Nat) : Fld := ⟨.flt, 1, i, 6, 14, .rw, true, 10⟩
abbrev FLT_X1_TGT (i : Nat) : Fld := ⟨.flt, 1, i, 20, 6, .rw, true, 0⟩
abbrev FLT_X1_PAR (i : Nat) : Fld := ⟨.flt, 1, i, 31, 1, .ro, false, 0⟩
abbrev FLT_X2_FSTATE (i : Nat) : Fld := ⟨.flt, 2, i, 0, 2, .lv, false, 0⟩
abbrev FLT_X2_CAUSE (i : Nat) : Fld := ⟨.flt, 2, i, 2, 1, .lv, false, 0⟩
abbrev FLT_X2_FORCED (i : Nat) : Fld := ⟨.flt, 2, i, 3, 1, .lv, false, 0⟩
abbrev FLT_X2_RECN (i : Nat) : Fld := ⟨.flt, 2, i, 4, 4, .lv, false, 0⟩
abbrev FLT_X3_OCC (i : Nat) : Fld := ⟨.flt, 3, i, 0, 32, .ct, false, 0⟩

/-! Page HKP. -/

/-! 20_thermal.md R441. -/

abbrev HKP_STATE_ACT : Fld := ⟨.hkp, 0, 0x00C, 0, 9, .lv, false, 256⟩
abbrev HKP_STATE_THROTTLING : Fld := ⟨.hkp, 0, 0x00C, 9, 1, .lv, false, 0⟩
abbrev HKP_STATE_EARLY : Fld := ⟨.hkp, 0, 0x00C, 10, 1, .lv, false, 0⟩
abbrev HKP_STATE_SHUTDOWN : Fld := ⟨.hkp, 0, 0x00C, 11, 1, .lv, false, 0⟩
abbrev HKP_STATE_HOLD : Fld := ⟨.hkp, 0, 0x00C, 12, 1, .lv, false, 0⟩
abbrev HKP_STATE_FIRST : Fld := ⟨.hkp, 0, 0x00C, 13, 1, .lv, false, 0⟩
abbrev HKP_COND_THROTTLING : Fld := ⟨.hkp, 0, 0x020, 0, 1, .lv, false, 0⟩
abbrev HKP_COND_EARLY : Fld := ⟨.hkp, 0, 0x020, 1, 1, .lv, false, 0⟩
abbrev HKP_COND_SUBSTITUTED : Fld := ⟨.hkp, 0, 0x020, 2, 1, .lv, false, 0⟩
abbrev HKP_COND_RAIL_OOR : Fld := ⟨.hkp, 0, 0x020, 3, 1, .lv, false, 0⟩
abbrev HKP_TMAX_T : Fld := ⟨.hkp, 0, 0x040, 0, 16, .lv, false, 0x8000⟩
abbrev HKP_TMAX_SENSOR : Fld := ⟨.hkp, 0, 0x040, 16, 6, .lv, false, 0⟩
abbrev HKP_TMAX_SUBSTITUTED : Fld := ⟨.hkp, 0, 0x040, 22, 1, .lv, false, 0⟩
abbrev HKP_THRA_THR_START : Fld := ⟨.hkp, 0, 0x044, 0, 16, .rw, true, 920⟩
abbrev HKP_THRA_THR_FULL : Fld := ⟨.hkp, 0, 0x044, 16, 16, .rw, true, 1024⟩
abbrev HKP_THRB_THR_SHUT : Fld := ⟨.hkp, 0, 0x048, 0, 16, .rw, true, 1080⟩
abbrev HKP_THRB_THR_RESUME : Fld := ⟨.hkp, 0, 0x048, 16, 16, .rw, true, 800⟩
abbrev HKP_RORCFG_LIM : Fld := ⟨.hkp, 0, 0x04C, 0, 8, .rw, true, 30⟩
abbrev HKP_THCTL_THACK : Fld := ⟨.hkp, 0, 0x050, 0, 1, .sc, true, 0⟩
abbrev HKP_THCTL_SENSCLR : Fld := ⟨.hkp, 0, 0x050, 1, 1, .sc, true, 0⟩
abbrev HKP_THCTL_SENS : Fld := ⟨.hkp, 0, 0x050, 8, 6, .rw, true, 0⟩
abbrev HKP_THCTL_SENSALL : Fld := ⟨.hkp, 0, 0x050, 14, 1, .rw, true, 0⟩
abbrev HKP_FAILMAP_LO_F : Fld := ⟨.hkp, 0, 0x054, 0, 32, .lv, false, 0⟩
abbrev HKP_FAILMAP_HI_F : Fld := ⟨.hkp, 0, 0x058, 0, 8, .lv, false, 0⟩
abbrev HKP_ROUNDCNT_N : Fld := ⟨.hkp, 0, 0x05C, 0, 32, .ct, false, 0⟩
abbrev HKP_SENSFAILCNT_N : Fld := ⟨.hkp, 0, 0x060, 0, 32, .ct, false, 0⟩
/-! 20_thermal.md R442. -/

abbrev HKP_X1_T (i : Nat) : Fld := ⟨.hkp, 1, i, 0, 16, .lv, false, 0x8000⟩
abbrev HKP_X1_FAILING (i : Nat) : Fld := ⟨.hkp, 1, i, 16, 1, .lv, false, 0⟩
abbrev HKP_X1_FAILED (i : Nat) : Fld := ⟨.hkp, 1, i, 17, 1, .lv, false, 0⟩
abbrev HKP_X1_SUBST (i : Nat) : Fld := ⟨.hkp, 1, i, 18, 1, .lv, false, 0⟩
abbrev HKP_X1_WHY (i : Nat) : Fld := ⟨.hkp, 1, i, 19, 2, .lv, false, 0⟩
abbrev HKP_X2_V (i : Nat) : Fld := ⟨.hkp, 2, i, 0, 16, .lv, false, 0⟩
abbrev HKP_X2_OOR (i : Nat) : Fld := ⟨.hkp, 2, i, 16, 1, .lv, false, 0⟩
abbrev HKP_X3_IDLE (i : Nat) : Fld := ⟨.hkp, 3, i, 0, 32, .ct, false, 0⟩

/-! Page CLK. -/

/-! 15_clocks.md R344. -/

abbrev CLK_STATE_MSTATE : Fld := ⟨.clk, 0, 0x00C, 0, 3, .lv, false, 0⟩
abbrev CLK_STATE_REFACT : Fld := ⟨.clk, 0, 0x00C, 3, 1, .lv, false, 0⟩
abbrev CLK_STATE_BCLK_VALID : Fld := ⟨.clk, 0, 0x00C, 4, 1, .lv, false, 0⟩
abbrev CLK_STATE_SLEWING : Fld := ⟨.clk, 0, 0x00C, 5, 1, .lv, false, 0⟩
abbrev CLK_STATE_REALIGN_WAIT : Fld := ⟨.clk, 0, 0x00C, 6, 1, .lv, false, 0⟩
abbrev CLK_STATE_XO_RC : Fld := ⟨.clk, 0, 0x00C, 7, 1, .lv, false, 0⟩
abbrev CLK_STATE_ONHOLD : Fld := ⟨.clk, 0, 0x00C, 8, 12, .lv, false, 495⟩
abbrev CLK_COND_LOCKED : Fld := ⟨.clk, 0, 0x020, 0, 1, .lv, false, 0⟩
abbrev CLK_COND_HOLDOVER : Fld := ⟨.clk, 0, 0x020, 1, 1, .lv, false, 0⟩
abbrev CLK_COND_BCLK_PRESENT : Fld := ⟨.clk, 0, 0x020, 2, 1, .lv, false, 0⟩
abbrev CLK_COND_XO_FAIL : Fld := ⟨.clk, 0, 0x020, 3, 1, .lv, false, 0⟩
abbrev CLK_REFCFG_REFSEL : Fld := ⟨.clk, 0, 0x040, 0, 2, .rw, true, 0⟩
abbrev CLK_REFCFG_REALIGN_ON_SYNC : Fld := ⟨.clk, 0, 0x040, 2, 1, .rw, false, 0⟩
abbrev CLK_REFCFG_RELOCK : Fld := ⟨.clk, 0, 0x040, 3, 1, .sc, true, 0⟩
abbrev CLK_FOFS_F : Fld := ⟨.clk, 0, 0x044, 0, 20, .rw, true, 0⟩
abbrev CLK_XO_AGE_F : Fld := ⟨.clk, 0, 0x048, 0, 20, .rw, true, 0⟩
abbrev CLK_DITHER_EN : Fld := ⟨.clk, 0, 0x04C, 0, 1, .rw, false, 1⟩
abbrev CLK_SEED_S : Fld := ⟨.clk, 0, 0x050, 0, 32, .rw, false, 1⟩
abbrev CLK_PHCFG_THR : Fld := ⟨.clk, 0, 0x054, 0, 16, .rw, false, 200⟩
abbrev CLK_PHSTEP_N : Fld := ⟨.clk, 0, 0x058, 0, 16, .rw, false, 0⟩
abbrev CLK_PHSTEP_GO : Fld := ⟨.clk, 0, 0x058, 31, 1, .sc, false, 0⟩
abbrev CLK_PHREM_N : Fld := ⟨.clk, 0, 0x05C, 0, 16, .lv, false, 0⟩
abbrev CLK_PHERR_E : Fld := ⟨.clk, 0, 0x060, 0, 32, .lv, false, 0⟩
abbrev CLK_LKDIFF_D : Fld := ⟨.clk, 0, 0x064, 0, 16, .lv, false, 0⟩
abbrev CLK_LKDIFF_BOFS : Fld := ⟨.clk, 0, 0x064, 16, 16, .lv, false, 0⟩
abbrev CLK_LOCKCNT_N : Fld := ⟨.clk, 0, 0x068, 0, 32, .ct, false, 0⟩
abbrev CLK_UNLOCKCNT_N : Fld := ⟨.clk, 0, 0x06C, 0, 32, .ct, false, 0⟩
abbrev CLK_OUTDIV_N (i : Nat) : Fld := ⟨.clk, 0, 0x070 + 8 * i, 0, 12, (if i = 4 ∨ i = 9 then .rw else .ro), false, outDivN i⟩
abbrev CLK_OUTDIV_P (i : Nat) : Fld := ⟨.clk, 0, 0x070 + 8 * i, 12, 10, (if i = 4 ∨ i = 9 then .rw else .ro), false, outDivP i⟩
abbrev CLK_OUTDIV_Q (i : Nat) : Fld := ⟨.clk, 0, 0x070 + 8 * i, 22, 10, (if i = 4 ∨ i = 9 then .rw else .ro), false, outDivQ i⟩
abbrev CLK_OUTCTL_DLY (i : Nat) : Fld := ⟨.clk, 0, 0x074 + 8 * i, 0, 12, .rw, false, 0⟩
abbrev CLK_OUTCTL_EN (i : Nat) : Fld := ⟨.clk, 0, 0x074 + 8 * i, 12, 1, (if i = 4 ∨ i = 9 then .rw else .ro), false, outEn i⟩
abbrev CLK_OUTCTL_ONHOLD (i : Nat) : Fld := ⟨.clk, 0, 0x074 + 8 * i, 13, 1, .lv, false, (if i ≤ 8 ∧ i ≠ 4 then 1 else 0)⟩
abbrev CLK_CK0CPY_DLY (i : Nat) : Fld := ⟨.clk, 0, 0x0D0 + 4 * i, 0, 12, .lv, false, 0⟩
abbrev CLK_CK0CPY_TGT (i : Nat) : Fld := ⟨.clk, 0, 0x0D0 + 4 * i, 16, 12, .rw, true, 0⟩

/-! Page EVR. -/

/-! 14_levee_and_event_order.md R320. -/

abbrev EVR_COND_HS_FULL : Fld := ⟨.evr, 0, 0x020, 0, 1, .lv, false, 0⟩
abbrev EVR_COND_HS_NONEMPTY : Fld := ⟨.evr, 0, 0x020, 1, 1, .lv, false, 0⟩
abbrev EVR_HOSTEVT_K : Fld := ⟨.evr, 0, 0x060, 0, 8, .rw, false, 0⟩
abbrev EVR_HOSTEVT_ACT : Fld := ⟨.evr, 0, 0x060, 8, 2, .rw, false, 1⟩
abbrev EVR_HOSTEVT_CODE : Fld := ⟨.evr, 0, 0x060, 10, 4, .rw, false, 0⟩
abbrev EVR_HOSTEVT_GO : Fld := ⟨.evr, 0, 0x060, 31, 1, .sc, false, 0⟩
abbrev EVR_BOUT_SRC (i : Nat) : Fld := ⟨.evr, 0, 0x064 + 4 * i, 0, 12, .rw, false, 0⟩
abbrev EVR_BOUT_POL (i : Nat) : Fld := ⟨.evr, 0, 0x064 + 4 * i, 12, 1, .rw, false, 1⟩
abbrev EVR_BOUT_ORD (i : Nat) : Fld := ⟨.evr, 0, 0x064 + 4 * i, 13, 1, .rw, false, 0⟩
abbrev EVR_BOUT_EN (i : Nat) : Fld := ⟨.evr, 0, 0x064 + 4 * i, 14, 1, .rw, false, 0⟩
abbrev EVR_FROUT_SRC (i : Nat) : Fld := ⟨.evr, 0, 0x074 + 4 * i, 0, 12, .rw, false, 0⟩
abbrev EVR_FROUT_POL (i : Nat) : Fld := ⟨.evr, 0, 0x074 + 4 * i, 12, 1, .rw, false, 1⟩
abbrev EVR_FROUT_EN (i : Nat) : Fld := ⟨.evr, 0, 0x074 + 4 * i, 13, 1, .rw, false, 0⟩
abbrev EVR_HSCTL_EN : Fld := ⟨.evr, 0, 0x0B4, 0, 1, .rw, false, 0⟩
abbrev EVR_HSWR_IDX : Fld := ⟨.evr, 0, 0x0B8, 0, 12, .lv, false, 0⟩
abbrev EVR_HSRD_IDX : Fld := ⟨.evr, 0, 0x0BC, 0, 12, .rw, false, 0⟩
abbrev EVR_HSDROP_N : Fld := ⟨.evr, 0, 0x0C0, 0, 32, .ct, false, 0⟩
abbrev EVR_LATECNT_N : Fld := ⟨.evr, 0, 0x0C4, 0, 32, .ct, false, 0⟩
abbrev EVR_MERGED_N : Fld := ⟨.evr, 0, 0x0C8, 0, 32, .ct, false, 0⟩
abbrev EVR_EVDROP_N : Fld := ⟨.evr, 0, 0x0CC, 0, 32, .ct, false, 0⟩
/-! 15_clocks.md R345. -/

abbrev EVR_BDN_LO_T : Fld := ⟨.evr, 0, 0x040, 0, 32, .lv, false, 0⟩
abbrev EVR_BDN_HI_T : Fld := ⟨.evr, 0, 0x044, 0, 32, .lv, false, 0⟩
abbrev EVR_BDNCTL_PRESET_EN : Fld := ⟨.evr, 0, 0x048, 0, 1, .rw, false, 1⟩
abbrev EVR_BDNFWD_D : Fld := ⟨.evr, 0, 0x04C, 0, 32, .lv, false, 0⟩
abbrev EVR_BDNFWDCNT_N : Fld := ⟨.evr, 0, 0x050, 0, 32, .ct, false, 0⟩
abbrev EVR_BDNAHEAD_D : Fld := ⟨.evr, 0, 0x054, 0, 32, .lv, false, 0⟩
abbrev EVR_EPOCH_E : Fld := ⟨.evr, 0, 0x058, 0, 10, .lv, false, 0⟩

/-! Page BGL. -/

/-! 16_bugle_bus.md R363. -/

abbrev BGL_STATE_SYNC : Fld := ⟨.bgl, 0, 0x00C, 0, 1, .lv, false, 0⟩
abbrev BGL_STATE_ECHO_VALID : Fld := ⟨.bgl, 0, 0x00C, 1, 1, .lv, false, 0⟩
abbrev BGL_STATE_VER : Fld := ⟨.bgl, 0, 0x00C, 2, 2, .lv, false, 0⟩
abbrev BGL_STATE_XCAL_BUSY : Fld := ⟨.bgl, 0, 0x00C, 4, 1, .lv, false, 0⟩
abbrev BGL_STATE_MOFS_PEND : Fld := ⟨.bgl, 0, 0x00C, 5, 1, .lv, false, 0⟩
abbrev BGL_COND_SYNC_LOST : Fld := ⟨.bgl, 0, 0x020, 0, 1, .lv, false, 1⟩
abbrev BGL_COND_ECHO_BAD : Fld := ⟨.bgl, 0, 0x020, 1, 1, .lv, false, 0⟩
abbrev BGL_BGLCFG_VMAX : Fld := ⟨.bgl, 0, 0x040, 0, 2, .rw, false, 2⟩
abbrev BGL_BGLCFG_ECHO_EN : Fld := ⟨.bgl, 0, 0x040, 2, 1, .rw, false, 1⟩
abbrev BGL_BGLCFG_SYNCTO : Fld := ⟨.bgl, 0, 0x040, 16, 16, .rw, false, 20⟩
abbrev BGL_SYNCCTL_REALIGN : Fld := ⟨.bgl, 0, 0x044, 0, 1, .sc, true, 0⟩
abbrev BGL_DCOMP_D : Fld := ⟨.bgl, 0, 0x048, 0, 18, .lv, false, 0⟩
abbrev BGL_RTT_T : Fld := ⟨.bgl, 0, 0x04C, 0, 18, .lv, false, 0⟩
abbrev BGL_RXDLY_D : Fld := ⟨.bgl, 0, 0x050, 0, 16, .rw, true, 0⟩
abbrev BGL_ETURN_T : Fld := ⟨.bgl, 0, 0x054, 0, 18, .ro, false, 0⟩
abbrev BGL_HLOOP_D : Fld := ⟨.bgl, 0, 0x058, 0, 16, .lv, false, 0⟩
abbrev BGL_HUBDLY_D : Fld := ⟨.bgl, 0, 0x05C, 0, 16, .lv, false, 0⟩
abbrev BGL_HUBDLY_TTIMED : Fld := ⟨.bgl, 0, 0x05C, 16, 4, .lv, false, 0⟩
abbrev BGL_XCALCTL_GO : Fld := ⟨.bgl, 0, 0x060, 0, 1, .sc, false, 0⟩
abbrev BGL_XCALCTL_XCALN : Fld := ⟨.bgl, 0, 0x060, 16, 16, .rw, false, 256⟩
abbrev BGL_XRES_MEAN : Fld := ⟨.bgl, 0, 0x064, 0, 16, .lv, false, 0⟩
abbrev BGL_XRES_RMS : Fld := ⟨.bgl, 0, 0x064, 16, 16, .lv, false, 0⟩
abbrev BGL_MOFS : Fld := ⟨.bgl, 0, 0x068, 0, 16, .lv, false, 0⟩
abbrev BGL_MOFS_MOFSC : Fld := ⟨.bgl, 0, 0x068, 16, 16, .lv, false, 0⟩
abbrev BGL_XTRIM_T : Fld := ⟨.bgl, 0, 0x06C, 0, 16, .rw, true, 0⟩
abbrev BGL_FRAMECNT_N : Fld := ⟨.bgl, 0, 0x070, 0, 32, .ct, false, 0⟩
abbrev BGL_FRAMEERR_N : Fld := ⟨.bgl, 0, 0x074, 0, 32, .ct, false, 0⟩
abbrev BGL_ECHOBAD_N : Fld := ⟨.bgl, 0, 0x078, 0, 32, .ct, false, 0⟩
abbrev BGL_TLATECNT_N : Fld := ⟨.bgl, 0, 0x07C, 0, 32, .ct, false, 0⟩
abbrev BGL_LASTB_LO_B : Fld := ⟨.bgl, 0, 0x080, 0, 32, .lv, false, 0⟩
abbrev BGL_LASTB_HI_B : Fld := ⟨.bgl, 0, 0x084, 0, 32, .lv, false, 0⟩

/-! Page PHL. -/

/-! 17_porhus_link.md R391. -/

abbrev PHL_STATE_LSTATE : Fld := ⟨.phl, 0, 0x00C, 0, 3, .lv, false, 0⟩
abbrev PHL_STATE_RATE : Fld := ⟨.phl, 0, 0x00C, 3, 1, .lv, false, 0⟩
abbrev PHL_STATE_WIDTH : Fld := ⟨.phl, 0, 0x00C, 4, 3, .lv, false, 0⟩
abbrev PHL_STATE_LANEMAP : Fld := ⟨.phl, 0, 0x00C, 7, 4, .lv, false, 0⟩
abbrev PHL_STATE_VER : Fld := ⟨.phl, 0, 0x00C, 11, 2, .lv, false, 0⟩
abbrev PHL_STATE_SESS : Fld := ⟨.phl, 0, 0x00C, 13, 2, .lv, false, 1⟩
abbrev PHL_STATE_EPOCH : Fld := ⟨.phl, 0, 0x00C, 15, 8, .lv, false, 0⟩
abbrev PHL_STATE_ROLE : Fld := ⟨.phl, 0, 0x00C, 23, 2, .lv, false, 0⟩
abbrev PHL_STATE_HOPS : Fld := ⟨.phl, 0, 0x00C, 25, 3, .lv, false, 0⟩
abbrev PHL_COND_ACTIVE : Fld := ⟨.phl, 0, 0x020, 0, 1, .lv, false, 0⟩
abbrev PHL_COND_DEGRADED : Fld := ⟨.phl, 0, 0x020, 1, 1, .lv, false, 0⟩
abbrev PHL_COND_CAPHELD : Fld := ⟨.phl, 0, 0x020, 2, 1, .lv, false, 0⟩
abbrev PHL_COND_LLPEND : Fld := ⟨.phl, 0, 0x020, 3, 1, .lv, false, 0⟩
abbrev PHL_PHCFG_ROLE : Fld := ⟨.phl, 0, 0x040, 0, 2, .rw, false, 0⟩
abbrev PHL_PHCFG_MAXVER : Fld := ⟨.phl, 0, 0x040, 2, 2, .rw, false, 3⟩
abbrev PHL_PHCFG_LOWRATE : Fld := ⟨.phl, 0, 0x040, 4, 1, .rw, false, 0⟩
abbrev PHL_PHCFG_LANEEN : Fld := ⟨.phl, 0, 0x040, 5, 4, .rw, false, 15⟩
abbrev PHL_PHCFG_CAPEN : Fld := ⟨.phl, 0, 0x040, 9, 1, .rw, false, 1⟩
abbrev PHL_PHCFG_EVSEN : Fld := ⟨.phl, 0, 0x040, 10, 1, .rw, false, 1⟩
abbrev PHL_PHCFG_RETRAIN : Fld := ⟨.phl, 0, 0x040, 11, 1, .sc, false, 0⟩
abbrev PHL_SESSCTL_REQ : Fld := ⟨.phl, 0, 0x044, 0, 2, .rw, false, 1⟩
abbrev PHL_SESSCTL_GO : Fld := ⟨.phl, 0, 0x044, 2, 1, .sc, false, 0⟩
abbrev PHL_CREDITS_CAP : Fld := ⟨.phl, 0, 0x048, 0, 16, .lv, false, 0⟩
abbrev PHL_CREDITS_EVS : Fld := ⟨.phl, 0, 0x048, 16, 16, .lv, false, 0⟩
abbrev PHL_LANE_PRE (i : Nat) : Fld := ⟨.phl, 0, 0x04C + 4 * i, 0, 4, .rw, false, 2⟩
abbrev PHL_LANE_POST (i : Nat) : Fld := ⟨.phl, 0, 0x04C + 4 * i, 4, 5, .rw, false, 6⟩
abbrev PHL_LANE_SWING (i : Nat) : Fld := ⟨.phl, 0, 0x04C + 4 * i, 9, 3, .rw, false, 4⟩
abbrev PHL_LANE_LOCK (i : Nat) : Fld := ⟨.phl, 0, 0x04C + 4 * i, 12, 1, .lv, false, 0⟩
abbrev PHL_LANE_FAILED (i : Nat) : Fld := ⟨.phl, 0, 0x04C + 4 * i, 13, 1, .lv, false, 0⟩
abbrev PHL_CRCERR_N : Fld := ⟨.phl, 0, 0x060, 0, 32, .ct, false, 0⟩
abbrev PHL_REPLAYCNT_N : Fld := ⟨.phl, 0, 0x064, 0, 32, .ct, false, 0⟩
abbrev PHL_REPLAYEXH_N : Fld := ⟨.phl, 0, 0x068, 0, 32, .ct, false, 0⟩
abbrev PHL_RETRAINCNT_N : Fld := ⟨.phl, 0, 0x06C, 0, 32, .ct, false, 0⟩
abbrev PHL_DEGRADECNT_N : Fld := ⟨.phl, 0, 0x070, 0, 32, .ct, false, 0⟩
abbrev PHL_DUPCNT_N : Fld := ⟨.phl, 0, 0x074, 0, 32, .ct, false, 0⟩
abbrev PHL_STALECNT_N : Fld := ⟨.phl, 0, 0x078, 0, 32, .ct, false, 0⟩
abbrev PHL_TRAINCNT_N : Fld := ⟨.phl, 0, 0x07C, 0, 32, .ct, false, 0⟩
abbrev PHL_LINKLOSS_LINK_LOSS_HOLD : Fld := ⟨.phl, 0, 0x0A0, 0, 16, .rw, true, 5⟩

/-! Page NVM. -/

/-! 21_startup_nvm_security.md R467. -/

abbrev NVM_STATE_LOADED : Fld := ⟨.nvm, 0, 0x00C, 0, 1, .lv, false, 0⟩
abbrev NVM_STATE_BUSY : Fld := ⟨.nvm, 0, 0x00C, 1, 1, .lv, false, 0⟩
abbrev NVM_WRCTL_TYPE : Fld := ⟨.nvm, 0, 0x040, 0, 16, .rw, true, 0⟩
abbrev NVM_WRCTL_GO : Fld := ⟨.nvm, 0, 0x040, 16, 1, .sc, true, 0⟩
abbrev NVM_WRLEN_LEN : Fld := ⟨.nvm, 0, 0x044, 0, 17, .rw, true, 0⟩
abbrev NVM_WRERR_REASON : Fld := ⟨.nvm, 0, 0x048, 0, 4, .lv, false, 0⟩
abbrev NVM_REFRESH_GO : Fld := ⟨.nvm, 0, 0x04C, 0, 1, .sc, true, 0⟩
abbrev NVM_CALSAVE_GO : Fld := ⟨.nvm, 0, 0x050, 0, 1, .sc, true, 0⟩
abbrev NVM_SEQ_LO_S : Fld := ⟨.nvm, 0, 0x054, 0, 32, .lv, false, 0⟩
abbrev NVM_SEQ_HI_S : Fld := ⟨.nvm, 0, 0x058, 0, 32, .lv, false, 0⟩
abbrev NVM_POH_H : Fld := ⟨.nvm, 0, 0x05C, 0, 32, .lv, false, 0⟩
abbrev NVM_BADREC_N : Fld := ⟨.nvm, 0, 0x060, 0, 32, .ct, false, 0⟩
abbrev NVM_WEAR_N : Fld := ⟨.nvm, 0, 0x064, 0, 17, .lv, false, 0⟩

/-! Page SEC. -/

/-! 21_startup_nvm_security.md R468. -/

abbrev SEC_STATE_LIFECYCLE : Fld := ⟨.sec, 0, 0x00C, 0, 2, .lv, false, 0⟩
abbrev SEC_STATE_ROMREC : Fld := ⟨.sec, 0, 0x00C, 2, 1, .lv, false, 0⟩
abbrev SEC_STATE_ATTBUSY : Fld := ⟨.sec, 0, 0x00C, 3, 1, .lv, false, 0⟩
abbrev SEC_LCCTL_TARGET : Fld := ⟨.sec, 0, 0x040, 0, 2, .rw, true, 0⟩
abbrev SEC_LCCTL_KEY : Fld := ⟨.sec, 0, 0x040, 8, 8, .rw, true, 0⟩
abbrev SEC_LCCTL_GO : Fld := ⟨.sec, 0, 0x040, 16, 1, .sc, true, 0⟩
abbrev SEC_ARB_COUNT : Fld := ⟨.sec, 0, 0x044, 0, 7, .lv, false, 0⟩
abbrev SEC_ARB_FWSVN : Fld := ⟨.sec, 0, 0x044, 8, 7, .lv, false, 0⟩
abbrev SEC_ARB_ADV : Fld := ⟨.sec, 0, 0x044, 16, 1, .sc, true, 0⟩
abbrev SEC_KEYSLOT_PROGD : Fld := ⟨.sec, 0, 0x048, 0, 4, .lv, false, 0⟩
abbrev SEC_KEYSLOT_REVOKED : Fld := ⟨.sec, 0, 0x048, 4, 4, .lv, false, 0⟩
abbrev SEC_KEYCTL_SLOT : Fld := ⟨.sec, 0, 0x04C, 0, 2, .rw, true, 0⟩
abbrev SEC_KEYCTL_PROG : Fld := ⟨.sec, 0, 0x04C, 2, 1, .sc, true, 0⟩
abbrev SEC_KEYCTL_REVOKE : Fld := ⟨.sec, 0, 0x04C, 3, 1, .sc, true, 0⟩
abbrev SEC_AUTHCTL_CHREQ (i : Nat) : Fld := ⟨.sec, 0, 0x060 + 0x40 * i + 0x00, 0, 1, .sc, false, 0⟩
abbrev SEC_AUTHCTL_GO (i : Nat) : Fld := ⟨.sec, 0, 0x060 + 0x40 * i + 0x00, 1, 1, .sc, false, 0⟩
abbrev SEC_AUTHCTL_SLOT (i : Nat) : Fld := ⟨.sec, 0, 0x060 + 0x40 * i + 0x00, 2, 2, .rw, false, 0⟩
abbrev SEC_AUTHSTAT_RESULT (i : Nat) : Fld := ⟨.sec, 0, 0x060 + 0x40 * i + 0x04, 0, 4, .lv, false, 0⟩
abbrev SEC_AUTHSTAT_EPOCH (i : Nat) : Fld := ⟨.sec, 0, 0x060 + 0x40 * i + 0x04, 4, 8, .lv, false, 0⟩
abbrev SEC_NONCE_N (i : Nat) (j : Nat) : Fld := ⟨.sec, 0, 0x060 + 0x40 * i + 0x08 + 4 * j, 0, 32, .lv, false, 0⟩
abbrev SEC_MBCTL_GO (i : Nat) : Fld := ⟨.sec, 0, 0x060 + 0x40 * i + 0x28, 0, 1, .sc, false, 0⟩
abbrev SEC_MBSTAT_STATUS (i : Nat) : Fld := ⟨.sec, 0, 0x060 + 0x40 * i + 0x2C, 0, 8, .lv, false, 0⟩

/-! Page SLU. -/

/-! 12_sluice_pool.md R273. -/

abbrev SLU_COND_SPILL_FULL : Fld := ⟨.slu, 0, 0x020, 0, 1, .lv, false, 0⟩
abbrev SLU_COND_POOL_LOW : Fld := ⟨.slu, 0, 0x020, 1, 1, .lv, false, 0⟩
abbrev SLU_SLUCTL_FLUSHT : Fld := ⟨.slu, 0, 0x040, 0, 16, .rw, false, 100⟩
abbrev SLU_SLUCTL_RLXN : Fld := ⟨.slu, 0, 0x040, 16, 4, .rw, false, 4⟩
abbrev SLU_FREE_N : Fld := ⟨.slu, 0, 0x044, 0, 18, .lv, false, 0x20000⟩
abbrev SLU_RSVSUM_N : Fld := ⟨.slu, 0, 0x048, 0, 18, .lv, false, 0x4000⟩
abbrev SLU_SPILLBASE_LO_BASE : Fld := ⟨.slu, 0, 0x04C, 9, 23, .rw, false, 0⟩
abbrev SLU_SPILLBASE_HI_BASE : Fld := ⟨.slu, 0, 0x050, 0, 8, .rw, false, 7⟩
abbrev SLU_SPILLLIM_LO_LIM : Fld := ⟨.slu, 0, 0x054, 9, 23, .rw, false, 0x780000⟩
abbrev SLU_SPILLLIM_HI_LIM : Fld := ⟨.slu, 0, 0x058, 0, 8, .rw, false, 7⟩
abbrev SLU_SPILLWR_LO_A : Fld := ⟨.slu, 0, 0x05C, 0, 32, .lv, false, 0⟩
abbrev SLU_SPILLWR_HI_A : Fld := ⟨.slu, 0, 0x060, 0, 8, .lv, false, 7⟩
abbrev SLU_SPILLRD_LO_A : Fld := ⟨.slu, 0, 0x064, 9, 23, .rw, false, 0⟩
abbrev SLU_SPILLRD_HI_A : Fld := ⟨.slu, 0, 0x068, 0, 8, .rw, false, 7⟩
abbrev SLU_DRAINCAP_SPILL : Fld := ⟨.slu, 0, 0x06C, 0, 16, .lv, false, 400⟩
abbrev SLU_DRAINCAP_HOST : Fld := ⟨.slu, 0, 0x06C, 16, 16, .lv, false, 0⟩
abbrev SLU_CFGREJ_REASON : Fld := ⟨.slu, 0, 0x070, 0, 4, .lv, false, 0⟩
abbrev SLU_CFGREJ_STREAM : Fld := ⟨.slu, 0, 0x070, 4, 8, .lv, false, 0⟩
abbrev SLU_RECLAIMCNT_N : Fld := ⟨.slu, 0, 0x074, 0, 32, .ct, false, 0⟩
/-! 12_sluice_pool.md R274. -/

abbrev SLU_X3_HELD (i : Nat) : Fld := ⟨.slu, 3, 4 * i, 0, 18, .lv, false, 0⟩
abbrev SLU_X3_DFLOG (i : Nat) : Fld := ⟨.slu, 3, 4 * i, 18, 4, .lv, false, 0⟩
abbrev SLU_X3_DROPCNT (i : Nat) : Fld := ⟨.slu, 3, 4 * i + 1, 0, 32, .ct, false, 0⟩
abbrev SLU_X3_SPWSTEPS (i : Nat) : Fld := ⟨.slu, 3, 4 * i + 2, 0, 32, .ct, false, 0⟩
abbrev SLU_X3_DRAINED (i : Nat) : Fld := ⟨.slu, 3, 4 * i + 3, 0, 32, .ct, false, 0⟩

/-! Page MEM. -/

/-! 08_vector_memory.md R190. -/

abbrev MEM_ECCCE_N : Fld := ⟨.mem, 0, 0x040, 0, 32, .ct, false, 0⟩
abbrev MEM_ECCUE_N : Fld := ⟨.mem, 0, 0x044, 0, 32, .ct, false, 0⟩
abbrev MEM_ECCADDR_LO_A : Fld := ⟨.mem, 0, 0x048, 0, 32, .lv, false, 0⟩
abbrev MEM_ECCADDR_HI_A : Fld := ⟨.mem, 0, 0x04C, 0, 8, .lv, false, 0⟩
abbrev MEM_ECCADDR_HI_UE : Fld := ⟨.mem, 0, 0x04C, 8, 1, .lv, false, 0⟩
abbrev MEM_ECCADDR_HI_CACHE : Fld := ⟨.mem, 0, 0x04C, 9, 1, .lv, false, 0⟩
abbrev MEM_CFREE_N : Fld := ⟨.mem, 0, 0x050, 0, 8, .lv, false, 128⟩
/-! 08_vector_memory.md R191. -/

abbrev MEM_VBASE_LO_BASE (i : Nat) : Fld := ⟨.mem, 0, 0x100 + 0x40 * i + 0x00, 6, 26, .rw, false, 0⟩
abbrev MEM_VBASE_HI_BASE (i : Nat) : Fld := ⟨.mem, 0, 0x100 + 0x40 * i + 0x04, 0, 8, .rw, false, 4⟩
abbrev MEM_VLIMIT_LO_LIM (i : Nat) : Fld := ⟨.mem, 0, 0x100 + 0x40 * i + 0x08, 6, 26, .rw, false, 0⟩
abbrev MEM_VLIMIT_HI_LIM (i : Nat) : Fld := ⟨.mem, 0, 0x100 + 0x40 * i + 0x0C, 0, 8, .rw, false, 4⟩
abbrev MEM_PFCFG_PFD (i : Nat) : Fld := ⟨.mem, 0, 0x100 + 0x40 * i + 0x10, 0, 9, .rw, false, 16⟩
abbrev MEM_PFCFG_UG (i : Nat) : Fld := ⟨.mem, 0, 0x100 + 0x40 * i + 0x10, 12, 4, .rw, false, 3⟩
abbrev MEM_PFCFG_AUTORES (i : Nat) : Fld := ⟨.mem, 0, 0x100 + 0x40 * i + 0x10, 16, 1, .rw, false, 1⟩
abbrev MEM_CWIN_N (i : Nat) : Fld := ⟨.mem, 0, 0x100 + 0x40 * i + 0x14, 0, 7, .rw, false, 16⟩
abbrev MEM_ALLOC_WIN (i : Nat) : Fld := ⟨.mem, 0, 0x100 + 0x40 * i + 0x18, 0, 7, .lv, false, 0⟩
abbrev MEM_ALLOC_PF (i : Nat) : Fld := ⟨.mem, 0, 0x100 + 0x40 * i + 0x18, 8, 9, .lv, false, 0⟩
abbrev MEM_VMSTAT_LASTSTOP (i : Nat) : Fld := ⟨.mem, 0, 0x100 + 0x40 * i + 0x1C, 0, 2, .lv, false, 0⟩
abbrev MEM_VMSTAT_UR_DECL (i : Nat) : Fld := ⟨.mem, 0, 0x100 + 0x40 * i + 0x1C, 2, 1, .lv, false, 0⟩
abbrev MEM_VMSTAT_UR_PAUSED (i : Nat) : Fld := ⟨.mem, 0, 0x100 + 0x40 * i + 0x1C, 3, 1, .lv, false, 0⟩
abbrev MEM_VMSTAT_LEAD (i : Nat) : Fld := ⟨.mem, 0, 0x100 + 0x40 * i + 0x1C, 16, 16, .lv, false, 0⟩
abbrev MEM_STALL_LO_T (i : Nat) : Fld := ⟨.mem, 0, 0x100 + 0x40 * i + 0x20, 0, 32, .ct, false, 0⟩
abbrev MEM_STALL_HI_T (i : Nat) : Fld := ⟨.mem, 0, 0x100 + 0x40 * i + 0x24, 0, 32, .ct, false, 0⟩
abbrev MEM_URCNT_N (i : Nat) : Fld := ⟨.mem, 0, 0x100 + 0x40 * i + 0x28, 0, 32, .ct, false, 0⟩
abbrev MEM_LOCKMISS_N (i : Nat) : Fld := ⟨.mem, 0, 0x100 + 0x40 * i + 0x2C, 0, 32, .ct, false, 0⟩
abbrev MEM_PRE_VA_LO_VA (i : Nat) : Fld := ⟨.mem, 0, 0x100 + 0x40 * i + 0x30, 0, 32, .rw, false, 0⟩
abbrev MEM_PRE_VA_HI_VA (i : Nat) : Fld := ⟨.mem, 0, 0x100 + 0x40 * i + 0x34, 0, 8, .rw, false, 0⟩
abbrev MEM_PRE_VA_HI_COMPACT (i : Nat) : Fld := ⟨.mem, 0, 0x100 + 0x40 * i + 0x34, 8, 1, .rw, false, 0⟩
abbrev MEM_PRE_VA_HI_GO (i : Nat) : Fld := ⟨.mem, 0, 0x100 + 0x40 * i + 0x34, 31, 1, .sc, false, 0⟩
abbrev MEM_PRE_LEN_N (i : Nat) : Fld := ⟨.mem, 0, 0x100 + 0x40 * i + 0x38, 0, 24, .rw, false, 0⟩
abbrev MEM_CORRPF_N (i : Nat) : Fld := ⟨.mem, 0, 0x100 + 0x40 * i + 0x3C, 0, 32, .ct, false, 0⟩

/-! Page DSC. -/

/-! 06_levels_and_supplies.md R143. -/

abbrev DSC_DSCFG_DIV (i : Nat) : Fld := ⟨.dsc, 0, 0x040 + 0x40 * i + 0x00, 0, 16, .rw, false, 50⟩
abbrev DSC_DSCFG_FRAMP (i : Nat) : Fld := ⟨.dsc, 0, 0x040 + 0x40 * i + 0x00, 16, 8, .rw, true, 5⟩
abbrev DSC_QPUSH_LO_E (i : Nat) : Fld := ⟨.dsc, 0, 0x040 + 0x40 * i + 0x04, 0, 32, .rw, false, 0⟩
abbrev DSC_QPUSH_HI_E (i : Nat) : Fld := ⟨.dsc, 0, 0x040 + 0x40 * i + 0x08, 0, 32, .rw, false, 0⟩
abbrev DSC_QSTAT_FILL (i : Nat) : Fld := ⟨.dsc, 0, 0x040 + 0x40 * i + 0x0C, 0, 9, .lv, false, 0⟩
abbrev DSC_QSTAT_ON (i : Nat) : Fld := ⟨.dsc, 0, 0x040 + 0x40 * i + 0x0C, 9, 1, .lv, false, 0⟩
abbrev DSC_QSTAT_OWNED (i : Nat) : Fld := ⟨.dsc, 0, 0x040 + 0x40 * i + 0x0C, 10, 1, .lv, false, 0⟩
abbrev DSC_QSTAT_OWNER (i : Nat) : Fld := ⟨.dsc, 0, 0x040 + 0x40 * i + 0x0C, 11, 6, .lv, false, 0⟩
abbrev DSC_QSTAT_LCAUSE (i : Nat) : Fld := ⟨.dsc, 0, 0x040 + 0x40 * i + 0x0C, 17, 2, .lv, false, 0⟩
abbrev DSC_ILIM_CODE (i : Nat) : Fld := ⟨.dsc, 0, 0x040 + 0x40 * i + 0x10, 0, 16, .rw, true, 0⟩
abbrev DSC_VMAX_CODE (i : Nat) : Fld := ⟨.dsc, 0, 0x040 + 0x40 * i + 0x14, 0, 16, .rw, true, 0xDAC0⟩
abbrev DSC_RSHUNT_R (i : Nat) : Fld := ⟨.dsc, 0, 0x040 + 0x40 * i + 0x18, 0, 16, .rw, false, 500⟩
abbrev DSC_ILIMT_T (i : Nat) : Fld := ⟨.dsc, 0, 0x040 + 0x40 * i + 0x1C, 0, 16, .rw, true, 100⟩
abbrev DSC_VMEAS_V (i : Nat) : Fld := ⟨.dsc, 0, 0x040 + 0x40 * i + 0x20, 0, 16, .lv, false, 0⟩
abbrev DSC_IMEAS_VS (i : Nat) : Fld := ⟨.dsc, 0, 0x040 + 0x40 * i + 0x24, 0, 16, .lv, false, 0⟩
abbrev DSC_APPLIED_CODE (i : Nat) : Fld := ⟨.dsc, 0, 0x040 + 0x40 * i + 0x28, 0, 16, .lv, false, 0⟩
abbrev DSC_APPLIED_G (i : Nat) : Fld := ⟨.dsc, 0, 0x040 + 0x40 * i + 0x28, 16, 1, .lv, false, 0⟩
abbrev DSC_PWRUP_V (i : Nat) : Fld := ⟨.dsc, 0, 0x040 + 0x40 * i + 0x2C, 0, 18, .ro, false, 0⟩
abbrev DSC_FAULTV_V (i : Nat) : Fld := ⟨.dsc, 0, 0x040 + 0x40 * i + 0x30, 0, 18, .ro, false, 0⟩
abbrev DSC_QUNDER_N (i : Nat) : Fld := ⟨.dsc, 0, 0x040 + 0x40 * i + 0x34, 0, 32, .ct, false, 0⟩
abbrev DSC_QOVF_N (i : Nat) : Fld := ⟨.dsc, 0, 0x040 + 0x40 * i + 0x38, 0, 32, .ct, false, 0⟩
abbrev DSC_QTICK_T (i : Nat) : Fld := ⟨.dsc, 0, 0x040 + 0x40 * i + 0x3C, 0, 32, .lv, false, 0⟩
/-! 06_levels_and_supplies.md R144. -/

abbrev DSC_QSTALL_N (i : Nat) : Fld := ⟨.dsc, 0, 0x280 + 4 * i, 0, 32, .ct, false, 0⟩
abbrev DSC_QOPERR_N (i : Nat) : Fld := ⟨.dsc, 0, 0x2A0 + 4 * i, 0, 32, .ct, false, 0⟩
/-! 14_levee_and_event_order.md R323. -/

abbrev DSC_LVDS_HI (i : Nat) : Fld := ⟨.dsc, 0, 0x240 + 4 * i, 0, 16, .rw, false, 0xFFFF⟩
abbrev DSC_LVDS_EN (i : Nat) : Fld := ⟨.dsc, 0, 0x240 + 4 * i, 16, 1, .rw, false, 0⟩
abbrev DSC_LVDS_FLTEN (i : Nat) : Fld := ⟨.dsc, 0, 0x240 + 4 * i, 17, 1, .rw, false, 0⟩
abbrev DSC_LVDS_MUTE (i : Nat) : Fld := ⟨.dsc, 0, 0x240 + 4 * i, 18, 4, .rw, false, 0⟩
abbrev DSC_LVDSLO_LO (i : Nat) : Fld := ⟨.dsc, 0, 0x260 + 4 * i, 0, 16, .rw, false, 0⟩
abbrev DSC_COND_RAMPING (i : Nat) : Fld := ⟨.dsc, 0, 0x020, 3 * i + 0, 1, .lv, false, 0⟩
abbrev DSC_COND_ILIM (i : Nat) : Fld := ⟨.dsc, 0, 0x020, 3 * i + 1, 1, .lv, false, 0⟩
abbrev DSC_COND_VCLIP (i : Nat) : Fld := ⟨.dsc, 0, 0x020, 3 * i + 2, 1, .lv, false, 0⟩

/-! Page POL. -/

/-! 03_polders.md R77. -/

abbrev POL_STATE_RSTATE : Fld := ⟨.pol, 0, 0x00C, 0, 3, .lv, false, 0⟩
abbrev POL_STATE_RESTART_PENDING : Fld := ⟨.pol, 0, 0x00C, 3, 1, .lv, false, 0⟩
abbrev POL_STATE_BENCHED : Fld := ⟨.pol, 0, 0x00C, 4, 1, .lv, false, 0⟩
abbrev POL_STATE_ANCHOR : Fld := ⟨.pol, 0, 0x00C, 5, 1, .lv, false, 0⟩
abbrev POL_STATE_PAUSE_CAUSE : Fld := ⟨.pol, 0, 0x00C, 6, 2, .lv, false, 0⟩
abbrev POL_STATE_DIKE_SRC : Fld := ⟨.pol, 0, 0x00C, 8, 3, .lv, false, 0⟩
abbrev POL_COND_IN_DIKE : Fld := ⟨.pol, 0, 0x020, 0, 1, .lv, false, 0⟩
abbrev POL_COND_FAULT_ACTIVE : Fld := ⟨.pol, 0, 0x020, 1, 1, .lv, false, 0⟩
abbrev POL_COND_FAULT_LATCHED : Fld := ⟨.pol, 0, 0x020, 2, 1, .lv, false, 0⟩
abbrev POL_COND_DS_RAMPING : Fld := ⟨.pol, 0, 0x020, 3, 1, .lv, false, 0⟩
abbrev POL_COND_RECORDS_OPEN : Fld := ⟨.pol, 0, 0x020, 4, 1, .lv, false, 0⟩
abbrev POL_RUNCTL_RUN : Fld := ⟨.pol, 0, 0x040, 0, 1, .sc, false, 0⟩
abbrev POL_RUNCTL_STOP : Fld := ⟨.pol, 0, 0x040, 1, 1, .sc, false, 0⟩
abbrev POL_RUNCTL_ABORT : Fld := ⟨.pol, 0, 0x040, 2, 1, .sc, false, 0⟩
abbrev POL_RUNCTL_PAUSE : Fld := ⟨.pol, 0, 0x040, 3, 1, .sc, false, 0⟩
abbrev POL_RUNCTL_RESUME : Fld := ⟨.pol, 0, 0x040, 4, 1, .sc, false, 0⟩
abbrev POL_RUNCTL_DIKE : Fld := ⟨.pol, 0, 0x040, 5, 1, .sc, false, 0⟩
abbrev POL_RUNCTL_RELEASE : Fld := ⟨.pol, 0, 0x040, 6, 1, .sc, false, 0⟩
abbrev POL_RUNCTL_SCOPE : Fld := ⟨.pol, 0, 0x040, 8, 1, .rw, false, 0⟩
abbrev POL_OCTMAP_LO_OCT : Fld := ⟨.pol, 0, 0x044, 0, 32, .rw, false, 0⟩
abbrev POL_OCTMAP_HI_OCT : Fld := ⟨.pol, 0, 0x048, 0, 32, .rw, false, 0⟩
abbrev POL_DSMAP_DS : Fld := ⟨.pol, 0, 0x04C, 0, 32, .rw, false, 0⟩
abbrev POL_BIND_SEQSEL : Fld := ⟨.pol, 0, 0x050, 0, 5, .rw, false, 31⟩
abbrev POL_CSRT_CID : Fld := ⟨.pol, 0, 0x054, 0, 6, .rw, false, 0⟩
abbrev POL_CSRT_CEN : Fld := ⟨.pol, 0, 0x054, 8, 1, .rw, false, 0⟩
abbrev POL_CSRT_BENCH_TO : Fld := ⟨.pol, 0, 0x054, 9, 1, .rw, false, 0⟩
abbrev POL_CSRT_MEMBERS : Fld := ⟨.pol, 0, 0x054, 16, 7, .lv, false, 0⟩
abbrev POL_START_STARTSEL : Fld := ⟨.pol, 0, 0x058, 0, 2, .rw, false, 0⟩
abbrev POL_START_SRC : Fld := ⟨.pol, 0, 0x058, 4, 12, .rw, false, 0⟩
abbrev POL_START_POL : Fld := ⟨.pol, 0, 0x058, 16, 1, .rw, false, 1⟩
abbrev POL_START_TIME_LO_T : Fld := ⟨.pol, 0, 0x05C, 0, 32, .rw, false, 0⟩
abbrev POL_START_TIME_HI_T : Fld := ⟨.pol, 0, 0x060, 0, 32, .rw, false, 0⟩
abbrev POL_DIKECFG_DIKE_OVR : Fld := ⟨.pol, 0, 0x064, 0, 1, .rw, true, 0⟩
abbrev POL_TEMPLATE_NOCT : Fld := ⟨.pol, 0, 0x068, 0, 7, .lv, false, 0⟩
abbrev POL_TEMPLATE_FIRST : Fld := ⟨.pol, 0, 0x068, 8, 6, .lv, false, 0⟩
abbrev POL_RUNINFO_ARMERR : Fld := ⟨.pol, 0, 0x06C, 0, 4, .lv, false, 0⟩
abbrev POL_RUNCNT_RUNS : Fld := ⟨.pol, 0, 0x070, 0, 32, .ct, false, 0⟩
abbrev POL_OVLCNT_N : Fld := ⟨.pol, 0, 0x074, 0, 13, .rw, false, 0⟩
abbrev POL_STOPVWI_LO_VWI : Fld := ⟨.pol, 0, 0x078, 0, 32, .lv, false, 0⟩
abbrev POL_STOPVWI_HI_VWI : Fld := ⟨.pol, 0, 0x07C, 0, 8, .lv, false, 0⟩
/-! 04_drive_and_compare.md R100. -/

abbrev POL_FAILCFG_SOF_MODE : Fld := ⟨.pol, 0, 0x080, 0, 2, .rw, false, 0⟩
abbrev POL_FAILCFG_FLOG_EN : Fld := ⟨.pol, 0, 0x080, 2, 1, .rw, false, 0⟩
abbrev POL_SOF_COUNT_N : Fld := ⟨.pol, 0, 0x084, 0, 32, .rw, false, 1⟩
abbrev POL_FLOG_LIMIT_N : Fld := ⟨.pol, 0, 0x088, 0, 32, .rw, false, 0⟩
abbrev POL_FAILCNT_N : Fld := ⟨.pol, 0, 0x08C, 0, 32, .ct, false, 0⟩
abbrev POL_FAILVEC_N : Fld := ⟨.pol, 0, 0x090, 0, 32, .ct, false, 0⟩
abbrev POL_FF_VWI_LO_VWI : Fld := ⟨.pol, 0, 0x094, 0, 32, .lv, false, 0⟩
abbrev POL_FF_VWI_HI_VWI : Fld := ⟨.pol, 0, 0x098, 0, 8, .lv, false, 0⟩
abbrev POL_FF_VWI_HI_VEC : Fld := ⟨.pol, 0, 0x098, 8, 2, .lv, false, 0⟩
abbrev POL_FF_INFO_NCH : Fld := ⟨.pol, 0, 0x09C, 0, 10, .lv, false, 0⟩
abbrev POL_FF_INFO_TCH : Fld := ⟨.pol, 0, 0x09C, 16, 9, .lv, false, 0⟩
abbrev POL_FF_INFO_VALID : Fld := ⟨.pol, 0, 0x09C, 31, 1, .lv, false, 0⟩
abbrev POL_FF_STAMP_LO_T : Fld := ⟨.pol, 0, 0x0A0, 0, 32, .lv, false, 0⟩
abbrev POL_FF_STAMP_HI_T : Fld := ⟨.pol, 0, 0x0A4, 0, 32, .lv, false, 0⟩
abbrev POL_FLOGCNT_N : Fld := ⟨.pol, 0, 0x0A8, 0, 32, .ct, false, 0⟩
/-! 05_parametric_unit.md R119. -/

abbrev POL_PMUCTL_CONV : Fld := ⟨.pol, 0, 0x0C0, 0, 1, .sc, false, 0⟩
abbrev POL_PMUCTL_BURST : Fld := ⟨.pol, 0, 0x0C0, 1, 1, .sc, false, 0⟩
abbrev POL_PMUCTL_BURST_STOP : Fld := ⟨.pol, 0, 0x0C0, 2, 1, .sc, false, 0⟩
abbrev POL_PMUCTL_FORCE_ON : Fld := ⟨.pol, 0, 0x0C0, 3, 1, .sc, false, 0⟩
abbrev POL_PMUCTL_FORCE_OFF : Fld := ⟨.pol, 0, 0x0C0, 4, 1, .sc, false, 0⟩
abbrev POL_PMUCTL_APPLY : Fld := ⟨.pol, 0, 0x0C0, 5, 1, .sc, false, 0⟩
abbrev POL_PMUCFG_TRIGDLY : Fld := ⟨.pol, 0, 0x0C4, 0, 16, .rw, false, 0⟩
abbrev POL_PMUCFG_BURSTN : Fld := ⟨.pol, 0, 0x0C4, 16, 16, .rw, false, 1⟩
abbrev POL_PMUCNT_N : Fld := ⟨.pol, 0, 0x0C8, 0, 32, .ct, false, 0⟩
abbrev POL_PMUMISS_N : Fld := ⟨.pol, 0, 0x0CC, 0, 32, .ct, false, 0⟩
/-! 06_levels_and_supplies.md R141. -/

abbrev POL_LQCFG_DIV : Fld := ⟨.pol, 0, 0x0E0, 0, 16, .rw, false, 50⟩
abbrev POL_LQCFG_SEGIDX : Fld := ⟨.pol, 0, 0x0E0, 16, 4, .rw, false, 1⟩
abbrev POL_LQPUSH_LO_E : Fld := ⟨.pol, 0, 0x0E4, 0, 32, .rw, false, 0⟩
abbrev POL_LQPUSH_HI_E : Fld := ⟨.pol, 0, 0x0E8, 0, 32, .rw, false, 0⟩
abbrev POL_LQSTAT_FILL : Fld := ⟨.pol, 0, 0x0EC, 0, 9, .lv, false, 0⟩
abbrev POL_LQSTAT_LSAPPLIED : Fld := ⟨.pol, 0, 0x0EC, 9, 5, .lv, false, 16⟩
abbrev POL_LQSTAT_GAINSW : Fld := ⟨.pol, 0, 0x0EC, 14, 1, .lv, false, 0⟩
abbrev POL_LQUNDER_N : Fld := ⟨.pol, 0, 0x0F0, 0, 32, .ct, false, 0⟩
abbrev POL_LQOVF_N : Fld := ⟨.pol, 0, 0x0F4, 0, 32, .ct, false, 0⟩
abbrev POL_LQSTALL_N : Fld := ⟨.pol, 0, 0x0F8, 0, 32, .ct, false, 0⟩
abbrev POL_LQTICK_LO_T : Fld := ⟨.pol, 0, 0x0FC, 0, 32, .lv, false, 0⟩
abbrev POL_LQTICK_HI_T : Fld := ⟨.pol, 0, 0x100, 0, 32, .lv, false, 0⟩
/-! 07_edge_timing.md R166. -/

abbrev POL_TSCTL_SET : Fld := ⟨.pol, 0, 0x110, 0, 6, .rw, false, 0⟩
abbrev POL_TSCTL_CLR : Fld := ⟨.pol, 0, 0x110, 8, 1, .sc, false, 0⟩
abbrev POL_TSREJ_REASON : Fld := ⟨.pol, 0, 0x114, 0, 4, .lv, false, 0⟩
abbrev POL_TSREJ_SET : Fld := ⟨.pol, 0, 0x114, 4, 6, .lv, false, 0⟩
abbrev POL_TSREJ_CHAR : Fld := ⟨.pol, 0, 0x114, 10, 4, .lv, false, 0⟩
abbrev POL_TSREJ_EDGE : Fld := ⟨.pol, 0, 0x114, 14, 2, .lv, false, 0⟩
abbrev POL_TSREJ_TCH : Fld := ⟨.pol, 0, 0x114, 16, 9, .lv, false, 0⟩
/-! 08_vector_memory.md R192. -/

abbrev POL_VMSTAT_TIMING_BROKEN : Fld := ⟨.pol, 0, 0x120, 0, 1, .lv, false, 0⟩
abbrev POL_VMSTAT_STALLED : Fld := ⟨.pol, 0, 0x120, 1, 1, .lv, false, 0⟩
abbrev POL_VMSTAT_STOPCAUSE : Fld := ⟨.pol, 0, 0x120, 2, 2, .lv, false, 0⟩
abbrev POL_STALLTK_T : Fld := ⟨.pol, 0, 0x124, 0, 32, .ct, false, 0⟩
abbrev POL_OVLLATE_N : Fld := ⟨.pol, 0, 0x128, 0, 32, .ct, false, 0⟩
/-! 13_time_measurement.md R295. -/

abbrev POL_NOSTARTCNT_N : Fld := ⟨.pol, 0, 0x130, 0, 32, .ct, false, 0⟩
abbrev POL_UNPAIREDCNT_N : Fld := ⟨.pol, 0, 0x134, 0, 32, .ct, false, 0⟩
abbrev POL_TMEASCNT_N : Fld := ⟨.pol, 0, 0x138, 0, 32, .ct, false, 0⟩
/-! 14_levee_and_event_order.md R324. -/

abbrev POL_MT_START (i : Nat) : Fld := ⟨.pol, 0, 0x140 + 4 * i, 0, 3, .rw, false, 0⟩
abbrev POL_MT_POL (i : Nat) : Fld := ⟨.pol, 0, 0x140 + 4 * i, 3, 1, .rw, false, 1⟩
abbrev POL_MT_SRC (i : Nat) : Fld := ⟨.pol, 0, 0x140 + 4 * i, 4, 12, .rw, false, 0⟩
abbrev POL_MT_LEN (i : Nat) : Fld := ⟨.pol, 0, 0x140 + 4 * i, 16, 16, .rw, false, 0⟩
abbrev POL_MUTECNT_N : Fld := ⟨.pol, 0, 0x150, 0, 32, .ct, false, 0⟩

/-! Page ACQ. -/

/-! 11_acquisition.md R256. -/

abbrev ACQ_STATE_ASTATE : Fld := ⟨.acq, 0, 0x00C, 0, 3, .lv, false, 0⟩
abbrev ACQ_COND_RECORD_OPEN : Fld := ⟨.acq, 0, 0x020, 0, 1, .lv, false, 0⟩
abbrev ACQ_COND_PRESHORT : Fld := ⟨.acq, 0, 0x020, 1, 1, .lv, false, 0⟩
abbrev ACQ_ACQCTL_EN : Fld := ⟨.acq, 0, 0x040, 0, 1, .rw, false, 0⟩
abbrev ACQ_ACQCTL_MODE : Fld := ⟨.acq, 0, 0x040, 1, 2, .rw, false, 0⟩
abbrev ACQ_ACQCTL_STRIG : Fld := ⟨.acq, 0, 0x040, 3, 1, .rw, false, 0⟩
abbrev ACQ_ACQCTL_RTRIG : Fld := ⟨.acq, 0, 0x040, 4, 1, .rw, false, 0⟩
abbrev ACQ_SRCCFG_FRAME : Fld := ⟨.acq, 0, 0x044, 0, 8, .rw, false, 0⟩
abbrev ACQ_SRCCFG_SCOPEDIV : Fld := ⟨.acq, 0, 0x044, 8, 4, .rw, false, 0⟩
abbrev ACQ_SRCCFG_SCOPESEL : Fld := ⟨.acq, 0, 0x044, 12, 1, .rw, false, 0⟩
abbrev ACQ_TRIG_SRC : Fld := ⟨.acq, 0, 0x048, 0, 12, .rw, false, 0⟩
abbrev ACQ_TRIG_POL : Fld := ⟨.acq, 0, 0x048, 12, 1, .rw, false, 1⟩
abbrev ACQ_PRE_T : Fld := ⟨.acq, 0, 0x04C, 0, 32, .rw, false, 0⟩
abbrev ACQ_POST_T : Fld := ⟨.acq, 0, 0x050, 0, 32, .rw, false, 1600⟩
abbrev ACQ_ATO_T : Fld := ⟨.acq, 0, 0x054, 0, 26, .rw, false, 0xF4240⟩
abbrev ACQ_MASKCFG_MASKLEN : Fld := ⟨.acq, 0, 0x058, 0, 11, .rw, false, 0⟩
abbrev ACQ_MASKCFG_MASKACT : Fld := ⟨.acq, 0, 0x058, 11, 2, .rw, false, 0⟩
abbrev ACQ_RECCNT_N : Fld := ⟨.acq, 0, 0x05C, 0, 32, .ct, false, 0⟩
abbrev ACQ_TRIGIGN_N : Fld := ⟨.acq, 0, 0x060, 0, 32, .ct, false, 0⟩
abbrev ACQ_FORCEDCNT_N : Fld := ⟨.acq, 0, 0x064, 0, 32, .ct, false, 0⟩
abbrev ACQ_MASKVIOL_N : Fld := ⟨.acq, 0, 0x068, 0, 32, .ct, false, 0⟩
abbrev ACQ_LASTT_LO_T : Fld := ⟨.acq, 0, 0x06C, 0, 32, .lv, false, 0⟩
abbrev ACQ_LASTT_HI_T : Fld := ⟨.acq, 0, 0x070, 0, 32, .lv, false, 0⟩

/-! Page OCT. -/

/-! 01_module_overview.md R19. -/

abbrev OCT_SCOPELOST_N : Fld := ⟨.oct, 0, 0x08C, 0, 32, .ct, false, 0⟩
/-! 04_drive_and_compare.md R99. -/

abbrev OCT_STATE_OWNER : Fld := ⟨.oct, 0, 0x00C, 0, 6, .lv, false, 0⟩
abbrev OCT_STATE_OWNED : Fld := ⟨.oct, 0, 0x00C, 6, 1, .lv, false, 0⟩
abbrev OCT_STATE_PSTATE : Fld := ⟨.oct, 0, 0x00C, 8, 2, .lv, false, 0⟩
abbrev OCT_STATE_DIE_ISOLATED : Fld := ⟨.oct, 0, 0x00C, 10, 1, .lv, false, 0⟩
abbrev OCT_COND_CMPH : Fld := ⟨.oct, 0, 0x020, 0, 8, .lv, false, 0⟩
abbrev OCT_COND_CMPL : Fld := ⟨.oct, 0, 0x020, 8, 8, .lv, false, 0⟩
abbrev OCT_COND_CLAMPING : Fld := ⟨.oct, 0, 0x020, 16, 8, .lv, false, 0⟩
abbrev OCT_CHCFG_IDLE (i : Nat) : Fld := ⟨.oct, 0, 0x040 + 4 * i, 0, 2, .rw, false, 0⟩
abbrev OCT_CHCFG_LOAD_EN (i : Nat) : Fld := ⟨.oct, 0, 0x040 + 4 * i, 2, 1, .rw, false, 0⟩
abbrev OCT_CHCFG_CMPEN (i : Nat) : Fld := ⟨.oct, 0, 0x040 + 4 * i, 3, 1, .rw, false, 1⟩
abbrev OCT_CHCFG_HYST (i : Nat) : Fld := ⟨.oct, 0, 0x040 + 4 * i, 4, 4, .rw, false, 0⟩
abbrev OCT_CHFAIL_N (i : Nat) : Fld := ⟨.oct, 0, 0x060 + 4 * i, 0, 32, .ct, false, 0⟩
abbrev OCT_STRETCHCNT_N : Fld := ⟨.oct, 0, 0x080, 0, 32, .ct, false, 0⟩
abbrev OCT_X1_CLAMP_CLHI (i : Nat) : Fld := ⟨.oct, 1, 8 * i + 0, 0, 10, .rw, true, 900⟩
abbrev OCT_X1_CLAMP_CLLO (i : Nat) : Fld := ⟨.oct, 1, 8 * i + 0, 16, 10, .rw, true, 0⟩
abbrev OCT_X1_ZOUT_Z (i : Nat) : Fld := ⟨.oct, 1, 8 * i + 1, 0, 16, .ro, false, 0⟩
abbrev OCT_X1_CMPTRIM_OFSH (i : Nat) : Fld := ⟨.oct, 1, 8 * i + 2, 0, 16, .ro, false, 0⟩
abbrev OCT_X1_CMPTRIM_OFSL (i : Nat) : Fld := ⟨.oct, 1, 8 * i + 2, 16, 16, .ro, false, 0⟩
/-! 05_parametric_unit.md R118. -/

abbrev OCT_X2_PMUCFG_MODE (i : Nat) : Fld := ⟨.oct, 2, 8 * i + 0, 0, 2, .rw, false, 0⟩
abbrev OCT_X2_PMUCFG_IRANGE (i : Nat) : Fld := ⟨.oct, 2, 8 * i + 0, 2, 3, .rw, false, 0⟩
abbrev OCT_X2_PMUCFG_PMUEN (i : Nat) : Fld := ⟨.oct, 2, 8 * i + 0, 5, 1, .rw, false, 0⟩
abbrev OCT_X2_PMUCFG_CONNECT (i : Nat) : Fld := ⟨.oct, 2, 8 * i + 0, 6, 1, .rw, false, 0⟩
abbrev OCT_X2_FORCE_CODE (i : Nat) : Fld := ⟨.oct, 2, 8 * i + 1, 0, 18, .rw, false, 0x10000⟩
abbrev OCT_X2_VCOMP_VCH (i : Nat) : Fld := ⟨.oct, 2, 8 * i + 2, 0, 10, .rw, false, 864⟩
abbrev OCT_X2_VCOMP_VCL (i : Nat) : Fld := ⟨.oct, 2, 8 * i + 2, 16, 10, .rw, false, 45⟩
abbrev OCT_X2_RESULT_CODE (i : Nat) : Fld := ⟨.oct, 2, 8 * i + 3, 0, 18, .lv, false, 0⟩
abbrev OCT_X2_RESULT_COMPL (i : Nat) : Fld := ⟨.oct, 2, 8 * i + 3, 18, 1, .lv, false, 0⟩
abbrev OCT_X2_RESULT_DEFER (i : Nat) : Fld := ⟨.oct, 2, 8 * i + 3, 19, 1, .lv, false, 0⟩
abbrev OCT_X2_RESULT_OVR (i : Nat) : Fld := ⟨.oct, 2, 8 * i + 3, 20, 1, .lv, false, 0⟩
abbrev OCT_X2_RESULT_VALID (i : Nat) : Fld := ⟨.oct, 2, 8 * i + 3, 31, 1, .lv, false, 0⟩
abbrev OCT_X2_NEXT_CODE (i : Nat) : Fld := ⟨.oct, 2, 8 * i + 4, 0, 18, .rw, false, 0x10000⟩
abbrev OCT_X2_NEXT_IRANGE (i : Nat) : Fld := ⟨.oct, 2, 8 * i + 4, 18, 3, .rw, false, 0⟩
abbrev OCT_X2_CLAIM_I (i : Nat) : Fld := ⟨.oct, 2, 8 * i + 5, 0, 19, .lv, false, 0⟩
/-! 06_levels_and_supplies.md R142. -/

abbrev OCT_X3_LSET_CODE (i : Nat) (j : Nat) (k : Nat) : Fld := ⟨.oct, 3, 128 * i + 8 * j + k, 0, 16, .rw, false,
  (if k ≤ 4 then 0x8000 else 0)⟩
abbrev OCT_X3_LSET_G (i : Nat) (j : Nat) (k : Nat) : Fld := ⟨.oct, 3, 128 * i + 8 * j + k, 16, 1, .rw, false, 0⟩
abbrev OCT_X4_APPLIED_CODE (i : Nat) (j : Nat) : Fld := ⟨.oct, 4, 32 * i + j, 0, 16, .lv, false, 0⟩
abbrev OCT_X4_APPLIED_G (i : Nat) (j : Nat) : Fld := ⟨.oct, 4, 32 * i + j, 16, 1, .lv, false, 0⟩
abbrev OCT_X4_PWRUP (i : Nat) (j : Nat) : Fld := ⟨.oct, 4, 32 * i + 8 + j, 0, 17, .ro, false, 0⟩
abbrev OCT_X4_FAULT (i : Nat) (j : Nat) : Fld := ⟨.oct, 4, 32 * i + 16 + j, 0, 17, .ro, false, 0⟩
/-! 07_edge_timing.md R164. -/

abbrev OCT_X6_DSKD_DDSK (i : Nat) : Fld := ⟨.oct, 6, 8 * i + 0, 0, 16, .rw, true, 0⟩
abbrev OCT_X6_DSKC_CDSK (i : Nat) : Fld := ⟨.oct, 6, 8 * i + 1, 0, 16, .rw, true, 0⟩
abbrev OCT_X6_TCOEF_TCD (i : Nat) : Fld := ⟨.oct, 6, 8 * i + 2, 0, 16, .rw, true, 0⟩
abbrev OCT_X6_TCOEF_TCC (i : Nat) : Fld := ⟨.oct, 6, 8 * i + 2, 16, 16, .rw, true, 0⟩
abbrev OCT_X6_PDLY_PDLY (i : Nat) : Fld := ⟨.oct, 6, 8 * i + 3, 0, 16, .rw, false, 0⟩
abbrev OCT_X6_APPD_DOFS (i : Nat) : Fld := ⟨.oct, 6, 8 * i + 4, 0, 18, .lv, false, 0⟩
abbrev OCT_X6_APPC_COFS (i : Nat) : Fld := ⟨.oct, 6, 8 * i + 5, 0, 18, .lv, false, 0⟩
abbrev OCT_X6_CALINFO_T0 (i : Nat) : Fld := ⟨.oct, 6, 8 * i + 6, 0, 8, .rw, true, 0⟩
abbrev OCT_X6_CALINFO_SCVALID (i : Nat) : Fld := ⟨.oct, 6, 8 * i + 6, 8, 1, .lv, false, 0⟩
/-! 07_edge_timing.md R165. -/

abbrev OCT_EDGEDROP_N : Fld := ⟨.oct, 0, 0x084, 0, 32, .ct, false, 0⟩
abbrev OCT_TSREJ_REASON : Fld := ⟨.oct, 0, 0x088, 0, 4, .lv, false, 0⟩
abbrev OCT_TSREJ_SET : Fld := ⟨.oct, 0, 0x088, 4, 6, .lv, false, 0⟩
abbrev OCT_TSREJ_CHAR : Fld := ⟨.oct, 0, 0x088, 10, 4, .lv, false, 0⟩
abbrev OCT_TSREJ_EDGE : Fld := ⟨.oct, 0, 0x088, 14, 2, .lv, false, 0⟩
abbrev OCT_TSREJ_CH : Fld := ⟨.oct, 0, 0x088, 16, 3, .lv, false, 0⟩
/-! 13_time_measurement.md R293. -/

abbrev OCT_X7_TDCCFG_CLASS (i : Nat) : Fld := ⟨.oct, 7, 8 * i + 0, 0, 3, .rw, false, 0⟩
abbrev OCT_X7_TDCCFG_CMPSEL (i : Nat) : Fld := ⟨.oct, 7, 8 * i + 0, 3, 1, .rw, false, 0⟩
abbrev OCT_X7_TDCCFG_EDGESEL (i : Nat) : Fld := ⟨.oct, 7, 8 * i + 0, 4, 2, .rw, false, 0⟩
abbrev OCT_X7_TDCCFG_HOLDOFF (i : Nat) : Fld := ⟨.oct, 7, 8 * i + 0, 6, 8, .rw, false, 0⟩
abbrev OCT_X7_TDCCFG_PARTNER (i : Nat) : Fld := ⟨.oct, 7, 8 * i + 0, 14, 9, .rw, false, 0⟩
abbrev OCT_X7_ARMWIN_T (i : Nat) : Fld := ⟨.oct, 7, 8 * i + 1, 0, 24, .rw, false, 1600⟩
abbrev OCT_X7_GATE_T (i : Nat) : Fld := ⟨.oct, 7, 8 * i + 2, 0, 32, .rw, false, 0x186A0⟩
abbrev OCT_X7_PRESC_N (i : Nat) : Fld := ⟨.oct, 7, 8 * i + 3, 0, 16, .rw, false, 0⟩
abbrev OCT_X7_IWIN_T (i : Nat) : Fld := ⟨.oct, 7, 8 * i + 4, 0, 20, .rw, false, 1600⟩
abbrev OCT_X7_FREQ_LO_F (i : Nat) : Fld := ⟨.oct, 7, 8 * i + 5, 0, 32, .lv, false, 0⟩
abbrev OCT_X7_FREQRES_F (i : Nat) : Fld := ⟨.oct, 7, 8 * i + 6, 0, 12, .lv, false, 0⟩
abbrev OCT_X7_FREQRES_RESID (i : Nat) : Fld := ⟨.oct, 7, 8 * i + 6, 12, 16, .lv, false, 0⟩
abbrev OCT_X7_FREQRES_FEW (i : Nat) : Fld := ⟨.oct, 7, 8 * i + 6, 28, 1, .lv, false, 0⟩
abbrev OCT_X7_FREQRES_CAPPED (i : Nat) : Fld := ⟨.oct, 7, 8 * i + 6, 29, 1, .lv, false, 0⟩
abbrev OCT_X7_FREQRES_CLKSTEP (i : Nat) : Fld := ⟨.oct, 7, 8 * i + 6, 30, 1, .lv, false, 0⟩
abbrev OCT_X7_FREQRES_HOLDOVER (i : Nat) : Fld := ⟨.oct, 7, 8 * i + 6, 31, 1, .lv, false, 0⟩
abbrev OCT_X7_FREQN_NSTAMP (i : Nat) : Fld := ⟨.oct, 7, 8 * i + 7, 0, 17, .lv, false, 0⟩
abbrev OCT_X7_FREQN_VALID (i : Nat) : Fld := ⟨.oct, 7, 8 * i + 7, 17, 1, .lv, false, 0⟩
abbrev OCT_X7_FREQN_REFBUGLE (i : Nat) : Fld := ⟨.oct, 7, 8 * i + 7, 18, 1, .lv, false, 0⟩
/-! 13_time_measurement.md R294. -/

abbrev OCT_DTLOST_N (i : Nat) : Fld := ⟨.oct, 0, 0x0A0 + 4 * i, 0, 32, .ct, false, 0⟩
abbrev OCT_TDCLOST_N (i : Nat) : Fld := ⟨.oct, 0, 0x0C0 + 4 * i, 0, 32, .ct, false, 0⟩
/-! 14_levee_and_event_order.md R322. -/

abbrev OCT_X8_LVTHR_LVHI (i : Nat) : Fld := ⟨.oct, 8, 8 * i + 0, 0, 10, .rw, false, 900⟩
abbrev OCT_X8_LVTHR_LVLO (i : Nat) : Fld := ⟨.oct, 8, 8 * i + 0, 16, 10, .rw, false, 0⟩
abbrev OCT_X8_LVCFG_ENH (i : Nat) : Fld := ⟨.oct, 8, 8 * i + 1, 0, 1, .rw, false, 0⟩
abbrev OCT_X8_LVCFG_ENL (i : Nat) : Fld := ⟨.oct, 8, 8 * i + 1, 1, 1, .rw, false, 0⟩
abbrev OCT_X8_LVCFG_MUTE (i : Nat) : Fld := ⟨.oct, 8, 8 * i + 1, 2, 4, .rw, false, 0⟩
abbrev OCT_X8_LVCFG_FLTEN (i : Nat) : Fld := ⟨.oct, 8, 8 * i + 1, 6, 1, .rw, false, 0⟩

/-! Page SEQ. -/

/-! 09_segment_sequencer.md R209. -/

abbrev SEQ_STATE_RESERVED : Fld := ⟨.seq, 0, 0x00C, 0, 1, .lv, false, 0⟩
abbrev SEQ_STATE_ANCHOR : Fld := ⟨.seq, 0, 0x00C, 1, 6, .lv, false, 0⟩
abbrev SEQ_STATE_ISSUING : Fld := ⟨.seq, 0, 0x00C, 7, 1, .lv, false, 0⟩
abbrev SEQ_STATE_CURENT : Fld := ⟨.seq, 0, 0x00C, 8, 15, .lv, false, 0⟩
abbrev SEQ_STATE_STOPCAUSE : Fld := ⟨.seq, 0, 0x00C, 23, 3, .lv, false, 0⟩
abbrev SEQ_COND_LATCH : Fld := ⟨.seq, 0, 0x020, 1, 15, .lv, false, 0⟩
abbrev SEQ_COND_FAIL_ANY : Fld := ⟨.seq, 0, 0x020, 16, 1, .lv, false, 0⟩
abbrev SEQ_COND_FAIL_ALL : Fld := ⟨.seq, 0, 0x020, 17, 1, .lv, false, 0⟩
abbrev SEQ_SEQCTL_HFLAG : Fld := ⟨.seq, 0, 0x040, 0, 1, .rw, false, 0⟩
abbrev SEQ_SEQCTL_LCLR : Fld := ⟨.seq, 0, 0x040, 1, 1, .sc, false, 0⟩
abbrev SEQ_TRANGE_TBASE (n : Nat) : Fld := ⟨.seq, 0, 0x044, 0, 15, .rw, false, 2048 * n⟩
abbrev SEQ_TRANGE_TLIMIT (n : Nat) : Fld := ⟨.seq, 0, 0x044, 16, 15, .rw, false, 2048 * n + 2047⟩
abbrev SEQ_STARTENT_ENTRY (n : Nat) : Fld := ⟨.seq, 0, 0x048, 0, 15, .rw, false, 2048 * n⟩
abbrev SEQ_CMAP_SRC (i : Nat) : Fld := ⟨.seq, 0, 0x04C + 4 * (i - 1), 0, 12, .rw, false, 0⟩
abbrev SEQ_CMAP_POL (i : Nat) : Fld := ⟨.seq, 0, 0x04C + 4 * (i - 1), 12, 1, .rw, false, 1⟩
abbrev SEQ_CMAP_MODE (i : Nat) : Fld := ⟨.seq, 0, 0x04C + 4 * (i - 1), 13, 1, .rw, false, 0⟩
abbrev SEQ_CURPASS_PASS : Fld := ⟨.seq, 0, 0x088, 0, 20, .lv, false, 0⟩
abbrev SEQ_ENTCNT_N : Fld := ⟨.seq, 0, 0x08C, 0, 32, .ct, false, 0⟩
abbrev SEQ_JMPCNT_N : Fld := ⟨.seq, 0, 0x090, 0, 32, .ct, false, 0⟩
abbrev SEQ_SEGREJ_REASON : Fld := ⟨.seq, 0, 0x094, 0, 4, .lv, false, 0⟩
abbrev SEQ_SEGREJ_ENTRY : Fld := ⟨.seq, 0, 0x094, 4, 15, .lv, false, 0⟩

/-! Page MCE. -/

/-! 10_microcode_engines.md R234. -/

abbrev MCE_STATE_RESERVED : Fld := ⟨.mce, 0, 0x00C, 0, 1, .lv, false, 0⟩
abbrev MCE_STATE_ANCHOR : Fld := ⟨.mce, 0, 0x00C, 1, 6, .lv, false, 0⟩
abbrev MCE_STATE_ISSUING : Fld := ⟨.mce, 0, 0x00C, 7, 1, .lv, false, 0⟩
abbrev MCE_STATE_UPC : Fld := ⟨.mce, 0, 0x00C, 8, 14, .lv, false, 0⟩
abbrev MCE_STATE_WAITING : Fld := ⟨.mce, 0, 0x00C, 22, 1, .lv, false, 0⟩
abbrev MCE_STATE_LSP : Fld := ⟨.mce, 0, 0x00C, 23, 4, .lv, false, 0⟩
abbrev MCE_STATE_RSP : Fld := ⟨.mce, 0, 0x00C, 27, 5, .lv, false, 0⟩
abbrev MCE_COND_CRC_OK : Fld := ⟨.mce, 0, 0x020, 0, 1, .lv, false, 0⟩
abbrev MCE_COND_LATCH : Fld := ⟨.mce, 0, 0x020, 1, 15, .lv, false, 0⟩
abbrev MCE_COND_FAIL_ANY : Fld := ⟨.mce, 0, 0x020, 16, 1, .lv, false, 0⟩
abbrev MCE_COND_FAIL_ALL : Fld := ⟨.mce, 0, 0x020, 17, 1, .lv, false, 0⟩
abbrev MCE_COND_FLAGS : Fld := ⟨.mce, 0, 0x020, 18, 4, .lv, false, 0⟩
abbrev MCE_ENGCTL_HFLAG : Fld := ⟨.mce, 0, 0x040, 0, 1, .rw, false, 0⟩
abbrev MCE_ENGCTL_LCLR : Fld := ⟨.mce, 0, 0x040, 1, 1, .sc, false, 0⟩
abbrev MCE_ENGCTL_CHECK : Fld := ⟨.mce, 0, 0x040, 2, 1, .sc, false, 0⟩
abbrev MCE_START_ADDR : Fld := ⟨.mce, 0, 0x044, 0, 14, .rw, false, 0⟩
abbrev MCE_STARTVA_LO_VA : Fld := ⟨.mce, 0, 0x048, 0, 32, .rw, false, 0⟩
abbrev MCE_STARTVA_HI_VA : Fld := ⟨.mce, 0, 0x04C, 0, 8, .rw, false, 0⟩
abbrev MCE_CSCRC_CRC : Fld := ⟨.mce, 0, 0x050, 0, 32, .rw, false, 0⟩
abbrev MCE_CSLEN_N : Fld := ⟨.mce, 0, 0x054, 0, 15, .rw, false, 0x4000⟩
abbrev MCE_CMAP_SRC (i : Nat) : Fld := ⟨.mce, 0, 0x058 + 4 * (i - 1), 0, 12, .rw, false, 0⟩
abbrev MCE_CMAP_POL (i : Nat) : Fld := ⟨.mce, 0, 0x058 + 4 * (i - 1), 12, 1, .rw, false, 1⟩
abbrev MCE_CMAP_MODE (i : Nat) : Fld := ⟨.mce, 0, 0x058 + 4 * (i - 1), 13, 1, .rw, false, 0⟩
abbrev MCE_CDM0_M : Fld := ⟨.mce, 0, 0x094, 0, 30, .rw, false, 0⟩
abbrev MCE_CDM1_M : Fld := ⟨.mce, 0, 0x098, 0, 30, .rw, false, 0⟩
abbrev MCE_CDM2_M : Fld := ⟨.mce, 0, 0x09C, 0, 20, .rw, false, 0⟩
abbrev MCE_LREG_N (i : Nat) : Fld := ⟨.mce, 0, 0x0A0 + 4 * i, 0, 32, .rw, false, 0⟩
abbrev MCE_LSPAN_N (i : Nat) : Fld := ⟨.mce, 0, 0x0C0 + 4 * i, 0, 24, .rw, false, 0⟩
abbrev MCE_CNT_C (i : Nat) : Fld := ⟨.mce, 0, 0x0E0 + 4 * i, 0, 32, .lv, false, 0⟩
abbrev MCE_VA_LO_VA : Fld := ⟨.mce, 0, 0x100, 0, 32, .lv, false, 0⟩
abbrev MCE_VA_HI_VA : Fld := ⟨.mce, 0, 0x104, 0, 8, .lv, false, 0⟩
abbrev MCE_STOPINFO_STOPCAUSE : Fld := ⟨.mce, 0, 0x108, 0, 4, .lv, false, 0⟩
abbrev MCE_STOPINFO_FADDR : Fld := ⟨.mce, 0, 0x108, 4, 14, .lv, false, 0⟩
abbrev MCE_CSPARERR_N : Fld := ⟨.mce, 0, 0x10C, 0, 32, .ct, false, 0⟩
abbrev MCE_WAITTO_N : Fld := ⟨.mce, 0, 0x110, 0, 32, .ct, false, 0⟩
abbrev MCE_CSREJ_REASON : Fld := ⟨.mce, 0, 0x114, 0, 4, .lv, false, 0⟩
abbrev MCE_CSREJ_ADDR : Fld := ⟨.mce, 0, 0x114, 4, 14, .lv, false, 0⟩

/-! Page CDI. -/

/-! 05_parametric_unit.md R120. -/

abbrev CDI_PBUDGET_USED : Fld := ⟨.cdi, 0, 0x080, 0, 19, .lv, false, 0⟩
abbrev CDI_PREFUSE_N : Fld := ⟨.cdi, 0, 0x084, 0, 32, .ct, false, 0⟩
/-! 07_edge_timing.md R167. -/

abbrev CDI_CALCTL_SELFCAL : Fld := ⟨.cdi, 0, 0x090, 0, 1, .sc, false, 0⟩
abbrev CDI_CALSKIP_OCT : Fld := ⟨.cdi, 0, 0x094, 0, 8, .lv, false, 0⟩
abbrev CDI_DIETEMP_T : Fld := ⟨.cdi, 0, 0x098, 0, 16, .lv, false, 0⟩

/-! The fields of each page that are not of the header, and the word of each indirect space of one word per entry. -/

def devRows (_n : Nat) : List Fld :=
  [DEV_STATE_BOOT, DEV_STATE_EMBANK, DEV_STATE_THERMREC, DEV_STATE_LIFECYCLE, DEV_STATE_MAINPWR, DEV_STATE_RSTBUSY, DEV_COND_ANYPG,
    DEV_DEVID_PART, DEV_DEVID_VENDOR, DEV_REVID_SIL_MINOR, DEV_REVID_SIL_MAJOR, DEV_REVID_ORDSFX, DEV_JTAGID_ID, DEV_SERIAL_LO_SN,
    DEV_SERIAL_HI_SN, DEV_CAPS0_NCH, DEV_CAPS0_NPOL, DEV_CAPS0_NSQ, DEV_CAPS0_NME, DEV_CAPS0_NDS, DEV_CAPS1_DRAM, DEV_CAPS1_VCACHE,
    DEV_CAPS1_SLUICE, DEV_CAPS1_LINKVER, DEV_CAPS1_BUGLEVER, DEV_FWVER_MINOR, DEV_FWVER_MAJOR, DEV_ROMVER_V, DEV_RSTCTL_KEY,
    DEV_RSTCTL_GO, DEV_RSTCAUSE_POR, DEV_RSTCAUSE_DEVRST, DEV_RSTCAUSE_FWWDT, DEV_RSTCNT_N, DEV_PGEVCTL_EN, DEV_PGSUMW_W] ++
  (List.range 8).flatMap (fun i => [DEV_PGSUM_P i])

def fltRows (_n : Nat) : List Fld :=
  [FLT_STATE_EMBANK, FLT_STATE_SELFERR, FLT_STATE_ISO, FLT_STATE_NACT, FLT_STATE_NLAT, FLT_COND_EMBANK, FLT_COND_SELFERR, FLT_COND_ISO,
    FLT_EMBCTL_EXIT, FLT_EMBINFO_CAUSE, FLT_EMBINFO_SRC, FLT_EMBINFO_EXITERR, FLT_EMB_T_LO_T, FLT_EMB_T_HI_T, FLT_CLRCTL_SRC,
    FLT_CLRCTL_ALL, FLT_CLRCTL_SELF, FLT_CLRCTL_GO, FLT_RECLIM_RLIM, FLT_RECLIM_RWIN, FLT_LASTSRC_SRC, FLT_LASTSRC_VALID,
    FLT_LASTT_LO_T, FLT_LASTT_HI_T, FLT_NVMSKIP_N] ++
  (List.range 6).flatMap (fun i => [FLT_ACTSUM_S i, FLT_LATSUM_S i])

def hkpRows (_n : Nat) : List Fld :=
  [HKP_STATE_ACT, HKP_STATE_THROTTLING, HKP_STATE_EARLY, HKP_STATE_SHUTDOWN, HKP_STATE_HOLD, HKP_STATE_FIRST, HKP_COND_THROTTLING,
    HKP_COND_EARLY, HKP_COND_SUBSTITUTED, HKP_COND_RAIL_OOR, HKP_TMAX_T, HKP_TMAX_SENSOR, HKP_TMAX_SUBSTITUTED, HKP_THRA_THR_START,
    HKP_THRA_THR_FULL, HKP_THRB_THR_SHUT, HKP_THRB_THR_RESUME, HKP_RORCFG_LIM, HKP_THCTL_THACK, HKP_THCTL_SENSCLR, HKP_THCTL_SENS,
    HKP_THCTL_SENSALL, HKP_FAILMAP_LO_F, HKP_FAILMAP_HI_F, HKP_ROUNDCNT_N, HKP_SENSFAILCNT_N]

def clkRows (_n : Nat) : List Fld :=
  [CLK_STATE_MSTATE, CLK_STATE_REFACT, CLK_STATE_BCLK_VALID, CLK_STATE_SLEWING, CLK_STATE_REALIGN_WAIT, CLK_STATE_XO_RC,
    CLK_STATE_ONHOLD, CLK_COND_LOCKED, CLK_COND_HOLDOVER, CLK_COND_BCLK_PRESENT, CLK_COND_XO_FAIL, CLK_REFCFG_REFSEL,
    CLK_REFCFG_REALIGN_ON_SYNC, CLK_REFCFG_RELOCK, CLK_FOFS_F, CLK_XO_AGE_F, CLK_DITHER_EN, CLK_SEED_S, CLK_PHCFG_THR, CLK_PHSTEP_N,
    CLK_PHSTEP_GO, CLK_PHREM_N, CLK_PHERR_E, CLK_LKDIFF_D, CLK_LKDIFF_BOFS, CLK_LOCKCNT_N, CLK_UNLOCKCNT_N] ++
  (List.range 12).flatMap (fun i => [CLK_OUTDIV_N i, CLK_OUTDIV_P i, CLK_OUTDIV_Q i, CLK_OUTCTL_DLY i, CLK_OUTCTL_EN i,
    CLK_OUTCTL_ONHOLD i]) ++
  (List.range 8).flatMap (fun i => [CLK_CK0CPY_DLY i, CLK_CK0CPY_TGT i])

def evrRows (_n : Nat) : List Fld :=
  [EVR_COND_HS_FULL, EVR_COND_HS_NONEMPTY, EVR_HOSTEVT_K, EVR_HOSTEVT_ACT, EVR_HOSTEVT_CODE, EVR_HOSTEVT_GO, EVR_HSCTL_EN, EVR_HSWR_IDX,
    EVR_HSRD_IDX, EVR_HSDROP_N, EVR_LATECNT_N, EVR_MERGED_N, EVR_EVDROP_N, EVR_BDN_LO_T, EVR_BDN_HI_T, EVR_BDNCTL_PRESET_EN,
    EVR_BDNFWD_D, EVR_BDNFWDCNT_N, EVR_BDNAHEAD_D, EVR_EPOCH_E] ++
  (List.range 4).flatMap (fun i => [EVR_BOUT_SRC i, EVR_BOUT_POL i, EVR_BOUT_ORD i, EVR_BOUT_EN i]) ++
  (List.range 16).flatMap (fun i => [EVR_FROUT_SRC i, EVR_FROUT_POL i, EVR_FROUT_EN i])

def bglRows (_n : Nat) : List Fld :=
  [BGL_STATE_SYNC, BGL_STATE_ECHO_VALID, BGL_STATE_VER, BGL_STATE_XCAL_BUSY, BGL_STATE_MOFS_PEND, BGL_COND_SYNC_LOST, BGL_COND_ECHO_BAD,
    BGL_BGLCFG_VMAX, BGL_BGLCFG_ECHO_EN, BGL_BGLCFG_SYNCTO, BGL_SYNCCTL_REALIGN, BGL_DCOMP_D, BGL_RTT_T, BGL_RXDLY_D, BGL_ETURN_T,
    BGL_HLOOP_D, BGL_HUBDLY_D, BGL_HUBDLY_TTIMED, BGL_XCALCTL_GO, BGL_XCALCTL_XCALN, BGL_XRES_MEAN, BGL_XRES_RMS, BGL_MOFS,
    BGL_MOFS_MOFSC, BGL_XTRIM_T, BGL_FRAMECNT_N, BGL_FRAMEERR_N, BGL_ECHOBAD_N, BGL_TLATECNT_N, BGL_LASTB_LO_B, BGL_LASTB_HI_B]

def phlRows (n : Nat) : List Fld :=
  [PHL_STATE_LSTATE, PHL_STATE_RATE, PHL_STATE_WIDTH, PHL_STATE_LANEMAP, PHL_STATE_VER, PHL_STATE_SESS, PHL_STATE_EPOCH, PHL_STATE_ROLE,
    PHL_STATE_HOPS, PHL_COND_ACTIVE, PHL_COND_DEGRADED, PHL_COND_CAPHELD, PHL_COND_LLPEND, PHL_PHCFG_MAXVER, PHL_PHCFG_LOWRATE,
    PHL_PHCFG_LANEEN, PHL_PHCFG_CAPEN, PHL_PHCFG_EVSEN, PHL_PHCFG_RETRAIN, PHL_SESSCTL_REQ, PHL_SESSCTL_GO, PHL_CREDITS_CAP,
    PHL_CREDITS_EVS, PHL_CRCERR_N, PHL_REPLAYCNT_N, PHL_REPLAYEXH_N, PHL_RETRAINCNT_N, PHL_DEGRADECNT_N, PHL_DUPCNT_N, PHL_STALECNT_N,
    PHL_TRAINCNT_N] ++
  (if n = 0 then [PHL_LINKLOSS_LINK_LOSS_HOLD] else [PHL_PHCFG_ROLE]) ++
  (List.range 4).flatMap (fun i => [PHL_LANE_PRE i, PHL_LANE_POST i, PHL_LANE_SWING i, PHL_LANE_LOCK i, PHL_LANE_FAILED i])

def nvmRows (_n : Nat) : List Fld :=
  [NVM_STATE_LOADED, NVM_STATE_BUSY, NVM_WRCTL_TYPE, NVM_WRCTL_GO, NVM_WRLEN_LEN, NVM_WRERR_REASON, NVM_REFRESH_GO, NVM_CALSAVE_GO,
    NVM_SEQ_LO_S, NVM_SEQ_HI_S, NVM_POH_H, NVM_BADREC_N, NVM_WEAR_N]

def secRows (_n : Nat) : List Fld :=
  [SEC_STATE_LIFECYCLE, SEC_STATE_ROMREC, SEC_STATE_ATTBUSY, SEC_LCCTL_TARGET, SEC_LCCTL_KEY, SEC_LCCTL_GO, SEC_ARB_COUNT,
    SEC_ARB_FWSVN, SEC_ARB_ADV, SEC_KEYSLOT_PROGD, SEC_KEYSLOT_REVOKED, SEC_KEYCTL_SLOT, SEC_KEYCTL_PROG, SEC_KEYCTL_REVOKE] ++
  (List.range 2).flatMap (fun i => [SEC_AUTHCTL_CHREQ i, SEC_AUTHCTL_GO i, SEC_AUTHCTL_SLOT i, SEC_AUTHSTAT_RESULT i,
    SEC_AUTHSTAT_EPOCH i, SEC_MBCTL_GO i, SEC_MBSTAT_STATUS i] ++ (List.range 8).map (fun j => SEC_NONCE_N i j))

def sluRows (_n : Nat) : List Fld :=
  [SLU_COND_SPILL_FULL, SLU_COND_POOL_LOW, SLU_SLUCTL_FLUSHT, SLU_SLUCTL_RLXN, SLU_FREE_N, SLU_RSVSUM_N, SLU_SPILLBASE_LO_BASE,
    SLU_SPILLBASE_HI_BASE, SLU_SPILLLIM_LO_LIM, SLU_SPILLLIM_HI_LIM, SLU_SPILLWR_LO_A, SLU_SPILLWR_HI_A, SLU_SPILLRD_LO_A,
    SLU_SPILLRD_HI_A, SLU_DRAINCAP_SPILL, SLU_DRAINCAP_HOST, SLU_CFGREJ_REASON, SLU_CFGREJ_STREAM, SLU_RECLAIMCNT_N]

def memRows (_n : Nat) : List Fld :=
  [MEM_ECCCE_N, MEM_ECCUE_N, MEM_ECCADDR_LO_A, MEM_ECCADDR_HI_A, MEM_ECCADDR_HI_UE, MEM_ECCADDR_HI_CACHE, MEM_CFREE_N] ++
  (List.range 20).flatMap (fun i => [MEM_VBASE_LO_BASE i, MEM_VBASE_HI_BASE i, MEM_VLIMIT_LO_LIM i, MEM_VLIMIT_HI_LIM i,
    MEM_PFCFG_PFD i, MEM_PFCFG_UG i, MEM_PFCFG_AUTORES i, MEM_CWIN_N i, MEM_ALLOC_WIN i, MEM_ALLOC_PF i, MEM_VMSTAT_LASTSTOP i,
    MEM_VMSTAT_UR_DECL i, MEM_VMSTAT_UR_PAUSED i, MEM_VMSTAT_LEAD i, MEM_STALL_LO_T i, MEM_STALL_HI_T i, MEM_URCNT_N i,
    MEM_LOCKMISS_N i, MEM_PRE_VA_LO_VA i, MEM_PRE_VA_HI_VA i, MEM_PRE_VA_HI_COMPACT i, MEM_PRE_VA_HI_GO i, MEM_PRE_LEN_N i,
    MEM_CORRPF_N i])

def dscRows (_n : Nat) : List Fld :=
  (List.range 8).flatMap (fun i => [DSC_DSCFG_DIV i, DSC_DSCFG_FRAMP i, DSC_QPUSH_LO_E i, DSC_QPUSH_HI_E i, DSC_QSTAT_FILL i,
    DSC_QSTAT_ON i, DSC_QSTAT_OWNED i, DSC_QSTAT_OWNER i, DSC_QSTAT_LCAUSE i, DSC_ILIM_CODE i, DSC_VMAX_CODE i, DSC_RSHUNT_R i,
    DSC_ILIMT_T i, DSC_VMEAS_V i, DSC_IMEAS_VS i, DSC_APPLIED_CODE i, DSC_APPLIED_G i, DSC_PWRUP_V i, DSC_FAULTV_V i, DSC_QUNDER_N i,
    DSC_QOVF_N i, DSC_QTICK_T i, DSC_QSTALL_N i, DSC_QOPERR_N i, DSC_LVDS_HI i, DSC_LVDS_EN i, DSC_LVDS_FLTEN i, DSC_LVDS_MUTE i,
    DSC_LVDSLO_LO i]) ++
  (List.range 8).flatMap (fun i => [DSC_COND_RAMPING i, DSC_COND_ILIM i, DSC_COND_VCLIP i])

def polRows (_n : Nat) : List Fld :=
  [POL_STATE_RSTATE, POL_STATE_RESTART_PENDING, POL_STATE_BENCHED, POL_STATE_ANCHOR, POL_STATE_PAUSE_CAUSE, POL_STATE_DIKE_SRC,
    POL_COND_IN_DIKE, POL_COND_FAULT_ACTIVE, POL_COND_FAULT_LATCHED, POL_COND_DS_RAMPING, POL_COND_RECORDS_OPEN, POL_RUNCTL_RUN,
    POL_RUNCTL_STOP, POL_RUNCTL_ABORT, POL_RUNCTL_PAUSE, POL_RUNCTL_RESUME, POL_RUNCTL_DIKE, POL_RUNCTL_RELEASE, POL_RUNCTL_SCOPE,
    POL_OCTMAP_LO_OCT, POL_OCTMAP_HI_OCT, POL_DSMAP_DS, POL_BIND_SEQSEL, POL_CSRT_CID, POL_CSRT_CEN, POL_CSRT_BENCH_TO,
    POL_CSRT_MEMBERS, POL_START_STARTSEL, POL_START_SRC, POL_START_POL, POL_START_TIME_LO_T, POL_START_TIME_HI_T, POL_DIKECFG_DIKE_OVR,
    POL_TEMPLATE_NOCT, POL_TEMPLATE_FIRST, POL_RUNINFO_ARMERR, POL_RUNCNT_RUNS, POL_OVLCNT_N, POL_STOPVWI_LO_VWI, POL_STOPVWI_HI_VWI,
    POL_FAILCFG_SOF_MODE, POL_FAILCFG_FLOG_EN, POL_SOF_COUNT_N, POL_FLOG_LIMIT_N, POL_FAILCNT_N, POL_FAILVEC_N, POL_FF_VWI_LO_VWI,
    POL_FF_VWI_HI_VWI, POL_FF_VWI_HI_VEC, POL_FF_INFO_NCH, POL_FF_INFO_TCH, POL_FF_INFO_VALID, POL_FF_STAMP_LO_T, POL_FF_STAMP_HI_T,
    POL_FLOGCNT_N, POL_PMUCTL_CONV, POL_PMUCTL_BURST, POL_PMUCTL_BURST_STOP, POL_PMUCTL_FORCE_ON, POL_PMUCTL_FORCE_OFF] ++
  [POL_PMUCTL_APPLY, POL_PMUCFG_TRIGDLY, POL_PMUCFG_BURSTN, POL_PMUCNT_N, POL_PMUMISS_N, POL_LQCFG_DIV, POL_LQCFG_SEGIDX,
    POL_LQPUSH_LO_E, POL_LQPUSH_HI_E, POL_LQSTAT_FILL, POL_LQSTAT_LSAPPLIED, POL_LQSTAT_GAINSW, POL_LQUNDER_N, POL_LQOVF_N,
    POL_LQSTALL_N, POL_LQTICK_LO_T, POL_LQTICK_HI_T, POL_TSCTL_SET, POL_TSCTL_CLR, POL_TSREJ_REASON, POL_TSREJ_SET, POL_TSREJ_CHAR,
    POL_TSREJ_EDGE, POL_TSREJ_TCH, POL_VMSTAT_TIMING_BROKEN, POL_VMSTAT_STALLED, POL_VMSTAT_STOPCAUSE, POL_STALLTK_T, POL_OVLLATE_N,
    POL_NOSTARTCNT_N, POL_UNPAIREDCNT_N, POL_TMEASCNT_N, POL_MUTECNT_N] ++
  (List.range 4).flatMap (fun i => [POL_MT_START i, POL_MT_POL i, POL_MT_SRC i, POL_MT_LEN i])

def acqRows (_n : Nat) : List Fld :=
  [ACQ_STATE_ASTATE, ACQ_COND_RECORD_OPEN, ACQ_COND_PRESHORT, ACQ_ACQCTL_EN, ACQ_ACQCTL_MODE, ACQ_ACQCTL_STRIG, ACQ_ACQCTL_RTRIG,
    ACQ_SRCCFG_FRAME, ACQ_SRCCFG_SCOPEDIV, ACQ_SRCCFG_SCOPESEL, ACQ_TRIG_SRC, ACQ_TRIG_POL, ACQ_PRE_T, ACQ_POST_T, ACQ_ATO_T,
    ACQ_MASKCFG_MASKLEN, ACQ_MASKCFG_MASKACT, ACQ_RECCNT_N, ACQ_TRIGIGN_N, ACQ_FORCEDCNT_N, ACQ_MASKVIOL_N, ACQ_LASTT_LO_T,
    ACQ_LASTT_HI_T]

def octRows (_n : Nat) : List Fld :=
  [OCT_SCOPELOST_N, OCT_STATE_OWNER, OCT_STATE_OWNED, OCT_STATE_PSTATE, OCT_STATE_DIE_ISOLATED, OCT_COND_CMPH, OCT_COND_CMPL,
    OCT_COND_CLAMPING, OCT_STRETCHCNT_N, OCT_EDGEDROP_N, OCT_TSREJ_REASON, OCT_TSREJ_SET, OCT_TSREJ_CHAR, OCT_TSREJ_EDGE,
    OCT_TSREJ_CH] ++
  (List.range 8).flatMap (fun i => [OCT_CHCFG_IDLE i, OCT_CHCFG_LOAD_EN i, OCT_CHCFG_CMPEN i, OCT_CHCFG_HYST i, OCT_CHFAIL_N i,
    OCT_DTLOST_N i, OCT_TDCLOST_N i])

def seqRows (n : Nat) : List Fld :=
  [SEQ_STATE_RESERVED, SEQ_STATE_ANCHOR, SEQ_STATE_ISSUING, SEQ_STATE_CURENT, SEQ_STATE_STOPCAUSE, SEQ_COND_LATCH, SEQ_COND_FAIL_ANY,
    SEQ_COND_FAIL_ALL, SEQ_SEQCTL_HFLAG, SEQ_SEQCTL_LCLR, SEQ_TRANGE_TBASE n, SEQ_TRANGE_TLIMIT n, SEQ_STARTENT_ENTRY n,
    SEQ_CURPASS_PASS, SEQ_ENTCNT_N, SEQ_JMPCNT_N, SEQ_SEGREJ_REASON, SEQ_SEGREJ_ENTRY] ++
  (List.range 15).flatMap (fun q => let i := q + 1; [SEQ_CMAP_SRC i, SEQ_CMAP_POL i, SEQ_CMAP_MODE i])

def mceRows (_n : Nat) : List Fld :=
  [MCE_STATE_RESERVED, MCE_STATE_ANCHOR, MCE_STATE_ISSUING, MCE_STATE_UPC, MCE_STATE_WAITING, MCE_STATE_LSP, MCE_STATE_RSP,
    MCE_COND_CRC_OK, MCE_COND_LATCH, MCE_COND_FAIL_ANY, MCE_COND_FAIL_ALL, MCE_COND_FLAGS, MCE_ENGCTL_HFLAG, MCE_ENGCTL_LCLR,
    MCE_ENGCTL_CHECK, MCE_START_ADDR, MCE_STARTVA_LO_VA, MCE_STARTVA_HI_VA, MCE_CSCRC_CRC, MCE_CSLEN_N, MCE_CDM0_M, MCE_CDM1_M,
    MCE_CDM2_M, MCE_VA_LO_VA, MCE_VA_HI_VA, MCE_STOPINFO_STOPCAUSE, MCE_STOPINFO_FADDR, MCE_CSPARERR_N, MCE_WAITTO_N, MCE_CSREJ_REASON,
    MCE_CSREJ_ADDR] ++
  (List.range 15).flatMap (fun q => let i := q + 1; [MCE_CMAP_SRC i, MCE_CMAP_POL i, MCE_CMAP_MODE i]) ++
  (List.range 8).flatMap (fun i => [MCE_LREG_N i, MCE_LSPAN_N i, MCE_CNT_C i])

def cdiRows (_n : Nat) : List Fld :=
  [CDI_PBUDGET_USED, CDI_PREFUSE_N, CDI_CALCTL_SELFCAL, CDI_CALSKIP_OCT, CDI_DIETEMP_T]

end F

/-- Every field of page `p`, instance `n` (R33, R396). -/
def pageRows (p : Page) (n : Nat) : List Fld :=
  F.hdr p n ++
  match p with
  | .dev => F.devRows n
  | .flt => F.fltRows n
  | .hkp => F.hkpRows n
  | .clk => F.clkRows n
  | .evr => F.evrRows n
  | .bgl => F.bglRows n
  | .phl => F.phlRows n
  | .nvm => F.nvmRows n
  | .sec => F.secRows n
  | .slu => F.sluRows n
  | .mem => F.memRows n
  | .dsc => F.dscRows n
  | .pol => F.polRows n
  | .acq => F.acqRows n
  | .oct => F.octRows n
  | .seq => F.seqRows n
  | .mce => F.mceRows n
  | .cdi => F.cdiRows n

/-- The fields of the register at byte offset `off` of page `p`, instance `n`; none where no chapter defines one (R29). -/
def pageFields (p : Page) (n off : Nat) : List Fld :=
  (pageRows p n).filter (fun f => f.off == off)

end Sys2Proof.Machine
end

