-- ==== Sys2Proof/Machine/Events.lean ====
section
/-! DEFINITION. The bit numbers of the sticky events (EVT) and of the locks (LOCK) of each page, by the register tables of
spec/. -/

namespace Sys2Proof.Machine.E

/-- R33. -/
def ACK_STALE : Nat := 31
/-- R33. -/
def WRVIO : Nat := 30
/-- R33. -/
def BUSYVIO : Nat := 29
/-- R33. -/
def IX_OOR : Nat := 28
/-- R19. -/
def OCT_SCOPE_LOST : Nat := 11
/-- R77. -/
def POL_STARTED : Nat := 0
/-- R77. -/
def POL_DONE : Nat := 1
/-- R77. -/
def POL_PAUSED : Nat := 2
/-- R77. -/
def POL_FIRST_FAIL : Nat := 3
/-- R77. -/
def POL_BENCHED : Nat := 4
/-- R77. -/
def POL_SOF_TAKEN : Nat := 5
/-- R77. -/
def POL_DIKE_ENTERED : Nat := 6
/-- R77. -/
def POL_DIKE_LEFT : Nat := 7
/-- R77. -/
def POL_RESTART_TAKEN : Nat := 8
/-- R77. -/
def POL_RESTART_CANCELLED : Nat := 9
/-- R77. -/
def POL_CMD_IGNORED : Nat := 10
/-- R77. -/
def POL_OWN_CONFLICT : Nat := 11
/-- R77. -/
def POL_ARM_FAIL : Nat := 12
/-- R77. -/
def POL_LATE_START : Nat := 13
/-- R99. -/
def OCT_STRETCH : Nat := 0
/-- R99. -/
def OCT_CLAMP : Nat := 1
/-- R99. -/
def OCT_DRV_OVC : Nat := 2
/-- R119. -/
def POL_PMU_REFUSED : Nat := 14
/-- R119. -/
def POL_PMU_MISSED : Nat := 15
/-- R119. -/
def POL_PMU_COMPLIANCE : Nat := 16
/-- R119. -/
def POL_PMU_OPRSV : Nat := 17
/-- R120. -/
def CDI_BUDGET_REFUSED : Nat := 0
/-- R141. -/
def POL_LQ_UNDERRUN : Nat := 18
/-- R141. -/
def POL_LQ_OVF : Nat := 19
/-- R141. -/
def POL_LQ_OPERR : Nat := 20
/-- R144. -/
def DSC_OPERR : Nat := 24
/-- R165. -/
def OCT_EDGE_DROP : Nat := 3
/-- R165. -/
def OCT_DSK_CLIP : Nat := 4
/-- R165. -/
def OCT_TS_REJECT : Nat := 5
/-- R166. -/
def POL_TS_REJECT : Nat := 21
/-- R167. -/
def CDI_SELFCAL_DONE : Nat := 1
/-- R167. -/
def CDI_SELFCAL_SKIP : Nat := 2
/-- R190. -/
def MEM_ECC_CE : Nat := 0
/-- R190. -/
def MEM_ECC_UE : Nat := 1
/-- R190. -/
def MEM_CWIN_SHORT : Nat := 2
/-- R190. -/
def MEM_PRELOAD_DONE : Nat := 3
/-- R190. -/
def MEM_VM_STOP : Nat := 4
/-- R192. -/
def POL_VM_PAUSE : Nat := 22
/-- R192. -/
def POL_VM_STOP : Nat := 23
/-- R192. -/
def POL_OVL_LATE : Nat := 24
/-- R209. -/
def SEQ_SEG_REJECT : Nat := 0
/-- R209. -/
def SEQ_STOPFLT : Nat := 1
/-- R234. -/
def MCE_CS_REJECT : Nat := 0
/-- R234. -/
def MCE_STOPFLT : Nat := 1
/-- R234. -/
def MCE_CRC_DONE : Nat := 2
/-- R234. -/
def MCE_CRC_FAIL : Nat := 3
/-- R234. -/
def MCE_CS_PARITY : Nat := 4
/-- R234. -/
def MCE_WAIT_TO : Nat := 5
/-- R256. -/
def ACQ_TRIG_ACC : Nat := 0
/-- R256. -/
def ACQ_REC_DONE : Nat := 1
/-- R256. -/
def ACQ_TRIG_IGN : Nat := 2
/-- R256. -/
def ACQ_FORCED : Nat := 3
/-- R256. -/
def ACQ_MASK_VIOL : Nat := 4
/-- R256. -/
def ACQ_MASK_ACT : Nat := 5
/-- R256. -/
def ACQ_EOR : Nat := 6
/-- R273. -/
def SLU_CFG_REJECT : Nat := 0
/-- R273. -/
def SLU_SPW_STEP : Nat := 1
/-- R273. -/
def SLU_DROP : Nat := 2
/-- R273. -/
def SLU_SPILL_FULL : Nat := 3
/-- R273. -/
def SLU_RECLAIM_DONE : Nat := 4
/-- R273. -/
def SLU_SPILLRD_ERR : Nat := 5
/-- R294. -/
def OCT_TA_IGN : Nat := 6
/-- R294. -/
def OCT_CAL_ERR : Nat := 7
/-- R294. -/
def OCT_TDC_LOST : Nat := 8
/-- R294. -/
def OCT_DEADTIME : Nat := 9
/-- R294. -/
def OCT_GATE_CUT : Nat := 10
/-- R295. -/
def POL_PAIR_ERR : Nat := 25
/-- R295. -/
def POL_NOSTART : Nat := 26
/-- R295. -/
def POL_UNPAIRED : Nat := 27
/-- R320. -/
def EVR_HS_DROP : Nat := 0
/-- R320. -/
def EVR_LATE : Nat := 1
/-- R320. -/
def EVR_EV_DROP : Nat := 2
/-- R320. -/
def EVR_BDN_FWD : Nat := 3
/-- R320. -/
def EVR_BDN_AHEAD : Nat := 4
/-- R344. -/
def CLK_LOCK : Nat := 0
/-- R344. -/
def CLK_UNLOCK : Nat := 1
/-- R344. -/
def CLK_REFLOST : Nat := 2
/-- R344. -/
def CLK_REFBACK : Nat := 3
/-- R344. -/
def CLK_REF_BAD : Nat := 4
/-- R344. -/
def CLK_PHASE_STEP : Nat := 5
/-- R344. -/
def CLK_SLEW_DONE : Nat := 6
/-- R344. -/
def CLK_REALIGNED : Nat := 7
/-- R344. -/
def CLK_XO_FAIL : Nat := 8
/-- R344. -/
def CLK_DIV_REJECT : Nat := 9
/-- R363. -/
def BGL_FRAME_ERR : Nat := 0
/-- R363. -/
def BGL_SYNC_LOST : Nat := 1
/-- R363. -/
def BGL_SYNC_BACK : Nat := 2
/-- R363. -/
def BGL_ECHO_BAD : Nat := 3
/-- R363. -/
def BGL_XCAL_DONE : Nat := 4
/-- R363. -/
def BGL_XCAL_FAIL : Nat := 5
/-- R363. -/
def BGL_TLATE : Nat := 6
/-- R391. -/
def PHL_UP : Nat := 0
/-- R391. -/
def PHL_DOWN : Nat := 1
/-- R391. -/
def PHL_DEGRADE : Nat := 2
/-- R391. -/
def PHL_RETRAIN : Nat := 3
/-- R391. -/
def PHL_REPLAY_EXH : Nat := 4
/-- R391. -/
def PHL_STALE : Nat := 5
/-- R391. -/
def PHL_CRCERR : Nat := 6
/-- R391. -/
def PHL_CAPWITHHELD : Nat := 7
/-- R391. -/
def PHL_FWD_EXH : Nat := 8
/-- R400. -/
def DEV_READY : Nat := 0
/-- R400. -/
def DEV_EMBANK_IN : Nat := 1
/-- R400. -/
def DEV_EMBANK_OUT : Nat := 2
/-- R400. -/
def DEV_RST_DONE : Nat := 3
/-- R425. -/
def FLT_FAULT_NEW : Nat := 0
/-- R425. -/
def FLT_LATCHED : Nat := 1
/-- R425. -/
def FLT_EMBANK_IN : Nat := 2
/-- R425. -/
def FLT_EMBANK_OUT : Nat := 3
/-- R425. -/
def FLT_EXIT_REFUSED : Nat := 4
/-- R425. -/
def FLT_SELFERR : Nat := 5
/-- R425. -/
def FLT_ISOLATE : Nat := 6
/-- R425. -/
def FLT_NVMSKIP : Nat := 7
/-- R441. -/
def HKP_THR_ON : Nat := 0
/-- R441. -/
def HKP_EARLY_ON : Nat := 1
/-- R441. -/
def HKP_SENS_FAIL : Nat := 2
/-- R441. -/
def HKP_SUBST : Nat := 3
/-- R441. -/
def HKP_SHUTDOWN : Nat := 4
/-- R441. -/
def HKP_THR_REJECT : Nat := 5
/-- R441. -/
def HKP_RAIL_OOR : Nat := 6
/-- R441. -/
def HKP_THACK_DONE : Nat := 7
/-- R467. -/
def NVM_WR_DONE : Nat := 0
/-- R467. -/
def NVM_WR_REJECT : Nat := 1
/-- R467. -/
def NVM_REFRESH_DONE : Nat := 2
/-- R467. -/
def NVM_BADREC : Nat := 3
/-- R468. -/
def SEC_AUTH_OK : Nat := 0
/-- R468. -/
def SEC_AUTH_FAIL : Nat := 1
/-- R468. -/
def SEC_LC_DONE : Nat := 2
/-- R468. -/
def SEC_LC_REJECT : Nat := 3
/-- R468. -/
def SEC_ARB_REJECT : Nat := 4
/-- R468. -/
def SEC_KEY_REJECT : Nat := 5
/-- R468. -/
def SEC_MB_DONE0 : Nat := 6
/-- R468. -/
def SEC_MB_DONE1 : Nat := 7
/-- R77. -/
def POL_LOCK_FORM_LOCK : Nat := 0
/-- R77. -/
def POL_LOCK_OVR_LOCK : Nat := 1
/-- R99. -/
def OCT_LOCK_CLAMP_LOCK : Nat := 0
/-- R400. -/
def DEV_LOCK_RST_LOCK : Nat := 0
/-- R143: EVT bits [3i + 2:3i] of page DSC. -/
def DSC_UNDERRUN (i : Nat) : Nat := 3 * i
/-- R143. -/
def DSC_OVF (i : Nat) : Nat := 3 * i + 1
/-- R143. -/
def DSC_LIMIT (i : Nat) : Nat := 3 * i + 2

end Sys2Proof.Machine.E
end

