-- ==== Sys2Proof/Machine/Store.lean ====
section
/-! DEFINITION. Sparse tables: a list of (key, value) pairs with rising keys that lists no entry equal to what an unlisted
key reads as. The default is an argument of every operation, so one table can hold keys of different reset values. -/

namespace Sys2Proof.Machine

/-- A sparse table, keys rising. -/
abbrev Store (α : Type) := List (Nat × α)

/-- The value under `k`, or the default `d` where nothing is listed. -/
def Store.get {α : Type} : Store α → α → Nat → α
  | [], d, _ => d
  | (k', v) :: m, d, k => if k' = k then v else Store.get m d k

/-- The table without the entry of `k`. -/
def Store.del {α : Type} : Store α → Nat → Store α
  | [], _ => []
  | (k', v) :: m, k => if k' = k then Store.del m k else (k', v) :: Store.del m k

/-- The table with `(k, v)` put before the first larger key. -/
def Store.ins {α : Type} : Store α → Nat → α → Store α
  | [], k, v => [(k, v)]
  | (k', v') :: m, k, v => if k < k' then (k, v) :: (k', v') :: m else (k', v') :: Store.ins m k v

/-- The table with `v` under `k`; an entry equal to the default is not listed. -/
def Store.put {α : Type} [DecidableEq α] (m : Store α) (d : α) (k : Nat) (v : α) : Store α :=
  if v = d then Store.del m k else Store.ins (Store.del m k) k v

/-- Keys strictly rise. -/
def Store.rising {α : Type} : Store α → Bool
  | [] => true
  | [_] => true
  | (k, _) :: (k', v') :: m => decide (k < k') && Store.rising ((k', v') :: m)

/-- The canonical form under a default that depends on the key. -/
def Store.wf {α : Type} [DecidableEq α] (m : Store α) (d : Nat → α) : Bool :=
  Store.rising m && m.all (fun e => decide (e.2 ≠ d e.1))

end Sys2Proof.Machine
end

