-- ==== Sys2Proof/Machine/State.lean ====
section
/-! DEFINITION. The state of the module: registers, tables, queues, engines, pins, router, links, records. Plain data; every
structure's default is its value at reset. -/

namespace Sys2Proof.Machine

/-! Sluice (R258, R259, R263). -/

/-- The states of a granule (R259). -/
inductive GState where
  | free | filling | retained | queued | draining
deriving DecidableEq, Repr

/-- A granule that a stream holds: its number, state, record words and header fields (R263). -/
structure Gran where
  idx : Nat
  gst : GState
  words : List (BitVec 64) := []
  opened : Stamp := 0
  gseq : BitVec 32 := 0
  dflog : Nat := 0
  loss : Bool := false
  flush : Bool := false
  dest : Bool := false
deriving DecidableEq, Repr

/-- A stream: the FILLING granule, the RETAINED granules, the handed granules in GSEQ order, and its counts (R260 to R269);
`credit` the granules it may still send in the present round of the weighted round-robin (R266). -/
structure Strm where
  fill : Option Gran := none
  retained : List Gran := []
  queue : List Gran := []
  gseq : BitVec 32 := 0
  rseq : BitVec 32 := 0
  loss : Bool := false
  closed : Nat := 0
  low : Nat := 0
  credit : Nat := 0
deriving DecidableEq, Repr

/-- A record before its header: TYPE, AUX and the words after the header (R251, R253). -/
structure Record where
  typ : BitVec 4
  aux : BitVec 16
  body : List (BitVec 64)
deriving DecidableEq, Repr

/-! Acquisition (R235 to R249). -/

/-- An open acquisition record: T, its window and RNUM. -/
structure OpenRec where
  t : Stamp
  openS : Stamp
  closeS : Stamp
  rnum : BitVec 32
deriving DecidableEq, Repr

/-- The SCOPE record being gathered for one template octet (R254): stamp of sample 0, log₂ of the interval it began with (R270,
R272) and the samples. -/
structure ScopeAcc where
  start : Stamp := 0
  iv : Nat := 0
  samples : List Byte := []
deriving DecidableEq, Repr

/-- The internal state of an acquisition unit. `arm` is A (R241), `runS` the stamp S of the run being recorded (R237), `endS` the end of
the run where it is known (R241, R247), `ended` that recording has ended while the EOR is still owed (R237), `gate` the open capture
gate and `gates` the closed ones of the run (R238), `after` the words of records formed beyond the window of the open record, `flogT`
the stamps of the fail records that WINDOW framing has formed outside a record (R95), `convs` the conversions that WINDOW framing
retains outside a record (R244, R248): the stamp t0 and the words of their entries, `convN` the mask-test index (R248). -/
structure AcqU where
  arm : Stamp := 0
  rcd : Option OpenRec := none
  runS : Option Stamp := none
  endS : Option Stamp := none
  ended : Bool := false
  gate : Option Stamp := none
  gates : List (Stamp × Stamp) := []
  scope : Store ScopeAcc := []
  after : List (Nat × List (BitVec 64)) := []
  flogT : List Stamp := []
  convs : List (Stamp × List (BitVec 64)) := []
  convN : Nat := 0
  maskHit : Bool := false
  maskPend : Option Stamp := none
  short : Bool := false
  lastScope : Store Stamp := []
deriving DecidableEq, Repr

/-! Time measurement (R275 to R290). -/

/-- The phases of a TDC arming (R279). -/
inductive TdcPhase where
  | off | cal | armed
deriving DecidableEq, Repr

/-- A stamp with sixteenths of a fine unit, as a count of sixteenths (R275). -/
abbrev Stamp16 := Nat

/-- The first stamp of a pair, which waits for the partner's (R287): whether the START channel took it, the START channel, the stamp of
the TA of its arming, the stamp, the window in ticks, and the clock steps at the stamp with whether the MPLL was re-locking (R290). -/
structure PairWait where
  start : Bool
  chan : Nat
  arm : Stamp
  t : Stamp16
  iwin : Nat
  steps : Nat
  relock : Bool
deriving DecidableEq, Repr

/-- The TDC of a channel: the configuration read at arming (R278), the raw results of its calibration (R276), the arming window (none:
no end), the last stamped edge, the FIFO of R285 (each stamp with its polarity and whether its arming has closed behind it), the record
being gathered (R286), the sums of the regression (R288), the clock marks of the gate's open (R290), and, on a STOP channel, the pairs
that wait and, by START channel, the TA stamp of the arming whose pair is over (R287). -/
structure Tdc where
  phase : TdcPhase := .off
  ta : Stamp := 0
  cls : Nat := 0
  cmpsel : Bool := false
  edgesel : Nat := 0
  holdoff : Nat := 0
  partner : Nat := 0
  iwin : Nat := 0
  m1 : Nat := 0
  m2 : Nat := 0
  openS : Stamp := 0
  closeS : Option Stamp := none
  presc : Nat := 0
  gate : Nat := 0
  last : Option Stamp16 := none
  fifo : List (Stamp × Bool × Bool) := []
  gather : List (Stamp × Bool) := []
  k : Nat := 0
  n : Nat := 0
  sk : Nat := 0
  st : Nat := 0
  skk : Nat := 0
  skt : Nat := 0
  stt : Nat := 0
  capped : Bool := false
  steps : Nat := 0
  holds : Nat := 0
  relock : Bool := false
  hold : Bool := false
  pairs : List PairWait := []
  pairDone : List (Nat × Stamp) := []
deriving DecidableEq, Repr

/-! Pins (R78 to R92, R145 to R156). -/

/-- The driver of a channel (R81, R149). -/
inductive Drv where
  | off | high | low | vtt
deriving DecidableEq, Repr

/-- What a compare expects (R88). -/
inductive Expect where
  | high | low | mid | dont
deriving DecidableEq, Repr

/-- What an edge does (R149). -/
inductive Act where
  | drive (d : Drv)
  | strobe (e : Expect)
  | wopen (e : Expect)
  | wclose
  | ta
deriving DecidableEq, Repr

/-- The vector an edge belongs to: word index, vector in the word, start stamp (R145). -/
structure VecRef where
  vwi : Nat
  vec : Nat
  start : Stamp
deriving DecidableEq, Repr

/-- An edge waiting to be played: its time at the reference plane, its action, its vector, and whether it is of a park
period (R156). -/
structure Edge where
  t : Stamp
  act : Act
  ref : VecRef
  park : Bool := false
deriving DecidableEq, Repr

/-- The open window of a channel: its expectation, its vector, the stamp from which that expectation holds, whether it has failed,
and since when a violation not yet judged stands (R90, R91). -/
structure Win where
  exp : Expect
  ref : VecRef
  openS : Stamp
  failed : Bool := false
  viol : Option Stamp := none
deriving DecidableEq, Repr

/-- Park play-out of a channel: timing set, start, start of the next park period, end (none: not known yet) (R156). `quiet` is the
park of PAUSED, STOPPING or a benching, in which no compare is judged (R92); throttle idle periods are not quiet. -/
structure Park where
  tset : Nat
  start : Stamp
  next : Stamp
  stop : Option Stamp := none
  quiet : Bool := true
deriving DecidableEq, Repr

/-- A conversion under way: hold start, DEFER, whether of a burst and which of it (R106, R111, R248). -/
structure Conv where
  t0 : Stamp
  defer : Bool := false
  burst : Bool := false
  k : Nat := 0
  latched : Bool := false
deriving DecidableEq, Repr

/-- An operation that may have to wait for the array to return to force (R111). -/
inductive PmuOp where
  | on | off
  | range (r : BitVec 3)
  | apply
deriving DecidableEq, Repr

/-- What a parametric order does at its stamp (R112): a CONV, a BURST with its BURSTN, a BURST_STOP, or an operation on the force. -/
inductive PmuAct where
  | conv
  | burst (n : Nat)
  | stop
  | op (o : PmuOp)
deriving DecidableEq, Repr

/-- A parametric order that acts at `t0`, which may lie ahead (R112): the hold start of a conversion, the tick at which the word reaches
the pins of another operation. `n` numbers the orders of the polder. -/
structure Trig where
  t0 : Stamp
  act : PmuAct
  n : Nat := 0
deriving DecidableEq, Repr

/-- The internal state of a channel. `conv` is the conversion under way, `waitConv` one that waits for a range change, `burst` the
conversions of its burst still to begin (none: no burst; some none: until BURST_STOP), `ops` the operations that wait, each with the
number of its order (R111, R115); `offD` and `offC` are the offsets in force before their limit, `dskDue` that they change at the next
vector word (R158), `pcal` the gain and the offset of each parametric range (R102), `clampT` the count at which a clamp of the channel
was last found to carry 10 mA (R85; none: not since the fault cause of the die ended). -/
structure Chan where
  drv : Drv := .off
  edges : List Edge := []
  lastDrive : Option (Drv × Stamp) := none
  lastEff : List (Act × Stamp × VecRef) := []
  win : Option Win := none
  park : Option Park := none
  levH : Bool := false
  levL : Bool := false
  conv : Option Conv := none
  waitConv : Option Conv := none
  burst : Option (Option Nat) := none
  ops : List (Nat × PmuOp) := []
  rangeOld : Option (Nat × Nat) := none
  reconnect : Bool := false
  pdly : BitVec 16 := 0
  tempD : Int := 0
  tempC : Int := 0
  offD : Int := 0
  offC : Int := 0
  dskDue : Bool := false
  pcal : List Word := []
  clampT : Option (BitVec 64) := none
  tdc : Tdc := {}
deriving DecidableEq, Repr

/-! DAC queues and supplies (R127 to R139). -/

/-- A DAC queue: its entries, CONT of the last entry consumed, suspension, a gain switch in progress. -/
structure DacQ where
  entries : List (BitVec 64) := []
  cont : Bool := false
  susp : Bool := false
  gain : Bool := false
deriving DecidableEq, Repr

/-- A DS controller: the set point asked for (R124), the over-current and the sense-open cause (R126), the ramp to FAULT in
progress with its stamp, the voltage in 62.5 µV it began at, its slew and whether the controller turns OFF at its end (R137), the
live state of its monitor, held OFF by Embankment until its polder is released (R138). -/
structure Ds where
  sp : Nat × Bool := (0, false)
  oc : Bool := false
  so : Bool := false
  ramp : Bool := false
  rampT : Stamp := 0
  rampFrom : Nat := 0
  rampV : Nat := 0
  toOff : Bool := false
  lev : Bool := false
  held : Bool := false
deriving DecidableEq, Repr

/-! Polders. -/

/-- Fails gathered for one vector: its reference and the failing template channels (R93 to R95). -/
structure FailVec where
  ref : VecRef
  chans : List Nat
deriving DecidableEq, Repr

/-- A Mute timer's window and the muted sources' frozen states (R306, R307). -/
structure MuteWin where
  openS : Stamp
  closeS : Stamp
deriving DecidableEq, Repr

/-- The internal state of a polder. `lsPush` is the level set last pushed (R131), `fails` the failing vectors being gathered, `flogStop`
that the fail log has reached its limit (R95), `trigs` the parametric orders whose stamp has not been reached, by stamp, `opN` the
parametric orders and waiting operations numbered so far, `dikeT` the stamp of the entry to DIKE (R74), `armS` the stamp of arming,
`startEv` a start event seen, `late` the stamp at which a start time was taken as past (R65, R340), `endT` the end of the final vector,
`benchDike` benched through BENCH_TO = 1, `bind` the binding that plays to the polder. -/
structure Pol where
  lsPush : Option (BitVec 4) := none
  fails : List FailVec := []
  sof : Bool := false
  flogStop : Bool := false
  trigs : List Trig := []
  opN : Nat := 0
  dikeT : Option Stamp := none
  mute : List (Nat × MuteWin) := []
  frozen : Store (Option Bool) := []
  armS : Stamp := 0
  startEv : Bool := false
  late : Option Stamp := none
  endT : Stamp := 0
  benchDike : Bool := false
  abortStop : Bool := false
  bind : Option Nat := none
  reclaim : Bool := false
  releasing : Bool := false
deriving DecidableEq, Repr

/-! Router (R296 to R319). -/

/-- An event of a router source: its polarity, whether it is a pulse (R296), its stamp, its code, whether it was delivered at
a mute close, whether a TDC sent it (R284). -/
structure Ev where
  src : BitVec 12
  pol : Bool
  pulse : Bool := false
  stamp : Stamp
  code : BitVec 4 := 0
  muted : Bool := false
  tdc : Bool := false
deriving DecidableEq, Repr

/-- What waits for the ordering hold: a router event, or a page event with its summary index, bit and EVT_SEQ (R403). -/
inductive Held where
  | ev (e : Ev)
  | page (t : Stamp) (idx bit : Nat) (seq : BitVec 16)
deriving DecidableEq, Repr

/-- The event router: events in flight, events held, delivered states as prompt and as ordered destinations see them, the state last
forwarded by a die, its stamp and whether it went as a correction (R313), live states, and whether the next host record carries LOSS
(R318). -/
structure Router where
  flight : List Ev := []
  held : List Held := []
  prompt : Store Bool := []
  ordered : Store Bool := []
  live : Store Bool := []
  fwd : Store Bool := []
  last : Store (Option Stamp) := []
  corr : Store Bool := []
  subs : Store Bool := []
  lossNext : Bool := false
deriving DecidableEq, Repr

/-- A posted indirect write (R49): `next` is where ADDR stands after it. -/
structure Posted where
  ini : Initiator
  space : Nat
  addr : Nat
  val : Word
  next : Nat
deriving DecidableEq, Repr

/-- The staging register of a wide-entry space (R50): the entry it holds, its value, whether a word was accepted since the
last load or commit. -/
structure Stage where
  entry : Option Nat := none
  val : BitVec 192 := 0
  accepted : Bool := false
deriving DecidableEq, Repr

/-- A channel die: initialised (R79), its self-calibration with the octets abandoned (R160), TDC drain pointer and stamp (R285). -/
structure Die where
  inited : Bool := false
  selfcal : Bool := false
  calOcts : List Nat := []
  rr : Nat := 0
  drainT : Stamp := 0
deriving DecidableEq, Repr

/-- A fault source of the collector (R408 to R414): its hardware cause present, the polders the present cause names where the
ownership does not give them (R409), the polders and die named at the last occurrence, the stamps of its recoveries, and the
polders and die its reaction holds, the stamp at which its cause went away. `due`: its cause has come while it was enabled, and
FAULT_OCCURRENCE has not taken it yet, though the cause may have gone since (R413); `asked`: a FORCE bit is what it has come by. -/
structure Flt where
  hw : Bool := false
  due : Bool := false
  asked : Bool := false
  names : List Nat := []
  occNames : List Nat := []
  react : Nat := 0
  die : Option Nat := none
  recs : List Stamp := []
  occT : Stamp := 0
  goneT : Stamp := 0
deriving DecidableEq, Repr

/-! Bindings and the vector cache (R145, R173 to R191, R202, R223). -/

/-- A span of vector words in the cache window: the DRAM address its lines are tagged with (R173), bytes of a word, first vector
address, words, mode. `seen` lists the words written so far
during the first pass (none: all of them, R174, R176); `keep` is RPT = 0; `lvl` the loop level that made it (R227). -/
structure Span where
  addr : Nat := 0
  w : Nat := 0
  va : Nat
  len : Nat
  compact : Bool
  seen : Option (List Nat) := none
  keep : Bool := false
  lvl : Nat := 0
deriving DecidableEq, Repr

/-- How a microword has ended whose LOP and BMODE have still to act (R219, R220): by timeout, or normally with the branch conditions
that its final issue sampled. -/
inductive WordEnd where
  | timeout
  | normal (conds : List Bool)
deriving DecidableEq, Repr

/-- A level of the loop stack (R223). -/
structure LoopLv where
  start : BitVec 14
  cnt : BitVec 3
  va : BitVec 40
  restore : Bool
deriving DecidableEq, Repr

/-- A binding: the state of a sequencer or an engine with its prefetcher. `failedM` the members that have failed (R202),
`vwi` the index of the next word, `vstart` the start of its vector 0, `tset` the set of the last word; `lead` the streamed
words resident ahead (R178), `lowG` the guard of R182 after a jump, `above` that the lead has reached
the guard since the last declaration, `since` the words issued since an underrun was declared,
`due` a stall-safe point at which a pause is to be taken and whether it is a throttle point, `idle` the park periods that
follow on resume, `debt` the throttle debt in fine units (R433), `stale` bytes that locked and pinned lines hold while DRAM holds
others (R177), `poison` the 64-bit words in the cache that are poisoned (R172), `credit` and `ovl` the overlay lookahead
(R188); `off`, `final`, `goto`, `ready` the entry in play (R197, R199, R203); `first`, `waitN` (the sequencer cycles
of a wait), `gateOld`, `loops`, `calls`, `pend` (the end of the word that has issued) the microword in execution (R212, R220, R223,
R226, R233). -/
structure Bnd where
  failedM : List Nat := []
  noct : Nat := 0
  started : Bool := false
  fresh : Bool := false
  vwi : Nat := 0
  vstart : Stamp := 0
  tset : Nat := 0
  lead : Nat := 0
  lowG : Bool := false
  above : Bool := false
  since : Option Nat := none
  pauseReq : Bool := false
  due : Option Bool := none
  stall : Bool := false
  idle : Nat := 0
  debt : Rat := 0
  locks : List Span := []
  pins : List Span := []
  preload : Option Span := none
  stale : Store (Option Byte) := []
  poison : List Nat := []
  hit : List Nat := []
  rate : Nat := 0
  credit : Nat := 64
  ovl : Nat := 0
  ovlT : Stamp := 0
  off : Nat := 0
  final : Bool := false
  goto : Option (Nat × Nat) := none
  ready : List Nat := []
  first : Bool := true
  waitN : Nat := 0
  gateOld : Option Bool := none
  loops : List LoopLv := []
  calls : List (BitVec 14 × BitVec 40) := []
  pend : Option WordEnd := none
deriving DecidableEq, Repr

/-! Clocks (R326 to R341). -/

/-- The third-order MASH 1-1-1 modulator of the MPLL (R330): the three accumulators, the carries of the second and third that the
noise-cancelling network delays, the feedback divider's count `n` in the present reference cycle; `upTo` the Bourdon count up to
which it has been followed. -/
structure Mash where
  e1 : BitVec 32 := 0
  e2 : BitVec 32 := 0
  e3 : BitVec 32 := 0
  c2 : Bool := false
  c3 : Bool := false
  c3z : Bool := false
  n : Int := 0
  upTo : BitVec 64 := 0
deriving DecidableEq, Repr

/-- The main PLL and its outputs: the feedback ratio in 2^-32 (none: off, R330, R334), the ratio waiting for its small step (R331),
the fine-phase steps of the slew still to make (R335), divider changes of outputs under way and waiting (R337), the delay each
output has reached (R338), the dither LFSR and the modulator (R330), `beta` how far BCLK lies from the corrected crystal, in 2^-32 of
the ratio, as measured before holdover (R334), the auxiliary PLL locked (R328), `first` once the MPLL has locked since the hub main
island left reset (R341), BCLK lost and not qualified since (R334, R357), the stamp at which the BSYNC reset in progress began
(R340), `meas` while the phase error is still to be measured after a re-lock on BCLK (R343), `stepT` the stamp of the last small
step (R331). -/
structure Clk where
  fb : Option Nat := none
  want : Option Nat := none
  stepT : Option Stamp := none
  slew : Int := 0
  divNow : Store (Nat × Nat × Nat) := []
  divWait : Store (Nat × Nat × Nat) := []
  divEff : Store (Nat × Nat × Nat) := []
  dly : Store Nat := []
  lfsr : BitVec 32 := 1
  mash : Mash := {}
  beta : Int := 0
  apll : Bool := false
  first : Bool := false
  lost : Bool := false
  reset : Option Stamp := none
  meas : Bool := false
deriving DecidableEq, Repr

/-! Bugle (R352 to R360). -/

/-- A change of a timed line held until its launch: the source's stamp and the level (R356). -/
structure Held1 where
  line : Nat
  stamp : Stamp
  level : Bool
deriving DecidableEq, Repr

/-- The Bugle bus: the round trips of the running mean, newest first, runs of good and bad echoes (R353), the marker whose echo is
awaited, the stamp at which BECHO last rose (R352), changes held on timed lines (R356), the levels of the BTRIG_OUT lines and the stamps
at which each last rose (R315), the sums of a calibration (R360), and the stamp of the last accepted frame (R358). -/
structure Bgl where
  rtts : List Int := []
  good : Nat := 0
  bad : Nat := 0
  marker : Option Stamp := none
  echoT : Option Stamp := none
  held : List Held1 := []
  lines : Store Bool := []
  rose : Store (Option Stamp) := []
  xn : Nat := 0
  xsum : Int := 0
  xsq : Nat := 0
  frameT : Stamp := 0
deriving DecidableEq, Repr

/-! Housekeeping (R427 to R438). -/

/-- A temperature sensor: its readings, newest first, at most 65, the last good value, judged failing in the last round (R429). -/
structure Sens where
  hist : List Int := []
  good : Int := -32768
  bad : Bool := false
deriving DecidableEq, Repr

/-- The housekeeping unit: the sensors, the rails outside their ranges in the last round (R427), the limit on A while a substitution
holds it (R432), FS187 raised and not yet gone (R434), a THACK in progress (R437), the stamps at which early throttle and the hold of
R432 last began. -/
structure Hkp where
  sens : Store Sens := []
  rails : List Nat := []
  cap : Option Nat := none
  early : Bool := false
  thack : Bool := false
  earlyT : Stamp := 0
  capT : Stamp := 0
deriving DecidableEq, Repr

/-! Start-up, NVM, OTP, security (R443 to R465). -/

/-- Power and start-up: PWRGD_AUX, the OTP has been read, an image runs, the PHYs are ready, whether the device reset in progress
was forced by the watchdog, whether the main domains have run since power-on reset (R422, R490). -/
structure Pwr where
  aux : Bool := false
  otp : Bool := false
  img : Bool := false
  phy : Bool := false
  wdt : Bool := false
  ran : Bool := false
deriving DecidableEq, Repr

/-- A record in the flash: its ring (0 store, 1 fault, 2 thermal, 3 hours), its byte position counted over all laps of the ring,
and the powered-on hour of its writing (R451, R452, R456). -/
structure FlashRec where
  ring : Nat
  pos : Nat
  hour : Nat
  r : NvmRecord
deriving DecidableEq, Repr

/-- An NVM operation in progress (R455, R456). -/
inductive NvmOp where
  | write (typ : BitVec 16) (payload : List Byte) (cal : Bool)
  | refresh
deriving DecidableEq, Repr

/-- The NVM: the records, the write position of each ring over all laps, the firmware slots, the loaded records (R454), the
operation in progress, the stamps of the records that R418 limits, and the erases of each slot. -/
structure Nvm where
  recs : List FlashRec := []
  wpos : Store Nat := []
  slotA : Option FwImage := none
  slotB : Option FwImage := none
  hourA : Nat := 0
  hourB : Nat := 0
  eraseA : Nat := 0
  eraseB : Nat := 0
  loaded : List NvmRecord := []
  op : Option NvmOp := none
  fltStamps : List Stamp := []
  thermal : Option (BitVec 64) := none
  slotHr : Option Nat := none
deriving DecidableEq, Repr

/-- The OTP (R457): vendor key hash, owner key hashes, revoked slots, anti-rollback fuses, lifecycle, serial number, the identity
seeds still in place. -/
structure Otp where
  vkh : List Byte := []
  okh : Store (List Byte) := []
  revoked : List Nat := []
  arb : Nat := 0
  lc : Nat := 0
  serial : BitVec 64 := 0
  seeds : Bool := true
deriving DecidableEq, Repr

/-- The security state of a port (R463 to R465): the challenge with its stamp, failures in a row, lock-out until a stamp, the
verdict on the check in progress and the epoch it began in, the mailbox operation in progress with its result (for a report that is
waited for: the nonce of its request). -/
structure SecP where
  chal : Option Stamp := none
  fails : Nat := 0
  lockout : Option Stamp := none
  verdict : Option Nat := none
  goEpoch : Nat := 0
  mbStat : Option Nat := none
  mbReply : List Byte := []
  mbFlash : Option FwImage := none
deriving DecidableEq, Repr

/-- The security block: the ports, the image that runs (true: slot B), the ports that wait for a report (R462), the target of the
lifecycle advance in progress, bytes taken in ROM recovery (R465). -/
structure Sec where
  ports : Store SecP := []
  img : Option FwImage := none
  slotB : Bool := false
  att : List Nat := []
  recov : List Byte := []
  lcTo : Option Nat := none
deriving DecidableEq, Repr

/-! The host link (R366 to R386). -/

/-- A packet in a replay buffer (R371, R376): its link SEQ and header fields; `gran` the granule that a CAP packet carries, `recs`
the host-ring records of an EVS packet. -/
structure TxPkt where
  seq : BitVec 12
  typ : Nat
  tag : BitVec 12 := 0
  epoch : BitVec 8 := 0
  status : Nat := 0
  retry : Bool := false
  hop : BitVec 3 := 0
  len : Nat := 0
  addr : LinkAddr := 0
  stream : Nat := 0
  gran : Option Nat := none
  recs : Nat := 0
  payload : List Word := []
deriving DecidableEq, Repr

/-- An entry of the completion cache (R380). -/
structure CacheE where
  epoch : BitVec 8
  tag : BitVec 12
  status : Nat
  data : List Word
deriving DecidableEq, Repr

/-- An LCTL block that a port sends (R366, R374, R376, R378). -/
inductive Lctl where
  | ack (seq : BitVec 12)
  | nak (seq : BitVec 12)
  | credit (cls : CreditClass) (n : Nat)
  | degrade (lanes : Nat)
deriving DecidableEq, Repr

/-- Credits of each class (R374). -/
structure Credits where
  np : Nat := 0
  ph : Nat := 0
  pd : Nat := 0
  cap : Nat := 0
  evs : Nat := 0
deriving DecidableEq, Repr

/-- A port: next SEQ to send and expected, the replay buffer, replays without progress, the completion cache, the TS block last
received, whether 10.3125 GBd has been tried and the lanes locked before that trial (R369), the role in force, the width trained,
the resume point of the last fast retrain (R379), MAXVER, LOWRATE and LANEEN as read on entry to DETECT (R391), the lanes that
survive a degrade in progress (0: none) and the lanes locked at both ends in training that have not failed since (R378); the LCTL
blocks it sent last, forwarded packets that wait for credit, the credits that the far end holds and, for requests, those that the
next module has granted (R374, R385; CREDITS holds those of the other classes); in port 0 the stamp at which the module was left
without its host (R386). -/
structure Port where
  txSeq : BitVec 12 := 0
  rxSeq : BitVec 12 := 0
  replay : List TxPkt := []
  tries : Nat := 0
  cache : List CacheE := []
  peer : Option TsFields := none
  tried : Bool := false
  full : Nat := 0
  role : Nat := 0
  trained : Nat := 0
  resume : Option (BitVec 12) := none
  cfgVer : Nat := 0
  cfgLow : Bool := false
  cfgLanes : Nat := 0
  surv : Nat := 0
  lanes : Nat := 0
  lctl : List Lctl := []
  wait : List TxPkt := []
  given : Credits := {}
  granted : Credits := {}
  lostT : Stamp := 0
deriving DecidableEq, Repr

/-- SMBus: the alert, the data bytes of the last answer and its PEC byte (R388). -/
structure Smb where
  alert : Bool := false
  out : List Byte := []
  pec : Option Byte := none
deriving DecidableEq, Repr

/-- The TAP instructions (R389). -/
inductive TapIr where
  | bypass | sample | extest | idcode | pulse | train | regacc
deriving DecidableEq, Repr

/-- The states of the TAP controller (IEEE 1149.1, R389). -/
inductive TapState where
  | testLogicReset | runTestIdle | selectDr | captureDr | shiftDr | exit1Dr | pauseDr | exit2Dr | updateDr
  | selectIr | captureIr | shiftIr | exit1Ir | pauseIr | exit2Ir | updateIr
deriving DecidableEq, Repr

/-- JTAG: the state of the controller, the instruction in force, the bits shifted out last, the boundary register, the word that
REGACC read last. -/
structure Jtag where
  tap : TapState := .testLogicReset
  ir : TapIr := .idcode
  out : List Bool := []
  bsr : List Bool := []
  word : Word := 0
deriving DecidableEq, Repr

/-- Why the machine stops. No meaning of this model raises one: every command of the table has an effect. -/
inductive Fault where
  /-- Raised by no meaning: the module has no stop of its own. Safe. -/
  | none
deriving DecidableEq, Repr

/-- Why a command is turned away. -/
inductive Refusal where
  /-- Raised by an arm of exec for a command without a meaning. Safe. -/
  | notModelled (mnemonic : String)
deriving DecidableEq, Repr

/-- The module. The registers and wide entries of the map, staging registers and posted writes of its pages, and the parts that each
chapter gives the machine. `fltBad` are the fault configuration words with bad parity (R417), `mbox` are the mailbox memories (R397),
`dramBad` the 8-byte words of DRAM that hold uncorrectable errors (R172), `pool` the last words of the granules that have returned to
FREE (R397), `ret` the word that the last register read returned. The model's own fields, which the manual does not name: `free` counts
the free values used (see Config), `cyc` the pages that have counted an event in the command under way (R34), `pending` the queue of
commands. -/
structure State where
  regs : Store Word := []
  wide : Store (BitVec 192) := []
  stage : Store Stage := []
  posted : Store (List Posted) := []
  strms : Store Strm := []
  acqs : Store AcqU := []
  chans : Store Chan := []
  pols : Store Pol := []
  queues : Store DacQ := []
  dss : Store Ds := []
  bnds : Store Bnd := []
  dies : Store Die := []
  flts : Store Flt := []
  fltBad : List Nat := []
  dram : List Host.Cell := []
  rtr : Router := {}
  clk : Clk := {}
  bgl : Bgl := {}
  hkp : Hkp := {}
  pwr : Pwr := {}
  nvm : Nvm := {}
  otp : Otp := {}
  sec : Sec := {}
  ports : Store Port := []
  smb : Smb := {}
  jtag : Jtag := {}
  mbox : List Host.Cell := []
  dramBad : List Nat := []
  pool : Store (List (BitVec 64)) := []
  ret : Option Word := none
  bdn : BitVec 64 := 0
  clkSteps : Nat := 0
  holds : Nat := 0
  free : Nat := 0
  cyc : List (Nat × Nat) := []
  pending : List Instr := []
deriving DecidableEq, Repr

namespace State

/-- The machine right after reset: VDD_AUX has risen, nothing else has happened (R405). -/
def reset : State := {}

end State

end Sys2Proof.Machine
end

