-- ==== Sys2Proof/Machine/Ops.lean ====
section
/-! DEFINITION. The operations every meaning is made of: fields, wide entries, the sparse parts of the state, stamps, sticky
events and their reports, counters, events sent to the router. -/

namespace Sys2Proof.Machine

/-! Bits. -/

/-- Bits `lo` to `lo + w - 1` of a number. -/
def bits (v lo w : Nat) : Nat := v / 2 ^ lo % 2 ^ w

/-- `v` with bits `lo` to `lo + w - 1` replaced by `x`. -/
def setBits (v lo w x : Nat) : Nat := v - 2 ^ lo * bits v lo w + 2 ^ lo * (x % 2 ^ w)

/-- A signed reading of the low `w` bits. -/
def signed (v w : Nat) : Int := let x := v % 2 ^ w; if x < 2 ^ (w - 1) then x else (x : Int) - 2 ^ w

/-- The low `w` bits of an integer. -/
def unsign (v : Int) (w : Nat) : Nat := (v % (2 ^ w : Int)).toNat

def b2n (b : Bool) : Nat := if b then 1 else 0

/-! Fields of the register map (R32). -/

/-- The value of field `f` of instance `n`. -/
def getF (s : State) (f : Fld) (n : Nat) : Nat :=
  (Store.get s.regs (BitVec.ofNat 32 f.rst) (f.key n)).toNat % 2 ^ f.w.val

/-- The state with field `f` of instance `n` at `v`, cut to the field's width. -/
def setF (s : State) (f : Fld) (n v : Nat) : State :=
  { s with regs := Store.put s.regs (BitVec.ofNat 32 f.rst) (f.key n) (BitVec.ofNat 32 (v % 2 ^ f.w.val)) }

/-- A one-bit field as a truth value. -/
def isSet (s : State) (f : Fld) (n : Nat) : Bool := getF s f n != 0

/-- A counter field counts `k` up and saturates at all ones (R32). -/
def addCt (s : State) (f : Fld) (n k : Nat) : State :=
  setF s f n (Nat.min (getF s f n + k) (2 ^ f.w.val - 1))

/-- A 64-bit value held in two 32-bit fields. -/
def get64 (s : State) (lo hi : Fld) (n : Nat) : BitVec 64 := BitVec.ofNat 64 (getF s lo n + 2 ^ 32 * getF s hi n)

def set64 (s : State) (lo hi : Fld) (n : Nat) (v : BitVec 64) : State :=
  setF (setF s lo n (v.toNat % 2 ^ 32)) hi n (v.toNat / 2 ^ 32)

/-! Wide entries (R50). -/

def wideKey (p : Page) (n sp e : Nat) : Nat := fldKey p.code n sp e 0

/-- What a wide entry reads as before it is written (R166, R274, R257). -/
def wideDefault (p : Page) (sp : Nat) : BitVec 192 :=
  if p = .pol ∧ sp = 6 then 16
  else if p = .slu ∧ sp = 2 then
    BitVec.ofNat 192 (64 + 1 * 2 ^ 19 + 12 * 2 ^ 23 + 4 * 2 ^ 27 + 2 ^ 31 + 2048 * 2 ^ 32 + 8 * 2 ^ 50)
  else if p = .acq ∧ sp = 1 then 0x3FFFF
  else 0

def getWide (s : State) (p : Page) (n sp e : Nat) : BitVec 192 := Store.get s.wide (wideDefault p sp) (wideKey p n sp e)

def setWide (s : State) (p : Page) (n sp e : Nat) (v : BitVec 192) : State :=
  { s with wide := Store.put s.wide (wideDefault p sp) (wideKey p n sp e) v }

/-- Field `[lo + w - 1 : lo]` of a wide entry. -/
def wideF (s : State) (p : Page) (n sp e lo w : Nat) : Nat := bits (getWide s p n sp e).toNat lo w

/-! The sparse parts of the state. -/

def chanOf (s : State) (c : Nat) : Chan := Store.get s.chans {} c
def setChan (s : State) (c : Nat) (x : Chan) : State := { s with chans := Store.put s.chans {} c x }
def polOf (s : State) (p : Nat) : Pol := Store.get s.pols {} p
def setPol (s : State) (p : Nat) (x : Pol) : State := { s with pols := Store.put s.pols {} p x }
def acqOf (s : State) (p : Nat) : AcqU := Store.get s.acqs {} p
def setAcq (s : State) (p : Nat) (x : AcqU) : State := { s with acqs := Store.put s.acqs {} p x }
def strmOf (s : State) (k : Nat) : Strm := Store.get s.strms {} k
def setStrm (s : State) (k : Nat) (x : Strm) : State := { s with strms := Store.put s.strms {} k x }
def dsOf (s : State) (d : Nat) : Ds := Store.get s.dss {} d
def setDs (s : State) (d : Nat) (x : Ds) : State := { s with dss := Store.put s.dss {} d x }
def bndOf (s : State) (b : Nat) : Bnd := Store.get s.bnds {} b
def setBnd (s : State) (b : Nat) (x : Bnd) : State := { s with bnds := Store.put s.bnds {} b x }
def dieOf (s : State) (d : Nat) : Die := Store.get s.dies {} d
def setDie (s : State) (d : Nat) (x : Die) : State := { s with dies := Store.put s.dies {} d x }

/-- The number of a queue (R127): 0 to 63 the level queues, 64 to 95 the DS queues. -/
def QId.code : QId → Nat
  | .lvl p => p.val
  | .ds d => 64 + d.val

def queueOf (s : State) (q : Nat) : DacQ := Store.get s.queues {} q
def setQueue (s : State) (q : Nat) (x : DacQ) : State := { s with queues := Store.put s.queues {} q x }

/-! Stamps (R4, R299, R300). -/

/-- A span of ticks in fine units. -/
def ticks (n : Nat) : Stamp := BitVec.ofNat 64 (1024 * n)

/-- The tick of a stamp, fine part 0. -/
def tickOf (t : Stamp) : Stamp := t &&& ~~~(1023 : BitVec 64)

/-- R300: `a` is earlier than `b`. -/
def earlier (a b : Stamp) : Bool :=
  let d := (b - a).toNat
  decide (1 ≤ d) && decide (d < 2 ^ 63)

/-- R299: `t` lies in [a, b). -/
def within (a b t : Stamp) : Bool := !earlier t a && earlier t b

/-- The stamp of the present tick, fine part 0 (R341). -/
def now (s : State) : Stamp := s.bdn <<< 10

/-- A happening at stamp `t` finds the count at `t` or beyond it; a stamp that has wrapped lies in the next epoch (R300). -/
def reach (s : State) (t : Stamp) : State := if earlier (now s) t then { s with bdn := s.bdn + ((t - now s) >>> 10) } else s

/-! Sticky events (R34, R37). -/

/-- A command begins: no page has counted an event of it yet (R34). -/
def cycle (s : State) : State := { s with cyc := [] }

/-- R403: a report becomes a page-event record on its way to the host ring. -/
def report (s : State) (p : Page) (n bit : Nat) : State :=
  if isSet s F.DEV_PGEVCTL_EN 0 && isSet s F.EVR_HSCTL_EN 0 then
    { s with rtr := { s.rtr with held := s.rtr.held ++
        [Held.page (now s) (p.summary + n) bit (BitVec.ofNat 16 (getF s (F.EVT_SEQ p) n))] } }
  else s

/-- R34: EVT_SEQ counts once per command for each page. -/
def countEvt (s : State) (p : Page) (n : Nat) : State :=
  if (p.code, n) ∈ s.cyc then s
  else { setF s (F.EVT_SEQ p) n (getF s (F.EVT_SEQ p) n + 1) with cyc := (p.code, n) :: s.cyc }

/-- Hardware sets EVT bit `bit` of a page (R34, R37). -/
def raise (s : State) (p : Page) (n bit : Nat) : State :=
  let e := getF s (F.EVT p) n
  let s1 := countEvt (setF s (F.EVT p) n (e ||| 2 ^ bit)) p n
  if !e.testBit bit && !(getF s (F.EVT_MASK p) n).testBit bit then report s1 p n bit else s1

/-- `raise` under a condition. -/
def raiseIf (c : Bool) (s : State) (p : Page) (n bit : Nat) : State := if c then raise s p n bit else s

/-! Iteration. -/

/-- `f` over a list of numbers, from the left. -/
def forAll (l : List Nat) (s : State) (f : State → Nat → State) : State := l.foldl f s

/-! Free values. -/

/-- The next free word (see Config), and the state that has used it. -/
def freeW (s : State) : BitVec 32 × State := (Config.freeWord s.free, { s with free := s.free + 1 })

def freeB (s : State) : Bool × State := (Config.freeBool s.free, { s with free := s.free + 1 })

/-! Ownership and templates (R54 to R56, R66). -/

/-- The polder that owns octet `o`. -/
def owner (s : State) (o : Nat) : Option Nat :=
  if isSet s F.OCT_STATE_OWNED o then some (getF s F.OCT_STATE_OWNER o) else none

/-- The octets of a polder, ascending (R55). -/
def octsOf (s : State) (p : Nat) : List Nat := (List.range 64).filter (fun o => owner s o == some p)

/-- The template channels of a polder as channel numbers, in template order (R55). -/
def chansOf (s : State) (p : Nat) : List Nat := (octsOf s p).flatMap (fun o => (List.range 8).map (fun j => 8 * o + j))

/-- The channel of template channel `t`. -/
def chanOfT (s : State) (p t : Nat) : Option Nat := (chansOf s p)[t]?

/-- The template channel of channel `c` in polder `p`. -/
def tchOf (s : State) (p c : Nat) : Nat := (chansOf s p).idxOf c

/-- The polder that owns DS controller `d`. -/
def dsOwner (s : State) (d : Nat) : Option Nat :=
  if isSet s (F.DSC_QSTAT_OWNED (d % 8)) (d / 8) then some (getF s (F.DSC_QSTAT_OWNER (d % 8)) (d / 8)) else none

/-- The DS controllers of a polder. -/
def dsOfPol (s : State) (p : Nat) : List Nat := (List.range 32).filter (fun d => dsOwner s d == some p)

/-- The run state of a polder (R58). -/
inductive RS where
  | off | dike | idle | armed | running | paused | stopping
deriving DecidableEq, Repr

def RS.code : RS → Nat
  | .off => 0 | .dike => 1 | .idle => 2 | .armed => 3 | .running => 4 | .paused => 5 | .stopping => 6

def RS.ofCode : Nat → RS
  | 1 => .dike | 2 => .idle | 3 => .armed | 4 => .running | 5 => .paused | 6 => .stopping | _ => .off

def rsOf (s : State) (p : Nat) : RS := RS.ofCode (getF s F.POL_STATE_RSTATE p)

def setRs (s : State) (p : Nat) (r : RS) : State := setF s F.POL_STATE_RSTATE p r.code

/-- ARMED, RUNNING, PAUSED or STOPPING: the run-locked states (R63). -/
def RS.busy (r : RS) : Bool := r == .armed || r == .running || r == .paused || r == .stopping

/-- The members of the consort of a polder, ascending; a consort of one has itself only (R66). -/
def consort (s : State) (p : Nat) : List Nat :=
  if isSet s F.POL_CSRT_CEN p && rsOf s p != .off then
    (List.range 64).filter (fun q => isSet s F.POL_CSRT_CEN q && rsOf s q != .off
      && getF s F.POL_CSRT_CID q == getF s F.POL_CSRT_CID p)
  else [p]

/-- The lowest-numbered member (R66). -/
def anchor (s : State) (p : Nat) : Nat := (consort s p).headD p

/-- The members that take part in a run. -/
def active (s : State) (p : Nat) : List Nat := (consort s p).filter (fun q => !isSet s F.POL_STATE_BENCHED q)

/-! Fields that SEQ and MCE pages both have, by binding number (R191). -/

def getB (s : State) (b : Nat) (fs fm : Fld) : Nat := if b < 16 then getF s fs b else getF s fm (b - 16)
def setB (s : State) (b : Nat) (fs fm : Fld) (v : Nat) : State := if b < 16 then setF s fs b v else setF s fm (b - 16) v

/-! Events to the router (R296, R313). -/

/-- An event sets out for the router. -/
def launch (s : State) (e : Ev) : State := { s with rtr := { s.rtr with flight := s.rtr.flight ++ [e] } }

/-- R412: channel die `d` is isolated. -/
def isoDie (s : State) (d : Nat) : Bool := (getF s F.FLT_STATE_ISO 0).testBit d

/-- The die that carries a channel-die source (R297, R16). -/
def srcDie (src : Nat) : Option Nat :=
  if src < 0x200 then some (src / 64)
  else if src < 0x600 then some ((src - 0x200) / 2 / 64)
  else if src < 0x620 then some ((src - 0x600) / 4)
  else none

end Sys2Proof.Machine
end

