-- ==== Sys2Proof/Machine/Sources.lean ====
section
/-! DEFINITION. The way of an event from a channel die to the router: subscription, merging, the die queue (R313). -/

namespace Sys2Proof.Machine

/-- The sources that some routing field of the module names (R313). -/
def namedSources (s : State) : List Nat :=
  (List.range 16).flatMap (fun n => (List.range 15).map (fun i => getF s (F.SEQ_CMAP_SRC (i + 1)) n)) ++
  (List.range 4).flatMap (fun n => (List.range 15).map (fun i => getF s (F.MCE_CMAP_SRC (i + 1)) n)) ++
  (List.range 64).map (fun p => getF s F.POL_START_SRC p) ++
  (List.range 64).flatMap (fun p => (List.range 4).map (fun k => getF s (F.POL_MT_SRC k) p)) ++
  (List.range 64).map (fun p => getF s F.ACQ_TRIG_SRC p) ++
  (List.range 4).map (fun k => getF s (F.EVR_BOUT_SRC k) 0) ++
  (List.range 16).map (fun k => getF s (F.EVR_FROUT_SRC k) 0)

/-- The source is a monitor whose FLTEN is set on an enabled monitor (R304, R313). -/
def fltNamed (s : State) (src : Nat) : Bool :=
  if 0x200 ≤ src ∧ src < 0x600 then
    let c := (src - 0x200) / 2
    isSet s (F.OCT_X8_LVCFG_FLTEN (c % 8)) (c / 8) &&
      (if src % 2 = 0 then isSet s (F.OCT_X8_LVCFG_ENH (c % 8)) (c / 8) else isSet s (F.OCT_X8_LVCFG_ENL (c % 8)) (c / 8))
  else if 0x600 ≤ src ∧ src < 0x620 then
    let d := src - 0x600
    isSet s (F.DSC_LVDS_FLTEN (d % 8)) (d / 8) && isSet s (F.DSC_LVDS_EN (d % 8)) (d / 8)
  else false

/-- The bit of a source in the host selection map (R321). -/
def hostSelected (s : State) (src : Nat) : Bool := wideF s .evr 0 1 (src / 32) (src % 32) 1 == 1

/-- R313. -/
def subscribed (s : State) (src : Nat) : Bool := hostSelected s src || fltNamed s src || (namedSources s).contains src

def liveOf (s : State) (src : Nat) : Bool := Store.get s.rtr.live false src
def fwdOf (s : State) (src : Nat) : Bool := Store.get s.rtr.fwd false src
def lastOf (s : State) (src : Nat) : Option Stamp := Store.get s.rtr.last none src

def setLive (s : State) (src : Nat) (v : Bool) : State :=
  { s with rtr := { s.rtr with live := Store.put s.rtr.live false src v } }

/-- The last event that a source forwarded is a correction. -/
def corrOf (s : State) (src : Nat) : Bool := Store.get s.rtr.corr false src

def setCorr (s : State) (src : Nat) (v : Bool) : State :=
  { s with rtr := { s.rtr with corr := Store.put s.rtr.corr false src v } }

/-- The die forwards an event: it sets out, and its state and stamp become those last forwarded. -/
def forwardEv (s : State) (e : Ev) : State :=
  let src := e.src.toNat
  let s1 := launch s e
  { s1 with rtr := { s1.rtr with
      fwd := if e.pulse then s1.rtr.fwd else Store.put s1.rtr.fwd false src e.pol
      last := Store.put s1.rtr.last none src (some e.stamp)
      corr := Store.put s1.rtr.corr false src false } }

/-- The correcting transition of R313, stamped 2 ticks after the last forwarded event. -/
def correct (s : State) (src : Nat) (t : Stamp) : State :=
  if liveOf s src != fwdOf s src then
    setCorr (forwardEv s { src := BitVec.ofNat 12 src, pol := liveOf s src,
                           stamp := match lastOf s src with | some l => l + ticks 2 | none => t }) src true
  else s

/-- A correction that has not yet taken effect at `t` is taken back. -/
def uncorrect (s : State) (src : Nat) (t : Stamp) : State :=
  match lastOf s src with
  | some l =>
    if corrOf s src && earlier t l then
      { s with rtr := { s.rtr with
          flight := s.rtr.flight.filter (fun e => !(e.src.toNat == src && e.stamp == l))
          fwd := Store.put s.rtr.fwd false src (!fwdOf s src)
          last := Store.put s.rtr.last none src (some (l - ticks 2))
          corr := Store.put s.rtr.corr false src false } }
    else s
  | none => s

/-- Events of one die that have not reached the router (R313). -/
def dieQueueLen (s : State) (d : Nat) : Nat := (s.rtr.flight.filter (fun e => srcDie e.src.toNat == some d)).length

/-- An event arises at a channel die: it is forwarded, merged or dropped (R313). An isolated die's events are discarded (R412). -/
def dieEvent (s : State) (e : Ev) : State :=
  let src := e.src.toNat
  let s1 := if e.pulse then s else setLive s src e.pol
  let iso := match srcDie src with | some d => isoDie s d | none => false
  if iso || !subscribed s1 src then s1
  else
    let s2 := uncorrect s1 src e.stamp
    let merged := match lastOf s2 src with
      | some l => within l (l + ticks 2) e.stamp
      | none => false
    if merged then correct (addCt s2 F.EVR_MERGED_N 0 1) src e.stamp
    else if 1024 ≤ dieQueueLen s2 ((srcDie src).getD 0) then
      correct (raise (addCt s2 F.EVR_EVDROP_N 0 1) .evr 0 E.EVR_EV_DROP) src e.stamp
    else if !e.pulse && !e.tdc && fwdOf s2 src == e.pol then s2
    else forwardEv s2 e

end Sys2Proof.Machine
end

