-- ==== Sys2Proof/Machine/Flags.lean ====
section
/-! DEFINITION. Live conditions and fault causes: the causes that units raise at the fault collector (R408, R409, R492), Mute
windows (R306), and the COND and STATE fields computed from other state. -/

namespace Sys2Proof.Machine

/-! Fault causes. -/

def fltOf (s : State) (f : Nat) : Flt := Store.get s.flts {} f
def setFlt (s : State) (f : Nat) (x : Flt) : State := { s with flts := Store.put s.flts {} f x }

/-- The page, instance and bit of the FORCE register that asserts the cause of source `f` (R408). -/
def forceHome (f : Nat) : Page × Nat × Nat :=
  if f < 64 then (.pol, f, 0)
  else if f < 96 then (.dsc, (f - 64) / 8, (f - 64) % 8)
  else if f < 128 then (.cdi, (f - 96) / 4, f % 4)
  else if f < 144 then (.seq, f - 128, 0)
  else if f < 148 then (.mce, f - 144, 0)
  else if f < 164 then (.seq, f - 148, 1)
  else if f < 168 then (.mce, f - 164, 1)
  else if f < 184 then (.evr, 0, f - 168)
  else if f < 186 then (.clk, 0, f - 184)
  else if f = 186 then (.bgl, 0, 0)
  else if f < 190 then (.hkp, 0, f - 187)
  else if f = 190 then (.mem, 0, 0)
  else (.hkp, 0, 3)

/-- The FORCE bit of a source is 1 (R39). -/
def forced (s : State) (f : Nat) : Bool :=
  let h := forceHome f
  (getF s (F.FORCE h.1) h.2.1).testBit h.2.2

/-- The cause of a source is present: by hardware or by its FORCE bit (R492). Bugle sync loss is present with its COND bit. -/
def causeNow (s : State) (f : Nat) : Bool :=
  (fltOf s f).hw || forced s f || (f == 186 && isSet s F.BGL_COND_SYNC_LOST 0)

/-- The channel die that a source names (R408). -/
def srcFltDie (f : Nat) : Option Nat :=
  if 64 ≤ f ∧ f < 96 then some ((f - 64) / 4) else if 96 ≤ f ∧ f < 128 then some ((f - 96) / 4) else none

/-- R412: the cause comes from an isolated die and is not its integrity. -/
def causeLost (s : State) (f : Nat) : Bool :=
  match srcFltDie f with
  | some d => isoDie s d && !(decide (96 ≤ f) && f % 4 == 3)
  | none => false

/-- R413: an enabled source that is CLEAR or QUIET owes the occurrence, or the return, of a cause that comes; while SELFERR is set
every source keeps its state (R417). -/
def owes (s : State) (f : Nat) : Bool :=
  isSet s (F.FLT_X1_EN f) 0 && !isSet s F.FLT_STATE_SELFERR 0 && getF s (F.FLT_X2_FSTATE f) 0 % 2 == 0

/-- A cause of source `f` that no hardware signal carries comes: a FORCE bit, the loss of BSYNC. -/
def owe (s : State) (f : Nat) : State :=
  let x := fltOf s f
  setFlt s f { x with due := x.due || owes s f, asked := x.asked || owes s f }

/-- Causes that are present for one hub cycle (R492). -/
def momentary (f : Nat) : Bool :=
  (decide (96 ≤ f) && decide (f < 128) && f % 4 == 2) || (decide (128 ≤ f) && decide (f < 168)) || f == 190

/-- The hardware cause of source `f` appears; `names` are the polders it names where ownership alone does not tell (R409). A cause of
one hub cycle that its source does not take leaves nothing behind (R413, R492). -/
def causeOn (s : State) (f : Nat) (names : List Nat) : State :=
  let x := fltOf s f
  if causeLost s f || (momentary f && !owes s f) then s
  else setFlt s f { x with
    hw := true, due := x.due || (!x.hw && owes s f), names := if x.hw || x.due then (x.names ++ names).eraseDups else names }

/-- The hardware cause goes away. -/
def causeOff (s : State) (f : Nat) : State := setFlt s f { fltOf s f with hw := false }

/-- The cause is discarded, and the occurrence it owes with it (R412). -/
def causeDrop (s : State) (f : Nat) : State := setFlt s f { fltOf s f with hw := false, due := false, asked := false }

/-- R411: source `f` aims a reaction at polder `p`: it named it at its last occurrence, and the reaction is not LOG there. -/
def aims (s : State) (f p : Nat) : Bool :=
  let x := fltOf s f
  x.occNames.contains p && decide (1 ≤ x.react) && !(x.react == 1 && isSet s F.POL_DIKECFG_DIKE_OVR p)

/-- R411, POL.COND: a source that aims at `p` is ACTIVE or QUIET. -/
def faultActive (s : State) (p : Nat) : Bool :=
  (List.range 192).any (fun f => let v := getF s (F.FLT_X2_FSTATE f) 0; (v == 1 || v == 2) && aims s f p)

/-- R411, POL.COND: a source that aims at `p` is LATCHED. -/
def faultLatched (s : State) (p : Nat) : Bool :=
  (List.range 192).any (fun f => getF s (F.FLT_X2_FSTATE f) 0 == 3 && aims s f p)

/-! Mute timers (R306). -/

/-- Timer `k` of polder `p` starts at `t`: a window opens, or the close of the open one moves out. A window stays listed until
its close has been judged for every held event (MUTE_WINDOW_CLOSE). -/
def muteStart (s : State) (p k : Nat) (t : Stamp) : State :=
  let len := getF s (F.POL_MT_LEN k) p
  if len = 0 then s
  else
    let x := polOf s p
    let c := t + ticks len
    let open' (e : Nat × MuteWin) : Bool := e.1 == k && within e.2.openS e.2.closeS t
    if x.mute.any open' then
      setPol s p { x with mute := x.mute.map (fun e =>
        if open' e && earlier e.2.closeS c then (e.1, { e.2 with closeS := c }) else e) }
    else setPol s p { x with mute := x.mute ++ [(k, { openS := t, closeS := c })] }

/-- The timers of polder `p` whose START satisfies `f` start at `t`. -/
def muteStarts (s : State) (p : Nat) (f : Nat → Bool) (t : Stamp) : State :=
  forAll (List.range 4) s (fun s k => if f (getF s (F.POL_MT_START k) p) then muteStart s p k t else s)

/-! The Levee fault cause (R304). -/

/-- The Levee monitors of a polder: the high and low monitors of its channels, the monitors of its DS controllers (R297). -/
def monsOf (s : State) (p : Nat) : List Nat :=
  (chansOf s p).flatMap (fun c => [0x200 + 2 * c, 0x201 + 2 * c]) ++ (dsOfPol s p).map (fun d => 0x600 + d)

/-- FLTEN of a monitor. -/
def monFlten (s : State) (src : Nat) : Bool :=
  if src < 0x600 then let c := (src - 0x200) / 2; isSet s (F.OCT_X8_LVCFG_FLTEN (c % 8)) (c / 8)
  else let d := src - 0x600; isSet s (F.DSC_LVDS_FLTEN (d % 8)) (d / 8)

/-- The cause of FS p is present while a monitor with FLTEN is asserted as delivered. -/
def refreshLevee (s : State) (p : Nat) : State :=
  let on := (monsOf s p).any (fun src => monFlten s src && Store.get s.rtr.prompt false src)
  if on == (fltOf s p).hw then s else if on then causeOn s p [p] else causeOff s p

/-! Live fields. -/

/-- POL.COND.DS_RAMPING (R137). -/
def dsRamping (s : State) (p : Nat) : Bool := (dsOfPol s p).any (fun d => (dsOf s d).ramp)

/-- POL.COND.RECORDS_OPEN (R77). -/
def recordsOpen (s : State) (p : Nat) : Bool :=
  (acqOf s p).rcd.isSome || (List.range 4).any (fun j => (strmOf s (4 * p + j)).fill.isSome)

end Sys2Proof.Machine
end

