-- ==== Sys2Proof/Machine/Operands.lean ====
section
/-! DEFINITION. The fields of the operands that engines read: entries of DAC queues (R129), overlay entries (R71), segment
entries (R194), microwords (R210), vector words (R168, R169), waveform slots (R164). -/

namespace Sys2Proof.Machine

/-! DAC queue entries (R129). -/

def qeOp (e : BitVec 64) : Nat := bits e.toNat 0 4
def qeCont (e : BitVec 64) : Bool := e.toNat.testBit 4
def qeG (e : BitVec 64) : Bool := e.toNat.testBit 5
def qeDac (e : BitVec 64) : Nat := bits e.toNat 6 3
def qeTch (e : BitVec 64) : Nat := bits e.toNat 9 9
def qeLset (e : BitVec 64) : Nat := bits e.toNat 18 4
def qeCode (e : BitVec 64) : Nat := bits e.toNat 22 16
def qeTgt (e : BitVec 64) : Nat := bits e.toNat 58 6

/-- A queue entry of its fields. -/
def qeMake (op : Nat) (cont : Bool) (g : Bool) (dac tch lset code : Nat) : BitVec 64 :=
  BitVec.ofNat 64 (op % 16 + b2n cont * 16 + b2n g * 32 + dac % 8 * 64 + 512 * (tch % 512) + 2 ^ 18 * (lset % 16)
    + 2 ^ 22 * (code % 65536))

/-! Waveform characters (R148, R149, R164). -/

/-- The action of code `a`; none for an empty slot or a reserved code. -/
def actOf : Nat → Option Act
  | 1 => some (.drive .high) | 2 => some (.drive .low) | 3 => some (.drive .vtt) | 4 => some (.drive .off)
  | 5 => some (.strobe .high) | 6 => some (.strobe .low) | 7 => some (.strobe .mid) | 8 => some (.strobe .dont)
  | 9 => some (.wopen .high) | 10 => some (.wopen .low) | 11 => some (.wopen .mid) | 12 => some .wclose | 13 => some .ta
  | _ => none

/-- The kind of an action (R149): drive actions are of four kinds, strobes of one, window opens of one. -/
def Act.kind : Act → Nat
  | .drive .high => 0 | .drive .low => 1 | .drive .vtt => 2 | .drive .off => 3
  | .strobe _ => 4 | .wopen _ => 5 | .wclose => 6 | .ta => 7

/-- The slots of a character: time and action code of slot `e` of a 128-bit character. -/
def slotTime (c : BitVec 192) (e : Nat) : Nat := bits c.toNat (32 * e) 22
def slotAct (c : BitVec 192) (e : Nat) : Nat := bits c.toNat (32 * e + 22) 4

/-! Overlay entries (R71). -/

def ovVwi (e : BitVec 192) : Nat := bits e.toNat 0 40
def ovMember (e : BitVec 192) : Nat := bits e.toNat 40 6
def ovToct (e : BitVec 192) : Nat := bits e.toNat 46 6
def ovMask (e : BitVec 192) : Nat := bits e.toNat 52 8
def ovChar (e : BitVec 192) (j v : Nat) : Nat := bits e.toNat (64 + 16 * j + 4 * v) 4

/-! Segment entries (R194): the shared table stands under instance 0. -/

def seg (s : State) (e : Nat) : Nat := (getWide s .seq 0 1 e).toNat
def sgVaddr (v : Nat) : Nat := bits v 0 34
def sgLen (v : Nat) : Nat := bits v 34 24
def sgRpt (v : Nat) : Nat := bits v 58 20
def sgNext (v : Nat) : Nat := bits v 78 15
def sgJtgt (v : Nat) : Nat := bits v 93 15
def sgJcond (v : Nat) : Nat := bits v 108 5
def sgTset (v : Nat) : Nat := bits v 113 6
def sgLset (v : Nat) : Nat := bits v 119 4
def sgSsafe (v : Nat) : Bool := v.testBit 123
def sgThrpt (v : Nat) : Bool := v.testBit 124
def sgCapen (v : Nat) : Bool := v.testBit 125
def sgDacq (v : Nat) : Bool := v.testBit 126
def sgEot (v : Nat) : Bool := v.testBit 127

/-! Microwords (R210). -/

def mword (s : State) (m a : Nat) : Nat := (getWide s .mce m 1 a).toNat
def mwNxt (v : Nat) : Nat := bits v 0 14
def mwBmode (v : Nat) : Nat := bits v 14 3
def mwBc (v j : Nat) : Nat := bits v (17 + 4 * j) 4
def mwWsel (v : Nat) : Nat := bits v 33 5
def mwWpol (v : Nat) : Bool := v.testBit 38
def mwWto (v : Nat) : Nat := bits v 39 16
def mwLop (v : Nat) : Nat := bits v 55 4
def mwLsel (v : Nat) : Nat := bits v 59 3
def mwVop (v : Nat) : Nat := bits v 62 5
def mwTset (v : Nat) : Nat := bits v 67 6
def mwLset (v : Nat) : Nat := bits v 73 4
def mwPmu (v : Nat) : Nat := bits v 77 4
def mwCap (v : Nat) : Nat := bits v 81 4
def mwEvt (v : Nat) : Nat := bits v 85 8
def mwDacq (v : Nat) : Nat := bits v 93 4
def mwFlg (v : Nat) : Nat := bits v 97 4
def mwThr (v : Nat) : Nat := bits v 101 3
def mwImm (v : Nat) : Nat := bits v 104 18

/-- The number of ones of the low `n` bits. -/
def ones (v n : Nat) : Nat := ((List.range n).filter (fun i => v.testBit i)).length

/-- R211: every slice holds an even number of ones with its parity bit. -/
def mwParityOk (v : Nat) : Bool :=
  (List.range 8).all (fun k => (ones (bits v (19 * k) 19) 19 + bits v (152 + k) 1) % 2 == 0)

/-- Entry `i` of the vector target table of engine `m` (R231). -/
def vtt (s : State) (m i : Nat) : Nat := bits (getWide s .mce m 2 i).toNat 0 40

/-! CRC-32C (R232, R371, R452): the Castagnoli polynomial in reflected form, initial value and final XOR all ones. -/

def crcBit (c : BitVec 32) : BitVec 32 := if c.getLsbD 0 then (c >>> 1) ^^^ 0x82F63B78 else c >>> 1

def crcByte (c : BitVec 32) (b : Byte) : BitVec 32 :=
  (List.range 8).foldl (fun c _ => crcBit c) (c ^^^ b.setWidth 32)

def crc32c (bs : List Byte) : BitVec 32 := bs.foldl crcByte 0xFFFFFFFF ^^^ 0xFFFFFFFF

/-! The CRC of a packet (R366): over the packet from the SOP's SEQ onward, bit by bit, the lowest first (log entry 83). -/

/-- The bits of a value as the link carries them. -/
def wireBits {n : Nat} (v : BitVec n) : List Bool := (List.range n).map v.getLsbD

def crcBits (c : BitVec 32) (l : List Bool) : BitVec 32 := l.foldl (fun c b => crcBit (c ^^^ (BitVec.ofBool b).setWidth 32)) c

def pktCrc (seq : BitVec 12) (h : BitVec 128) (ws : List Word) : BitVec 32 :=
  ws.foldl (fun c w => crcBits c (wireBits w)) (crcBits (crcBits 0xFFFFFFFF (wireBits seq)) (wireBits h)) ^^^ 0xFFFFFFFF

/-- The CRC of the EOP is that of the packet. -/
def intact (k : Packet) : Bool := k.crc == pktCrc k.seq k.header k.payload

end Sys2Proof.Machine
end

