-- ==== Sys2Proof/Machine/Levels.lean ====
section
/-! DEFINITION. Level DACs, DUT supplies and the DAC queues (R121 to R144). -/

namespace Sys2Proof.Machine

/-! Queues (R127, R131, R133, R134, R139). -/

/-- Queue `q` is a level queue. -/
def isLvl (q : Nat) : Bool := decide (q < 64)

/-- A queue takes the value `x`, and its FILL field shows it. -/
def putQueue (s : State) (q : Nat) (x : DacQ) : State :=
  let s1 := setQueue s q x
  if isLvl q then setF (setF s1 F.POL_LQSTAT_FILL q x.entries.length) F.POL_LQSTAT_GAINSW q (b2n x.gain)
  else setF s1 (F.DSC_QSTAT_FILL ((q - 64) % 8)) ((q - 64) / 8) x.entries.length

/-- R139: a queue is emptied and its CONT condition clears. -/
def emptyQueue (s : State) (q : Nat) : State := putQueue s q { queueOf s q with entries := [], cont := false }

def suspendQueue (s : State) (q : Nat) (v : Bool) : State := putQueue s q { queueOf s q with susp := v }

/-- The polder that a queue's consumption belongs to. -/
def queuePol (s : State) (q : Nat) : Option Nat := if isLvl q then some q else dsOwner s (q - 64)

/-- R139: an OFF polder discards level-queue pushes, an unowned controller's queue discards every push. -/
def queueLive (s : State) (q : Nat) : Bool := if isLvl q then rsOf s q != .off else (dsOwner s (q - 64)).isSome

/-- R131, R134: an entry is pushed. -/
def pushEntry (s : State) (q : Nat) (e : BitVec 64) : State :=
  if !queueLive s q then s
  else
    let x := queueOf s q
    if 256 ≤ x.entries.length then
      if isLvl q then raise (addCt s F.POL_LQOVF_N q 1) .pol q E.POL_LQ_OVF
      else raise (addCt s (F.DSC_QOVF_N ((q - 64) % 8)) ((q - 64) / 8) 1) .dsc ((q - 64) / 8) (E.DSC_OVF ((q - 64) % 8))
    else putQueue s q { x with entries := x.entries ++ [e] }

/-- R131, R132: staged entry `k` of polder `p` is pushed. -/
def pushStaged (s : State) (p k : Nat) : State :=
  if k = 0 then s
  else
    let e := BitVec.ofNat 64 (getWide s .pol p 5 (k - 1)).toNat
    let tgt := qeTgt e
    if tgt = 32 then pushEntry s p e
    else if tgt < 32 ∧ dsOwner s tgt = some p then pushEntry s (64 + tgt) e
    else raise s .pol p E.POL_LQ_OPERR

/-- R131: the level-set select of a vector word. A push that a full queue discards still counts as the set last pushed (DESIGN
CHOICE, log entry 63: R131 does not say). -/
def pushLset (s : State) (p : Nat) (ls : BitVec 4) : State :=
  if (polOf s p).lsPush == some ls then s
  else pushEntry (setPol s p { polOf s p with lsPush := some ls }) p (qeMake 3 false false 0 0 ls.toNat 0)

/-! Applied values (R123, R124). -/

/-- DAC `d` of channel `c` takes a code and a gain. -/
def applyDac (s : State) (c d code : Nat) (g : Bool) : State :=
  setF (setF s (F.OCT_X4_APPLIED_CODE (c % 8) d) (c / 8) code) (F.OCT_X4_APPLIED_G (c % 8) d) (c / 8) (b2n g)

def dacG (s : State) (c d : Nat) : Bool := isSet s (F.OCT_X4_APPLIED_G (c % 8) d) (c / 8)

/-- Every DAC of channel `c` takes its value from level set `l` (R122). -/
def applyLset (s : State) (l c : Nat) : State :=
  forAll (List.range 7) s (fun s d =>
    applyDac s c d (getF s (F.OCT_X3_LSET_CODE (c % 8) l d) (c / 8)) (isSet s (F.OCT_X3_LSET_G (c % 8) l d) (c / 8)))

/-- R135: with `sw` a gain switch begins. -/
def gainSwitch (s : State) (q : Nat) (sw : Bool) : State := if sw then putQueue s q { queueOf s q with gain := true } else s

/-- A level operation on channels `cs`: `f` applies it; a change of G on any of the DACs is a gain switch of queue `q`. -/
def levelOp (s : State) (q : Nat) (cs : List Nat) (f : State → Nat → State) : State :=
  let s1 := forAll cs s f
  gainSwitch s1 q (cs.any (fun c => (List.range 7).any (fun d => dacG s c d != dacG s1 c d)))

/-- The FAULT value of every level DAC of a channel is applied (R136). -/
def applyFaultChan (s : State) (c : Nat) : State :=
  forAll (List.range 7) s (fun s d =>
    let v := getF s (F.OCT_X4_FAULT (c % 8) d) (c / 8)
    applyDac s c d (v % 65536) (v.testBit 16))

/-- The FAULT value of every level DAC of an octet is applied at once (R136); on an owned octet a change of G is a gain switch of the
level queue of its polder (R135). -/
def applyFaultDacs (s : State) (o : Nat) : State :=
  let cs := (List.range 8).map (fun j => 8 * o + j)
  match owner s o with
  | some p => levelOp s p cs applyFaultChan
  | none => forAll cs s applyFaultChan

/-- The PWRUP value of every level DAC of an octet is applied (R136). -/
def applyPwrupDacs (s : State) (o : Nat) : State :=
  forAll (List.range 8) s (fun s j => forAll (List.range 7) s (fun s d =>
    let v := getF s (F.OCT_X4_PWRUP j d) o
    applyDac s (8 * o + j) d (v % 65536) (v.testBit 16)))

/-- The level DACs of an octet as NVM loading, a device reset and the initialisation of its die leave them: PWRUP, in Embankment mode
FAULT (R136). -/
def startDacs (s : State) (o : Nat) : State := if isSet s F.FLT_STATE_EMBANK 0 then applyFaultDacs s o else applyPwrupDacs s o

/-- R126: a LIMIT of controller `d` with its cause code. -/
def dsLimit (s : State) (d cause : Nat) : State :=
  raise (setF s (F.DSC_QSTAT_LCAUSE (d % 8)) (d / 8) cause) .dsc (d / 8) (E.DSC_LIMIT (d % 8))

/-- The FAULT value of a controller, and the set point that a ramp to it runs to: 0 V for an OFF value (R137). -/
def faultV (s : State) (d : Nat) : Nat := getF s (F.DSC_FAULTV_V (d % 8)) (d / 8)

def faultSp (s : State) (d : Nat) : Nat × Bool :=
  let v := faultV s d
  (if v.testBit 17 then v % 65536 else 0, v.testBit 16)

/-- VMAX in 62.5 µV (R124). -/
def vmaxOf (s : State) (d : Nat) : Nat := 2 * getF s (F.DSC_VMAX_CODE (d % 8)) (d / 8)

/-- The point of the straight line of a ramp, in 62.5 µV (R137): FRAMP mV/µs being FRAMP codes of 62.5 µV in 100 ticks, from the stamp
of the trigger (DESIGN CHOICE, log entry 63: R137 lets it begin up to 2 µs later). -/
def rampLine (s : State) (d : Nat) : Nat :=
  let x := dsOf s d
  let f := faultSp s d
  let goal := if f.2 then 2 * f.1 else f.1
  let mv := x.rampV * ((now s - x.rampT).toNat / 1024) / 100
  if x.rampFrom ≤ goal then Nat.min goal (x.rampFrom + mv) else Nat.max goal (x.rampFrom - mv)

/-- The ramp of a controller is above VMAX, which is applied in its place (R124). -/
def rampClips (s : State) (d : Nat) : Bool := decide (vmaxOf s d < rampLine s d)

/-- COND.VCLIP (R124): a set point above VMAX is asked for. -/
def vclipNow (s : State) (d : Nat) : Bool :=
  if (dsOf s d).ramp then rampClips s d else isSet s (F.DSC_COND_VCLIP (d % 8)) (d / 8)

/-- Controller `d` has a cause of R126: over-current, sense open, or a clipped set point. -/
def dsCause (s : State) (d : Nat) : State :=
  if (dsOf s d).oc || (dsOf s d).so || vclipNow s d then causeOn s (64 + d) [] else causeOff s (64 + d)

/-- The set point of controller `d` becomes clipped, or is no longer (R124, R126). -/
def clipDs (s : State) (d : Nat) (clip : Bool) : State :=
  let s1 := if clip && !isSet s (F.DSC_COND_VCLIP (d % 8)) (d / 8) then dsLimit s d 3 else s
  dsCause (setF s1 (F.DSC_COND_VCLIP (d % 8)) (d / 8) (b2n clip)) d

/-- The set point asked for is applied under VMAX (in 125 µV): above it VMAX is applied, VCLIP shows it and the clipped cause is
raised (R124, R126). -/
def applySp (s : State) (d : Nat) : State :=
  let i := d % 8
  let n := d / 8
  let x := (dsOf s d).sp
  let vmax := 2 * getF s (F.DSC_VMAX_CODE i) n
  let clip := decide (vmax < if x.2 then 2 * x.1 else x.1)
  let code := if clip then (if x.2 then vmax / 2 else vmax) else x.1
  clipDs (setF (setF s (F.DSC_APPLIED_CODE i) n code) (F.DSC_APPLIED_G i) n (b2n x.2)) d clip

/-- R124: controller `d` takes a set point. -/
def setPoint (s : State) (d code : Nat) (g : Bool) : State := applySp (setDs s d { dsOf s d with sp := (code, g) }) d

def setDsOn (s : State) (d : Nat) (v : Bool) : State := setF s (F.DSC_QSTAT_ON (d % 8)) (d / 8) (b2n v)

def dsG (s : State) (d : Nat) : Bool := isSet s (F.DSC_APPLIED_G (d % 8)) (d / 8)

/-- R302: the monitor of a controller deasserts, stamped `t`. -/
def dsMonOff (s : State) (d : Nat) (t : Stamp) : State :=
  if (dsOf s d).lev then
    dieEvent (setDs s d { dsOf s d with lev := false }) { src := BitVec.ofNat 12 (0x600 + d), pol := false, stamp := t }
  else s

/-- The controller turns OFF: its monitor is deasserted and its over-current and sense causes are gone (R125, R302, R492). -/
def dsOff (s : State) (d : Nat) (t : Stamp) : State :=
  let s1 := setF (setDsOn s d false) (F.DSC_COND_ILIM (d % 8)) (d / 8) 0
  dsMonOff (dsCause (setDs s1 d { dsOf s1 d with oc := false, so := false }) d) d t

/-! Entries (R130, R135). -/

/-- R130: an entry that is consumed as NOP with an operation error. -/
def opErr (s : State) (q : Nat) : State :=
  if isLvl q then raise s .pol q E.POL_LQ_OPERR
  else addCt (raise s .dsc ((q - 64) / 8) E.DSC_OPERR) (F.DSC_QOPERR_N ((q - 64) % 8)) ((q - 64) / 8) 1

/-- R128: the stamp of the last consumed entry. -/
def stampQueue (s : State) (q : Nat) (t : Stamp) : State :=
  if isLvl q then set64 s F.POL_LQTICK_LO_T F.POL_LQTICK_HI_T q t
  else setF s (F.DSC_QTICK_T ((q - 64) % 8)) ((q - 64) / 8) (t.toNat / 1024 % 2 ^ 32)

/-- The LSWITCH, SET and SETALL entries that apply start the timers of START 1 and 2 (R306). -/
def levelMute (s : State) (q : Nat) (lsw : Bool) (t : Stamp) : State :=
  muteStarts s q (fun st => st == 2 || (lsw && st == 1)) t

def dsMute (s : State) (q : Nat) (t : Stamp) : State :=
  match dsOwner s (q - 64) with
  | some p => muteStarts s p (fun st => st == 3) t
  | none => s

/-- The effect of an entry on the DACs (R130), consumed at stamp `t`. An isolated die is sent none (R412). -/
def applyEntry (s : State) (q : Nat) (e : BitVec 64) (t : Stamp) : State :=
  let cs := chansOf s q
  let sent (l : List Nat) : List Nat := l.filter (fun c => !isoDie s (c / 64))
  let d := q - 64
  if !isLvl q && isoDie s (d / 4) then s
  else match isLvl q, qeOp e with
  | _, 0 => s
  | true, 1 =>
    if qeDac e = 7 then opErr s q
    else match cs[qeTch e]? with
      | some c => levelMute (levelOp s q (sent [c]) (fun s c => applyDac s c (qeDac e) (qeCode e) (qeG e))) q false t
      | none => opErr s q
  | true, 2 =>
    if qeDac e = 7 then opErr s q
    else levelMute (levelOp s q (sent cs) (fun s c => applyDac s c (qeDac e) (qeCode e) (qeG e))) q false t
  | true, 3 =>
    levelMute (setF (levelOp s q (sent cs) (fun s c => applyLset s (qeLset e) c)) F.POL_LQSTAT_LSAPPLIED q (qeLset e)) q true t
  | false, 4 => dsMute (gainSwitch (setPoint s d (qeCode e) (qeG e)) q (dsG s d != qeG e)) q t
  | false, 5 => dsMute (if (dsOf s d).held then s else setDsOn s d true) q t
  | false, 6 => dsMute (dsOff s d t) q t
  | _, _ => opErr s q

/-! Supplies: ramps to FAULT (R136 to R138). -/

def pwrupV (s : State) (d : Nat) : Nat := getF s (F.DSC_PWRUP_V (d % 8)) (d / 8)

def showRamp (s : State) (d : Nat) (v : Bool) : State :=
  setF (setDs s d { dsOf s d with ramp := v }) (F.DSC_COND_RAMPING (d % 8)) (d / 8) (b2n v)

/-- The applied code of a controller: during a ramp its point of the line under VMAX (R124, R137). A point above 4.096 V that a ramp
with G = 0 cannot show reads 65535 (DESIGN CHOICE, log entry 76). -/
def appliedNow (s : State) (d : Nat) : Nat :=
  if (dsOf s d).ramp then
    let v := Nat.min (rampLine s d) (vmaxOf s d)
    Nat.min 65535 (if isSet s (F.DSC_APPLIED_G (d % 8)) (d / 8) then v / 2 else v)
  else getF s (F.DSC_APPLIED_CODE (d % 8)) (d / 8)

/-- The end of a ramp (R137, R138): the FAULT value stands; without its ON bit, or in Embankment mode, the controller is OFF. An entry
applied after RELEASE while the ramp was under way is replaced (DESIGN CHOICE, log entry 63: the spec orders no end of the ramp). -/
def rampEnd (s : State) (d : Nat) : State :=
  let f := faultSp s d
  let s1 := setPoint (showRamp s d false) d f.1 f.2
  if (dsOf s d).toOff then dsOff s1 d (now s) else setDsOn s1 d true

/-- R137: the ramp of a controller to its FAULT value begins; a change of G is a gain switch at its start; FRAMP 0 steps at once. It
begins at the applied value, so nothing is clipped (R126). In Embankment mode the controller is held OFF from its end (R138). -/
def faultRamp (s : State) (d : Nat) : State :=
  let i := d % 8
  let n := d / 8
  let held := (dsOf s d).held || isSet s F.FLT_STATE_EMBANK 0
  let g := (faultV s d).testBit 16
  let from' := (if dsG s d then 2 else 1) * appliedNow s d
  let s0 := setDs s d { dsOf s d with held := held, toOff := held || !(faultV s d).testBit 17, rampT := now s, rampFrom := from',
                                      rampV := getF s (F.DSC_DSCFG_FRAMP i) n }
  let s1 := gainSwitch s0 (64 + d) (dsG s d != g)
  if getF s (F.DSC_DSCFG_FRAMP i) n = 0 then rampEnd s1 d
  else
    let s2 := setF (setF s1 (F.DSC_APPLIED_G i) n (b2n g)) (F.DSC_APPLIED_CODE i) n (Nat.min 65535 (if g then from' / 2 else from'))
    let s3 := showRamp s2 d true
    clipDs s3 d (rampClips s3 d)

/-- R139: entry to DIKE empties and suspends the queues of a polder and of its controllers, which ramp to FAULT (R73). -/
def dikeQueues (s : State) (p : Nat) : State :=
  let s1 := suspendQueue (emptyQueue s p) p true
  let s2 := setF s1 F.POL_LQSTAT_LSAPPLIED p 16
  forAll (dsOfPol s p) s2 (fun s d => faultRamp (suspendQueue (emptyQueue s (64 + d)) (64 + d) true) d)

/-- R136, R139: RELEASE ends the suspension; a controller held OFF by Embankment may be turned on again (R138). -/
def releaseQueues (s : State) (p : Nat) : State :=
  forAll (dsOfPol s p) (suspendQueue s p false) (fun s d =>
    setDs (suspendQueue s (64 + d) false) d { dsOf (suspendQueue s (64 + d) false) d with held := false })

/-- R56, R57: polder `p` takes controller `d`. -/
def takeDs (s : State) (p d : Nat) : State :=
  let s1 := setF (setF s (F.DSC_QSTAT_OWNED (d % 8)) (d / 8) 1) (F.DSC_QSTAT_OWNER (d % 8)) (d / 8) p
  suspendQueue s1 (64 + d) (rsOf s p == .dike || rsOf s p == .off)

/-- R57: a controller leaves its polder: its queue empties and it ramps to FAULT. -/
def dropDs (s : State) (d : Nat) : State :=
  let s1 := emptyQueue s (64 + d)
  let s2 := setF (setF s1 (F.DSC_QSTAT_OWNED (d % 8)) (d / 8) 0) (F.DSC_QSTAT_OWNER (d % 8)) (d / 8) 0
  faultRamp (dsMonOff (suspendQueue s2 (64 + d) false) d (now s)) d

/-! The commands. -/

/-- R135: the gain switch of a queue ends. -/
def execGainSwitchEnd (q : QId) (s : State) : Host.Outcome State Fault Refusal :=
  .next (putQueue (cycle s) (QId.code q) { queueOf s (QId.code q) with gain := false })

/-- R126: regulation has been held at the current limit for ILIMT. -/
def execDsOvercurrent (d : Fin 32) (t : Stamp) (s : State) : Host.Outcome State Fault Refusal :=
  let s := reach (cycle s) t
  .next (if isSet s (F.DSC_QSTAT_ON (d.val % 8)) (d.val / 8) then
    let s1 := dsLimit (setF s (F.DSC_COND_ILIM (d.val % 8)) (d.val / 8) 1) d.val 1
    dsCause (setDs s1 d.val { dsOf s1 d.val with oc := true }) d.val
    else s)

/-- R126: the sense line of a controller that is ON is open. -/
def execDsSenseOpen (d : Fin 32) (t : Stamp) (s : State) : Host.Outcome State Fault Refusal :=
  let s := reach (cycle s) t
  .next (if isSet s (F.DSC_QSTAT_ON (d.val % 8)) (d.val / 8) then
    let s1 := dsLimit s d.val 2
    dsCause (setDs s1 d.val { dsOf s1 d.val with so := true }) d.val
    else s)

/-- R137: a ramp reaches the FAULT value. -/
def execDsRampEnd (d : Fin 32) (s : State) : Host.Outcome State Fault Refusal :=
  .next (if (dsOf s d.val).ramp then rampEnd (cycle s) d.val else cycle s)

end Sys2Proof.Machine
end

