-- ==== Sys2Proof/Machine/Map.lean ====
section
/-! DEFINITION. The register fabric: which page an address lies in (R392, R395 to R397). -/

namespace Sys2Proof.Machine

/-- Every page, in the order of R396. -/
def allPages : List Page :=
  [.dev, .flt, .hkp, .clk, .evr, .bgl, .phl, .nvm, .sec, .slu, .mem, .dsc, .pol, .acq, .oct, .seq, .mce, .cdi]

/-- The instance of page `p` that the fabric address lies in. -/
def pageInst (p : Page) (a : Nat) : Option Nat :=
  if p.base ≤ a ∧ a < p.base + 4096 * p.count then some ((a - p.base) / 4096) else none

/-- The page and instance of a fabric address (R396, R397). -/
def locate (a : Nat) : Option PageRef := allPages.findSome? (fun p => (pageInst p a).map (fun n => ⟨p, n⟩))

/-- The offset of an address in its page. -/
def pageOff (a : Nat) : Nat := a % 4096

end Sys2Proof.Machine
end

