-- ==== Sys2Proof/Machine/Memory.lean ====
section
/-! DEFINITION. DRAM (R170, R392): bytes at link addresses, in canonical form. A byte that nothing has written reads 0 (see
the assumption log, entry 7). -/

namespace Sys2Proof.Machine

/-- DRAM as a list of (link address, byte), addresses rising, no byte 0 listed. -/
abbrev Memory := List Host.Cell

def Memory.read (m : Memory) (a : Nat) : Byte := Store.get m 0 a

def Memory.write (m : Memory) (a : Nat) (v : Byte) : Memory := Store.put m 0 a v

/-- The canonical form. -/
def Memory.wf (m : Memory) : Bool := Store.wf m (fun _ => 0)

/-- `n` bytes from `a` on. -/
def Memory.readN (m : Memory) (a n : Nat) : List Byte := (List.range n).map (fun i => Memory.read m (a + i))

def Memory.writeN : Memory → Nat → List Byte → Memory
  | m, _, [] => m
  | m, a, v :: vs => Memory.writeN (Memory.write m a v) (a + 1) vs

/-- The bytes of a word of `n` bytes, lowest first. -/
def toBytes (n v : Nat) : List Byte := (List.range n).map (fun i => BitVec.ofNat 8 (v / 2 ^ (8 * i)))

/-- A little-endian number. -/
def ofBytes (bs : List Byte) : Nat := bs.foldr (fun b n => b.toNat + 256 * n) 0

/-- R170: DRAM and its part below the firmware region. -/
def dramLo : Nat := 0x0400000000
def fwLo : Nat := 0x07F0000000
def dramHi : Nat := 0x0800000000

end Sys2Proof.Machine
end

