-- ==== Sys2Proof/Machine/Timing.lean ====
section
/-! DEFINITION. Timing sets, their checks, deskew and self-calibration (R145 to R167). -/

namespace Sys2Proof.Machine

/-! Timing-set configurations (R147, R166). -/

def tsConfig (s : State) (p t : Nat) : Nat := (getWide s .pol p 6 t).toNat
def cfgPeriod (v : Nat) : Nat := 1024 * bits v 0 20 + bits v 20 10
def cfgCompact (v : Nat) : Bool := v.testBit 32
def cfgPark (v : Nat) : Nat := bits v 36 4

/-- The period of timing set `t` of polder `p` in fine units. -/
def period (s : State) (p t : Nat) : Nat := cfgPeriod (tsConfig s p t)
def compact (s : State) (p t : Nat) : Bool := cfgCompact (tsConfig s p t)
def parkChar (s : State) (p t : Nat) : Nat := cfgPark (tsConfig s p t)

/-- The entry number of character `c` of set `t` of channel `j` in space 0x5 (R164). -/
def charEntry (j t c : Nat) : Nat := 1024 * j + 16 * t + c

/-- A waveform character of a channel (R148). -/
def waveChar (s : State) (ch t c : Nat) : BitVec 192 := getWide s .oct (ch / 8) 5 (charEntry (ch % 8) t c)

/-- The non-empty slots of a character in slot order: slot, time, action code. -/
def slots (v : BitVec 192) : List (Nat × Nat × Nat) :=
  ((List.range 4).map (fun e => (e, slotTime v e, slotAct v e))).filter (fun x => x.2.2 != 0)

/-- The kind code of an action code, for the spacing checks. -/
def kindOf (a : Nat) : Nat := match actOf a with | some x => Act.kind x | none => 8

/-- The slot whose edge comes too soon after an earlier edge of the same kind (REASON 4). Where several pairs clash it is the later
slot of the first clashing pair (DESIGN CHOICE, log entry 67: R150 does not say which slot EDGE names). -/
def sameKindClash : List (Nat × Nat × Nat) → Option Nat
  | [] => none
  | x :: l =>
    match l.find? (fun y => kindOf y.2.2 == kindOf x.2.2 && decide (y.2.1 < x.2.1 + 1024)) with
    | some y => some y.1
    | none => sameKindClash l

/-- The drive edge that comes too soon after the drive edge before it (REASON 5). -/
def pulseClash : List (Nat × Nat × Nat) → Option Nat
  | x :: y :: l =>
    if kindOf x.2.2 != kindOf y.2.2 && decide (y.2.1 < x.2.1 + 640) then some y.1 else pulseClash (y :: l)
  | _ => none

/-- The edge whose time is before that of an earlier slot (REASON 3). -/
def orderClash : List (Nat × Nat × Nat) → Option Nat
  | x :: y :: l => if y.2.1 < x.2.1 then some y.1 else orderClash (y :: l)
  | _ => none

/-- R150: the first failing check of a character under period `per`, with its slot. -/
def charReason (per : Nat) (v : BitVec 192) : Option (Nat × Nat) :=
  let l := slots v
  match l.find? (fun x => decide (13 < x.2.2)) with
  | some x => some (1, x.1)
  | none =>
    match l.find? (fun x => decide (2 * per ≤ x.2.1)) with
    | some x => some (2, x.1)
    | none =>
      match orderClash l with
      | some e => some (3, e)
      | none =>
        match sameKindClash l with
        | some e => some (4, e)
        | none => (pulseClash (l.filter (fun x => decide (x.2.2 ≤ 4)))).map (fun e => (5, e))

/-- R150: entry `e` of space 0x5 of octet `o` commits with value `v`. -/
def commitChar (s : State) (o e : Nat) (v : BitVec 192) : State :=
  match owner s o with
  | none => s
  | some p =>
    let j := e / 1024
    let t := e / 16 % 64
    match charReason (period s p t) v with
    | none => setWide s .oct o 5 e v
    | some r =>
      let s1 := setF (setF s F.OCT_TSREJ_REASON o r.1) F.OCT_TSREJ_SET o t
      let s2 := setF (setF (setF s1 F.OCT_TSREJ_CHAR o (e % 16)) F.OCT_TSREJ_EDGE o r.2) F.OCT_TSREJ_CH o j
      raise s2 .oct o E.OCT_TS_REJECT

/-- R151: the first committed edge of set `t` at or beyond 2P: template channel, character, slot. -/
def configClash (s : State) (p t per : Nat) : Option (Nat × Nat × Nat) :=
  (((chansOf s p).zipIdx.flatMap (fun x => (List.range 16).flatMap (fun c =>
    ((slots (waveChar s x.1 t c)).filter (fun y => decide (2 * per ≤ y.2.1))).map (fun y => (x.2, c, y.1)))))).head?

/-- R151: the configuration of set `t` of polder `p` commits with value `v`. Where several checks fail the reason recorded is the first
of 6, 7, 2; REASON 6 and 7, which no slot offends, record TCH, CHAR and EDGE 0 (DESIGN CHOICE, log entry 67: R151 gives no order). -/
def commitConfig (s : State) (p t : Nat) (v : BitVec 192) : State :=
  let n := v.toNat
  let rej (reason tch c e : Nat) : State :=
    let s1 := setF (setF s F.POL_TSREJ_REASON p reason) F.POL_TSREJ_SET p t
    let s2 := setF (setF (setF s1 F.POL_TSREJ_CHAR p c) F.POL_TSREJ_EDGE p e) F.POL_TSREJ_TCH p tch
    raise s2 .pol p E.POL_TS_REJECT
  if bits n 0 20 = 0 then rej 6 0 0 0
  else if cfgCompact n && decide (3 < cfgPark n) then rej 7 0 0 0
  else match configClash s p t (cfgPeriod n) with
    | some x => rej 2 x.1 x.2.1 x.2.2
    | none => setWide s .pol p 6 t v

/-- R152: a set of a polder is cleared. -/
def clearSet (s : State) (p t : Nat) : State :=
  let s1 := forAll (chansOf s p) s (fun s ch => forAll (List.range 16) s (fun s c =>
    setWide s .oct (ch / 8) 5 (charEntry (ch % 8) t c) 0))
  setWide s1 .pol p 6 t (wideDefault .pol 6)

/-- Every entry of a wide space returns to its default, and its staging register holds no entry. -/
def clearSpace (s : State) (pg : Page) (n sp : Nat) : State :=
  { s with wide := s.wide.filter (fun e => e.1 % 32 != pg.code || e.1 / 2 ^ 34 != wideKey pg n sp 0 / 2 ^ 34)
           stage := s.stage.filter (fun e => e.1 != wideKey pg n sp 0) }

/-! Deskew (R157 to R159). -/

/-- Nearest integer to n / d, halves away from zero (DESIGN CHOICE, log entry 67: R157 does not say how its round() breaks ties). -/
def roundDiv (n : Int) (d : Nat) : Int :=
  if 0 ≤ n then ((2 * n + d) / (2 * d : Nat)) else -((2 * (-n) + d) / (2 * d : Nat))

/-- The temperature term of a channel, drive or compare (R157): T in 0.125 K, T0 in °C. -/
def tempTarget (s : State) (ch : Nat) (drive : Bool) : Int :=
  let j := ch % 8
  let o := ch / 8
  let tc := signed (if drive then getF s (F.OCT_X6_TCOEF_TCD j) o else getF s (F.OCT_X6_TCOEF_TCC j) o) 16
  let t := signed (getF s F.CDI_DIETEMP_T (ch / 64)) 16
  let t0 := signed (getF s (F.OCT_X6_CALINFO_T0 j) o) 8
  roundDiv (tc * (t - 8 * t0)) 2048

/-- The offset before its limit (R157). -/
def rawOffset (s : State) (ch : Nat) (drive : Bool) : Int :=
  let j := ch % 8
  let o := ch / 8
  let x := chanOf s ch
  let mofs := signed (getF s F.BGL_MOFS 0) 16
  if drive then signed (getF s (F.OCT_X6_DSKD_DDSK j) o) 16 + x.tempD - x.pdly.toNat + mofs
  else signed (getF s (F.OCT_X6_DSKC_CDSK j) o) 16 + x.tempC + x.pdly.toNat + mofs

/-- R159: the nearer limit. -/
def limitOffset (v : Int) : Int := if v < -16384 then -16384 else if 16383 < v then 16383 else v

/-- The part of the offset in force that was cut: how far an edge lies off its place (R159). -/
def cutOffset (s : State) (ch : Nat) (drive : Bool) : Int :=
  let v := if drive then (chanOf s ch).offD else (chanOf s ch).offC
  limitOffset v - v

/-- The offsets of a channel take effect (R157 to R159). -/
def takeDeskew (s : State) (ch : Nat) : State :=
  let j := ch % 8
  let o := ch / 8
  let d := rawOffset s ch true
  let c := rawOffset s ch false
  let s1 := setChan s ch { chanOf s ch with offD := d, offC := c, dskDue := false }
  let s2 := setF (setF s1 (F.OCT_X6_APPD_DOFS j) o (unsign (limitOffset d) 18)) (F.OCT_X6_APPC_COFS j) o (unsign (limitOffset c) 18)
  raiseIf (limitOffset d != d || limitOffset c != c) s2 .oct o E.OCT_DSK_CLIP

/-- A change of the offsets of a channel (R158): at once, but on an ACTIVE octet at the next vector word. -/
def applyDeskew (s : State) (ch : Nat) : State :=
  if getF s F.OCT_STATE_PSTATE (ch / 8) = 3 then setChan s ch { chanOf s ch with dskDue := true } else takeDeskew s ch

/-- A vector word begins, or the octet is ACTIVE no more: a change that waited takes effect (R158). -/
def dueDeskew (s : State) (ch : Nat) : State := if (chanOf s ch).dskDue then takeDeskew s ch else s

/-- One step of at most 1 towards the target (R158). -/
def stepTo (a b : Int) : Int := if a < b then a + 1 else if b < a then a - 1 else a

/-- R158: once per housekeeping round the temperature terms follow. -/
def deskewRound (s : State) : State :=
  forAll (List.range 512) s (fun s ch =>
    let x := chanOf s ch
    let d := stepTo x.tempD (tempTarget s ch true)
    let c := stepTo x.tempC (tempTarget s ch false)
    if d = x.tempD ∧ c = x.tempC then s else applyDeskew (setChan s ch { x with tempD := d, tempC := c }) ch)

/-- R159: PDLY is read as the polder enters ARMED. -/
def takePdly (s : State) (p : Nat) : State :=
  forAll (chansOf s p) s (fun s ch =>
    applyDeskew (setChan s ch { chanOf s ch with pdly := BitVec.ofNat 16 (getF s (F.OCT_X6_PDLY_PDLY (ch % 8)) (ch / 8)) }) ch)

/-! Self-calibration (R160). -/

/-- The command starts: octets of the die that are not SAFE are skipped. -/
def selfcalStart (s : State) (d : Nat) : State :=
  let safe := (List.range 8).filter (fun k => getF s F.OCT_STATE_PSTATE (8 * d + k) == 1)
  let skip := ((List.range 8).filter (fun k => !safe.contains k)).foldl (fun n k => n + 2 ^ k) 0
  setDie (setF s F.CDI_CALSKIP_OCT d skip) d { dieOf s d with selfcal := true, calOcts := safe.map (fun k => 8 * d + k) }

/-- An octet leaves SAFE during the run: it is abandoned. -/
def selfcalLeave (s : State) (o : Nat) : State :=
  let d := o / 8
  let x := dieOf s d
  if x.selfcal && x.calOcts.contains o then
    setDie (setF s F.CDI_CALSKIP_OCT d (getF s F.CDI_CALSKIP_OCT d ||| 2 ^ (o % 8))) d { x with calOcts := x.calOcts.filter (· != o) }
  else s

/-- R160: channel `c` takes its measured values, with T0 the die temperature; they apply as one step (R158). A channel for which the
happening gives none takes free values. -/
def calChan (s : State) (t0 : Nat) (rs : List CalResult) (c : Nat) : State :=
  let j := c % 8
  let o := c / 8
  let r : Nat × Nat × State := match rs.find? (fun r => r.ch.val == c) with
    | some r => (r.ddsk.toNat, r.cdsk.toNat, s)
    | none =>
      let f := freeW s
      let g := freeW f.2
      (f.1.toNat % 65536, g.1.toNat % 65536, g.2)
  let s1 := setF (setF r.2.2 (F.OCT_X6_DSKD_DDSK j) o r.1) (F.OCT_X6_DSKC_CDSK j) o r.2.1
  let s2 := setF (setF s1 (F.OCT_X6_CALINFO_T0 j) o t0) (F.OCT_X6_CALINFO_SCVALID j) o 1
  applyDeskew (setChan s2 c { chanOf s2 c with tempD := tempTarget s2 c true, tempC := tempTarget s2 c false }) c

/-- T0 in °C is the die temperature at the end of the run (R160). DIETEMP holds it in eighths of a kelvin; `t0` says to which of the two
neighbouring degrees it is rounded (R160 gives no rounding; log entry 67). -/
def calTemp (s : State) (d : Nat) (t0 : BitVec 8) : Int :=
  let t := signed (getF s F.CDI_DIETEMP_T d) 16
  if (8 * t0.toInt - t).natAbs < 8 then t0.toInt else t / 8

/-- SELFCAL_DONE: every octet calibrated takes its values. -/
def execSelfcalDone (d : Fin 8) (t0 : BitVec 8) (rs : List CalResult) (s : State) : Host.Outcome State Fault Refusal :=
  let s := cycle s
  let x := dieOf s d.val
  .next (if !x.selfcal then s
  else
    let s1 := forAll (x.calOcts.flatMap (fun o => (List.range 8).map (fun j => 8 * o + j))) s
      (fun s' c => calChan s' (unsign (calTemp s d.val t0) 8) rs c)
    let s2 := setDie (setF s1 F.CDI_CALCTL_SELFCAL d.val 0) d.val { x with selfcal := false, calOcts := [] }
    if getF s F.CDI_CALSKIP_OCT d.val = 0 then raise s2 .cdi d.val E.CDI_SELFCAL_DONE
    else raise s2 .cdi d.val E.CDI_SELFCAL_SKIP)

end Sys2Proof.Machine
end

