-- ==== Sys2Proof/Machine/Nvm.lean ====
section
/-! DEFINITION. Non-volatile records: the rings of the flash, the selection and loading of records, record writes and refresh
(R418, R450 to R456). -/

namespace Sys2Proof.Machine

/-! Types and rings (R451, R453). -/

/-- The ring of a record type. -/
def nvmRing (typ : Nat) : Nat :=
  if typ = 0x0010 then 1 else if typ = 0x0020 ∨ typ = 0x0021 then 2 else if typ = 0x0030 then 3 else 0

def storeTypes : List Nat := [1, 2, 3, 4, 5, 6]

def knownType (typ : Nat) : Bool := ([1, 2, 3, 4, 5, 6, 0x10, 0x20, 0x21, 0x30] : List Nat).contains typ

/-- Bytes of a ring. -/
def ringSize (r : Nat) : Nat := if r = 2 then 0x40000 else if r = 3 then 0x10000 else 0x200000

/-- Bytes kept erased ahead of the write position. The hours ring is as long as the 64 KiB of R452; its current sector and the
one before it stand. -/
def eraseAhead (r : Nat) : Nat := if r = 3 then 0xE000 else 0x10000

/-- The bytes a record occupies: to the first 16-byte boundary after it (R452, R454). -/
def recBytes (len : Nat) : Nat := (16 + (len + 3) / 4 * 4 + 8 + 15) / 16 * 16

/-- The end of the erased sectors ahead of a write position, over all laps. -/
def erasedTo (r wpos : Nat) : Nat := 4096 * ((wpos + eraseAhead r + 4095) / 4096)

/-- A record of ring `r` at `pos` still stands when the ring is written up to `wpos`. -/
def stands (r wpos pos : Nat) : Bool := decide (erasedTo r wpos ≤ pos + ringSize r)

def wposOf (s : State) (r : Nat) : Nat := Store.get s.nvm.wpos 0 r

/-- The highest erase count of any sector (R467). -/
def wearOf (s : State) : Nat :=
  ((List.range 4).map (fun r => (erasedTo r (wposOf s r) - 1) / ringSize r)).foldl Nat.max (Nat.max s.nvm.eraseA s.nvm.eraseB)

/-- R454: a record is committed. -/
def committed (r : NvmRecord) : Bool :=
  r.commit == 0xC0A117ED && r.crcOk && knownType r.typ.toNat && r.ver == 1

/-- R454: a correct commit word with a failed check. -/
def badRecord (r : NvmRecord) : Bool := r.commit == 0xC0A117ED && !committed r

/-- One above the highest SEQ of any header (R454). -/
def scanSeq (s : State) : Nat := s.nvm.recs.foldl (fun n x => Nat.max n (x.r.seq.toNat + 1)) 0

/-- The next SEQ: the register once the records have been selected. -/
def nextSeq (s : State) : Nat :=
  if isSet s F.NVM_STATE_LOADED 0 then (get64 s F.NVM_SEQ_LO_S F.NVM_SEQ_HI_S 0).toNat else scanSeq s

/-- The newest of the records that satisfy `f`. -/
def newest (l : List FlashRec) (f : NvmRecord → Bool) : Option FlashRec :=
  (l.filter (fun x => f x.r)).foldl (fun m x => match m with
    | none => some x
    | some y => if y.r.seq.toNat ≤ x.r.seq.toNat then some x else some y) none

/-- The newest committed record of a type. -/
def newestOf (s : State) (typ : Nat) : Option FlashRec := newest s.nvm.recs (fun r => committed r && r.typ.toNat == typ)

/-! Contexts (R448, R462, R463): "CS5120-" and what follows. -/

def ctxBase : List Byte := [0x43, 0x53, 0x35, 0x31, 0x32, 0x30, 0x2D]
def ctxFw : List Byte := ctxBase ++ [0x46, 0x57]
def ctxAuth : List Byte := ctxBase ++ [0x41, 0x55, 0x54, 0x48]
def ctxAtt : List Byte := ctxBase ++ [0x41, 0x54, 0x54]

/-! Images (R447, R448). -/

/-- Bytes 0 to 95 of the header, which the signature covers. -/
def imgHead (x : FwImage) : List Byte :=
  toBytes 4 x.body.length ++ toBytes 2 x.minor.toNat ++ toBytes 2 x.major.toNat ++ [x.svn, x.lcmask] ++ x.pad ++
    x.key ++ x.digest

/-- The whole image (R447). -/
def imgBytes (x : FwImage) : List Byte := imgHead x ++ x.sig ++ x.tail ++ x.body

/-- The image whose bytes are `bs`; none where they are not as long as the header says or the body is too long. -/
def parseImg (bs : List Byte) : Option FwImage :=
  let at' (o n : Nat) : List Byte := (bs.drop o).take n
  let len := ofBytes (at' 0 4)
  if bs.length = 16384 + len ∧ len ≤ 2080768 then
    some { minor := BitVec.ofNat 16 (ofBytes (at' 4 2)), major := BitVec.ofNat 16 (ofBytes (at' 6 2)),
           svn := BitVec.ofNat 8 (ofBytes (at' 8 1)), lcmask := BitVec.ofNat 8 (ofBytes (at' 9 1)),
           key := at' 16 48, digest := at' 64 32, sig := at' 96 16224, body := bs.drop 16384
           pad := at' 10 6, tail := at' 16320 64 }
  else none

/-- R458: slot `k` holds an owner key hash that is valid. -/
def okhValid (s : State) (k : Nat) : Bool := !(Store.get s.otp.okh [] k).isEmpty && !s.otp.revoked.contains k

/-- R448: the image may run. -/
def imgOk (s : State) (x : FwImage) : Bool :=
  let h := Config.sha256 x.key
  (h == s.otp.vkh || (s.otp.lc == 1 && (List.range 4).any (fun k => okhValid s k && Store.get s.otp.okh [] k == h))) &&
    x.lcmask.toNat.testBit s.otp.lc && (s.otp.lc == 0 || decide (s.otp.arb ≤ x.svn.toNat)) && decide (x.svn.toNat ≤ 64) &&
    Config.sha256 x.body == x.digest && Config.slhVerify x.key ctxFw (imgHead x) x.sig

/-! Writing (R452). -/

/-- A record is programmed at the write position of its ring, and the sectors ahead are erased. -/
def programRec (s : State) (r : NvmRecord) : State :=
  let g := nvmRing r.typ.toNat
  let pos := wposOf s g
  let w := pos + recBytes r.payload.length
  let x : FlashRec := { ring := g, pos := pos, hour := getF s F.NVM_POH_H 0, r := r }
  let recs := (s.nvm.recs ++ [x]).filter (fun x => x.ring != g || stands g w x.pos)
  let s1 := { s with nvm := { s.nvm with recs := recs, wpos := Store.put s.nvm.wpos 0 g w } }
  setF s1 F.NVM_WEAR_N 0 (wearOf s1)

/-- A record with the next SEQ. -/
def putRec (s : State) (typ : Nat) (payload : List Byte) : State :=
  let q := nextSeq s
  let s1 := programRec s { typ := BitVec.ofNat 16 typ, ver := 1, seq := BitVec.ofNat 64 q, payload := payload,
                           commit := 0xC0A117ED, crcOk := true }
  set64 s1 F.NVM_SEQ_LO_S F.NVM_SEQ_HI_S 0 (BitVec.ofNat 64 (q + 1))

/-- Records of the store ring that are the newest of their type and would not stand after `n` more bytes are written again first. -/
def rescue (s : State) (n : Nat) : Nat → State
  | 0 => s
  | fuel + 1 =>
    match (storeTypes.filterMap (newestOf s)).find? (fun x => !stands 0 (wposOf s 0 + n) x.pos) with
    | none => s
    | some x => rescue (putRec s x.r.typ.toNat x.r.payload) n fuel

/-- The ring of a type has room for `n` more bytes. -/
def makeRoom (s : State) (typ n : Nat) : State := if nvmRing typ = 0 then rescue s n 12 else s

/-- R452: the firmware writes a record. -/
def writeRec (s : State) (typ : Nat) (payload : List Byte) : State :=
  putRec (makeRoom s typ (recBytes payload.length)) typ payload

/-! Payloads that the firmware makes (R453). -/

/-- A set of polders as a 64-bit map. -/
def polMap (ps : List Nat) : Nat := ((List.range 64).map (fun p => if ps.contains p then 2 ^ p else 0)).sum

/-- FAULT: source (4 bytes), stamp (8), reaction (4), polder map (8). -/
def faultPayload (src : Nat) (t : Stamp) (react : Nat) (ps : List Nat) : List Byte :=
  toBytes 4 src ++ toBytes 8 t.toNat ++ toBytes 4 react ++ toBytes 8 (polMap ps)

/-- The calibration fields of every channel, in the model's order, a word each (R453). -/
def calChans : List (Fld × Nat) :=
  (List.range 64).flatMap (fun o => (List.range 8).flatMap (fun j =>
    [(F.OCT_X6_DSKD_DDSK j, o), (F.OCT_X6_DSKC_CDSK j, o), (F.OCT_X6_TCOEF_TCD j, o), (F.OCT_X6_TCOEF_TCC j, o),
     (F.OCT_X6_CALINFO_T0 j, o), (F.OCT_X1_ZOUT_Z j, o), (F.OCT_X1_CMPTRIM_OFSH j, o), (F.OCT_X1_CMPTRIM_OFSL j, o)]))

/-- The calibration fields of the module (R453). CK0CPYd.DLY, whose reset is 'from NVM' (R344), stands in no record of R453: it stays
0 until the servo moves it (DESIGN CHOICE, log entry 55). -/
def calMod : List (Fld × Nat) :=
  (List.range 8).map (fun d => (F.CLK_CK0CPY_TGT d, 0)) ++ [(F.BGL_RXDLY_D, 0), (F.BGL_XTRIM_T, 0), (F.BGL_ETURN_T, 0)]

/-- The words of the parametric coefficients of a channel: gain and offset of ranges 0 to 4 (R102, R453). -/
def pcalWords : Nat := 10

/-- The fields of a DACVAL record (R453). -/
def dacFields : List (Fld × Nat) :=
  (List.range 64).flatMap (fun o => (List.range 8).flatMap (fun j => (List.range 7).flatMap (fun d =>
    [(F.OCT_X4_PWRUP j d, o), (F.OCT_X4_FAULT j d, o)]))) ++
  (List.range 32).flatMap (fun d => [(F.DSC_PWRUP_V (d % 8), d / 8), (F.DSC_FAULTV_V (d % 8), d / 8)])

/-- The payload of a CAL record of the values in use (R453, R455): the fields of the channels, their parametric coefficients, the
fields of the module. -/
def calPayload (s : State) : List Byte :=
  calChans.flatMap (fun x => toBytes 4 (getF s x.1 x.2)) ++
  (List.range 512).flatMap (fun c => (List.range pcalWords).flatMap (fun i => toBytes 4 (((chanOf s c).pcal.getD i 0).toNat))) ++
  calMod.flatMap (fun x => toBytes 4 (getF s x.1 x.2))

/-- Word `i` of a payload. -/
def payWord (bs : List Byte) (i : Nat) : Nat := ofBytes ((bs.drop (4 * i)).take 4)

/-- The fields of `l` take the words of a payload in order. -/
def loadFields : List (Fld × Nat) → List Byte → State → State
  | [], _, s => s
  | x :: l, bs, s => loadFields l (bs.drop 4) (setF s x.1 x.2 (ofBytes (bs.take 4)))

/-- The values of a CAL record are loaded, and the offsets of every channel are formed (R102, R158, R454). -/
def loadCal (s : State) (bs : List Byte) : State :=
  let n := 4 * calChans.length
  let s1 := loadFields calChans bs s
  let s2 := forAll (List.range 512) s1 (fun s c => setChan s c { chanOf s c with
    pcal := (List.range pcalWords).map (fun i => BitVec.ofNat 32 (payWord bs (calChans.length + pcalWords * c + i))) })
  let s3 := loadFields calMod (bs.drop (n + 4 * 512 * pcalWords)) s2
  forAll (List.range 512) s3 applyDeskew

/-- A configuration word of the collector has been written, and its parity with it (R417). -/
def parityMade (s : State) (f : Nat) : State := { s with fltBad := s.fltBad.filter (· != f) }

/-- FLT space 0x1 of source `f` takes a configuration word; REACT of FS188 and FS189 is fixed (R426). -/
def setFltCfg (s : State) (f v : Nat) : State :=
  let s1 := setF (setF (parityMade s f) (F.FLT_X1_EN f) 0 (bits v 0 1)) (F.FLT_X1_AUTOREC f) 0 (bits v 5 1)
  let s2 := setF (setF s1 (F.FLT_X1_QUIET f) 0 (bits v 6 14)) (F.FLT_X1_TGT f) 0 (bits v 20 6)
  if f = 188 ∨ f = 189 then s2 else setF s2 (F.FLT_X1_REACT f) 0 (bits v 3 2)

def thr (s : State) (f : Fld) : Int := signed (getF s f 0) 16

/-- A write of THRA (THRB when `b`) with the value `v` (R438). -/
def thrSet (s : State) (b : Bool) (v : Nat) : State :=
  let lo := signed v 16
  let hi := signed (v / 65536) 16
  let ok := if b then
      decide (hi < thr s F.HKP_THRA_THR_START) && decide (thr s F.HKP_THRA_THR_FULL < lo) && decide (lo ≤ 1120)
    else
      decide (thr s F.HKP_THRB_THR_RESUME < lo) && decide (lo < hi) && decide (hi < thr s F.HKP_THRB_THR_SHUT)
  if !ok then raise s .hkp 0 E.HKP_THR_REJECT
  else if b then setF (setF s F.HKP_THRB_THR_SHUT 0 (v % 65536)) F.HKP_THRB_THR_RESUME 0 (v / 65536)
  else setF (setF s F.HKP_THRA_THR_START 0 (v % 65536)) F.HKP_THRA_THR_FULL 0 (v / 65536)

/-- DEFAULTS: a value for the P- fields of the register at a fabric address; FORCE and commands are not among them. The thresholds are
judged as a write of theirs is (R438). -/
def applyDefault (s : State) (a v : Nat) : State :=
  match locate a with
  | none => s
  | some pg =>
    if pageOff a = 0x024 then s
    else if pg.page = .hkp ∧ pageOff a = 0x044 then thrSet s false v
    else if pg.page = .hkp ∧ pageOff a = 0x048 then thrSet s true v
    else (pageFields pg.page pg.inst (pageOff a)).foldl (fun s f =>
      if f.priv && f.ty == .rw then setF s f pg.inst (bits v f.lo f.w.val) else s) s

def applyDefaults : Nat → List Byte → State → State
  | 0, _, s => s
  | n + 1, bs, s => applyDefaults n (bs.drop 8) (applyDefault s (ofBytes (bs.take 4)) (ofBytes ((bs.drop 4).take 4)))

/-- The payload of a loaded record. -/
def loadedOf (s : State) (typ : Nat) : Option NvmRecord := s.nvm.loaded.find? (fun r => r.typ.toNat == typ)

/-- R136: without a committed DACVAL record every level DAC takes 0 V or 0 mA, every DS controller code 0 with OFF. -/
def defaultDacs (s : State) : State :=
  let s1 := forAll (List.range 64) s (fun s o => forAll (List.range 8) s (fun s j => forAll (List.range 7) s (fun s d =>
    let v := if d ≤ 4 then 0x8000 else 0
    setF (setF s (F.OCT_X4_PWRUP j d) o v) (F.OCT_X4_FAULT j d) o v)))
  forAll (List.range 32) s1 (fun s d => setF (setF s (F.DSC_PWRUP_V (d % 8)) (d / 8) 0) (F.DSC_FAULTV_V (d % 8)) (d / 8) 0)

/-- What the firmware applies from the loaded records (R443, R454). -/
def applyRecords (s : State) : State :=
  let s1 := match loadedOf s 1 with | some r => loadCal s r.payload | none => s
  let s2 := match loadedOf s 2 with | some r => loadFields dacFields r.payload s1 | none => defaultDacs s1
  let s3 := match loadedOf s 4 with
    | some r => forAll (List.range 192) s2 (fun s f => setFltCfg s f (payWord r.payload f))
    | none => s2
  match loadedOf s 5 with | some r => applyDefaults (r.payload.length / 8) r.payload s3 | none => s3

/-- The PWRUP values reach every level DAC and every DS controller (R136); in Embankment mode the level DACs take FAULT. -/
def applyPwrup (s : State) : State :=
  let s1 := forAll (List.range 64) s startDacs
  forAll (List.range 32) s1 (fun s d =>
    let v := pwrupV s d
    setDsOn (setPoint s d (v % 65536) (v.testBit 16)) d (v.testBit 17 && !isSet s F.FLT_STATE_EMBANK 0 && !(dsOf s d).held))

/-! Selection (R435, R454). -/

/-- The SEQ that a THACK record acknowledges. -/
def ackedSeq (r : NvmRecord) : Nat := ofBytes (r.payload.take 8)

/-- The newest thermal record that no THACK record names. -/
def unackedThermal (s : State) : Option (BitVec 64) :=
  let acks := (s.nvm.recs.filter (fun x => committed x.r && x.r.typ == 0x21)).map (fun x => ackedSeq x.r)
  (newest s.nvm.recs (fun r => committed r && r.typ == 0x20 && !acks.contains r.seq.toNat)).map (·.r.seq)

/-- The selection of records. -/
def selectRecords (s : State) : State :=
  let bad := (s.nvm.recs.filter (fun x => badRecord x.r)).length
  let s1 := addCt s F.NVM_BADREC_N 0 bad
  let s2 := raiseIf (decide (0 < bad)) s1 .nvm 0 E.NVM_BADREC
  let q := scanSeq s2
  let s3 := { s2 with nvm := { s2.nvm with loaded := storeTypes.filterMap (fun t => (newestOf s2 t).map (·.r)),
                                           thermal := unackedThermal s2 } }
  let poh := match newestOf s3 0x30 with | some x => ofBytes (x.r.payload.take 8) | none => 0
  let s4 := setF (set64 s3 F.NVM_SEQ_LO_S F.NVM_SEQ_HI_S 0 (BitVec.ofNat 64 q)) F.NVM_POH_H 0 poh
  setF (setF (setF s4 F.NVM_WEAR_N 0 (wearOf s4)) F.NVM_STATE_LOADED 0 1) F.DEV_STATE_THERMREC 0 (b2n s4.nvm.thermal.isSome)

/-! Fault records (R418). -/

/-- A FAULT record; those that `limited` marks stop at 16 within 60 s. -/
def faultRecord (s : State) (src : Nat) (t : Stamp) (react : Nat) (ps : List Nat) (limited : Bool) : State :=
  let recent := s.nvm.fltStamps.filter (fun x => !earlier x (now s - ticks 96000000000))
  if limited then
    if 16 ≤ recent.length then raise (addCt s F.FLT_NVMSKIP_N 0 1) .flt 0 E.FLT_NVMSKIP
    else
      let s1 := writeRec s 0x10 (faultPayload src t react ps)
      { s1 with nvm := { s1.nvm with fltStamps := recent ++ [now s] } }
  else writeRec s 0x10 (faultPayload src t react ps)

/-! Operations of the NVM page (R455, R456). -/

/-- The firmware can write records: an image runs and the records have been selected. -/
def nvmReady (s : State) : Bool := s.pwr.img && isSet s F.NVM_STATE_LOADED 0

def nvmBusy (s : State) (op : NvmOp) : State :=
  setF { s with nvm := { s.nvm with op := some op } } F.NVM_STATE_BUSY 0 1

def nvmIdle (s : State) : State :=
  [F.NVM_STATE_BUSY, F.NVM_WRCTL_GO, F.NVM_CALSAVE_GO, F.NVM_REFRESH_GO].foldl (fun s f => setF s f 0 0)
    { s with nvm := { s.nvm with op := none } }

def wrReject (s : State) (why : Nat) : State := raise (setF s F.NVM_WRERR_REASON 0 why) .nvm 0 E.NVM_WR_REJECT

/-- R455: LEN fits the type; IDCERT takes any length that a record can hold. -/
def lenFits (typ len : Nat) : Bool :=
  match typ with
  | 2 => len == 28928
  | 3 => len == 24
  | 4 => len == 768
  | 5 => decide (len % 8 = 0) && decide (len ≤ 8192)
  | _ => decide (len ≤ 65520)

/-- The areas of the mailbox (R465). -/
def mbReq (port : Nat) : Nat := 0x0108000000 + 0x20000 * port
def mbRep (port : Nat) : Nat := 0x0108010000 + 0x20000 * port

/-- In ROM recovery the module accepts only FW_UPDATE (R455): the write is refused; the REASON, which R455 does not give, is a free
value (log entry 72). -/
def wrRom (s : State) : State := wrReject (freeW s).2 ((freeW s).1.toNat % 16)

/-- WRCTL.GO carried by `port`. -/
def recordGo (s : State) (port : Nat) : State :=
  let typ := getF s F.NVM_WRCTL_TYPE 0
  let len := getF s F.NVM_WRLEN_LEN 0
  if isSet s F.SEC_STATE_ROMREC 0 then wrRom s
  else if !(decide (2 ≤ typ) && decide (typ ≤ 6)) || (typ == 6 && s.otp.lc != 0) then wrReject s 1
  else if !lenFits typ len then wrReject s 2
  else if isSet s F.FLT_STATE_EMBANK 0 then wrReject s 3
  else if s.nvm.op.isSome then wrReject s 4
  else setF (nvmBusy (setF s F.NVM_WRERR_REASON 0 0)
    (.write (BitVec.ofNat 16 typ) (Memory.readN s.mbox (mbReq port) len) false)) F.NVM_WRCTL_GO 0 1

/-- CALSAVE.GO. -/
def calsaveGo (s : State) : State :=
  if isSet s F.SEC_STATE_ROMREC 0 then wrRom s
  else if isSet s F.FLT_STATE_EMBANK 0 then wrReject s 3
  else if s.nvm.op.isSome then wrReject s 4
  else setF (nvmBusy (setF s F.NVM_WRERR_REASON 0 0) (.write 1 (calPayload s) true)) F.NVM_CALSAVE_GO 0 1

/-- The write in progress ends. -/
def writeDone (s : State) (ok : Bool) : State :=
  match s.nvm.op with
  | some (.write typ payload _) =>
    let s1 := nvmIdle s
    if ok then raise (writeRec s1 typ.toNat payload) .nvm 0 E.NVM_WR_DONE else wrReject s1 5
  | _ => s

/-- WR_DONE (R455). -/
def execWrDone (ok : Bool) (s : State) : Host.Outcome State Fault Refusal := .next (writeDone (cycle s) ok)

/-- A slot is written again from a verified copy, unless a slot was erased within the last 24 hours (R456). -/
def refreshSlot (s : State) (b : Bool) : State :=
  let h := getF s F.NVM_POH_H 0
  let has := (if b then s.nvm.slotB else s.nvm.slotA).any (imgOk s)
  let wait := match s.nvm.slotHr with | some x => decide (h < x + 24) | none => false
  if !has || wait then s
  else
    let s1 := { s with nvm := { s.nvm with slotHr := some h
                                           hourA := if b then s.nvm.hourA else h
                                           hourB := if b then h else s.nvm.hourB
                                           eraseA := if b then s.nvm.eraseA else s.nvm.eraseA + 1
                                           eraseB := if b then s.nvm.eraseB + 1 else s.nvm.eraseB } }
    setF s1 F.NVM_WEAR_N 0 (wearOf s1)

/-- The records are written again in the order of their SEQ. A THACK record names the new SEQ of the record it acknowledged. -/
def rewrite : List NvmRecord → List (Nat × Nat) → State → State
  | [], _, s => s
  | r :: l, m, s =>
    let q := nextSeq s
    let pay := if r.typ = 0x21 then toBytes 8 (match m.find? (·.1 == ackedSeq r) with | some e => e.2 | none => ackedSeq r)
      else r.payload
    rewrite l ((r.seq.toNat, q) :: m) (writeRec s r.typ.toNat pay)

/-- The records that refresh keeps: the newest of each store type and the thermal ring. -/
def refreshable (s : State) : List NvmRecord :=
  storeTypes.filterMap (fun t => (newestOf s t).map (·.r)) ++
    (s.nvm.recs.filter (fun x => committed x.r && x.ring == 2)).map (·.r)

/-- A refresh of the records that satisfy `f`, with the THACK records of those among them, so that an acknowledged record stays
acknowledged. -/
def refreshRecs (s : State) (f : NvmRecord → Bool) : State :=
  let l := refreshable s
  let sel (r : NvmRecord) : Bool := f r || (r.typ == 0x21 && l.any (fun x => x.seq.toNat == ackedSeq r && f x))
  let s1 := rewrite (l.filter sel) [] s
  { s1 with nvm := { s1.nvm with thermal := if s.nvm.thermal.isSome then unackedThermal s1 else none } }

/-- The refresh in progress ends (R456). -/
def refreshEnd (s : State) : State :=
  match s.nvm.op with
  | some .refresh =>
    let s1 := refreshRecs (nvmIdle s) (fun _ => true)
    let first := decide (s1.nvm.hourB < s1.nvm.hourA)
    raise (refreshSlot (refreshSlot s1 first) (!first)) .nvm 0 E.NVM_REFRESH_DONE
  | _ => s

/-- REFRESH_DONE. -/
def execRefreshDone (s : State) : Host.Outcome State Fault Refusal := .next (refreshEnd (cycle s))

/-- REFRESH.GO. -/
def refreshGo (s : State) : State :=
  if s.nvm.op.isSome || isSet s F.SEC_STATE_ROMREC 0 then s else setF (nvmBusy s .refresh) F.NVM_REFRESH_GO 0 1

/-- More than 12 months of powered-on hours since hour `h`. Of the hours between 365 and 366 days `told` tells (log entry 56). -/
def isOld (s : State) (h : Nat) (told : Bool) : Bool :=
  let age := getF s F.NVM_POH_H 0 - h
  decide (8784 < age) || (told && decide (8760 < age))

/-- The powered-on hour of the writing of the record with SEQ `q` (R456). -/
def hourOf (s : State) (q : BitVec 64) : Nat :=
  match s.nvm.recs.find? (fun x => x.r.seq == q) with
  | some x => x.hour
  | none => getF s F.NVM_POH_H 0

/-- DAILY_REFRESH (R456): the records and the slot that are older than 12 months. -/
def execDailyRefresh (old : List (BitVec 64)) (slotA slotB : Bool) (s : State) : Host.Outcome State Fault Refusal :=
  let s := cycle s
  .next (if !nvmReady s || s.nvm.op.isSome then s
  else
    let s1 := refreshRecs s (fun r => isOld s (hourOf s r.seq) (old.contains r.seq))
    let s2 := if isOld s s.nvm.hourA slotA then refreshSlot s1 false else s1
    if isOld s s.nvm.hourB slotB then refreshSlot s2 true else s2)

/-- HOURS_RECORD (R453): a powered-on hour has passed. -/
def execHoursRecord (s : State) : Host.Outcome State Fault Refusal :=
  let s := cycle s
  .next (if !nvmReady s then s
  else
    let h := getF s F.NVM_POH_H 0 + 1
    writeRec (setF s F.NVM_POH_H 0 h) 0x30 (toBytes 8 h ++ toBytes 8 (nextSeq s)))

end Sys2Proof.Machine
end

