-- ==== Sys2Proof/Machine/Sluice.lean ====
section
/-! DEFINITION. The Sluice pool: grants, records, hand-off, drain share (R258 to R274). -/

namespace Sys2Proof.Machine

/-! Stream configuration (R274, space 0x2). -/

def cfgReserve (s : State) (k : Nat) : Nat := wideF s .slu 0 2 k 0 18
def cfgDest (s : State) (k : Nat) : Bool := wideF s .slu 0 2 k 18 1 == 1
def cfgWeight (s : State) (k : Nat) : Nat := Nat.max 1 (wideF s .slu 0 2 k 19 4)
def cfgHwm (s : State) (k : Nat) : Nat := wideF s .slu 0 2 k 23 4
def cfgLwm (s : State) (k : Nat) : Nat := wideF s .slu 0 2 k 27 4
def cfgSpwEn (s : State) (k : Nat) : Bool := wideF s .slu 0 2 k 31 1 == 1
def cfgCap (s : State) (k : Nat) : Nat := wideF s .slu 0 2 k 32 18
def cfgDfmax (s : State) (k : Nat) : Nat := Nat.min 8 (wideF s .slu 0 2 k 50 4)

/-- The pool (R258). -/
def granules : Nat := 131072

/-- The granules of a stream in GSEQ order, the FILLING one last. -/
def Strm.all (x : Strm) : List Gran := x.queue ++ x.retained ++ x.fill.toList

/-- R259: the occupancy of a stream. -/
def held (s : State) (k : Nat) : Nat := (Strm.all (strmOf s k)).length

/-- The numbers of the granules in use. -/
def usedIdx (s : State) : List Nat := (List.range 256).flatMap (fun k => (Strm.all (strmOf s k)).map (·.idx))

/-- The number of FREE granules (R273). -/
def freeCount (s : State) : Nat := granules - (usedIdx s).length

/-- R261: the sum of RESERVE, with stream `k` at `r`. -/
def reserveSum (s : State) (k r : Nat) : Nat :=
  ((List.range 256).map (fun j => if j = k then r else cfgReserve s j)).sum

/-- R260: the shared free count as stream `k` sees it. -/
def sharedFree (s : State) (k : Nat) : Int :=
  (freeCount s : Int) -
    (((List.range 256).filter (· != k)).map (fun j => cfgReserve s j - held s j)).sum

/-- R260; Embankment mode stops grants (R420). -/
def granted (s : State) (k : Nat) : Bool :=
  decide (held s k < cfgCap s k) && (decide (held s k < cfgReserve s k) || decide (0 < sharedFree s k))
    && decide (0 < freeCount s) && !isSet s F.FLT_STATE_EMBANK 0

/-- Which FREE granule is taken is a free value (R260 does not say). -/
def pickFree (s : State) : Nat :=
  let fr := (List.range granules).filter (fun i => !(usedIdx s).contains i)
  fr.getD (Config.granulePick s.free % fr.length) 0

/-! Words of records (R251). -/

/-- Word 0 of a record of `len` words. -/
def recHeader (typ len pol aux rseq : Nat) : BitVec 64 :=
  BitVec.ofNat 64 (typ % 16 + len % 64 * 16 + 1024 * (pol % 64) + 65536 * (aux % 65536) + 2 ^ 32 * (rseq % 2 ^ 32))

def recWords (r : Record) (pol rseq : Nat) : List (BitVec 64) :=
  recHeader r.typ.toNat (r.body.length + 1) pol r.aux.toNat rseq :: r.body

/-- A PAD record of `n` words (R251, R253). -/
def padWords (n pol : Nat) : List (BitVec 64) :=
  if n = 0 then [] else recHeader 0 n pol 0 0 :: List.replicate (n - 1) 0

/-- The words of a granule's records as a list of records, each with its header word. -/
def splitRecs : Nat → List (BitVec 64) → List (List (BitVec 64))
  | 0, _ => []
  | _, [] => []
  | fuel + 1, w :: ws =>
    let len := Nat.max 1 (bits w.toNat 4 6)
    (w :: ws.take (len - 1)) :: splitRecs fuel (ws.drop (len - 1))

/-- The polder of a stream and its capture source (R258). -/
def strmPol (k : Nat) : Nat := k / 4
def strmSrc (k : Nat) : Nat := k % 4

/-- DFLOG of a stream (R269). -/
def dflog (s : State) (k : Nat) : Nat := getF s (F.SLU_X3_DFLOG k) 0

/-- The FRAME of a capture source (R236): 0 OFF, 1 FREE, 2 GATED, 3 WINDOW. -/
def frameOf (s : State) (p src : Nat) : Nat := bits (getF s F.ACQ_SRCCFG_FRAME p) (2 * src) 2

/-- The unit is set for streaming mode, whatever the state of its polder (R261). -/
def streamSet (s : State) (p : Nat) : Bool := isSet s F.ACQ_ACQCTL_EN p && getF s F.ACQ_ACQCTL_MODE p == 3

/-- Streaming mode is on (R246). -/
def streaming (s : State) (p : Nat) : Bool :=
  streamSet s p && rsOf s p != .off

/-- R246, R265: where a stream drains to; true is the host. -/
def drainDest (s : State) (k : Nat) : Bool := streaming s (strmPol k) || cfgDest s k

/-- R244: the stream holds items that no trigger has claimed yet. -/
def retaining (s : State) (k : Nat) : Bool :=
  isSet s F.ACQ_ACQCTL_EN (strmPol k) && getF s F.ACQ_ACQCTL_MODE (strmPol k) != 3 &&
    frameOf s (strmPol k) (strmSrc k) == 3 && (acqOf s (strmPol k)).rcd.isNone

/-! Grants and hand-off. -/

/-- The 512 bytes of a granule (R263). -/
def granWords (g : Gran) (k : Nat) : List (BitVec 64) :=
  BitVec.ofNat 64 (k % 256 + 256 * (g.dflog % 16) + 2 ^ 12 * b2n g.loss + 2 ^ 13 * b2n g.flush + 2 ^ 14 * b2n g.dest
    + 2 ^ 16 * (g.words.length % 64) + 2 ^ 32 * g.gseq.toNat) :: g.opened ::
    (g.words ++ List.replicate (62 - g.words.length) 0)

/-- Granules of stream `k` return to FREE; their memory keeps its words (R397). -/
def freed (s : State) (k : Nat) (gs : List Gran) : State :=
  { s with pool := gs.foldl (fun m g => Store.put m (List.replicate 64 0) g.idx (granWords g k)) s.pool }

/-- R260, R263: stream `k` takes a granule, stamped with the present tick and carrying the present factor and LOSS. -/
def grant (s : State) (k : Nat) : State :=
  let x := strmOf s k
  let g : Gran := { idx := pickFree s, gst := .filling, opened := now s, dflog := dflog s k, loss := x.loss,
                    dest := drainDest s k }
  setStrm { s with free := s.free + 1 } k { x with fill := some g, loss := false }

/-- R264: the FILLING granule is handed to drain. A granule handed before it was full carries FLUSH. -/
def handOff (s : State) (k : Nat) (flush : Bool) : State :=
  let x := strmOf s k
  match x.fill with
  | none => s
  | some g =>
    let g' := { g with gst := .queued, flush := flush, gseq := x.gseq }
    setStrm s k { x with fill := none, queue := x.queue ++ [g'], gseq := x.gseq + 1, closed := x.closed + 512 }

/-- The record is not an item of a capture source: HEAD, TAIL, MARK or EOR (R252). -/
def ctlRec (ws : List (BitVec 64)) : Bool := decide (8 ≤ bits (ws.headD 0).toNat 0 4)

/-- A record holds an item: it is neither PAD nor one of HEAD, TAIL, MARK and EOR. -/
def itemRec (ws : List (BitVec 64)) : Bool := !ctlRec ws && bits (ws.headD 0).toNat 0 4 != 0

/-- The granule holds an item. -/
def Gran.hasItem (g : Gran) : Bool := (splitRecs 62 g.words).any itemRec

/-- R244, R264: the FILLING granule of a retaining stream is closed: with items it becomes RETAINED, with MARK records alone it is
handed to drain. -/
def retain (s : State) (k : Nat) : State :=
  let x := strmOf s k
  match x.fill with
  | none => s
  | some g =>
    if g.hasItem then
      setStrm s k { x with fill := none, retained := x.retained ++ [{ g with gst := .retained }], closed := x.closed + 512 }
    else handOff s k true

/-- A retained granule that a trigger claims joins the queue (R264); it was closed as it became RETAINED. -/
def queueGran (k : Nat) (s : State) (g : Gran) : State :=
  let y := strmOf s k
  let g' := { g with gst := .queued, flush := decide (g.words.length < 62), gseq := y.gseq }
  setStrm s k { y with queue := y.queue ++ [g'], gseq := y.gseq + 1 }

/-- Retained granules `gs` of stream `k` that no trigger claims return to FREE (R244, R264). -/
def discard (s : State) (k : Nat) (gs : List Gran) : State := freed s k gs

/-- The space left in the FILLING granule, too small for the next record, becomes one PAD record (R251). -/
def padOut (s : State) (k : Nat) : State :=
  let x := strmOf s k
  match x.fill with
  | none => s
  | some g => setStrm s k { x with fill := some { g with words := g.words ++ padWords (62 - g.words.length) (strmPol k) } }

/-- R262: records formed with no granule granted are discarded and counted. -/
def dropRec (s : State) (k : Nat) : State :=
  let s1 := addCt (raise s .slu 0 E.SLU_DROP) (F.SLU_X3_DROPCNT k) 0 1
  setStrm s1 k { strmOf s1 k with loss := true }

/-- R244: the oldest retained granule of stream `k` is reused, and the next HEAD shows it. -/
def reuse (s : State) (k : Nat) : State :=
  let x := strmOf s k
  let s1 := discard (setStrm s k { x with retained := x.retained.drop 1 }) k (x.retained.take 1)
  setAcq s1 (strmPol k) { acqOf s1 (strmPol k) with short := true }

/-- The words `ws` of a record enter stream `k`. While the stream retains (R244), a full granule becomes RETAINED, items and MARK
records stand in granules of their own (R253, R264; log entry 38), and where the grant is refused the oldest retained granule is
reused. -/
def putWords (s : State) (k : Nat) (ws : List (BitVec 64)) : State :=
  let ret := retaining s k
  let apart := match (strmOf s k).fill with
    | some g => ret && g.hasItem == ctlRec ws
    | none => false
  let fits := match (strmOf s k).fill with
    | some g => !apart && decide (g.words.length + ws.length ≤ 62)
    | none => false
  let app (s : State) : State :=
    let x := strmOf s k
    match x.fill with
    | some g => setStrm s k { x with fill := some { g with words := g.words ++ ws } }
    | none => s
  if fits then app s
  else
    let s1 := if ret then retain (if apart then s else padOut s k) k else handOff (padOut s k) k false
    if granted s1 k then app (grant s1 k)
    else if ret && !(strmOf s1 k).retained.isEmpty then
      let s2 := reuse s1 k
      if granted s2 k then app (grant s2 k) else dropRec s2 k
    else dropRec s1 k

/-- The Spillway thins only data records (R270, R252). -/
def dataType (typ : Nat) : Bool := decide (1 ≤ typ) && decide (typ ≤ 5)

/-- R270: whether a formed record is kept. A SCOPE record is thinned by RSEQ only beyond the longest interval. -/
def kept (s : State) (k typ rseq : Nat) : Bool :=
  let df := dflog s k
  if !dataType typ then true
  else if typ = 5 then
    let div := getF s F.ACQ_SRCCFG_SCOPEDIV (strmPol k)
    if df + div ≤ 15 then true else rseq % 2 ^ (df + div - 15) == 0
  else rseq % 2 ^ df == 0

/-- A record takes its RSEQ (R252). -/
def takeSeq (s : State) (k : Nat) : State := setStrm s k { strmOf s k with rseq := (strmOf s k).rseq + 1 }

/-- A record is formed for stream `k` (R252, R262, R264, R270). -/
def appendRec (s : State) (k : Nat) (r : Record) : State :=
  let x := strmOf s k
  let s1 := takeSeq s k
  if !kept s k r.typ.toNat x.rseq.toNat then s1
  else putWords s1 k (recWords r (strmPol k) x.rseq.toNat)

/-- A record after which the granule is handed to drain: TAIL, EOR, MARK with cause STOP (R264). What the stream retains is
set apart first, so that only claimed items are drained (R244). -/
def appendFlush (s : State) (k : Nat) (r : Record) : State :=
  let s1 := if retaining s k then retain s k else s
  handOff (appendRec s1 k r) k true

/-! Drain (R265, R266). -/

/-- Granule `idx` of a stream's queue leaves the pool. -/
def freeGran (s : State) (k idx : Nat) : State :=
  let x := strmOf s k
  let gs := x.queue.filter (fun (g : Gran) => g.idx == idx)
  if gs.isEmpty then s
  else addCt (setStrm (freed s k gs) k { x with queue := x.queue.filter (fun (g : Gran) => g.idx != idx) }) (F.SLU_X3_DRAINED k) 0 1

/-- A stream takes part in the shares of its destination (R266). -/
def strmActive (s : State) (k : Nat) : Bool := !(strmOf s k).queue.isEmpty || decide (0 < (strmOf s k).closed)

/-! The capacities of the destinations (R28, R265), in 0.01 GB/s. -/

/-- A port is ACTIVE (R366). -/
def portActive (s : State) (p : Nat) : Bool := getF s F.PHL_STATE_LSTATE p == 6

/-- A port that a host uses: not in ROLE 2 (R384). -/
def hostPort (s : State) (p : Nat) : Bool := p == 0 || getF s F.PHL_STATE_ROLE p != 2

/-- The port is ACTIVE, or will be again after its fast retrain, which keeps what was trained (R378): a packet handed to it is sent. -/
def portUp (s : State) (p : Nat) : Bool := portActive s p || getF s F.PHL_STATE_LSTATE p == 7

/-- The port carries captures, now or after its fast retrain (R265, R382). -/
def carriesCap (s : State) (p : Nat) : Bool :=
  portUp s p && getF s F.PHL_STATE_VER p == 3 && isSet s F.PHL_PHCFG_CAPEN p && hostPort s p

/-- The ports that take granules: their credits are not withheld (R375). -/
def capPorts (s : State) : List Nat := ([0, 1] : List Nat).filter (fun p => carriesCap s p && !isSet s F.PHL_COND_CAPHELD p)

/-- A stream drains to the host; otherwise, whatever its DEST, to the spill ring (R265). -/
def toHost (s : State) (k : Nat) : Bool := drainDest s k && !(capPorts s).isEmpty

/-- Usable capture bandwidth of a trained port (R369); a port below protocol 2.0 carries no capture (R370). -/
def portBw (s : State) (p : Nat) : Nat :=
  if portUp s p && hostPort s p && getF s F.PHL_STATE_VER p == 3 then
    (if isSet s F.PHL_STATE_RATE p then 110 else 275) * getF s F.PHL_STATE_WIDTH p
  else 0

/-- The host capacity (R265). -/
def hostCap (s : State) : Nat := Nat.min 2000 (portBw s 0 + portBw s 1)

/-- The pattern fetch demand of binding `b` (R180): the consumption rate of its word in issue, where that is streamed. -/
def fetchDemand (s : State) (b : Nat) : Nat :=
  if getB s b F.SEQ_STATE_ISSUING F.MCE_STATE_ISSUING != 0 then (bndOf s b).rate else 0

/-- The spill capacity (R28, R265). A patrol scrub takes less than 0.001 GB/s (R171), less than the unit, and is left out of the
difference. -/
def spillCap (s : State) : Nat := Nat.min 4000 (11000 - ((List.range 20).map (fetchDemand s)).sum)

/-- The drain share of a stream for one interval of 16,384 ticks, in tenths of a byte and times the sum of weights (R266, R268): an
interval of 10.24 µs carries 102.4 bytes for each 0.01 GB/s. -/
def shareTimesW (s : State) (k : Nat) : Nat :=
  1024 * (if toHost s k then hostCap s else spillCap s) * cfgWeight s k

def sumWeights (s : State) (k : Nat) : Nat :=
  ((List.range 256).map (fun j => if (strmActive s j || j == k) && toHost s j == toHost s k then cfgWeight s j else 0)).sum

/-- R269 for one stream: the count of evaluations below low water and the factor after the evaluation; `z` is the state at the
evaluation, in which every stream's share is judged. -/
def spwNext (z s : State) (k : Nat) : Nat × Nat :=
  let x := strmOf s k
  let df := dflog s k
  let high := decide (sumWeights z k * x.closed * 10 > shareTimesW z k) && decide (held s k * 16 > cfgHwm s k * cfgCap s k)
  let lowNow := decide (held s k * 16 < cfgLwm s k * cfgCap s k)
  let rlxn := Nat.max 1 (getF s F.SLU_SLUCTL_RLXN 0)
  let low := if lowNow then x.low + 1 else 0
  if high && decide (df < cfgDfmax s k) then (low, df + 1)
  else if decide (rlxn ≤ low) then (0, df - 1)
  else (low, df)

/-- The factor of stream `k` becomes `d`: the FILLING granule, which holds the old factor, is closed first (R264, R269). -/
def setDflog (s : State) (k d : Nat) : State :=
  if dflog s k = d then s
  else setF (if retaining s k then retain s k else handOff s k true) (F.SLU_X3_DFLOG k) 0 d

/-- The SLU registers that show the pool (R273), and the HELD of each stream (R274). -/
def poolLow (s : State) : Bool := decide (sharedFree s 256 < 1024)

/-- R271: the FILLING and RETAINED granules of a polder's streams return to FREE. -/
def reclaim (s : State) (p : Nat) : State :=
  forAll ((List.range 4).map (fun j => 4 * p + j)) s (fun s k =>
    let x := strmOf s k
    setStrm (freed s k (x.fill.toList ++ x.retained)) k { x with fill := none, retained := [] })

/-- R269: DFLOG of a polder's streams clears. -/
def clearDflog (s : State) (p : Nat) : State :=
  forAll ((List.range 4).map (fun j => 4 * p + j)) s (fun s k => setStrm (setDflog s k 0) k { strmOf (setDflog s k 0) k with low := 0 })

/-- R269: DFLOG and RSEQ of a polder's streams restart (R252, R263). -/
def restartStreams (s : State) (p : Nat) : State :=
  forAll ((List.range 4).map (fun j => 4 * p + j)) (clearDflog s p) (fun s k =>
    setStrm s k { strmOf s k with rseq := 0, gseq := 0 })

end Sys2Proof.Machine
end

