-- ==== Sys2Proof/Machine/Acq.lean ====
section
/-! DEFINITION. The acquisition unit: admission of items, triggers, acquisition records, marks, the end of a run, mask tests,
the pin scope (R235 to R257). -/

namespace Sys2Proof.Machine

/-- The capture sources with a FRAME that satisfies `f`. -/
def srcsWith (s : State) (p : Nat) (f : Nat → Bool) : List Nat := (List.range 4).filter (fun j => f (frameOf s p j))

/-- The unit is enabled (R256). -/
def acqEn (s : State) (p : Nat) : Bool := isSet s F.ACQ_ACQCTL_EN p

def setAstate (s : State) (p v : Nat) : State := setF s F.ACQ_STATE_ASTATE p v

/-- R238: `t` lies inside an interval of the capture gate. -/
def inGate (u : AcqU) (t : Stamp) : Bool :=
  (match u.gate with | some o => !earlier t o | none => false) || u.gates.any (fun g => within g.1 g.2 t)

/-- FILL or READY: the unit has armed, and no record of it is open (R241). -/
def acqArm (s : State) (p : Nat) : Bool := getF s F.ACQ_STATE_ASTATE p == 2 || getF s F.ACQ_STATE_ASTATE p == 3

/-- R241, R247: `t` is earlier than the end of the run, where that is known. -/
def beforeEnd (u : AcqU) (t : Stamp) : Bool := match u.endS with | some e => earlier t e | none => true

/-- R247: the end of the run becomes known; an earlier end stays. -/
def runEnd (s : State) (p : Nat) (t : Stamp) : State :=
  let u := acqOf s p
  setAcq s p { u with endS := match u.endS with | some e => if earlier t e then some t else some e | none => some t }

/-- R236, R237, R246: whether an item of source `src` stamped `t` is recorded, or retained for a trigger. -/
def admits (s : State) (p src : Nat) (t : Stamp) : Bool :=
  let u := acqOf s p
  if streaming s p then frameOf s p src != 0
  else acqEn s p && !u.ended && (match u.runS with | some r => !earlier t r | none => false) &&
    (match frameOf s p src with
     | 0 => false
     | 1 => true
     | 2 => inGate u t
     | _ => beforeEnd u t && (match u.rcd with
             | some w => !earlier t w.openS
             | none => acqArm s p))

/-- The item is recorded for good: not only retained (R95 counts such fail records). -/
def recorded (s : State) (p src : Nat) (t : Stamp) : Bool :=
  admits s p src t && (streaming s p || frameOf s p src != 3 ||
    (match (acqOf s p).rcd with | some w => within w.openS w.closeS t | none => false))

/-- FLOGCNT counts `n` fail records; at FLOG_LIMIT logging stops for the rest of the run (R95). -/
def countFlog (s : State) (p n : Nat) : State :=
  let s1 := addCt s F.POL_FLOGCNT_N p n
  let lim := getF s F.POL_FLOG_LIMIT_N p
  if n != 0 && lim != 0 && decide (lim ≤ getF s1 F.POL_FLOGCNT_N p) then setPol s1 p { polOf s1 p with flogStop := true } else s1

/-- The fail records that FLOG_LIMIT still allows (R95); `n` where there is no limit. -/
def flogLeft (s : State) (p n : Nat) : Nat :=
  let lim := getF s F.POL_FLOG_LIMIT_N p
  if (polOf s p).flogStop then 0 else if lim = 0 then n else lim - getF s F.POL_FLOGCNT_N p

/-- A record of source `src` whose item stamp is `t` enters its stream, or waits for the end of the open record (R241). -/
def putItem (s : State) (p src : Nat) (r : Record) (t : Stamp) : State :=
  if !admits s p src t then s
  else
    let u := acqOf s p
    let late := match u.rcd with
      | some w => !streaming s p && frameOf s p src == 3 && !earlier t w.closeS
      | none => false
    let k := 4 * p + src
    let q := (strmOf s k).rseq.toNat
    if !late then appendRec s k r
    else if kept s k r.typ.toNat q then
      setAcq (takeSeq s k) p { acqOf (takeSeq s k) p with after := u.after ++ [(src, recWords r p q)] }
    else takeSeq s k

/-! SCOPE records (R254). -/

/-- Eight bytes as a word, the first lowest. -/
def packWord (bs : List Byte) : BitVec 64 :=
  BitVec.ofNat 64 (((bs.take 8).foldr (fun b n => b.toNat + 256 * n)) 0)

def packBytes : Nat → List Byte → List (BitVec 64)
  | 0, _ => []
  | _, [] => []
  | f + 1, bs => packWord bs :: packBytes f (bs.drop 8)

/-- A SCOPE record of template octet `o`, log₂ interval `iv`. -/
def scopeRec (o iv : Nat) (start : Stamp) (bs : List Byte) : Record :=
  { typ := 5, aux := BitVec.ofNat 16 (o % 64 + iv % 16 * 64 + 1024 * (bs.length % 8)), body := start :: packBytes 48 bs }

/-- log₂ of the scope interval in force (R254, R270). -/
def scopeIv (s : State) (p : Nat) : Nat := Nat.min 15 (getF s F.ACQ_SRCCFG_SCOPEDIV p + dflog s (4 * p + 3))

/-- The gathered samples of a template octet become a record. -/
def flushScope (s : State) (p o : Nat) : State :=
  let u := acqOf s p
  let a := Store.get u.scope {} o
  if a.samples.isEmpty then s
  else
    let s1 := setAcq s p { u with scope := Store.put u.scope {} o {} }
    putItem s1 p 3 (scopeRec o a.iv a.start a.samples) a.start

def flushScopes (s : State) (p : Nat) : State := forAll (List.range 64) s (fun s o => flushScope s p o)

/-- The number of samples of a SCOPE record (R254). -/
def scopeLen (ws : List (BitVec 64)) : Nat :=
  8 * (ws.length - 3) + (let l := bits (ws.headD 0).toNat 26 3; if l = 0 then 8 else l)

/-- The stamp of the last item of a record: its last sample, or the record's own stamp. -/
def recLast (ws : List (BitVec 64)) : Stamp :=
  let h := (ws.headD 0).toNat
  ws.getD 1 0 + (if bits h 0 4 = 5 then ticks ((scopeLen ws - 1) * 2 ^ bits h 22 4) else 0)

/-- The words of an item record cut to the stamps that `keep` holds of: a SCOPE record keeps its samples there, any other record is
kept when its stamp is one of them; what is removed becomes PAD (R264, R254). HEAD, TAIL, MARK and EOR are no items and stay. -/
def cutRec (pol : Nat) (keep : Stamp → Bool) (ws : List (BitVec 64)) : List (BitVec 64) :=
  match ws with
  | h :: st :: rest =>
    if ctlRec ws then ws
    else if bits h.toNat 0 4 = 5 then
      let n := scopeLen ws
      let iv := 2 ^ bits h.toNat 22 4
      let byteOf (k : Nat) : Byte := BitVec.ofNat 8 ((rest.getD (k / 8) 0).toNat / 2 ^ (8 * (k % 8)))
      let ks := (List.range n).filter (fun k => keep (st + ticks (k * iv)))
      match ks with
      | [] => padWords ws.length pol
      | k0 :: _ =>
        let r := scopeRec (bits h.toNat 16 6) (bits h.toNat 22 4) (st + ticks (k0 * iv)) (ks.map byteOf)
        let w := recWords r pol (bits h.toNat 32 32)
        w ++ padWords (ws.length - w.length) pol
    else if keep st then ws else padWords ws.length pol
  | _ => ws

/-- Whether an item of a granule lies inside [o, c). -/
def claimed (pol : Nat) (o c : Stamp) (g : Gran) : Bool :=
  (splitRecs 62 g.words).any (fun ws => itemRec (cutRec pol (within o c) ws))

/-- A granule with its items cut to the stamps that `keep` holds of. -/
def cutGran (pol : Nat) (keep : Stamp → Bool) (g : Gran) : Gran :=
  { g with words := (splitRecs 62 g.words).flatMap (cutRec pol keep) }

/-- R247: the granules of a WINDOW stream that have not begun to drain lose the items stamped at or after the close `c` of the
record that ends. -/
def cutStrm (s : State) (k : Nat) (c : Stamp) : State :=
  let x := strmOf s k
  let cut (g : Gran) : Gran := if g.gst == .draining then g else cutGran (strmPol k) (fun t => earlier t c) g
  setStrm s k { x with fill := x.fill.map cut, queue := x.queue.map cut }

/-! Marks and ends (R247, R252, R253). -/

def markRec (cause : Nat) (t : Stamp) (src : Option Nat) (vwi : Nat) : Record :=
  { typ := 10, aux := BitVec.ofNat 16 (cause % 256),
    body := [t, BitVec.ofNat 64 ((match src with | some k => k % 4096 + 4096 | none => 0) + 2 ^ 13 * (vwi % 2 ^ 40))] }

/-- A MARK in every stream with FRAME ≠ 0 (R252). -/
def markAll (s : State) (p cause : Nat) (t : Stamp) (src : Option Nat) (vwi : Nat) : State :=
  if !acqEn s p then s
  else forAll (srcsWith s p (· != 0)) s (fun s j =>
    if cause = 6 then appendFlush s (4 * p + j) (markRec cause t src vwi)
    else appendRec s (4 * p + j) (markRec cause t src vwi))

def tailRec (cause : Nat) (t : Stamp) (rnum : BitVec 32) : Record :=
  { typ := 9, aux := BitVec.ofNat 16 cause, body := [t, BitVec.ofNat 64 (rnum.toNat + 2 ^ 32 * b2n (cause != 0))] }

/-- R245: the deassertion of the unit's source, ordered at the close of the window, takes the earlier stamp `c` at which the open record
ends. -/
def closeEvent (s : State) (p : Nat) (c : Stamp) : State :=
  match (acqOf s p).rcd with
  | none => s
  | some _ =>
    { s with rtr := { s.rtr with flight := s.rtr.flight.map (fun e =>
        if e.src.toNat = 0x680 + p ∧ e.pol = false ∧ earlier c e.stamp then { e with stamp := c } else e) } }

/-- R245, R247: the open record ends with `cause` at stamp `c`; items at or after `c` are not in it. The unit does not arm again of
itself: ASTATE shows WAIT unless the record was complete or frozen (DESIGN CHOICE, log entry 77). -/
def closeRec (s : State) (p cause : Nat) (c : Stamp) : State :=
  match (acqOf s p).rcd with
  | none => s
  | some w =>
    let s1 := forAll (srcsWith s p (· == 3)) (flushScopes s p) (fun s j =>
      appendFlush (if earlier c w.closeS then cutStrm s (4 * p + j) c else s) (4 * p + j) (tailRec cause c w.rnum))
    let s2 := raise s1 .acq p E.ACQ_REC_DONE
    let s3 := closeEvent s2 p c
    setAstate (setAcq s3 p { acqOf s3 p with rcd := none }) p 1

/-- The unit arms at `a` (R241). -/
def armUnit (s : State) (p : Nat) (a : Stamp) : State :=
  setAstate (setAcq s p { acqOf s p with arm := a, rcd := none })
    p (if getF s F.ACQ_PRE_T p = 0 then 3 else 2)

/-- R245: a record whose window has closed is complete. -/
def completeRec (s : State) (p : Nat) : State :=
  match (acqOf s p).rcd with
  | none => s
  | some w =>
    let s1 := closeRec s p 0 w.closeS
    let late := (acqOf s1 p).after
    let s2 := setAcq s1 p { acqOf s1 p with after := [] }
    if getF s F.ACQ_ACQCTL_MODE p = 2 then setAstate s2 p 5
    else late.foldl (fun s x => putWords s (4 * p + x.1) x.2) (armUnit s2 p w.closeS)

/-- R247: the open record ends with the run. One whose window has closed by then is complete. -/
def endRec (s : State) (p : Nat) : State :=
  match (acqOf s p).rcd, (acqOf s p).endS with
  | some w, some e => if earlier e w.closeS then closeRec s p (if (polOf s p).abortStop then 2 else 1) e else completeRec s p
  | _, _ => completeRec s p

/-- The EOR record of the run (R253). -/
def eorRec (s : State) (p : Nat) (t : Stamp) : Record :=
  { typ := 11,
    aux := BitVec.ofNat 16 (getF s F.POL_VMSTAT_TIMING_BROKEN p + getF s F.POL_VMSTAT_STALLED p * 2
      + getF s F.POL_VMSTAT_STOPCAUSE p % 4 * 4 + getF s F.POL_STATE_BENCHED p * 16 + getF s F.POL_STATE_DIKE_SRC p * 32),
    body := [t, BitVec.ofNat 64 (getF s F.POL_RUNCNT_RUNS p + 2 ^ 32 * getF s F.POL_FLOGCNT_N p),
      BitVec.ofNat 64 (getF s F.POL_FAILCNT_N p + 2 ^ 32 * getF s F.POL_FAILVEC_N p),
      BitVec.ofNat 64 (getF s F.POL_STALLTK_T p + 2 ^ 32 * getF s F.POL_PMUMISS_N p)] }

/-- R244, R247: the items that a stream still retains at the end of the run are discarded. -/
def dropRetained (s : State) (k : Nat) : State :=
  let s1 := if retaining s k then retain s k else s
  let x := strmOf s1 k
  discard (setStrm s1 k { x with retained := [] }) k x.retained

/-- R247: the run of the polder has ended at stamp `t`; an EOR goes to every stream with FRAME ≠ 0, in streaming mode a MARK
with cause STOP. -/
def endRun (s : State) (p : Nat) (t : Stamp) : State :=
  if !acqEn s p || (acqOf s p).runS.isNone then s
  else if streaming s p then
    let s1 := markAll s p 6 t none 0
    setAcq s1 p { acqOf s1 p with runS := none, endS := none, ended := false }
  else
    let s1 := forAll (List.range 4) (flushScopes s p) (fun s j => dropRetained s (4 * p + j))
    let s2 := forAll (srcsWith s1 p (· != 0)) s1 (fun s j => appendFlush s (4 * p + j) (eorRec s p t))
    let s3 := raise s2 .acq p E.ACQ_EOR
    setAstate (setAcq s3 p { acqOf s3 p with runS := none, endS := none, ended := false, gate := none, gates := [], scope := [],
                                             after := [], flogT := [], convs := [] }) p 1

/-- R256, R252, R269: entry to ARMED clears the unit's counters and restarts its streams. -/
def acqArmed (s : State) (p : Nat) : State :=
  let s1 := [F.ACQ_RECCNT_N, F.ACQ_TRIGIGN_N, F.ACQ_FORCEDCNT_N, F.ACQ_MASKVIOL_N].foldl (fun s f => setF s f p 0) s
  let s2 := setAcq s1 p { acqOf s1 p with rcd := none, runS := none, endS := none, ended := false, gate := none, gates := [],
                                           scope := [], after := [], flogT := [], convs := [], convN := 0, maskHit := false,
                                           maskPend := none, short := false }
  let s3 := if streaming s p then clearDflog s2 p else restartStreams s2 p
  if acqEn s3 p then setAstate s3 p (if streaming s3 p then 7 else 1) else s3

/-- R237, R241: the first vector of the run begins at `t`. -/
def acqStart (s : State) (p : Nat) (t : Stamp) : State :=
  if !acqEn s p then s
  else
    let s1 := setAcq s p { acqOf s p with runS := some t }
    let s2 := if streaming s p then s1 else armUnit s1 p t
    markAll s2 p 3 t none 0

/-! Mask tests (R248). -/

/-- Whether a code violates mask point `k`. -/
def maskViolates (s : State) (p k code : Nat) : Bool :=
  decide (k < getF s F.ACQ_MASKCFG_MASKLEN p) && decide (k < 1024) &&
    (decide (wideF s .acq p 1 k 0 18 < code) || decide (code < wideF s .acq p 2 k 0 18))

/-- `n` entries of the conversion at `t0` violate: counted, and the action of R249 becomes due at the first of the run. -/
def noteMask (s : State) (p n : Nat) (t0 : Stamp) : State :=
  if n = 0 then s
  else
    let s1 := raise (addCt s F.ACQ_MASKVIOL_N p n) .acq p E.ACQ_MASK_VIOL
    let u := acqOf s1 p
    if u.maskHit || getF s F.ACQ_MASKCFG_MASKACT p == 0 then setAcq s1 p { u with maskHit := true }
    else setAcq s1 p { u with maskHit := true, maskPend := some t0 }

/-- Two entries of a PSAMP record, tested at index `k`: the word with MASKV (bit 21 of an entry) and the violations. The high half is
no entry where its channel is 0, for entries ascend (R253). -/
def maskWord (s : State) (p k : Nat) (w : BitVec 64) : BitVec 64 × Nat :=
  let lo := maskViolates s p k (bits w.toNat 0 18)
  let hi := bits w.toNat 54 6 != 0 && maskViolates s p k (bits w.toNat 32 18)
  (BitVec.ofNat 64 (w.toNat ||| 2 ^ 21 * b2n lo ||| 2 ^ 53 * b2n hi), b2n lo + b2n hi)

/-- R248: the index in a record of the conversion at `t0`: the conversions of the record with an earlier t0. -/
def convIdx (ts : List Stamp) (t0 : Stamp) : Nat := (ts.filter (fun t => earlier t t0)).length

/-- A record with the MASKV bits of its samples, `ts` the stamps of the conversions that lie in the acquisition record. -/
def maskRec (s : State) (p : Nat) (ts : List Stamp) (ws : List (BitVec 64)) : List (BitVec 64) :=
  match ws with
  | h :: t0 :: es => if bits h.toNat 0 4 = 2 then h :: t0 :: es.map (fun w => (maskWord s p (convIdx ts t0) w).1) else ws
  | _ => ws

/-! Triggers (R239 to R243). -/

/-- How a trigger came about, for HEAD and the ranking. -/
inductive TrigKind where
  | router (src : Nat) (interp : Bool)
  | sequencer
  | forced
deriving DecidableEq, Repr

def headRec (s : State) (p : Nat) (w : OpenRec) (k : TrigKind) (short : Bool) : Record :=
  { typ := 8, aux := BitVec.ofNat 16 (getF s F.ACQ_ACQCTL_MODE p),
    body := [w.t, w.openS, BitVec.ofNat 64 (w.rnum.toNat +
      (match k with
       | .router src i => 2 ^ 32 * (src % 4096) + 2 ^ 46 * b2n i
       | .sequencer => 2 ^ 45
       | .forced => 2 ^ 44) + 2 ^ 47 * b2n short)] }

/-- R248: the conversions retained in [o, c) are tested, those that Spillway has removed among them (R270); samples at or after `c`
stay for the next record. -/
def claimConvs (s : State) (p : Nat) (ts : List Stamp) (o c : Stamp) : State :=
  let u := acqOf s p
  let s1 := setAcq s p { u with convs := u.convs.filter (fun e => !earlier e.1 c), convN := ts.length }
  (u.convs.filter (fun e => within o c e.1)).foldl (fun s e =>
    noteMask s p ((e.2.map (fun w => (maskWord s p (convIdx ts e.1) w).2)).sum) e.1) s1

/-- Items of granule `g` stamped at or after `c`, as records: they stay retained for the next record (R244). -/
def lateRecs (pol : Nat) (c : Stamp) (g : Gran) : List (List (BitVec 64)) :=
  ((splitRecs 62 g.words).map (cutRec pol (fun t => !earlier t c))).filterMap (fun ws =>
    let r := ws.take (Nat.max 1 (bits (ws.headD 0).toNat 4 6))
    if itemRec r then some r else none)

/-- A granule whose fail records other than those stamped `ok` have become PAD: they lie beyond the limit of the fail log (R95). -/
def capFails (pol : Nat) (ok : List Stamp) (g : Gran) : Gran :=
  { g with words := (splitRecs 62 g.words).flatMap (fun ws =>
      if bits (ws.headD 0).toNat 0 4 = 1 && !ok.contains (ws.getD 1 0) then padWords ws.length pol else ws) }

/-- R264: HEAD enters a new granule of the stream, and the claimed retained granules follow it; those that no item of the record
stands in return to FREE. Where the cap leaves no granule for HEAD the oldest retained one is reused (R244). Claimed samples are
tested against the mask (R248). The fail records formed inside the window count in FLOGCNT up to FLOG_LIMIT, those that Spillway or a
refused grant has removed among them (R95). -/
def claim (s : State) (p j : Nat) (w : OpenRec) (kind : TrigKind) : State :=
  let k := 4 * p + j
  let s1 := retain s k
  let x := strmOf s1 k
  let ts := (((acqOf s1 p).convs.map (·.1)).filter (within w.openS w.closeS)).eraseDups
  let late := x.retained.flatMap (lateRecs p w.closeS)
  let cl0 := ((x.retained.filter (claimed p w.openS w.closeS)).map (cutGran p (within w.openS w.closeS))).map (fun g =>
    { g with words := (splitRecs 62 g.words).flatMap (maskRec s1 p ts) })
  let fs := (acqOf s1 p).flogT.filter (within w.openS w.closeS)
  let ok := fs.take (flogLeft s1 p fs.length)
  let cl := if j = 0 then cl0.map (capFails p ok) else cl0
  let s2 := discard (setStrm s1 k { x with retained := cl }) k (x.retained.filter (fun g => !claimed p w.openS w.closeS g))
  let s3 := if !granted s2 k && !cl.isEmpty then reuse s2 k else s2
  let s4 := appendRec s3 k (headRec s3 p w kind (acqOf s3 p).short)
  let y := strmOf s4 k
  let s5 := if y.retained.isEmpty then s4
    else y.retained.foldl (queueGran k) (handOff (setStrm s4 k { y with retained := [] }) k true)
  let s6 := setAcq s5 p { acqOf s5 p with after := (acqOf s5 p).after ++ late.map (fun r => (j, r)) }
  let s7 := if j = 1 then claimConvs s6 p ts w.openS w.closeS else s6
  if j = 0 then
    countFlog (setAcq s7 p { acqOf s7 p with flogT := (acqOf s7 p).flogT.filter (fun t => !earlier t w.closeS) }) p ok.length
  else s7

/-- The gathered samples whose stamps `keep` holds of; they are consecutive. -/
def scopeCut (keep : Stamp → Bool) (a : ScopeAcc) : ScopeAcc :=
  match (List.range a.samples.length).filter (fun k => keep (a.start + ticks (k * 2 ^ a.iv))) with
  | [] => {}
  | k0 :: ks => { start := a.start + ticks (k0 * 2 ^ a.iv), iv := a.iv, samples := (a.samples.drop k0).take (ks.length + 1) }

/-- R241: an accepted trigger opens a record with the window [T − PRE, T + POST). The unit's source asserts at T and deasserts at
the close of the window, or at the end of the run where that is known to come first (R245). -/
def accept (s : State) (p : Nat) (t : Stamp) (kind : TrigKind) : State :=
  let pre := ticks (getF s F.ACQ_PRE_T p)
  let post := ticks (Nat.max 1 (getF s F.ACQ_POST_T p))
  let w : OpenRec := { t := t, openS := t - pre, closeS := t + post, rnum := BitVec.ofNat 32 (getF s F.ACQ_RECCNT_N p) }
  let u := acqOf s p
  let cut (keep : Stamp → Bool) (l : Store ScopeAcc) : Store ScopeAcc := l.filterMap (fun e =>
    let a := scopeCut keep e.2; if a.samples.isEmpty then none else some (e.1, a))
  let s1 := setAcq s p { u with rcd := some w, convN := 0, scope := cut (within w.openS w.closeS) u.scope }
  let s2 := (cut (fun t => !earlier t w.closeS) u.scope).foldl (fun s e =>
    putItem s p 3 (scopeRec e.1 e.2.iv e.2.start e.2.samples) e.2.start) s1
  let s3 := forAll (srcsWith s2 p (· == 3)) s2 (fun s j => claim s p j w kind)
  let s3 := setAcq s3 p { acqOf s3 p with short := false }
  let s4 := set64 (addCt (setAstate s3 p 4) F.ACQ_RECCNT_N p 1) F.ACQ_LASTT_LO_T F.ACQ_LASTT_HI_T p t
  let s5 := raise s4 .acq p E.ACQ_TRIG_ACC
  launch (launch s5 { src := BitVec.ofNat 12 (0x680 + p), pol := true, stamp := t })
    { src := BitVec.ofNat 12 (0x680 + p), pol := false,
      stamp := match u.endS with | some e => if earlier e w.closeS then e else w.closeS | none => w.closeS }

/-- R241: a trigger that is not accepted. -/
def ignoreTrig (s : State) (p : Nat) : State := raise (addCt s F.ACQ_TRIGIGN_N p 1) .acq p E.ACQ_TRIG_IGN

/-- R242: ATO in ticks. -/
def atoTicks (s : State) (p : Nat) : Nat := 1600 * Nat.min 60000000 (Nat.max 1 (getF s F.ACQ_ATO_T p))

/-- The unit waits for a trigger: a run is recorded, the unit has armed and no record is open. -/
def waiting (s : State) (p : Nat) : Bool :=
  acqEn s p && !streaming s p && (acqOf s p).runS.isSome && !(acqOf s p).ended && (acqOf s p).rcd.isNone && acqArm s p

/-- The end F of the pre-trigger fill (R241). -/
def fillEnd (s : State) (p : Nat) : Stamp := (acqOf s p).arm + ticks (getF s F.ACQ_PRE_T p)

/-- R242: the forced trigger of AUTO. -/
def forceTrig (s : State) (p : Nat) : State :=
  if waiting s p && getF s F.ACQ_ACQCTL_MODE p == 1 && beforeEnd (acqOf s p) (fillEnd s p + ticks (atoTicks s p)) then
    accept (raise (addCt s F.ACQ_FORCEDCNT_N p 1) .acq p E.ACQ_FORCED) p (fillEnd s p + ticks (atoTicks s p)) .forced
  else s

/-- A trigger at `t` is judged (R241, R246). In AUTO a trigger beyond the wait finds the forced record open (R242). -/
def trigger (s : State) (p : Nat) (t : Stamp) (kind : TrigKind) (vwi : Nat) : State :=
  if !acqEn s p then s
  else if streaming s p then
    markAll s p 1 t (match kind with | .router k _ => some k | _ => none) vwi
  else
    let s1 := if waiting s p && getF s F.ACQ_ACQCTL_MODE p == 1 && !earlier t (fillEnd s p + ticks (atoTicks s p))
      then forceTrig s p else s
    if waiting s1 p && !earlier t (fillEnd s1 p) && beforeEnd (acqOf s1 p) t then accept s1 p t kind else ignoreTrig s1 p

/-- R243: the fine stamp of a TDC event is marked INTERP. -/
def routerTrigger (s : State) (p : Nat) (e : Ev) (vwi : Nat) : State :=
  if acqEn s p && isSet s F.ACQ_ACQCTL_RTRIG p && getF s F.ACQ_TRIG_SRC p == e.src.toNat
      && isSet s F.ACQ_TRIG_POL p == e.pol then
    trigger s p e.stamp (.router e.src.toNat e.tdc) vwi
  else s

/-- R238: the gate opens at `t`. -/
def gateOpen (s : State) (p : Nat) (t : Stamp) : State :=
  let u := acqOf s p
  if u.gate.isSome then s else setAcq s p { u with gate := some t }

/-- R238: the gate closes at `t`. -/
def gateClose (s : State) (p : Nat) (t : Stamp) : State :=
  let u := acqOf s p
  match u.gate with
  | some o => setAcq s p { u with gate := none, gates := u.gates ++ [(o, t)] }
  | none => s

/-- R244: the retained granules all of whose items are stamped before `t` return to FREE. -/
def expire (s : State) (p j : Nat) (t : Stamp) : State :=
  let k := 4 * p + j
  if retaining s k then
    let x := strmOf s k
    let live (g : Gran) : Bool := (splitRecs 62 g.words).any (fun r => itemRec r && !earlier (recLast r) t)
    let s1 := discard (setStrm s k { x with retained := x.retained.filter live }) k (x.retained.filter (fun g => !live g))
    if j = 1 then setAcq s1 p { acqOf s1 p with convs := (acqOf s1 p).convs.filter (fun e => !earlier e.1 t) }
    else if j = 0 then setAcq s1 p { acqOf s1 p with flogT := (acqOf s1 p).flogT.filter (fun f => !earlier f t) }
    else s1
  else s

/-- R249: freeze. An open record closes one fine unit after the violating t0; outside a record a MARK is written. -/
def freeze (s : State) (p : Nat) (t0 : Stamp) (vwi : Nat) : State :=
  let opened := (acqOf s p).rcd.isSome
  if streaming s p then markAll s p 9 t0 none vwi
  else if opened then setAstate (closeRec s p 3 (t0 + 1)) p 6
  else setAstate (markAll s p 9 t0 none vwi) p 6

/-- R254: one sample of an octet at `t`. -/
def scopeSample (s : State) (p o : Nat) (t : Stamp) (b : Byte) : State :=
  let k := (octsOf s p).idxOf o
  let a := Store.get (acqOf s p).scope {} k
  let gap := !a.samples.isEmpty && t != a.start + ticks (a.samples.length * 2 ^ a.iv)
  let cross := match (acqOf s p).rcd with
    | some w => !a.samples.isEmpty && frameOf s p 3 == 3 && !streaming s p && earlier a.start w.closeS && !earlier t w.closeS
    | none => false
  let s1 := if gap || cross || a.samples.length ≥ 384 then flushScope s p k else s
  let u := acqOf s1 p
  let a1 := Store.get u.scope {} k
  let a2 : ScopeAcc := if a1.samples.isEmpty then { start := t, iv := scopeIv s1 p, samples := [b] }
      else { a1 with samples := a1.samples ++ [b] }
  let s2 := setAcq s1 p { u with scope := Store.put u.scope {} k a2 }
  if 384 ≤ a2.samples.length then flushScope s2 p k else s2

end Sys2Proof.Machine
end

