-- ==== Sys2Proof/Machine/Pmu.lean ====
section
/-! DEFINITION. The parametric unit: modes, claims and the budget of a die, conversions, range and mode changes (R101 to
R120). -/

namespace Sys2Proof.Machine

/-! Configuration of a channel (R118). -/

def pmuMode (s : State) (c : Nat) : Nat := getF s (F.OCT_X2_PMUCFG_MODE (c % 8)) (c / 8)
def pmuRange (s : State) (c : Nat) : Nat := getF s (F.OCT_X2_PMUCFG_IRANGE (c % 8)) (c / 8)
def pmuEn (s : State) (c : Nat) : Bool := isSet s (F.OCT_X2_PMUCFG_PMUEN (c % 8)) (c / 8)
def pmuConn (s : State) (c : Nat) : Bool := isSet s (F.OCT_X2_PMUCFG_CONNECT (c % 8)) (c / 8)
def pmuForce (s : State) (c : Nat) : Nat := getF s (F.OCT_X2_FORCE_CODE (c % 8)) (c / 8)

/-- The pin state of the octet of a channel (R78). -/
def pstate (s : State) (c : Nat) : Nat := getF s F.OCT_STATE_PSTATE (c / 8)

/-- The full scale of a range in µA; 5 to 7 act as 0 (R102). -/
def fullScale : Nat → Nat
  | 1 => 20 | 2 => 200 | 3 => 2000 | 4 => 32000 | _ => 2

/-- R114: the claim in µA of a connected channel, a forced current rounded up to 1 µA. -/
def claimOf (mode range code : Nat) (conn : Bool) : Nat :=
  if !conn then 0
  else match mode with
    | 1 => fullScale range
    | 2 => (((code : Int) - 131072).natAbs * fullScale range + 131071) / 131072
    | _ => 0

/-- What a request asks of a channel. -/
structure PmuNew where
  c : Nat
  mode : Nat
  range : Nat
  conn : Bool
  code : Nat
deriving DecidableEq, Repr

/-- A channel as it stands. -/
def pmuNow (s : State) (c : Nat) : PmuNew :=
  { c := c, mode := pmuMode s c, range := pmuRange s c, conn := pmuConn s c, code := pmuForce s c }

def getClaim (s : State) (c : Nat) : Nat := getF s (F.OCT_X2_CLAIM_I (c % 8)) (c / 8)

/-- The sum of the claims of a die (R114). -/
def dieClaims (s : State) (k : Nat) : Nat := ((List.range 64).map (fun j => getClaim s (64 * k + j))).sum

def setClaim (s : State) (c v : Nat) : State :=
  let s1 := setF s (F.OCT_X2_CLAIM_I (c % 8)) (c / 8) v
  setF s1 F.CDI_PBUDGET_USED (c / 64) (dieClaims s1 (c / 64))

/-- The claim of a request: none with CONNECT = 0, and during a range change of a connected channel the larger of the old and the new
(R110, R114). -/
def newClaim (s : State) (n : PmuNew) : Nat :=
  let c := claimOf n.mode n.range n.code n.conn
  let old := match (chanOf s n.c).rangeOld with | some r => Nat.max c r.2 | none => c
  if !n.conn then 0
  else if pmuConn s n.c && n.mode == pmuMode s n.c && n.range != pmuRange s n.c then Nat.max old (getClaim s n.c)
  else old

/-- A request takes effect on a channel; a change of range of a connected channel is under way until it completes (R110). A
conversion that waits for a range change is not made on a channel that disconnects. -/
def takeNew (s : State) (n : PmuNew) : State :=
  let cl := newClaim s n
  let ch := chanOf s n.c
  let moving := n.conn && pmuConn s n.c && n.mode == pmuMode s n.c && n.range != pmuRange s n.c
  let s1 := setChan s n.c { ch with rangeOld := if moving then some (pmuRange s n.c, getClaim s n.c)
                                                else if n.conn then ch.rangeOld else none
                                    waitConv := if n.conn then ch.waitConv else none }
  let j := n.c % 8
  let o := n.c / 8
  let s2 := setF (setF s1 (F.OCT_X2_PMUCFG_MODE j) o n.mode) (F.OCT_X2_PMUCFG_IRANGE j) o n.range
  let s3 := setF (setF s2 (F.OCT_X2_PMUCFG_CONNECT j) o (b2n n.conn)) (F.OCT_X2_FORCE_CODE j) o n.code
  setClaim s3 n.c cl

/-- R116: a refusal on die `k`. -/
def refuseBudget (s : State) (p : Option Nat) (k : Nat) : State :=
  let s1 := raise (addCt s F.CDI_PREFUSE_N k 1) .cdi k E.CDI_BUDGET_REFUSED
  let s2 := match p with | some q => raise s1 .pol q E.POL_PMU_REFUSED | none => s1
  causeOn s2 (98 + 4 * k) []

/-- A request raises a claim (R115). -/
def rising (s : State) (ns : List PmuNew) : Bool := ns.any (fun n => decide (getClaim s n.c < newClaim s n))

/-- R115: a request on die `k` whose claims rise and would pass 400 mA. -/
def overBudget (s : State) (k : Nat) (ns : List PmuNew) : Bool :=
  rising s ns && decide (400000 < dieClaims s k - (ns.map (fun n => getClaim s n.c)).sum + (ns.map (newClaim s)).sum)

/-- R115: one request on one die, judged as a whole. The second result is whether it was accepted. -/
def request (s : State) (p : Option Nat) (k : Nat) (ns : List PmuNew) : State × Bool :=
  if overBudget s k ns then (refuseBudget s p k, false) else (ns.foldl takeNew s, true)

/-- Conversions of the polder that have begun, or wait for a range change, and are not latched yet. -/
def converting (s : State) (p : Nat) (burst : Bool) : Bool :=
  (chansOf s p).any (fun c =>
    (match (chanOf s c).conv with | some v => !v.latched && v.burst == burst | none => false) ||
    (match (chanOf s c).waitConv with | some v => v.burst == burst | none => false))

/-- PMUCTL.CONV reads 1 until the conversion is latched (R119), or no channel of the polder will make it any more. -/
def showConv (s : State) (p : Nat) : State := if converting s p false then s else setF s F.POL_PMUCTL_CONV p 0

/-- `showConv` for the owner of a channel. -/
def showConvOf (s : State) (p : Option Nat) : State := match p with | some q => showConv s q | none => s

/-- A request of polder `p` on channels of any die: each die is judged on its own (R115); an isolated one gets none (R412). -/
def requests (s : State) (p : Option Nat) (ns : List PmuNew) : State :=
  forAll (List.range 8) s (fun s k =>
    let mine := ns.filter (fun n => n.c / 64 == k)
    if mine.isEmpty || isoDie s k then s else showConvOf (request s p k mine).1 p)

/-- The unit of a channel is switched off the pin (R104). -/
def disconnect (s : State) (c : Nat) : State :=
  takeNew (setChan s c { chanOf s c with reconnect := false, ops := [] }) { pmuNow s c with conn := false }

/-- R104: CONNECT clears on every channel of an octet. -/
def disconnectOct (s : State) (o : Nat) : State :=
  forAll (List.range 8) s (fun s j => if pmuConn s (8 * o + j) then disconnect s (8 * o + j) else s)

/-! Conversions and bursts (R106, R111 to R113). -/

/-- The channels of a polder with PMUEN = 1; an isolated die gets no parametric operations (R412). -/
def pmuChans (s : State) (p : Nat) : List Nat := (chansOf s p).filter (fun c => pmuEn s c && !isoDie s (c / 64))

/-- The unit of a channel is connected to its pin and can convert (R104, R105). -/
def canConvert (s : State) (c : Nat) : Bool :=
  pmuConn s c && pmuMode s c != 0 && !(chanOf s c).reconnect && decide (2 ≤ pstate s c)

/-- A conversion of the channel is under way, or waits for a range change. -/
def busyConv (s : State) (c : Nat) : Bool := (chanOf s c).conv.isSome || (chanOf s c).waitConv.isSome

/-- Conversion `v` begins on a channel that is free; during a range change it waits for the end of that (R111). -/
def beginConv (s : State) (c : Nat) (v : Conv) (burst : Option (Option Nat)) : State :=
  let ch := chanOf s c
  if ch.rangeOld.isSome then setChan s c { ch with waitConv := some { v with defer := true }, burst := burst }
  else setChan s c { ch with conv := some v, burst := burst }

/-- The hold start of a conversion, of a burst with its BURSTN where `burst` is: it begins on every enabled connected channel. A channel
still converting, or with a conversion that waits for a range change (log entry 33), does not make it (R113). -/
def fire (s : State) (p : Nat) (t0 : Stamp) (burst : Option Nat) : State :=
  forAll ((pmuChans s p).filter (canConvert s)) s (fun s c =>
    if busyConv s c then raise (addCt s F.POL_PMUMISS_N p 1) .pol p E.POL_PMU_MISSED
    else beginConv s c { t0 := t0, burst := burst.isSome } (burst.map (fun n => if n = 0 then none else some (n - 1))))

/-- An order is entered, in order of stamp; orders of one stamp act in the order in which they were given. -/
def insertTrig (x : Trig) : List Trig → List Trig
  | [] => [x]
  | y :: l => if earlier x.t0 y.t0 then x :: y :: l else y :: insertTrig x l

/-- A parametric order of polder `p` for stamp `t0` (R112). -/
def order (s : State) (p : Nat) (t0 : Stamp) (act : PmuAct) : State :=
  let x := polOf s p
  setPol s p { x with trigs := insertTrig { t0 := t0, act := act, n := x.opN } x.trigs, opN := x.opN + 1 }

/-- The order is a burst. -/
def Trig.isBurst (x : Trig) : Bool := match x.act with | .burst _ => true | _ => false

/-- The burst of the polder runs. -/
def burstOn (s : State) (p : Nat) : Bool := (chansOf s p).any (fun c => (chanOf s c).burst.isSome)

/-- The burst of a channel with no conversion under way has ended; with none left the commands of the burst are over (R112, R119). -/
def tidyBurst (s : State) (p : Nat) : State :=
  let s1 := forAll ((chansOf s p).filter (fun c => (chanOf s c).burst.isSome && !busyConv s c)) s
    (fun s c => setChan s c { chanOf s c with burst := none })
  if burstOn s1 p then s1 else setF (setF s1 F.POL_PMUCTL_BURST p 0) F.POL_PMUCTL_BURST_STOP p 0

/-- The burst of the polder ends after its current conversions, and a burst ordered before the order `n` is not begun (R112, R117). -/
def stopBurst (s : State) (p n : Nat) : State :=
  let s1 := setPol s p { polOf s p with trigs := (polOf s p).trigs.filter (fun x => !x.isBurst || decide (n ≤ x.n)) }
  tidyBurst (forAll ((chansOf s1 p).filter (fun c => (chanOf s1 c).burst.isSome)) s1
    (fun s c => setChan s c { chanOf s c with burst := some (some 0) })) p

/-- Nothing more is converted for the polder: its orders and its bursts are dropped. -/
def endBurst (s : State) (p : Nat) : State :=
  tidyBurst (forAll (chansOf s p) (setPol s p { polOf s p with trigs := [] })
    (fun s c => setChan s c { chanOf s c with burst := none })) p

/-- Conversion `v` of a channel is over at `t`: the next one of its burst begins there, or the burst has ended. -/
def nextConv (s : State) (c : Nat) (v : Conv) (t : Stamp) : State :=
  let ch := chanOf s c
  let nv : Conv := { t0 := t, burst := true, k := v.k + 1 }
  if !pmuEn s c || !canConvert s c then setChan s c { ch with burst := none }
  else match ch.burst with
    | some none => beginConv s c nv (some none)
    | some (some (n + 1)) => beginConv s c nv (some (some n))
    | _ => setChan s c { ch with burst := none }

/-! Operations (R111, R112, R115). -/

/-- The operation a channel would ask for. -/
def opNew (s : State) (c : Nat) : PmuOp → PmuNew
  | .on => { pmuNow s c with conn := true }
  | .off => { pmuNow s c with conn := false }
  | .range r => { pmuNow s c with range := r.toNat }
  | .apply => { pmuNow s c with code := getF s (F.OCT_X2_NEXT_CODE (c % 8)) (c / 8)
                                range := getF s (F.OCT_X2_NEXT_IRANGE (c % 8)) (c / 8) }

/-- An operation of kind `op` waits on a channel of the polder. -/
def opWaits (s : State) (p : Nat) (op : PmuOp) : Bool :=
  (chansOf s p).any (fun c => (chanOf s c).ops.any (fun x => x.2 == op))

/-- FORCE_ON, FORCE_OFF and APPLY read 1 until applied or refused (R119). -/
def showOps (s : State) (p : Nat) : State :=
  let s1 := if opWaits s p .on then s else setF s F.POL_PMUCTL_FORCE_ON p 0
  let s2 := if opWaits s p .off then s1 else setF s1 F.POL_PMUCTL_FORCE_OFF p 0
  if opWaits s p .apply then s2 else setF s2 F.POL_PMUCTL_APPLY p 0

/-- The fields of PMUCTL that show what is over. -/
def showPmu (s : State) (p : Nat) : State := showOps (tidyBurst (showConv s p) p) p

/-- An operation waits on the channels `cs`, under one number (R111, R115). -/
def queueOp (s : State) (p : Nat) (cs : List Nat) (op : PmuOp) : State :=
  if cs.isEmpty then s
  else
    let id := (polOf s p).opN
    forAll cs (setPol s p { polOf s p with opN := id + 1 })
      (fun s c => setChan s c { chanOf s c with ops := (chanOf s c).ops ++ [(id, op)] })

/-- What the operation `r` of a polder asks of its channels on die `k`. -/
def opReq (s : State) (k : Nat) (r : Nat × PmuOp) : List PmuNew :=
  ((pmuChans s r.1).filter (fun c => c / 64 == k)).map (fun c => opNew s c r.2)

/-- An accepted request keeps room in the budget for a channel on which it has still to wait, as a range change in progress does
(R114, R115; DESIGN CHOICE, log entry 66). -/
def holdClaim (s : State) (n : PmuNew) : State := setClaim s n.c (Nat.max (getClaim s n.c) (newClaim s n))

/-- An operation of one polder reaches die `k`, judged as a whole for all its channels there (R115): refused it changes none of them;
accepted it acts on the channels that are free, and at the end of its conversion on each other one (R111). -/
def applyOn (k : Nat) (s : State) (r : Nat × PmuOp) : State :=
  let ns := opReq s k r
  let waits (n : PmuNew) : Bool := (chanOf s n.c).conv.isSome
  if overBudget s k ns then refuseBudget s (some r.1) k
  else
    let s1 := (ns.filter waits).foldl holdClaim ((ns.filter (fun n => !waits n)).foldl takeNew s)
    queueOp s1 r.1 ((ns.filter waits).map (·.c)) r.2

/-- Operations of several polders that reach the dies in one cycle (R115): on each die those whose claims do not rise first, then the
others in ascending polder number. -/
def applyOps (s : State) (rs : List (Nat × PmuOp)) : State :=
  let s1 := forAll (List.range 8) s (fun s k =>
    (rs.filter (fun r => !rising s (opReq s k r)) ++ rs.filter (fun r => rising s (opReq s k r))).foldl (applyOn k) s)
  rs.foldl (fun s r => showPmu s r.1) s1

/-- An order of polder `p` that is no operation on the force acts (R112). -/
def fireOrder (s : State) (p : Nat) (x : Trig) : State :=
  match x.act with
  | .conv => showConv (fire s p x.t0 none) p
  | .burst n => tidyBurst (fire s p x.t0 (some n)) p
  | .stop => stopBurst s p x.n
  | .op _ => s

/-- The first order of each polder that has one before `t`. -/
def dueHeads (s : State) (t : Stamp) : List (Nat × Trig) :=
  (List.range 64).filterMap (fun p => match (polOf s p).trigs with
    | x :: _ => if earlier x.t0 t then some (p, x) else none
    | [] => none)

/-- The earliest stamp of these orders. -/
def firstStamp : List (Nat × Trig) → Option Stamp
  | [] => none
  | h :: l => some (l.foldl (fun t x => if earlier x.2.t0 t then x.2.t0 else t) h.2.t0)

/-- The orders of the earliest stamp before `t` that come first in their polders act, operations on the force together (R113, R115). -/
def fireRound (s : State) (t : Stamp) : State :=
  match firstStamp (dueHeads s t) with
  | none => s
  | some t1 =>
    let mine := (dueHeads s t).filter (fun h => h.2.t0 == t1)
    let s1 := mine.foldl (fun s h => setPol s h.1 { polOf s h.1 with trigs := (polOf s h.1).trigs.drop 1 }) s
    applyOps (mine.foldl (fun s h => fireOrder s h.1 h.2) s1)
      (mine.filterMap (fun h => match h.2.act with | .op o => some (h.1, o) | _ => none))

/-- The parametric orders of the module stamped before `t` act, in order of stamp (R112). An order acts when its stamp has come and
the unit is looked at next: before any happening that it could bear on. -/
def pmuDue (s : State) (t : Stamp) : State :=
  (List.range ((List.range 64).map (fun p => (polOf s p).trigs.length)).sum).foldl (fun s _ => fireRound s t) s

/-- The parametric orders whose stamp the count has reached act. -/
def pmuNowDue (s : State) : State := pmuDue s (now s + 1)

/-- The order that an operation code stands for (R112); none for NOP and the reserved codes. -/
def actOfOp (s : State) (p : Nat) : Nat → Option PmuAct
  | 1 => some .conv
  | 2 => some (.burst (getF s F.POL_PMUCFG_BURSTN p))
  | 3 => some .stop
  | 4 => some (.op .on)
  | 5 => some (.op .off)
  | 6 => some (.op .apply)
  | _ => none

/-- R112: the operation of code `op` is ordered on polder `p`: a conversion or a burst for `tc`, any other operation for `t`. -/
def pmuOp (s : State) (p op : Nat) (t tc : Stamp) : State :=
  match actOfOp s p op with
  | some a => order s p (if op ≤ 2 then tc else t) a
  | none => if op = 0 then s else raise s .pol p E.POL_PMU_OPRSV

/-- The burst of a polder ends with the stop of its run, whose last vector is over at `t` (R117). -/
def endsBurst (s : State) (p : Nat) (t : Stamp) : State := pmuNowDue (order s p t .stop)

/-- A conversion with hold start `t0`, no part of a burst, is under way or waits on a channel of the polder. -/
def convAt (s : State) (p : Nat) (t0 : Stamp) : Bool :=
  (chansOf s p).any (fun c =>
    (match (chanOf s c).conv with | some v => v.t0 == t0 && !v.burst && !v.latched | none => false) ||
    (match (chanOf s c).waitConv with | some v => v.t0 == t0 && !v.burst | none => false))

/-- The operation of bit `b` of PMUCTL, at the present tick. Each command reads 1 while what it ordered runs or waits (R112, R119). -/
def pmuctl (s : State) (p b : Nat) : State :=
  let s1 := pmuNowDue (pmuOp (pmuNowDue s) p (b + 1) (now s) (now s))
  match b with
  | 0 => if convAt s1 p (now s) then setF s1 F.POL_PMUCTL_CONV p 1 else s1
  | 1 => if burstOn s1 p then setF s1 F.POL_PMUCTL_BURST p 1 else s1
  | 2 => if burstOn s1 p then setF s1 F.POL_PMUCTL_BURST_STOP p 1 else s1
  | 3 => if opWaits s1 p .on then setF s1 F.POL_PMUCTL_FORCE_ON p 1 else s1
  | 4 => if opWaits s1 p .off then setF s1 F.POL_PMUCTL_FORCE_OFF p 1 else s1
  | 5 => if opWaits s1 p .apply then setF s1 F.POL_PMUCTL_APPLY p 1 else s1
  | _ => s1

/-- What waited on the channels `cs` of polder `p` acts, each order as one request on each die (R111, R115). -/
def runOps (s : State) (p : Nat) (cs : List Nat) : State :=
  let s1 := forAll (cs.filter (fun c => !(chanOf s c).ops.isEmpty)) s (fun s c => setChan s c { chanOf s c with ops := [] })
  forAll ((List.range (polOf s p).opN).filter (fun i => cs.any (fun c => (chanOf s c).ops.any (fun x => x.1 == i)))) s1 (fun s' i =>
    requests s' (some p) (cs.filterMap (fun c => ((chanOf s c).ops.find? (fun x => x.1 == i)).map (fun x => opNew s' c x.2))))

/-- A word of configuration is written (R105, R110, R115): PMUEN at once, then MODE, IRANGE and CONNECT as their rules say. A change
of MODE of a connected unit drops its conversion without a result, and its burst; what waited for the conversion acts (log entry 34). -/
def pmuCfgWrite (s : State) (c : Nat) (mode range : Nat) (en conn : Bool) : State :=
  let p := owner s (c / 8)
  let k := c / 64
  let s0 := pmuNowDue s
  let s1 := setF s0 (F.OCT_X2_PMUCFG_PMUEN (c % 8)) (c / 8) (b2n en)
  let n := pmuNow s1 c
  let s2 := if !conn then
      takeNew (setChan s1 c { chanOf s1 c with reconnect := false }) { n with mode := mode, range := range, conn := false }
    else if n.conn && mode != n.mode then
      let r := request s1 p k [{ n with mode := mode, range := range }]
      if r.2 then
        let s2 := setChan r.1 c { chanOf r.1 c with reconnect := true, conv := none, waitConv := none, burst := none }
        match p with | some q => runOps s2 q [c] | none => s2
      else disconnect r.1 c
    else if n.conn && range != n.range && (chanOf s1 c).conv.isSome then
      match p with | some q => queueOp s1 q [c] (.range (BitVec.ofNat 3 range)) | none => s1
    else (request s1 p k [{ n with mode := mode, range := range, conn := true }]).1
  match p with | some q => showPmu s2 q | none => s2

/-- A write of FORCE.CODE (R115). -/
def pmuForceSet (s0 : State) (c code : Nat) : State :=
  let s := pmuNowDue s0
  (request s (owner s (c / 8)) (c / 64) [{ pmuNow s c with code := code }]).1

/-! The end of a conversion (R103, R106, R108, R111). -/

/-- The result of one channel: code, COMPL, OVR (R103). A channel the happening does not name yields a
free code; `base` is the free counter at the happening. -/
def resultOf (base : Nat) (rs : List ConvResult) (t : Nat) : Nat × Bool × Bool :=
  match rs.find? (fun r => r.tch.val == t) with
  | some r =>
    if r.code < 0 then (0, r.limited, true)
    else if 262143 < r.code then (262143, r.limited, true)
    else (r.code.toNat, r.limited, false)
  | none => ((Config.freeWord (base + t)).toNat % 262144, false, false)

/-- The entry of a PSAMP record (R253). -/
def psampEntry (code : Nat) (compl defer ovr mask : Bool) (t range : Nat) : Nat :=
  code % 262144 + 2 ^ 18 * b2n compl + 2 ^ 19 * b2n defer + 2 ^ 20 * b2n ovr + 2 ^ 21 * b2n mask + 2 ^ 22 * (t % 64)
    + 2 ^ 28 * (range % 8)

/-- Two entries per word, low half first (R253). -/
def pairUp : List Nat → List (BitVec 64)
  | [] => []
  | [a] => [BitVec.ofNat 64 a]
  | a :: b :: l => BitVec.ofNat 64 (a + 2 ^ 32 * b) :: pairUp l

/-- The result of channel `c`, template channel `t`, is latched in RESULT (R108). -/
def latchOne (s : State) (base p c t : Nat) (rs : List ConvResult) : State :=
  match (chanOf s c).conv with
  | none => s
  | some v =>
    let r := resultOf base rs t
    let j := c % 8
    let o := c / 8
    let s1 := setF (setF s (F.OCT_X2_RESULT_CODE j) o r.1) (F.OCT_X2_RESULT_COMPL j) o (b2n r.2.1)
    let s2 := setF (setF s1 (F.OCT_X2_RESULT_DEFER j) o (b2n v.defer)) (F.OCT_X2_RESULT_OVR j) o (b2n r.2.2)
    let s3 := addCt (setF s2 (F.OCT_X2_RESULT_VALID j) o 1) F.POL_PMUCNT_N p 1
    let s4 := raiseIf r.2.1 s3 .pol p E.POL_PMU_COMPLIANCE
    setChan s4 c { chanOf s4 c with conv := some { v with latched := true } }

/-- The conversions of polder `p` with hold start `t0`, of a burst or not, that are to be latched: (template channel, channel). -/
def latching (s : State) (p : Nat) (t0 : Stamp) (burst : Bool) : List (Nat × Nat) :=
  (chansOf s p).zipIdx.filterMap (fun x =>
    match (chanOf s x.1).conv with
    | some v => if v.t0 == t0 && !v.latched && v.burst == burst then some (x.2, x.1) else none
    | none => none)

/-- Samples of the polder are framed around triggers (R236). -/
def windowed (s : State) (p : Nat) : Bool := frameOf s p 1 == 3 && !streaming s p

/-- `t0` lies in the open record (R241). -/
def inRecord (s : State) (p : Nat) (t0 : Stamp) : Bool :=
  match (acqOf s p).rcd with | some w => within w.openS w.closeS t0 | none => false

/-- R248: the mask index of the conversion of channel `c` at `t0`; none where its record is not known yet. -/
def maskIndex (s : State) (p c : Nat) (t0 : Stamp) : Option Nat :=
  if windowed s p then (if inRecord s p t0 then some (acqOf s p).convN else none)
  else match (chanOf s c).conv with | some v => some v.k | none => none

/-- The samples of the conversions `xs` at `t0` pass to acquisition: one PSAMP record per group of 64 template channels (R235, R253).
In WINDOW framing those outside a record are kept for a later mask test (R244, R248). `base` is the free counter at the happening. -/
def samples (s : State) (base p : Nat) (t0 : Stamp) (burst : Bool) (xs : List (Nat × Nat)) (rs : List ConvResult) : State :=
  let adm := admits s p 1 t0
  let viol (x : Nat × Nat) : Bool := adm && (match maskIndex s p x.2 t0 with
    | some i => maskViolates s p i (resultOf base rs x.1).1 | none => false)
  let s1 := forAll (List.range 8) s (fun s' g =>
    let mine := xs.filter (fun x => x.1 / 64 == g)
    if mine.isEmpty then s'
    else
      let es := pairUp (mine.map (fun x =>
        let r := resultOf base rs x.1
        let d := match (chanOf s x.2).conv with | some v => v.defer | none => false
        psampEntry r.1 r.2.1 d r.2.2 (viol x) x.1 (pmuRange s x.2)))
      let s2 := putItem s' p 1 { typ := 2, aux := BitVec.ofNat 16 (g + b2n burst * 8), body := t0 :: es } t0
      if adm && windowed s p && !inRecord s p t0 then setAcq s2 p { acqOf s2 p with convs := (acqOf s2 p).convs ++ [(t0, es)] } else s2)
  noteMask s1 p (xs.filter viol).length t0

/-- The conversions `xs` of polder `p` are over at `t`: what waited for them acts, and the next of their bursts begin. -/
def release (s : State) (p : Nat) (cs : List Nat) (t : Stamp) : State :=
  let s1 := runOps (forAll cs s (fun s c => setChan s c { chanOf s c with conv := none })) p cs
  showPmu (forAll cs s1 (fun s' c => match (chanOf s c).conv with | some v => nextConv s' c v t | none => s')) p

/-- R106, R108: the results of the conversion at `t0` are latched. A high-impedance input has no array to return, so its conversion is
over, and what waited for it acts (R111; log entry 34). -/
def latchAll (s0 : State) (p : Nat) (t0 : Stamp) (rs : List ConvResult) : State :=
  let z := pmuDue s0 (t0 + ticks 3200)
  let single := latching z p t0 false
  let burst := latching z p t0 true
  let xs := single ++ burst
  if xs.isEmpty then z
  else
    let s := reach z (t0 + ticks 3200)
    let s1 := samples (if single.isEmpty then s else samples s s.free p t0 false single rs) s.free p t0 true burst rs
    let s2 := if windowed s p && inRecord s p t0 then setAcq s1 p { acqOf s1 p with convN := (acqOf s1 p).convN + 1 } else s1
    let s3 := xs.foldl (fun s' x => latchOne s' s.free p x.2 x.1 rs) s2
    let s4 := { s3 with free := s3.free + 512 }
    showPmu (release s4 p ((xs.map (·.2)).filter (fun c => pmuMode s c == 3)) (t0 + ticks 3200)) p

/-- R106: the array returns to force, at t0 + 4,000 ticks. -/
def returnAll (s0 : State) (p : Nat) (t0 : Stamp) : State :=
  let s := pmuDue s0 (t0 + ticks 4000)
  let xs := (chansOf s p).filter (fun c => match (chanOf s c).conv with | some v => v.t0 == t0 && v.latched | none => false)
  if xs.isEmpty then s else release (reach s (t0 + ticks 4000)) p xs (t0 + ticks 4000)

/-- R110, R111: a range change completes at `t`; a conversion that waited for it is made then. -/
def rangeDone (s0 : State) (c : Nat) (t : Stamp) : State :=
  let s := pmuDue s0 t
  let ch := chanOf s c
  if ch.rangeOld.isNone then s
  else
    let made : Option Conv := match ch.waitConv with | some v => some { v with t0 := t } | none => ch.conv
    let s1 := setChan (reach s t) c { ch with rangeOld := none, waitConv := none, conv := made }
    setClaim s1 c (claimOf (pmuMode s1 c) (pmuRange s1 c) (pmuForce s1 c) (pmuConn s1 c))

/-! The commands. -/

/-- MODE_RECONNECT (R105): the new mode connects. -/
def execModeReconnect (ch : Fin 512) (s : State) : Host.Outcome State Fault Refusal :=
  let s := pmuNowDue (cycle s)
  let c := ch.val
  .next (if (chanOf s c).reconnect then
    let r := request (setChan s c { chanOf s c with reconnect := false }) (owner s (c / 8)) (c / 64) [pmuNow s c]
    if r.2 then r.1 else disconnect r.1 c
    else s)

def execRangeChangeComplete (ch : Fin 512) (t : Stamp) (s : State) : Host.Outcome State Fault Refusal :=
  .next (rangeDone (cycle s) ch.val t)

def execConversionLatch (p : Fin 64) (t0 : Stamp) (rs : List ConvResult) (s : State) : Host.Outcome State Fault Refusal :=
  .next (latchAll (cycle s) p.val t0 rs)

def execArrayReturn (p : Fin 64) (t0 : Stamp) (s : State) : Host.Outcome State Fault Refusal :=
  .next (returnAll (cycle s) p.val t0)

end Sys2Proof.Machine
end

