-- ==== Sys2Proof/Machine/Tdc.lean ====
section
/-! DEFINITION. Time and frequency measurement (R275 to R295). -/

namespace Sys2Proof.Machine

/-- A class as it acts: the reserved codes act as OFF (R278). -/
def classOf (v : Nat) : Nat := if 5 ≤ v then 0 else v

def tdcClass (s : State) (c : Nat) : Nat := classOf (getF s (F.OCT_X7_TDCCFG_CLASS (c % 8)) (c / 8))

/-- A stamp with its sixteenths (R275). -/
def stamp16 (t : Stamp) (sub : BitVec 4) : Stamp16 := t.toNat * 16 + sub.toNat

/-- Sixteenths from `a` to `b` on the stamp circle. -/
def span16 (a b : Stamp16) : Nat := (b + 2 ^ 68 - a % 2 ^ 68) % 2 ^ 68

def setTdc (s : State) (c : Nat) (x : Tdc) : State := setChan s c { chanOf s c with tdc := x }

/-! Records of the TDC stream (R285, R286, R291). -/

/-- The gathered stamps of a channel become one TDC record. -/
def closeTdcRec (s : State) (c : Nat) : State :=
  let x := (chanOf s c).tdc
  match x.gather, owner s (c / 8) with
  | [], _ => s
  | _, none => setTdc s c { x with gather := [] }
  | g :: gs, some p =>
    let all := (g :: gs).take 7
    let rise := (all.zipIdx.map (fun e => if e.1.2 then 2 ^ (9 + e.2) else 0)).sum
    let r : Record := { typ := 3, aux := BitVec.ofNat 16 (tchOf s p c % 512 + rise), body := all.map (·.1) }
    putItem (setTdc s c { x with gather := [] }) p 2 r g.1

/-- A stamp reaches the acquisition unit (R286): the record closes at the seventh, or where its time is over. -/
def acqStamp (s : State) (c : Nat) (e : Stamp × Bool) : State :=
  let x := (chanOf s c).tdc
  let old := match x.gather with | g :: _ => !earlier e.1 (g.1 + ticks 1600) | [] => false
  let s1 := if old then closeTdcRec s c else s
  let y := (chanOf s1 c).tdc
  let s2 := setTdc s1 c { y with gather := y.gather ++ [e] }
  if 7 ≤ y.gather.length + 1 then closeTdcRec s2 c else s2

/-- The oldest stamp of a channel's FIFO leaves it; the last one of an arming that has closed ends the record (R286). -/
def popFifo (s : State) (c : Nat) : State :=
  let x := (chanOf s c).tdc
  match x.fifo with
  | [] => s
  | e :: es =>
    let s1 := acqStamp (setTdc s c { x with fifo := es }) c (e.1, e.2.1)
    if e.2.2 then closeTdcRec s1 c else s1

/-- The die sends up to `n` stamps, round-robin over its channels (R285). -/
def drainDie (d : Nat) : Nat → State → State
  | 0, s => s
  | n + 1, s =>
    let rr := (dieOf s d).rr
    match ((List.range 64).map (fun k => (rr + k) % 64)).find? (fun j => !(chanOf s (64 * d + j)).tdc.fifo.isEmpty) with
    | none => s
    | some j => drainDie d n (setDie (popFifo s (64 * d + j)) d { dieOf s d with rr := (j + 1) % 64 })

/-- What the die has sent by stamp `t`: one stamp every 4 ticks (R285). -/
def drainUntil (s : State) (d : Nat) (t : Stamp) : State :=
  let x := dieOf s d
  if earlier x.drainT t then
    let n := (t - x.drainT).toNat / 4096
    let s1 := drainDie d (Nat.min n 256) s
    setDie s1 d { dieOf s1 d with drainT := if n ≤ 256 then x.drainT + ticks (4 * n) else t }
  else s

/-- Die `d` goes on sending, a stamp every 4 ticks, until the FIFOs of the channels `cs` of it are empty; `n` bounds the stamps. -/
def drainOut (cs : List Nat) (d : Nat) : Nat → State → State
  | 0, s => s
  | n + 1, s =>
    if cs.all (fun c => (chanOf s c).tdc.fifo.isEmpty) then s
    else
      let s1 := drainDie d 1 s
      drainOut cs d n (setDie s1 d { dieOf s1 d with drainT := (dieOf s1 d).drainT + ticks 4 })

/-- The stamps of the channels `cs` of die `d` have all reached the acquisition unit, at the die's rate (R285), and their records
close. -/
def drainChans (cs : List Nat) (s : State) (d : Nat) : State :=
  let own := cs.filter (fun c => c / 64 == d)
  let s1 := drainOut own d 256 (drainUntil s d (now s))
  forAll own (reach s1 (dieOf s1 d).drainT) closeTdcRec

/-- A stamp of class EDGE enters the FIFO, or is lost to acquisition (R285). -/
def pushFifo (s : State) (c : Nat) (e : Stamp × Bool) : State :=
  let s1 := drainUntil s (c / 64) e.1
  let x := (chanOf s1 c).tdc
  if 4 ≤ x.fifo.length then raise (addCt s1 (F.OCT_TDCLOST_N (c % 8)) (c / 8) 1) .oct (c / 8) E.OCT_TDC_LOST
  else setTdc s1 c { x with fifo := x.fifo ++ [(e.1, e.2, false)] }

/-! Arming (R278, R279, R280, R287). -/

/-- The configuration that a channel pairs with: that of its arming while it is armed, and that of the next arming otherwise (R278,
R293): class, PARTNER, IWIN. -/
def pairCfg (s : State) (c : Nat) : Nat × Nat × Nat :=
  let x := (chanOf s c).tdc
  if x.phase != .off then (x.cls, x.partner, x.iwin)
  else (tdcClass s c, getF s (F.OCT_X7_TDCCFG_PARTNER (c % 8)) (c / 8), Nat.max 1 (getF s (F.OCT_X7_IWIN_T (c % 8)) (c / 8)))

/-- The START channel that a STOP channel names, when it is a START channel of the polder and not itself (R287). -/
def startOf (s : State) (c : Nat) : Option Nat :=
  match owner s (c / 8) with
  | none => none
  | some p =>
    match chanOfT s p (pairCfg s c).2.1 with
    | some a => if a != c && (pairCfg s a).1 == 3 then some a else none
    | none => none

/-- The STOP channels of a polder that name START channel `a`, or have a pair with it that waits. -/
def stopsOf (s : State) (a : Nat) : List Nat :=
  match owner s (a / 8) with
  | none => []
  | some p => (chansOf s p).filter (fun c =>
    (chanOf s c).tdc.pairs.any (fun w => w.chan == a) || ((pairCfg s c).1 == 4 && startOf s c == some a))

/-- The MPLL is re-locking (R333). -/
def relocking (s : State) : Bool := getF s F.CLK_STATE_MSTATE 0 == 1

/-- R279: a TA action at `t`. The stamp of the last stamped edge stays, so that hold-off reaches into the arming (R282). -/
def tdcArm (s : State) (c : Nat) (t : Stamp) : State :=
  let x := (chanOf s c).tdc
  let cls := tdcClass s c
  if x.phase != .off then raise s .oct (c / 8) E.OCT_TA_IGN
  else if cls = 0 then s
  else
    let j := c % 8
    let o := c / 8
    let lone := decide (cls = 4) && (startOf s c).isNone
    let opn := t + ticks 64
    let gate := Nat.max 100 (Nat.min 400000000 (getF s (F.OCT_X7_GATE_T j) o))
    let win := getF s (F.OCT_X7_ARMWIN_T j) o
    let es := getF s (F.OCT_X7_TDCCFG_EDGESEL j) o
    let s1 := setTdc s c { x with
      phase := .cal, ta := t, cls := if lone then 1 else cls, cmpsel := isSet s (F.OCT_X7_TDCCFG_CMPSEL j) o
      edgesel := if es = 3 then 0 else es, holdoff := getF s (F.OCT_X7_TDCCFG_HOLDOFF j) o
      partner := getF s (F.OCT_X7_TDCCFG_PARTNER j) o, iwin := Nat.max 1 (getF s (F.OCT_X7_IWIN_T j) o), openS := opn
      closeS := if cls = 2 then some (opn + ticks (16 * gate)) else if win = 0 then none else some (opn + ticks win)
      presc := getF s (F.OCT_X7_PRESC_N j) o, gate := gate
      k := 0, n := 0, sk := 0, st := 0, skk := 0, skt := 0, stt := 0, capped := false }
    if lone then (match owner s o with | some p => raise s1 .pol p E.POL_PAIR_ERR | none => s1) else s1

/-- An arming ends: the TDC record closes once what is in the FIFO has arrived (R280, R285, R286). -/
def tdcOff (s : State) (c : Nat) : State :=
  let s1 := drainUntil s (c / 64) (now s)
  let x := (chanOf s1 c).tdc
  let s2 := setTdc s1 c { x with phase := .off, fifo := x.fifo.dropLast ++ (x.fifo.getLast?.map (fun e => (e.1, e.2.1, true))).toList }
  if x.fifo.isEmpty then closeTdcRec s2 c else s2

/-- R280: the octet leaves the pin states IDLE and ACTIVE. A FREQ gate is cut. -/
def tdcCut (s : State) (c : Nat) : State :=
  let x := (chanOf s c).tdc
  if x.phase = .off then s
  else
    let s1 := tdcOff s c
    if x.cls = 2 then raise s1 .oct (c / 8) E.OCT_GATE_CUT else s1

/-! Intervals (R287). -/

/-- A TMEAS interval record: flags and Δ from the two stamps (R287, R291). -/
def intervalResult (s : State) (p a b : Nat) (ts te : Stamp16) (stepped : Bool) : State :=
  let fwd := span16 ts te
  let neg := decide (2 ^ 67 ≤ fwd)
  let mag := if neg then 2 ^ 68 - fwd else fwd
  let coin := decide (mag < 16)
  let m := (mag + 8) / 16
  let delta : Int := if coin then 0 else if neg then -(m : Int) else m
  let t1 := if neg then te else ts
  let aux := tchOf s p a % 512 + 1 * 512 + 2 ^ 12 * b2n coin + 2 ^ 13 * b2n (neg && !coin) + 2 ^ 14 * b2n stepped
  let st := BitVec.ofNat 64 (t1 / 16)
  let r : Record := { typ := 4, aux := BitVec.ofNat 16 aux,
                      body := [st, BitVec.ofNat 64 (unsign delta 32 + 2 ^ 32 * (tchOf s p b % 512))] }
  addCt (putItem s p 2 r st) F.POL_TMEASCNT_N p 1

/-- The pairs that have had their result or their end, by START channel and its last TA (R287), after `w` has. -/
def Tdc.donePair (y : Tdc) (w : PairWait) : List (Nat × Stamp) := (w.chan, w.arm) :: y.pairDone.filter (fun e => e.1 != w.chan)

/-- The pair `w` of STOP channel `b` finds no partner (R287). -/
def unpaired (s : State) (p b : Nat) (w : PairWait) : State :=
  let s1 := raise (addCt s F.POL_UNPAIREDCNT_N p 1) .pol p E.POL_UNPAIRED
  let y := (chanOf s1 b).tdc
  setTdc s1 b { y with pairs := y.pairs.filter (· != w), pairDone := y.donePair w }

/-- A STOP stamp with no armed pair (R287). -/
def noStart (s : State) (p : Nat) : State := raise (addCt s F.POL_NOSTARTCNT_N p 1) .pol p E.POL_NOSTART

/-- Stamp `t` lies in the window of the pair that waits (R287, R299): the later of the two stamps is within IWIN of the earlier. Stamps
are compared in fine units. -/
def partnered (w : PairWait) (t : Stamp16) : Bool :=
  let d := BitVec.ofNat 64 (t / 16) - BitVec.ofNat 64 (w.t / 16)
  decide (d.toNat < 1024 * w.iwin) || decide ((-d).toNat < 1024 * w.iwin)

/-- The window of the pair that waits has passed at `t`. -/
def lapsed (w : PairWait) (t : Stamp16) : Bool := !earlier (BitVec.ofNat 64 (t / 16)) (BitVec.ofNat 64 (w.t / 16) + ticks w.iwin)

/-- The START channel is armed at stamp `t` (R287, R292). -/
def startArmed (s : State) (a : Nat) (t : Stamp16) : Bool :=
  let x := (chanOf s a).tdc
  let u := BitVec.ofNat 64 (t / 16)
  x.phase != .off && x.cls == 3 && !earlier u x.openS && (match x.closeS with | some e => earlier u e | none => true)

/-- A stamp of pair (a, b), from the START channel when `start` (R287). -/
def pairStamp (s : State) (p a b : Nat) (start : Bool) (t : Stamp16) : State :=
  let s1 := ((chanOf s b).tdc.pairs.filter (fun w => w.chan == a && lapsed w t)).foldl (fun s w => unpaired s p b w) s
  let y := (chanOf s1 b).tdc
  match y.pairs.find? (fun w => w.chan == a && w.start != start && partnered w t) with
  | some w =>
    let s2 := setTdc s1 b { y with pairs := y.pairs.filter (· != w), pairDone := y.donePair w }
    intervalResult s2 p a b (if start then t else w.t) (if start then w.t else t) (w.steps != s.clkSteps || w.relock)
  | none =>
    let ta := (chanOf s1 a).tdc.ta
    if !start && !startArmed s1 a t then noStart s1 p
    else if y.pairDone.contains (a, ta) || y.pairs.any (fun w => w.chan == a && w.arm == ta) then s1
    else setTdc s1 b { y with pairs := y.pairs ++ [{ start := start, chan := a, arm := ta, t := t, iwin := (pairCfg s1 b).2.2,
                                                     steps := s.clkSteps, relock := relocking s }] }

/-! Stamps (R281 to R284, R288). -/

/-- R288, R289: an edge of a FREQ gate. -/
def freqEdge (s : State) (c : Nat) (t : Stamp16) : State :=
  let x := (chanOf s c).tdc
  let y := { x with k := x.k + 1 }
  if x.k % (x.presc + 1) != 0 then setTdc s c y
  else
    let near := match x.last with | some l => decide (span16 l t < 2048 * 16) | none => false
    if near then
      raise (addCt (setTdc s c y) (F.OCT_DTLOST_N (c % 8)) (c / 8) 1) .oct (c / 8) E.OCT_DEADTIME
    else if 65536 ≤ x.n then setTdc s c { y with last := some t, capped := true }
    else
      let u := span16 (stamp16 x.openS 0) t
      setTdc s c { y with
        last := some t, n := x.n + 1, sk := x.sk + x.k, st := x.st + u
        skk := x.skk + x.k * x.k, skt := x.skt + x.k * u, stt := x.stt + u * u }

/-- A stamped edge of class EDGE, START or STOP goes to the router (R284), the FIFO (R285) and the pairs (R287). -/
def edgeStamp (s : State) (c : Nat) (rising : Bool) (t : Stamp) (t16 : Stamp16) : State :=
  let x := (chanOf s c).tdc
  let s1 := setTdc s c { x with last := some t16 }
  let s2 := dieEvent s1 { src := BitVec.ofNat 12 c, pol := rising, stamp := t, tdc := true }
  match owner s (c / 8) with
  | none => s2
  | some p =>
    if x.cls = 1 then pushFifo s2 c (t, rising)
    else if x.cls = 3 then
      let s3 := forAll (stopsOf s2 c) s2 (fun s b => pairStamp s p c b true t16)
      tdcOff s3 c
    else
      let s3 := match startOf s2 c with
        | some a => pairStamp s2 p a c false t16
        | none => noStart s2 p
      tdcOff s3 c

/-- The time of an edge as the TDC has it (R275, R276): the transition reads `t`, `sub` with the nominal scale of the interpolator,
which gives K, the tick at or after it, and r; g and o of the arming turn them into the time, in sixteenths, and the applied compare
offset is taken off. A time between two sixteenths is rounded either way (log entry 70). -/
def tdcTime (s : State) (c : Nat) (t : Stamp) (sub : BitVec 4) : Stamp16 × State :=
  let x := (chanOf s c).tdc
  let raw := stamp16 t sub
  let k := (raw + 16383) / 16384
  let num : Int := 16384 * (((k * 16384 - raw : Nat) : Int) - x.m1)
  let d : Int := (x.m2 : Int) - x.m1
  let f := freeB s
  let up := decide (num % d ≠ 0) && f.1
  let cofs := signed (getF s (F.OCT_X6_APPC_COFS (c % 8)) (c / 8)) 18
  let v : Int := 16384 * (k : Int) - 16384 - num / d - b2n up - 16 * cofs
  ((v % (2 ^ 68 : Int)).toNat, if num % d = 0 then s else f.2)

/-- An edge at the TDC input (R281 to R283, R288, R299). -/
def tdcEdge (s : State) (c : Nat) (high rising : Bool) (t0 : Stamp) (sub : BitVec 4) : State :=
  let x := (chanOf s c).tdc
  if x.phase != .armed || x.cmpsel == high || !(x.edgesel == 2 || (x.edgesel == 0) == rising) then s
  else
    let r := tdcTime s c t0 sub
    let t16 := r.1
    let t := BitVec.ofNat 64 (t16 / 16)
    let inWin := !earlier t x.openS && (match x.closeS with | some e => earlier t e | none => true)
    let held := match x.last with
      | some l => x.cls != 2 && decide (span16 l t16 < 16384 * x.holdoff)
      | none => false
    if !inWin || held then r.2
    else if x.cls = 2 then freqEdge r.2 c t16
    else
      let near := match x.last with | some l => decide (x.cls = 1) && decide (span16 l t16 < 2048 * 16) | none => false
      if near then raise (addCt r.2 (F.OCT_DTLOST_N (c % 8)) (c / 8) 1) .oct (c / 8) E.OCT_DEADTIME
      else edgeStamp r.2 c rising t t16

/-! Results of a FREQ gate (R288, R289, R290). -/

/-- A, B and C of the least-squares fit. -/
def fitA (x : Tdc) : Int := (x.n : Int) * x.stt - (x.st : Int) * x.st
def fitB (x : Tdc) : Int := (x.n : Int) * x.skt - (x.sk : Int) * x.st
def fitC (x : Tdc) : Int := (x.n : Int) * x.skk - (x.sk : Int) * x.sk

/-- Twice the frequency in mHz over its denominator: 1.6384 × 10¹⁵ / b with b = B / (16 C) (R288). -/
def freqNum (x : Tdc) : Nat := 2 * (1638400000000000 * 16 * (fitC x).toNat)
def freqDen (x : Tdc) : Nat := 2 * (fitB x).toNat

/-- The frequency in mHz, rounded to the nearest; half a mHz goes up or, with `down`, down. -/
def freqMilli (x : Tdc) (down : Bool) : Nat :=
  if x.n < 3 then 0
  else
    let q := (freqNum x + (fitB x).toNat) / freqDen x
    if down && (freqNum x + (fitB x).toNat) % freqDen x == 0 then q - 1 else q

/-- The square of the rms residual in 1/16 fine unit, as a numerator and a denominator. -/
def residNum (x : Tdc) : Nat := (fitA x * fitC x - fitB x * fitB x).toNat
def residDen (x : Tdc) : Nat := x.n * x.n * (fitC x).toNat

/-- The rms residual: where it is no whole number, the next one above or, without `up`, below. -/
def residOf (x : Tdc) (up : Bool) : Nat :=
  if x.n < 3 then 0
  else
    let r := Nat.sqrt (residNum x / residDen x)
    if r * r * residDen x = residNum x then r else r + b2n up

/-- The result of a gate is written and becomes a TMEAS record (R289, R290, R291). The roundings that
R288 leaves open (of RESID, of half a mHz) are free values (log entry 70). -/
def freqResult (s : State) (c : Nat) : State :=
  let x := (chanOf s c).tdc
  let j := c % 8
  let o := c / 8
  let r := freeB s
  let few := decide (x.n < 3)
  let resid := residOf x r.1
  let f := freqMilli x r.1
  let stepped := x.relock || x.steps != s.clkSteps
  let hold := x.hold || x.holds != s.holds || isSet s F.CLK_COND_HOLDOVER 0
  let bug := getF s F.CLK_STATE_REFACT 0
  let s1 := setF (setF r.2 (F.OCT_X7_FREQ_LO_F j) o (f % 2 ^ 32)) (F.OCT_X7_FREQRES_F j) o (f / 2 ^ 32)
  let s2 := setF (setF s1 (F.OCT_X7_FREQRES_RESID j) o resid) (F.OCT_X7_FREQRES_FEW j) o (b2n few)
  let s3 := setF (setF s2 (F.OCT_X7_FREQRES_CAPPED j) o (b2n x.capped)) (F.OCT_X7_FREQRES_CLKSTEP j) o (b2n stepped)
  let s4 := setF (setF s3 (F.OCT_X7_FREQRES_HOLDOVER j) o (b2n hold)) (F.OCT_X7_FREQN_NSTAMP j) o x.n
  let s5 := setF (setF s4 (F.OCT_X7_FREQN_VALID j) o 1) (F.OCT_X7_FREQN_REFBUGLE j) o bug
  match owner s o with
  | none => s5
  | some p =>
    let aux := tchOf s p c % 512 + 2 ^ 12 * b2n few + 2 ^ 13 * b2n x.capped + 2 ^ 14 * b2n stepped + 2 ^ 15 * b2n hold
    let body := [x.openS, BitVec.ofNat 64 (f % 2 ^ 44 + 2 ^ 44 * (resid % 65536)),
                 BitVec.ofNat 64 (x.n % 2 ^ 17 + 2 ^ 17 * (bug % 2) + 2 ^ 32 * (x.gate % 2 ^ 32))]
    addCt (putItem s5 p 2 { typ := 4, aux := BitVec.ofNat 16 aux, body := body } x.openS) F.POL_TMEASCNT_N p 1

/-! The commands. -/

/-- TDC_CALIBRATION_DONE: the arming opens unless g is more than 25 % off its nominal 1/16 fine unit (R276); its clock marks are taken
as it opens (R290). -/
def execTdcCalibrationDone (ch : Fin 512) (m1 m2 : BitVec 16) (s : State) : Host.Outcome State Fault Refusal :=
  let s := cycle s
  let x := (chanOf s ch.val).tdc
  let d := (m2.toNat : Int) - m1.toNat
  let ok := decide (4 * 16384 ≤ 5 * d) && decide (3 * d ≤ 4 * 16384)
  .next (if x.phase != .cal then s
    else if ok then setTdc s ch.val { x with
      phase := .armed, m1 := m1.toNat, m2 := m2.toNat, steps := s.clkSteps, holds := s.holds, relock := relocking s
      hold := isSet s F.CLK_COND_HOLDOVER 0 || !s.clk.first }
    else raise (setTdc s ch.val { x with phase := .off }) .oct (ch.val / 8) E.OCT_CAL_ERR)

/-- TDC_WINDOW_CLOSE: the end of the window of an arming that has one. -/
def execTdcWindowClose (ch : Fin 512) (s : State) : Host.Outcome State Fault Refusal :=
  let s := cycle s
  let x := (chanOf s ch.val).tdc
  .next (if x.phase = .armed ∧ x.cls ≠ 2 ∧ x.closeS.isSome then tdcOff s ch.val else s)

/-- TDC_RECORD_TIMEOUT: 1 µs after the first stamp of the record being gathered. -/
def execTdcRecordTimeout (ch : Fin 512) (s : State) : Host.Outcome State Fault Refusal :=
  let s := cycle s
  let c := ch.val
  .next (match (chanOf s c).tdc.gather with
    | [] => drainUntil s (c / 64) (now s)
    | g :: _ =>
      let s1 := reach s (g.1 + ticks 1600)
      let s2 := drainUntil s1 (c / 64) (now s1)
      match (chanOf s2 c).tdc.gather with
      | h :: _ => if earlier (now s2) (tickOf (h.1 + ticks 1600)) then s2 else closeTdcRec s2 c
      | [] => s2)

/-- FREQ_GATE_CLOSE: the gate's own end. -/
def execFreqGateClose (ch : Fin 512) (s : State) : Host.Outcome State Fault Refusal :=
  let s := cycle s
  let x := (chanOf s ch.val).tdc
  .next (if x.phase = .armed ∧ x.cls = 2 then
    let s1 := freqResult s ch.val
    setTdc s1 ch.val { (chanOf s1 ch.val).tdc with phase := .off }
    else s)

/-- The pairs of START channel `a` that wait, each with its STOP channel. -/
def waitsOf (s : State) (p a : Nat) : List (Nat × PairWait) :=
  (chansOf s p).flatMap (fun b => ((chanOf s b).tdc.pairs.filter (fun w => w.chan == a)).map (fun w => (b, w)))

/-- The end of the window of a pair that waits. -/
def PairWait.stop (w : PairWait) : Stamp := BitVec.ofNat 64 (w.t / 16) + ticks w.iwin

/-- PAIR_WINDOW_EXPIRE: the window of the START channel's pair that ends first, and of those that end with it or have passed. -/
def execPairWindowExpire (p : Fin 64) (tch : Fin 512) (s : State) : Host.Outcome State Fault Refusal :=
  let s := cycle s
  .next (match chanOfT s p.val tch.val with
    | none => s
    | some a =>
      let ws := waitsOf s p.val a
      match ws with
      | [] => s
      | x :: xs =>
        let e := xs.foldl (fun e y => if earlier y.2.stop e then y.2.stop else e) x.2.stop
        let s1 := reach s e
        (ws.filter (fun y => !earlier (now s1) y.2.stop || !earlier e y.2.stop)).foldl (fun s y => unpaired s p.val y.1 y.2) s1)

end Sys2Proof.Machine
end

