-- ==== Sys2Proof/Machine/Pins.lean ====
section
/-! DEFINITION. The pin channel: pin states, edges, driver, comparators, fail processing (R78 to R99, R153 to R156). -/

namespace Sys2Proof.Machine

/-! Driver and pin states (R78 to R84). -/

/-- The driver of a channel in its idle mode (R80). -/
def idleDrv (s : State) (c : Nat) : Drv :=
  match getF s (F.OCT_CHCFG_IDLE (c % 8)) (c / 8) with
  | 2 => .low
  | 3 => .vtt
  | _ => .off

/-- FVMI or FIMV with CONNECT = 1 holds the driver and the load off (R104). -/
def heldOff (s : State) (c : Nat) : Bool :=
  pmuConn s c && (pmuMode s c == 1 || pmuMode s c == 2)

/-- The driver as it acts on the pin: off in HIZ and SAFE (R78) and where the unit forces (R104). -/
def pinDrv (s : State) (c : Nat) : Drv := if heldOff s c || decide (pstate s c < 2) then .off else (chanOf s c).drv

/-- R84: the active load is connected. -/
def loadOn (s : State) (c : Nat) : Bool :=
  isSet s (F.OCT_CHCFG_LOAD_EN (c % 8)) (c / 8) && pstate s c == 3 && !heldOff s c && (chanOf s c).drv == .off

/-- R78: the 200 kΩ pull-down of a channel is on. -/
def pullDown (s : State) (c : Nat) : Bool :=
  pstate s c == 1 || (pstate s c == 2 && getF s (F.OCT_CHCFG_IDLE (c % 8)) (c / 8) == 0)

/-- The clamp voltages applied, in 10 mV above −2.500 V (R85). -/
def clampHi (s : State) (c : Nat) : Int := (Nat.min 900 (getF s (F.OCT_X1_CLAMP_CLHI (c % 8)) (c / 8)) : Int)
def clampLo (s : State) (c : Nat) : Int :=
  min (Nat.min 900 (getF s (F.OCT_X1_CLAMP_CLLO (c % 8)) (c / 8)) : Int) (clampHi s c - 50)

/-- R301: the high or the low Levee monitor of a channel is deasserted, stamped `t`. -/
def monOff (s : State) (c : Nat) (high : Bool) (t : Stamp) : State :=
  let x := chanOf s c
  if (if high then x.levH else x.levL) then
    dieEvent (setChan s c (if high then { x with levH := false } else { x with levL := false }))
      { src := BitVec.ofNat 12 ((if high then 0x200 else 0x201) + 2 * c), pol := false, stamp := t }
  else s

/-- R301: both Levee monitors of a channel are deasserted, stamped `t`. -/
def levOff (s : State) (c : Nat) (t : Stamp) : State := monOff (monOff s c true t) c false t

/-- The channels of an octet. -/
def octChans (o : Nat) : List Nat := (List.range 8).map (fun j => 8 * o + j)

/-- VDD_CD of the octet's die, or VPH or VPL, is outside its operating range (R78, R427). -/
def railsBad (s : State) (o : Nat) : Bool :=
  isSet s (F.HKP_X2_OOR (o / 8)) 0 || isSet s (F.HKP_X2_OOR 8) 0 || isSet s (F.HKP_X2_OOR 9) 0

/-- An octet takes a pin state; while its rails are out of range it is in HIZ (R78), on an isolated die in SAFE (R412). -/
def setPstate (s : State) (o v : Nat) : State :=
  setF s F.OCT_STATE_PSTATE o (if railsBad s o then 0 else if isoDie s (o / 8) then 1 else v)

/-- Drivers, loads and units of an octet go off, waiting edges are discarded, its monitors deassert (R24, R78, R280, R301). CONNECT
stays as it is (R104), with the claim that goes with it (R114). -/
def octOff (s : State) (o : Nat) : State :=
  forAll (octChans o) s (fun s c =>
    let s1 := tdcCut s c
    let s2 := setChan s1 c { chanOf s1 c with
      drv := .off, edges := [], lastDrive := none, lastEff := [], win := none, park := none
      conv := none, waitConv := none, burst := none, ops := [], rangeOld := none, reconnect := false }
    let s3 := setClaim s2 c (claimOf (pmuMode s2 c) (pmuRange s2 c) (pmuForce s2 c) (pmuConn s2 c))
    levOff s3 c (now s3))

/-- Deskew changes that waited for a vector word take effect on an octet that is not ACTIVE (R158). -/
def octDeskew (s : State) (o : Nat) : State := forAll (octChans o) s dueDeskew

/-- An octet takes the pin state SAFE (R78, R136): FAULT levels are applied. A die that is not initialised stays HIZ (R79). -/
def octSafe (s : State) (o : Nat) : State :=
  let s1 := octOff s o
  octDeskew (if (dieOf s1 (o / 8)).inited then setPstate (applyFaultDacs s1 o) o 1 else s1) o

/-- An octet takes the pin state IDLE (R80). Leaving SAFE resets the comparator and monitor outputs (R87) and the VALID of
results (R118, R293). On an isolated die it stays in SAFE (R412). -/
def octIdle (s : State) (o : Nat) : State :=
  if isoDie s (o / 8) then octSafe s o
  else
  let fresh := decide (getF s F.OCT_STATE_PSTATE o < 2)
  let s0 := if fresh then selfcalLeave (setF (setF s F.OCT_COND_CMPH o 0) F.OCT_COND_CMPL o 0) o else s
  let s1 := forAll (octChans o) s0 (fun s c =>
    let x := chanOf s c
    let s1 := setChan s c { x with
      drv := idleDrv s c, edges := [], lastDrive := none, lastEff := [], win := none, park := none
      levH := if fresh then false else x.levH, levL := if fresh then false else x.levL }
    if fresh then setF (setF s1 (F.OCT_X2_RESULT_VALID (c % 8)) o 0) (F.OCT_X7_FREQN_VALID (c % 8)) o 0 else s1)
  octDeskew (setPstate s1 o 2) o

/-- The first vector word moves an octet to ACTIVE (R79, R80). -/
def octActive (s : State) (o : Nat) : State := setPstate s o 3

/-- An octet whose rails have gone out of range is in HIZ (R78): no clamp carries current, a self-calibration abandons it (R160), and
what its polder had ordered of its units is over (R104, R119). -/
def octHiz (s : State) (o : Nat) : State :=
  let s1 := forAll (octChans o) (octOff (selfcalLeave s o) o) (fun s c => setChan s c { chanOf s c with clampT := none })
  let s2 := setF s1 F.OCT_STATE_PSTATE o 0
  match owner s2 o with
  | some p => showPmu s2 p
  | none => s2

/-- The pin state that the polder of an octet gives it (R78), taken when the rails are back in range. -/
def octBack (s : State) (o : Nat) : State :=
  match owner s o with
  | none => octSafe s o
  | some p =>
    match rsOf s p with
    | .off | .dike => octSafe s o
    | .idle | .armed => octIdle s o
    | _ => octActive (octIdle s o) o

/-- R78: the pin states follow the rails; with no main power every octet is in HIZ. A die not yet initialised stays there (R79). -/
def pinRails (s : State) : State :=
  forAll (List.range 64) s (fun s o =>
    let hiz := getF s F.OCT_STATE_PSTATE o == 0
    if railsBad s o || !isSet s F.DEV_STATE_MAINPWR 0 then (if hiz then s else octHiz s o)
    else if hiz && (dieOf s (o / 8)).inited then octBack s o else s)

/-! Fails (R91 to R95, R202). -/

/-- R202: a fail of a member reaches the latches of its binding. -/
def failLatch (s : State) (p : Nat) : State :=
  match (polOf s p).bind with
  | none => s
  | some b =>
    if isSet s F.POL_STATE_BENCHED p then s
    else
      let x := bndOf s b
      let fm := if x.failedM.contains p then x.failedM else p :: x.failedM
      let s1 := setB (setBnd s b { x with failedM := fm }) b F.SEQ_COND_FAIL_ANY F.MCE_COND_FAIL_ANY 1
      if (active s p).all (fun q => fm.contains q) then setB s1 b F.SEQ_COND_FAIL_ALL F.MCE_COND_FAIL_ALL 1 else s1

/-- R94: the first failing vector is captured; further fails of that vector complete the capture. -/
def firstFail (s : State) (p : Nat) (r : VecRef) (t : Nat) : State :=
  if isSet s F.POL_FF_INFO_VALID p then
    if getF s F.POL_FF_VWI_LO_VWI p + 2 ^ 32 * getF s F.POL_FF_VWI_HI_VWI p == r.vwi % 2 ^ 40 && getF s F.POL_FF_VWI_HI_VEC p == r.vec
    then setF (setF s F.POL_FF_INFO_NCH p (getF s F.POL_FF_INFO_NCH p + 1)) F.POL_FF_INFO_TCH p
      (Nat.min t (getF s F.POL_FF_INFO_TCH p))
    else s
  else
    let s1 := setF (setF s F.POL_FF_VWI_LO_VWI p (r.vwi % 2 ^ 32)) F.POL_FF_VWI_HI_VWI p (r.vwi / 2 ^ 32)
    let s2 := setF (setF s1 F.POL_FF_VWI_HI_VEC p r.vec) F.POL_FF_INFO_NCH p 1
    let s3 := setF (setF s2 F.POL_FF_INFO_TCH p t) F.POL_FF_INFO_VALID p 1
    raise (set64 s3 F.POL_FF_STAMP_LO_T F.POL_FF_STAMP_HI_T p r.start) .pol p E.POL_FIRST_FAIL

/-- R96: the count of failing vectors reaches SOF_COUNT. -/
def sofReached (s : State) (p : Nat) : State :=
  let m := getF s F.POL_FAILCFG_SOF_MODE p
  if (m == 1 || m == 2) && getF s F.POL_FAILVEC_N p == Nat.max 1 (getF s F.POL_SOF_COUNT_N p)
  then setPol s p { polOf s p with sof := true } else s

/-- A fail of channel `c` attributed to vector `r`, reported at stamp `t` (R91, R93). -/
def failAt (s : State) (c : Nat) (r : VecRef) (t : Stamp) : State :=
  match owner s (c / 8) with
  | none => s
  | some p =>
    let tc := tchOf s p c
    let x := polOf s p
    let seen := x.fails.find? (fun f => f.ref == r)
    match seen with
    | some f =>
      if f.chans.contains tc then s
      else
        let s1 := setPol s p { x with fails := x.fails.map (fun g => if g.ref == r then { g with chans := tc :: g.chans } else g) }
        failCount s1 p c r tc t
    | none =>
      let s1 := setPol s p { x with fails := x.fails ++ [{ ref := r, chans := [tc] }] }
      sofReached (addCt (failCount s1 p c r tc t) F.POL_FAILVEC_N p 1) p
where
  /-- The counts of one failing channel, its event (R284), the latches. -/
  failCount (s : State) (p c : Nat) (r : VecRef) (tc : Nat) (t : Stamp) : State :=
    let s1 := addCt (addCt s (F.OCT_CHFAIL_N (c % 8)) (c / 8) 1) F.POL_FAILCNT_N p 1
    let s2 := firstFail s1 p r tc
    let d := (chanOf s c).tdc
    let s3 := if d.phase == .armed && d.cls != 2 then s2
      else dieEvent s2 { src := BitVec.ofNat 12 c, pol := true, pulse := true, stamp := t }
    failLatch s3 p

/-- A compare of vector `r` may still fail on some channel of the polder. -/
def vecOpen (s : State) (p : Nat) (r : VecRef) : Bool :=
  (chansOf s p).any (fun c =>
    (chanOf s c).edges.any (fun e => e.ref == r && 4 ≤ Act.kind e.act && Act.kind e.act ≤ 5) ||
    (match (chanOf s c).win with | some w => w.ref == r | none => false))

/-- The FAIL record of a vector (R95, R253). -/
def failRec (s : State) (p : Nat) (f : FailVec) : Record :=
  let n := ((chansOf s p).length + 63) / 64
  { typ := 1, aux := BitVec.ofNat 16 f.chans.length,
    body := f.ref.start :: BitVec.ofNat 64 (f.ref.vwi % 2 ^ 40 + 2 ^ 40 * (f.ref.vec % 4)) ::
      (List.range n).map (fun w => BitVec.ofNat 64 ((f.chans.filter (fun t => t / 64 == w)).map (fun t => 2 ^ (t % 64))).sum) }

/-- R95: a failing vector forms one record, until the limit has been reached in the run. -/
def logFail (s : State) (p : Nat) (f : FailVec) : State :=
  if isSet s F.POL_FAILCFG_FLOG_EN p && acqEn s p && frameOf s p 0 != 0 && !(polOf s p).flogStop then
    let t := f.ref.start
    let s1 := if recorded s p 0 t then countFlog s p 1
      else if admits s p 0 t then setAcq s p { acqOf s p with flogT := (acqOf s p).flogT ++ [t] }
      else s
    putItem s1 p 0 (failRec s p f) t
  else s

/-- The failing vectors that no compare can add to become records, oldest first. -/
def flushFails (s : State) (p : Nat) : State :=
  let done := (polOf s p).fails.filter (fun f => !vecOpen s p f.ref)
  let s1 := setPol s p { polOf s p with fails := (polOf s p).fails.filter (fun f => vecOpen s p f.ref) }
  done.foldl (fun s f => logFail s p f) s1

/-- Every failing vector still gathered becomes a record. -/
def flushAllFails (s : State) (p : Nat) : State :=
  let done := (polOf s p).fails
  done.foldl (fun s f => logFail s p f) (setPol s p { polOf s p with fails := [] })

/-! Compares (R88 to R92). -/

/-- A voltage DAC in 62.5 µV above −2.048 V (R121). -/
def dacV (s : State) (c d : Nat) : Nat :=
  getF s (F.OCT_X4_APPLIED_CODE (c % 8) d) (c / 8) * (if dacG s c d then 2 else 1)

def absDiff (a b : Nat) : Nat := if a < b then b - a else a - b

def cmpH (s : State) (c : Nat) : Bool := (getF s F.OCT_COND_CMPH (c / 8)).testBit (c % 8)
def cmpL (s : State) (c : Nat) : Bool := (getF s F.OCT_COND_CMPL (c / 8)).testBit (c % 8)

/-- R88: an expectation fails on the comparator outputs. -/
def breaks (e : Expect) (h l : Bool) : Bool :=
  match e with
  | .high => !h
  | .low => l
  | .mid => !(l && !h)
  | .dont => false

/-- The levels applied leave no mid-band: VOL ≥ VOH (R88). -/
def noMid (s : State) (c : Nat) : Bool := decide (dacV s c 3 ≤ dacV s c 4)

/-- R88: an expectation fails on the channel as it stands. -/
def fails (s : State) (c : Nat) (e : Expect) : Bool := breaks e (cmpH s c) (cmpL s c) || (e == .mid && noMid s c)

/-- Compares of the channel are judged (R92). -/
def judged (s : State) (c : Nat) : Bool := isSet s (F.OCT_CHCFG_CMPEN (c % 8)) (c / 8)

/-- R92: at `t` the channel plays the park of PAUSED or STOPPING, in which no compare is judged. A compare of the last issued vector
that spills into the park of STOPPING is not judged either (DESIGN CHOICE, log entry 65: R93 counts every issued word, R92 excludes
the park). -/
def inQuiet (x : Chan) (t : Stamp) : Bool :=
  match x.park with
  | some k => k.quiet && !earlier t k.start && (match k.stop with | some e => earlier t e | none => true)
  | none => false

/-- R89: a strobe. -/
def strobe (s : State) (c : Nat) (e : Expect) (r : VecRef) (t : Stamp) : State :=
  if judged s c && fails s c e then failAt s c r t else s

/-- The window of a channel fails, the violation detected in the tick of `t` (R90, R298). -/
def winFail (s : State) (c : Nat) (w : Win) (t : Stamp) : State :=
  failAt (setChan s c { chanOf s c with win := some { w with failed := true, viol := none } }) c w.ref (tickOf t)

/-- The end of what is judged of a window by `t`: a quiet park ends it (R92). -/
def judgeEnd (x : Chan) (t : Stamp) : Stamp :=
  match x.park with
  | some k => if k.quiet && earlier k.start t then k.start else t
  | none => t

/-- A violation that has stood since `v` ends, or its window, at `t` (R90): none where nothing of it lies in the window; detected when
it lasted 246 fine units, else the comparator may have missed it. A mid-band expectation fails wherever the levels leave no mid-band
(R88). -/
def settleViol (s : State) (c : Nat) (t : Stamp) : State :=
  match (chanOf s c).win with
  | none => s
  | some w =>
    let e := judgeEnd (chanOf s c) t
    if w.exp == .mid && noMid s c && judged s c && !w.failed && earlier w.openS e then winFail s c w (w.viol.getD w.openS)
    else match w.viol with
    | none => s
    | some v =>
      let clear (s : State) : State := setChan s c { chanOf s c with win := some { w with viol := none } }
      if w.failed || !earlier v e then clear s
      else if 246 ≤ (e - v).toNat then winFail s c w v
      else
        let f := freeB s
        if f.1 then winFail f.2 c w v else clear f.2

/-- R90: a window opens at `t`, or its expectation changes. -/
def winOpen (s : State) (c : Nat) (e : Expect) (r : VecRef) (t : Stamp) : State :=
  let s1 := settleViol s c t
  let bad := judged s1 c && fails s1 c e
  setChan s1 c { chanOf s1 c with win := some { exp := e, ref := r, openS := t, viol := if bad then some t else none } }

/-- R90: the window closes at `t` and is judged. -/
def winClose (s : State) (c : Nat) (t : Stamp) : State :=
  let s1 := settleViol s c t
  setChan s1 c { chanOf s1 c with win := none }

/-! Edges (R82, R153, R154, R156). -/

/-- Edge `e` comes before edge `x`: it is earlier, or shares its fine unit and belongs to an earlier vector (R153). -/
def edgeBefore (e x : Edge) : Bool := earlier e.t x.t || (e.t == x.t && earlier e.ref.start x.ref.start)

/-- An edge joins the edges waiting; those of one vector stay in slot order (R153). -/
def insertEdge (e : Edge) : List Edge → List Edge
  | [] => [e]
  | x :: l => if edgeBefore e x then e :: x :: l else x :: insertEdge e l

/-- The edges of character `c` of a channel in a vector (R146, R149, R154, R159): those at 2P or beyond are discarded. -/
def playChar (s : State) (ch t c per : Nat) (r : VecRef) (park : Bool) : State :=
  (slots (waveChar s ch t c)).foldl (fun s x =>
    match actOf x.2.2 with
    | none => s
    | some a =>
      let drive := decide (Act.kind a < 4)
      if park && !drive then s
      else if 2 * per ≤ x.2.1 then raise (addCt s F.OCT_EDGEDROP_N (ch / 8) 1) .oct (ch / 8) E.OCT_EDGE_DROP
      else
        let cut := cutOffset s ch drive
        let e : Edge := { t := r.start + BitVec.ofNat 64 x.2.1 + BitVec.ofInt 64 cut, act := a, ref := r, park := park }
        setChan s ch { chanOf s ch with edges := insertEdge e (chanOf s ch).edges }) s

/-- R156: one more park period of a channel is laid out. -/
def parkPeriod (s : State) (ch p : Nat) : State :=
  match (chanOf s ch).park with
  | none => s
  | some k =>
    let per := period s (anchor s p) k.tset
    let r : VecRef := { vwi := 0, vec := 0, start := k.next }
    let s1 := playChar s ch k.tset (parkChar s (anchor s p) k.tset) per r true
    setChan s1 ch { chanOf s1 ch with park := some { k with next := k.next + BitVec.ofNat 64 per } }

/-- The minimum drive pulse of the levels applied, in fine units (R81). -/
def minPulse (s : State) (c : Nat) : Nat :=
  let h := dacV s c 0
  let l := dacV s c 1
  let t := dacV s c 2
  if 80000 < Nat.max (absDiff h l) (Nat.max (absDiff h t) (absDiff t l)) then 2048 else 640

/-- A drive action reaches the pin: one of another kind that comes too soon is delayed, and later actions are judged against the
delayed time (R82). -/
def driveEdge (s : State) (c : Nat) (d : Drv) (t : Stamp) : State :=
  let x := chanOf s c
  let late := match x.lastDrive with
    | some (k, l) =>
      if k != d && earlier t (l + BitVec.ofNat 64 (minPulse s c)) then some (l + BitVec.ofNat 64 (minPulse s c)) else none
    | none => none
  let at' := match late, x.lastDrive with
    | some m, _ => m
    | none, some (_, l) => if earlier t l then l else t
    | none, none => t
  let s1 := setChan s c { x with drv := if heldOff s c then x.drv else d, lastDrive := some (d, at') }
  if late.isSome then raise (addCt s1 F.OCT_STRETCHCNT_N (c / 8) 1) .oct (c / 8) E.OCT_STRETCH else s1

/-- R154: the edge follows an edge of its kind from another character by less than 1 tick. -/
def dropped (x : Chan) (e : Edge) : Bool :=
  match x.lastEff.find? (fun l => Act.kind l.1 == Act.kind e.act) with
  | some l => l.2.2 != e.ref && earlier e.t (l.2.1 + 1024)
  | none => false

/-- An edge takes place (R149, R153, R154, R92). -/
def playEdge (s : State) (c : Nat) (e : Edge) : State :=
  let x := chanOf s c
  if dropped x e then raise (addCt s F.OCT_EDGEDROP_N (c / 8) 1) .oct (c / 8) E.OCT_EDGE_DROP
  else
    let s1 := setChan s c { x with lastEff := (e.act, e.t, e.ref) :: x.lastEff.filter (fun l => Act.kind l.1 != Act.kind e.act) }
    let parked := inQuiet x e.t
    match e.act with
    | .drive d => driveEdge s1 c d e.t
    | .strobe ex => if parked then s1 else strobe s1 c ex e.ref e.t
    | .wopen ex => if parked then s1 else winOpen s1 c ex e.ref e.t
    | .wclose => winClose s1 c e.t
    | .ta => tdcArm s1 c e.t

/-- The park periods that come due before the first edge waiting are laid out (R156). -/
def layPark : Nat → State → Nat → Nat → State
  | 0, s, _, _ => s
  | f + 1, s, c, p =>
    match (chanOf s c).park with
    | none => s
    | some k =>
      let open' := match k.stop with | some e => earlier k.next e | none => true
      let due := match (chanOf s c).edges with | e :: _ => !earlier e.t k.next | [] => true
      if open' && due then layPark f (parkPeriod s c p) c p else s

/-- The park periods to lay out before the first edge waiting. -/
def parkFuel (s : State) (c p : Nat) : Nat :=
  match (chanOf s c).park, (chanOf s c).edges with
  | some k, e :: _ =>
    if earlier e.t k.next then 0 else (e.t - k.next).toNat / Nat.max 1 (period s (anchor s p) k.tset) + 1
  | some _, [] => 1
  | none, _ => 0

/-- Every park period up to the end of the park is laid out; the park then ends. -/
def layAll (s : State) (c p : Nat) : State :=
  match (chanOf s c).park with
  | none => s
  | some k =>
    let n := match k.stop with
      | some e => if earlier k.next e then (e - k.next).toNat / Nat.max 1 (period s (anchor s p) k.tset) + 1 else 0
      | none => 0
    let s1 := (List.range n).foldl (fun s _ =>
      match (chanOf s c).park with
      | some k => (match k.stop with | some e => if earlier k.next e then parkPeriod s c p else s | none => s)
      | none => s) s
    setChan s1 c { chanOf s1 c with park := none }

/-- The channels of polder `p` begin to play the park character of set `t` at `a`, up to `b` (R156). -/
def setPark (s : State) (p t : Nat) (a : Stamp) (b : Option Stamp) (quiet : Bool) : State :=
  forAll (chansOf s p) s (fun s c =>
    let s1 := layAll s c p
    setChan s1 c { chanOf s1 c with park := some { tset := t, start := a, next := a, stop := b, quiet := quiet } })

/-- The park of polder `p` ends at `b`: the next vector begins there (R156). -/
def endPark (s : State) (p : Nat) (b : Stamp) : State :=
  forAll (chansOf s p) s (fun s c =>
    match (chanOf s c).park with
    | some k => setChan s c { chanOf s c with park := some { k with stop := some b } }
    | none => s)

/-- An edge at or beyond the end of a park ends it. -/
def leavePark (s : State) (c : Nat) (t : Stamp) : State :=
  match (chanOf s c).park with
  | some k => (match k.stop with
    | some e => if earlier t e then s else setChan s c { chanOf s c with park := none }
    | none => s)
  | none => s

/-- The next edge of a channel in merged time order. A parked channel lays out its park periods as they come due. Parametric orders
stamped up to the edge act before it (R104, R112). -/
def nextEdge (s : State) (c : Nat) : State :=
  let s0 := match owner s (c / 8) with
    | some p => layPark (parkFuel s c p) s c p
    | none => s
  match (chanOf s0 c).edges with
  | [] => s0
  | e :: _ =>
    let s1 := pmuDue s0 (e.t + 1)
    let s2 := leavePark (setChan s1 c { chanOf s1 c with edges := (chanOf s1 c).edges.drop 1 }) c e.t
    let s3 := playEdge s2 c e
    match owner s3 (c / 8) with
    | some p => flushFails s3 p
    | none => s3

/-! The commands. -/

def execPinEdge (ch : Fin 512) (s : State) : Host.Outcome State Fault Refusal := .next (nextEdge (cycle s) ch.val)

/-- Stamp `t` lies in the open window of the channel (R90, R299): not before its open, nor at or after a close still to be played. -/
def inWindow (x : Chan) (w : Win) (t : Stamp) : Bool :=
  !earlier t w.openS && !x.edges.any (fun e => e.act == .wclose && !earlier t e.t) && !inQuiet x t

/-- The time at the reference plane of a transition that the channel's own copy of the count reads as `t`: less the compare offset in
force, whose part beyond the limit the edges carry (R157, R159, R275). -/
def planeTime (s : State) (c : Nat) (t : Stamp) : Stamp := t - BitVec.ofInt 64 (chanOf s c).offC

/-- The expectation of an open window no longer holds from `t` on: a violation stands until it is settled, and is known at once where
the comparator detects it, `det` (R90). -/
def winBroken (s : State) (c : Nat) (w : Win) (det : Bool) (t : Stamp) : State :=
  if !judged s c || w.failed then s
  else if det && inWindow (chanOf s c) w t then winFail s c w t
  else if w.viol.isSome then s
  else setChan s c { chanOf s c with win := some { w with viol := some (if earlier t w.openS then w.openS else t) } }

/-- The levels of a channel have changed at `t`: a mid-band expectation whose window is open fails where they leave no mid-band
(R88). -/
def midBroken (s : State) (c : Nat) (t : Stamp) : State :=
  match (chanOf s c).win with
  | some w => if w.exp == .mid && noMid s c then winBroken s c w true t else s
  | none => s

/-- COMPARATOR_TRANSITION (R86, R87, R90, R281): a transition to the state the output already has is none. A standing violation is
judged when the expectation holds again. -/
def comparatorTransition (s : State) (c : Nat) (high rising : Bool) (t0 : Stamp) (sub : BitVec 4) (det : Bool) : State :=
  let t := planeTime s c t0
  let was := if high then cmpH s c else cmpL s c
  if was = rising then s
  else
    let f := if high then F.OCT_COND_CMPH else F.OCT_COND_CMPL
    let v := getF s f (c / 8)
    let put (s : State) : State := setF s f (c / 8) (if rising then v ||| 2 ^ (c % 8) else v - 2 ^ (c % 8))
    let s1 := match (chanOf s c).win with
      | some w =>
        if !fails (put s) c w.exp then put (settleViol s c t) else winBroken (put s) c w det t
      | none => put s
    tdcEdge s1 c high rising t0 sub

def execComparatorTransition (ch : Fin 512) (high rising : Bool) (t : Stamp) (sub : BitVec 4) (det : Bool) (s : State) :
    Host.Outcome State Fault Refusal :=
  .next (comparatorTransition (cycle s) ch.val high rising t sub det)

/-- DRIVER_OVERCURRENT (R83): the cause names the owner of the channel (R408). -/
def execDriverOvercurrent (ch : Fin 512) (t : Stamp) (s : State) : Host.Outcome State Fault Refusal :=
  let s := reach (cycle s) t
  let c := ch.val
  .next (causeOn (raise s .oct (c / 8) E.OCT_DRV_OVC) (96 + 4 * (c / 64)) (owner s (c / 8)).toList)

/-- CLAMP_OVERCURRENT (R85): a clamp carries more than 10 mA, in SAFE, IDLE or ACTIVE. -/
def execClampOvercurrent (ch : Fin 512) (t : Stamp) (s : State) : Host.Outcome State Fault Refusal :=
  let s := reach (cycle s) t
  let c := ch.val
  .next (if pstate s c = 0 then s
    else
      let s1 := setChan s c { chanOf s c with clampT := some s.bdn }
      causeOn (raise s1 .oct (c / 8) E.OCT_CLAMP) (97 + 4 * (c / 64)) (owner s (c / 8)).toList)

/-- CHANNEL_DIE_INIT (R79, R87): the die applies SAFE to its octets and resets its comparator and monitor outputs. The level DACs show
PWRUP until formation, though the octets enter SAFE (DESIGN CHOICE, log entry 76). When every die is initialised, BOOT is 2 (R400). It
follows the loading of NVM and the first lock of the MPLL (R341, R443). -/
def execChannelDieInit (d : Fin 8) (s : State) : Host.Outcome State Fault Refusal :=
  let s := cycle s
  .next (if getF s F.DEV_STATE_BOOT 0 = 0 ∨ !s.clk.first then s
  else
    let s1 := setDie s d.val { dieOf s d.val with inited := true }
    let s2 := forAll ((List.range 8).map (fun k => 8 * d.val + k)) s1 (fun s o =>
      let s1 := setF (setF (octSafe s o) F.OCT_COND_CMPH o 0) F.OCT_COND_CMPL o 0
      startDacs s1 o)
    if getF s2 F.DEV_STATE_BOOT 0 = 1 ∧ (List.range 8).all (fun k => (dieOf s2 k).inited)
      then setF s2 F.DEV_STATE_BOOT 0 2 else s2)

/-- LEVEE_CROSSING (R301): a monitor works in IDLE and ACTIVE, while its enable bit is 1. -/
def execLeveeCrossing (ch : Fin 512) (high assert : Bool) (t : Stamp) (s : State) : Host.Outcome State Fault Refusal :=
  let s := reach (cycle s) t
  let c := ch.val
  let x := chanOf s c
  let en := if high then isSet s (F.OCT_X8_LVCFG_ENH (c % 8)) (c / 8) else isSet s (F.OCT_X8_LVCFG_ENL (c % 8)) (c / 8)
  let was := if high then x.levH else x.levL
  .next (if was = assert ∨ (assert ∧ (pstate s c < 2 ∨ !en)) then s
    else
      let s1 := setChan s c (if high then { x with levH := assert } else { x with levL := assert })
      dieEvent s1 { src := BitVec.ofNat 12 ((if high then 0x200 else 0x201) + 2 * c), pol := assert, stamp := tickOf t })

/-- DS_LEVEE_CROSSING (R302): the monitor of a controller that is ON, owned and enabled. -/
def execDsLeveeCrossing (d : Fin 32) (assert : Bool) (t : Stamp) (s : State) : Host.Outcome State Fault Refusal :=
  let s := reach (cycle s) t
  let i := d.val % 8
  let n := d.val / 8
  let x := dsOf s d.val
  .next (if x.lev = assert ∨ (assert ∧
      !(isSet s (F.DSC_QSTAT_ON i) n && isSet s (F.DSC_QSTAT_OWNED i) n && isSet s (F.DSC_LVDS_EN i) n))
    then s
    else dieEvent (setDs s d.val { x with lev := assert })
      { src := BitVec.ofNat 12 (0x600 + d.val), pol := assert, stamp := tickOf t })

/-- SCOPE_SAMPLE (R19, R237, R254): the octet's comparators at a multiple of the interval, unless the die discards it. -/
def execScopeSample (o : Fin 64) (t : Stamp) (lost : Bool) (s : State) : Host.Outcome State Fault Refusal :=
  let s := cycle s
  .next (match owner s o.val with
    | none => s
    | some p =>
      if pstate s (8 * o.val) < 2 ∨ !admits s p 3 t ∨ t.toNat % (1024 * 2 ^ scopeIv s p) ≠ 0 then s
      else if lost then raise (addCt s F.OCT_SCOPELOST_N o.val 1) .oct o.val E.OCT_SCOPE_LOST
      else
        let b := if isSet s F.ACQ_SRCCFG_SCOPESEL p then getF s F.OCT_COND_CMPL o.val else getF s F.OCT_COND_CMPH o.val
        scopeSample s p o.val t (BitVec.ofNat 8 b))

end Sys2Proof.Machine
end

