-- ==== Sys2Proof/Machine/VMem.lean ====
section
/-! DEFINITION. Vector memory: vector words, the cache, locks and pins, the prefetcher, overlays (R168 to R192). -/

namespace Sys2Proof.Machine

/-! Bindings (R191). -/

def isSeq (b : Nat) : Bool := decide (b < 16)
def reserved (s : State) (b : Nat) : Bool := getB s b F.SEQ_STATE_RESERVED F.MCE_STATE_RESERVED != 0
def bndAnchor (s : State) (b : Nat) : Nat := getB s b F.SEQ_STATE_ANCHOR F.MCE_STATE_ANCHOR

/-- The members to which a binding plays: those that have armed and are not benched (R68). -/
def bndMem (s : State) (b : Nat) : List Nat := (List.range 64).filter (fun p => (polOf s p).bind == some b)

/-- The lowest octet count of R168 is that of the anchor at arming. -/
def wordBytes (s : State) (b : Nat) (compact : Bool) : Nat := (if compact then 8 else 16) * (bndOf s b).noct

def vbase (s : State) (b : Nat) : Nat := getF s (F.MEM_VBASE_LO_BASE b) 0 * 64 + 2 ^ 32 * getF s (F.MEM_VBASE_HI_BASE b) 0
def vlimit (s : State) (b : Nat) : Nat := getF s (F.MEM_VLIMIT_LO_LIM b) 0 * 64 + 2 ^ 32 * getF s (F.MEM_VLIMIT_HI_LIM b) 0

/-- R169. -/
def wordAddr (s : State) (b va : Nat) (compact : Bool) : Nat := vbase s b + va * wordBytes s b compact

/-- R170: the word may be fetched. -/
def fetchable (s : State) (b va : Nat) (compact : Bool) : Bool :=
  let a := wordAddr s b va compact
  let e := a + wordBytes s b compact
  decide (dramLo ≤ a) && decide (e ≤ vlimit s b) && decide (e ≤ fwLo)

/-- R179, R191: PFDEPTH in words; 0 acts as 256, and no more than 65,536. -/
def pfDepth (s : State) (b : Nat) : Nat :=
  256 * Nat.min (Nat.min 256 (Nat.max 1 (getF s (F.MEM_PFCFG_PFD b) 0))) (Nat.max 1 (getF s (F.MEM_ALLOC_PF b) 0))

/-- R182: the guard G. -/
def guardWords (s : State) (b : Nat) : Nat := Nat.min (256 * (getF s (F.MEM_PFCFG_UG b) 0 + 1)) (pfDepth s b / 2)

/-! Spans in the window (R174, R176). -/

/-- The end of a span in DRAM. -/
def Span.stop (x : Span) : Nat := x.addr + x.len * x.w

/-- The span of `len` words from `va` on, as the binding addresses it now (R169). -/
def spanAt (s : State) (b va len : Nat) (compact : Bool) : Span :=
  { addr := wordAddr s b va compact, w := wordBytes s b compact, va := va, len := len, compact := compact }

/-- The lines of the span hold the bytes [a, e): the cache goes by DRAM address (R173). -/
def Span.covers (x : Span) (a e : Nat) : Bool := decide (x.addr ≤ a) && decide (e ≤ x.stop) && decide (a < e)

/-- Byte `a` lies in a 64-byte line of the span. -/
def Span.line (x : Span) (a : Nat) : Bool :=
  decide (x.addr / 64 * 64 ≤ a) && decide (a < (x.stop + 63) / 64 * 64) && decide (0 < x.len)

def spans (s : State) (b : Nat) : List Span := (bndOf s b).pins ++ (bndOf s b).locks

/-- The word stands in the span, in a first pass once it has been written there (R174). -/
def Span.has (s : State) (b va : Nat) (compact : Bool) (x : Span) : Bool :=
  let a := wordAddr s b va compact
  x.covers a (a + wordBytes s b compact) && (match x.seen with | none => true | some l => x.compact == compact && l.contains va)

/-- The word stands in a locked or a pinned span (R175). -/
def resident (s : State) (b va : Nat) (compact : Bool) : Bool := (spans s b).any (Span.has s b va compact)

/-- The 64-byte lines of a span. -/
def Span.lines (x : Span) : Nat := if x.len = 0 then 0 else (x.stop + 63) / 64 - x.addr / 64

/-- The free lines of the window. -/
def freeLines (s : State) (b : Nat) : Nat := 4096 * getF s (F.MEM_ALLOC_WIN b) 0 - ((spans s b).map Span.lines).sum

/-- R174: a repeated span asks for a lock at the start of its first pass. -/
def lockSpan (s : State) (b : Nat) (x : Span) : State :=
  let y := bndOf s b
  if (spans s b).any (fun z => z.covers x.addr x.stop) then s
  else if x.lines ≤ freeLines s b then setBnd s b { y with locks := y.locks ++ [x] }
  else addCt s (F.MEM_LOCKMISS_N b) 0 1

/-- The locks that satisfy `f` are released. -/
def unlock (s : State) (b : Nat) (f : Span → Bool) : State :=
  setBnd s b { bndOf s b with locks := (bndOf s b).locks.filter (fun x => !f x) }

/-- A word issued in a first pass is in the window from then on (R174, R227). -/
def noteSeen (s : State) (b va : Nat) (compact : Bool) : State :=
  let y := bndOf s b
  setBnd s b { y with locks := y.locks.map (fun x =>
    match x.seen with
    | some l =>
      if x.compact == compact && decide (x.va ≤ va) && decide (va < x.va + x.len) && !l.contains va
        then { x with seen := some (va :: l) } else x
    | none => x) }

/-! Words (R168, R177). -/

/-- A byte of pattern as the binding reads it. -/
def patByte (s : State) (b a : Nat) : Byte := (Store.get (bndOf s b).stale none a).getD (Memory.read s.dram a)

/-- R168: the character of channel `j` of template octet `o`, vector `v`. -/
def wordChar (s : State) (b va : Nat) (compact : Bool) (o j v : Nat) : Nat :=
  let a := wordAddr s b va compact
  if compact then bits (patByte s b (a + 8 * o + j)).toNat (2 * v) 2
  else bits (patByte s b (a + 16 * o + 2 * j + v / 2)).toNat (4 * (v % 2)) 4

/-- The 64-bit word at `q` is part of vector word `va`. -/
def inWord (s : State) (b va : Nat) (compact : Bool) (q : Nat) : Bool :=
  let a := wordAddr s b va compact
  decide (a ≤ q + 7) && decide (q < a + wordBytes s b compact)

/-- R172: the word holds a poisoned 64-bit word. -/
def poisoned (s : State) (b va : Nat) (compact : Bool) : Bool := (bndOf s b).poison.any (inWord s b va compact)

/-- Why the word cannot issue, by its LASTSTOP code (R170, R172, R185). -/
def issueStop (s : State) (b va : Nat) (compact : Bool) : Option Nat :=
  if !fetchable s b va compact then some 3
  else if poisoned s b va compact then some 1
  else if !resident s b va compact && (bndOf s b).lead == 0 then some 2
  else none

/-! The cache (R173). Space is counted in units of 4 KiB. -/

def cacheUnits : Nat := 8192

def bndUnits (s : State) (b : Nat) : Nat :=
  getF s (F.MEM_ALLOC_PF b) 0 * (bndOf s b).noct + getF s (F.MEM_ALLOC_WIN b) 0 * 64

def usedUnits (s : State) : Nat := ((List.range 20).map (bndUnits s)).sum

/-- CFREE shows the space not allocated. -/
def showFree (s : State) : State := setF s F.MEM_CFREE_N 0 ((cacheUnits - usedUnits s) / 64)

/-- What may be allocated to `b` beyond its minimum: the largest minimum of every other binding that is not reserved is held
back, so that step 1 of R173 always fits. -/
def spareUnits (s : State) (b : Nat) : Nat :=
  cacheUnits - usedUnits s -
    ((List.range 20).map (fun k => if k = b ∨ getF s (F.MEM_ALLOC_PF k) 0 ≠ 0 then 0 else 64)).sum

def cwin (s : State) (b : Nat) : Nat := Nat.min 64 (getF s (F.MEM_CWIN_N b) 0)

/-- R173: binding `b` is reserved; `noct` its octets. The window is cut first, then the prefetch buffer. A window that stands for
pinned spans grows to CWIN as far as there is space. -/
def cacheAlloc (s : State) (b noct : Nat) : State :=
  let s1 := setF (setBnd s b { bndOf s b with noct := noct }) (F.MEM_ALLOC_PF b) 0 1
  let want := Nat.min 256 (Nat.max 1 (getF s (F.MEM_PFCFG_PFD b) 0)) - 1
  let pf := Nat.min want (spareUnits s1 b / Nat.max 1 noct)
  let s2 := setF s1 (F.MEM_ALLOC_PF b) 0 (pf + 1)
  let had := getF s (F.MEM_ALLOC_WIN b) 0
  let win := Nat.max had (Nat.min (cwin s b) (had + spareUnits s2 b / 64))
  let s3 := setF s2 (F.MEM_ALLOC_WIN b) 0 win
  raiseIf (decide (pf < want) || decide (win < cwin s b)) (showFree s3) .mem 0 E.MEM_CWIN_SHORT

/-- The vector words of the poisoned 64-bit words `qs`. -/
def poisonWords (s : State) (b : Nat) (qs : List Nat) : Nat :=
  let w := Nat.max 1 (wordBytes s b (compact s (bndAnchor s b) (bndOf s b).tset))
  ((qs.map (fun a => (a - vbase s b) / w)).eraseDups).length

/-- R172: of the poison of the binding only that in words that satisfy `kept` stays. The words dropped that were fetched and never
reached are counted. -/
def keepPoison (s : State) (b : Nat) (kept : Nat → Bool) : State :=
  let y := bndOf s b
  let n := poisonWords s b (y.poison.filter (fun q => !kept q && !y.hit.contains q))
  let s1 := setBnd s b { y with poison := y.poison.filter kept, hit := y.hit.filter kept }
  if n = 0 then s1 else raise (addCt s1 (F.MEM_CORRPF_N b) 0 n) .mem 0 E.MEM_ECC_UE

/-- The write of [a, a + n) touches the 64-byte lines of [l, h). -/
def touches (a n l h : Nat) : Bool := decide (a < (h + 63) / 64 * 64) && decide (l / 64 * 64 < a + n) && decide (l < h)

/-- What a span holds without the 64-byte lines that a write of [a, a + n) touches; the pieces are held by bytes (R177). -/
def Span.cut (a n : Nat) (x : Span) : List Span :=
  let lo := a / 64 * 64
  let hi := (a + n + 63) / 64 * 64
  if !touches a n x.addr x.stop then [x]
  else
    (if x.addr < lo then [{ x with w := 1, len := lo - x.addr }] else [])
      ++ (if hi < x.stop then [{ x with addr := hi, w := 1, len := x.stop - hi }] else [])

/-- R173, R176, R177: the binding's buffer and locks are freed, and its window unless it holds pinned spans or a preload loads. Pinned
lines that a DMA write has touched are invalidated. The poisoned words that were never reached are counted (R172); those of pinned
spans stay there. -/
def cacheFree (s : State) (b : Nat) : State :=
  let y := bndOf s b
  let pins := y.stale.foldl (fun ps e => ps.flatMap (Span.cut e.1 1)) y.pins
  let s1 := keepPoison s b (fun q => pins.any (fun x => x.line q))
  let s2 := setF s1 (F.MEM_ALLOC_PF b) 0 0
  let s3 := if pins.isEmpty && y.preload.isNone then setF s2 (F.MEM_ALLOC_WIN b) 0 0 else s2
  showFree (setBnd s3 b { bndOf s3 b with pins := pins, locks := [], stale := [], lead := 0 })

/-! Errors (R171, R172). -/

def eccAddr (s : State) (a : Nat) (ue cache : Bool) : State :=
  setF (setF (setF (setF s F.MEM_ECCADDR_LO_A 0 (a % 2 ^ 32)) F.MEM_ECCADDR_HI_A 0 (a / 2 ^ 32)) F.MEM_ECCADDR_HI_UE 0 (b2n ue))
    F.MEM_ECCADDR_HI_CACHE 0 (b2n cache)

/-- R171: a correctable error in DRAM or in the vector cache; the data is delivered corrected and written back. -/
def eccCe (s : State) (a : Nat) (cache : Bool) : State :=
  eccAddr (raise (addCt s F.MEM_ECCCE_N 0 1) .mem 0 E.MEM_ECC_CE) a false cache

/-- The spill ring or the firmware region: hub memory outside vector data (R170, R408). -/
def hubRegion (s : State) (a : Nat) : Bool :=
  let base := 512 * getF s F.SLU_SPILLBASE_LO_BASE 0 + 2 ^ 32 * getF s F.SLU_SPILLBASE_HI_BASE 0
  let lim := 512 * getF s F.SLU_SPILLLIM_LO_LIM 0 + 2 ^ 32 * getF s F.SLU_SPILLLIM_HI_LIM 0
  (decide (base ≤ a) && decide (a < lim)) || (decide (fwLo ≤ a) && decide (a < dramHi))

/-- An uncorrectable error: in DRAM its 64-bit word is marked, and outside vector data it is a fault cause, present for one hub
cycle (R408). -/
def eccUe (s : State) (a : Nat) (cache : Bool) : State :=
  let w := a / 8 * 8
  let s1 := eccAddr (raise (addCt s F.MEM_ECCUE_N 0 1) .mem 0 E.MEM_ECC_UE) a true cache
  if cache then s1
  else
    let s2 := if s1.dramBad.contains w then s1 else { s1 with dramBad := w :: s1.dramBad }
    if hubRegion s a then causeOn s2 190 [] else s2

/-- The errors of a read: the correctable `ce` and the uncorrectable `ue`. -/
def eccErrs (s : State) (ce ue : List EccErr) : State :=
  ue.foldl (fun s e => eccUe s e.addr.toNat e.cache) (ce.foldl (fun s e => eccCe s e.addr.toNat e.cache) s)

/-- The 64-bit words that uncorrectable errors poison (R172). -/
def poisonOf (ue : List EccErr) : List Nat := ue.map (fun e => e.addr.toNat / 8 * 8)

/-! The predicted path (R178). -/

/-- A place in the segment program: entry, word of the pass, passes completed. -/
structure SegPos where
  ent : Nat
  off : Nat
  pass : Nat

/-- The place after `x` along NEXT. -/
def SegPos.succ (s : State) (x : SegPos) : SegPos :=
  let v := seg s x.ent
  if x.off + 1 < sgLen v then { x with off := x.off + 1 }
  else if sgRpt v = 0 ∨ x.pass + 1 < sgRpt v then { x with off := 0, pass := x.pass + 1 }
  else { ent := sgNext v, off := 0, pass := 0 }

/-- The place of the next word of a segment sequencer. -/
def segPos (s : State) (b : Nat) : SegPos :=
  match (bndOf s b).goto with
  | some g => { ent := g.1, off := 0, pass := 0 }
  | none => { ent := getF s F.SEQ_STATE_CURENT b, off := (bndOf s b).off, pass := getF s F.SEQ_CURPASS_PASS b }

def engVa (s : State) (m : Nat) : Nat := getF s F.MCE_VA_LO_VA m + 2 ^ 32 * getF s F.MCE_VA_HI_VA m

def setVa (s : State) (m v : Nat) : State :=
  setF (setF s F.MCE_VA_LO_VA m (v % 2 ^ 32)) F.MCE_VA_HI_VA m (v / 2 ^ 32 % 256)

def engUpc (s : State) (m : Nat) : Nat := getF s F.MCE_STATE_UPC m

/-- The mode of the word that an engine plays next. -/
def engCompact (s : State) (m : Nat) : Bool :=
  compact s (bndAnchor s (16 + m)) (mwTset (mword s m (engUpc s m)))

/-- The next `n` words along the predicted path: vector address and mode. -/
def pathWords (s : State) (b n : Nat) : List (Nat × Bool) :=
  if isSeq b then segWords n (segPos s b)
  else (List.range n).map (fun k => (engVa s (b - 16) + k, engCompact s (b - 16)))
where
  segWords : Nat → SegPos → List (Nat × Bool)
    | 0, _ => []
    | f + 1, x =>
      let v := seg s x.ent
      (sgVaddr v + x.off, compact s (bndAnchor s b) (sgTset v)) :: segWords f (x.succ s)

/-- Of `n` words, of which word `i` stands in a span when `f i`: how many from word `i` on are resident with `k` streamed words ahead,
and the streamed words then left. -/
def resRun (f : Nat → Bool) : Nat → Nat → Nat → Nat × Nat
  | 0, _, k => (0, k)
  | n + 1, i, k =>
    match f i, k with
    | true, k => ((resRun f n (i + 1) k).1 + 1, (resRun f n (i + 1) k).2)
    | false, 0 => (0, 0)
    | false, k + 1 => ((resRun f n (i + 1) k).1 + 1, (resRun f n (i + 1) k).2)

/-- The words resident along NEXT from place `x` on, with `k` streamed words among them, at most 65,536 (R178, R191). `fuel` bounds the
passes looked at. A pass whose words all stand in spans counts for every pass of its entry that follows. -/
def segAhead (s : State) (b : Nat) : Nat → SegPos → Nat → Nat → Nat
  | 0, _, _, n => n
  | fuel + 1, x, k, n =>
    let v := seg s x.ent
    let c := compact s (bndAnchor s b) (sgTset v)
    let len := sgLen v - x.off
    let r := resRun (fun i => resident s b (sgVaddr v + x.off + i) c) len 0 k
    if len = 0 ∨ r.1 < len ∨ 65536 ≤ n + r.1 then n + r.1
    else
      let more := sgRpt v - 1 - x.pass
      let whole := x.off == 0 && r.2 == k
      if whole && sgRpt v == 0 then 65536
      else if whole then segAhead s b fuel { ent := sgNext v, off := 0, pass := 0 } k (n + len * (more + 1))
      else if sgRpt v = 0 ∨ 0 < more then segAhead s b fuel { x with off := 0, pass := x.pass + 1 } r.2 (n + len)
      else segAhead s b fuel { ent := sgNext v, off := 0, pass := 0 } r.2 (n + len)

/-- R178: the lead L: words of spans and the streamed words that are resident ahead, along the path. A final pass (R203) leads off the
path at its end. -/
def leadOf (s : State) (b : Nat) : Nat :=
  let y := bndOf s b
  if (spans s b).isEmpty then y.lead
  else if isSeq b then
    let x := segPos s b
    let v := seg s x.ent
    if y.final then
      (resRun (fun i => resident s b (sgVaddr v + x.off + i) (compact s (bndAnchor s b) (sgTset v))) (sgLen v - x.off) 0 y.lead).1
    else segAhead s b 65536 x y.lead 0
  else
    (resRun (fun i => resident s b (engVa s (b - 16) + i) (engCompact s (b - 16))) 65536 0 y.lead).1

/-- LEAD and UR_DECL as the MEM page shows them (R191); a binding that is not reserved has no words ahead. -/
def liveMem (s : State) (f : Fld) (v : Nat) : Nat :=
  match (List.range 20).find? (fun b => f == F.MEM_VMSTAT_LEAD b || f == F.MEM_VMSTAT_UR_DECL b) with
  | some b =>
    if f = F.MEM_VMSTAT_UR_DECL b then b2n (bndOf s b).since.isSome
    else if reserved s b then Nat.min 65535 (leadOf s b) else 0
  | none => v

/-- The words of the first span or of what remains of the span in play that can be fetched (R179, R186): the rest of the
entry; for an engine the words from VA on up to the first that R170 excludes. -/
def spanLeft (s : State) (b : Nat) : Nat :=
  if isSeq b then
    let x := segPos s b
    let v := seg s x.ent
    let c := compact s (bndAnchor s b) (sgTset v)
    ((List.range (sgLen v - x.off)).takeWhile (fun i => fetchable s b (sgVaddr v + x.off + i) c)).length
  else
    let m := b - 16
    let w := Nat.max 1 (wordBytes s b (engCompact s m))
    (Nat.min (vlimit s b) fwLo - wordAddr s b (engVa s m) (engCompact s m)) / w

/-- R179, R186: the lead has reached PFDEPTH, or the span is wholly resident. -/
def leadFull (s : State) (b : Nat) : Bool :=
  decide (pfDepth s b ≤ leadOf s b) || decide (spanLeft s b ≤ leadOf s b)

/-- The guard in force (R182): 128 words after a jump, until the lead has been at G. -/
def curGuard (s : State) (b : Nat) : Nat := if (bndOf s b).lowG then Nat.min 128 (guardWords s b) else guardWords s b

/-- R182, R183: with the lead at G again the guard of a jump and a declaration before its point end. -/
def leadRegained (s : State) (b : Nat) : State :=
  let y := bndOf s b
  if guardWords s b ≤ leadOf s b then
    setBnd s b { y with lowG := false, above := true, since := if y.due.isNone && !y.stall then none else y.since }
  else if curGuard s b ≤ leadOf s b then setBnd s b { y with above := true }
  else s

/-- The uncorrectable errors that a fetch of the words `ws` meets: the 64-bit words of them known to be bad, and those that the fetch
finds (`found`, R172, R393). -/
def fetchUe (s : State) (b : Nat) (ws : List (Nat × Bool)) (found : List EccErr) : List EccErr :=
  let known := s.dramBad.filter (fun q => ws.any (fun w => inWord s b w.1 w.2 q))
  known.map (fun q => { addr := BitVec.ofNat 40 q }) ++ found.filter (fun x => x.cache || !known.contains (x.addr.toNat / 8 * 8))

/-- The words `ws` are fetched from DRAM: those that hold a bad 64-bit word wait poisoned in the cache, and the errors are counted
(R172). -/
def fetched (s : State) (b : Nat) (ws : List (Nat × Bool)) (found : List EccErr) : State :=
  let ue := fetchUe s b ws found
  let s1 := eccErrs s [] ue
  setBnd s1 b { bndOf s1 b with poison := (bndOf s1 b).poison ++ poisonOf ue }

/-- R178, R182: the path of the binding now leads from the target of a taken jump. Of the first 256 words at a fixed target those that
stand in no span and may be fetched have been fetched, and the guard is 128; a computed target has none fetched. -/
def jumpLead (s : State) (b : Nat) (fixed : Bool) : State :=
  let y := bndOf s b
  if fixed then
    let ws := ((pathWords s b 256).takeWhile (fun w => fetchable s b w.1 w.2)).filter (fun w => !resident s b w.1 w.2)
    leadRegained (fetched (setBnd s b { y with lead := ws.length, lowG := true }) b ws []) b
  else setBnd s b { y with lead := 0 }

/-- The streamed words of the path that are resident ahead, in order. -/
def streamedAhead (s : State) (b : Nat) : List (Nat × Bool) :=
  (pathWords s b (leadOf s b)).filter (fun w => !resident s b w.1 w.2)

/-- PATTERN_REFILL (R171, R172, R178): `n` more words of the path ahead are resident. -/
def execPatternRefill (b : Bind) (n : Nat) (ce ue : List EccErr) (s : State) : Host.Outcome State Fault Refusal :=
  let s := cycle s
  let k := b.val
  .next (if !reserved s k ∨ isSet s F.FLT_STATE_EMBANK 0 then s
    else
      let y := bndOf s k
      let s1 := setBnd (eccErrs s ce []) k { y with lead := Nat.max y.lead (Nat.min (y.lead + n) (pfDepth s k)) }
      leadRegained (fetched s1 k ((streamedAhead s1 k).drop y.lead) ue) k)

/-- PATROL_SCRUB (R171): correctable errors are counted and written back, uncorrectable ones recorded, with a fault cause outside
vector data (R408). -/
def execPatrolScrub (ce ue : List LinkAddr) (s : State) : Host.Outcome State Fault Refusal :=
  .next (eccErrs (cycle s) (ce.map (fun a => { addr := a })) (ue.map (fun a => { addr := a })))

/-! Preload (R176). -/

/-- GO: with PRE_LEN 0 every span is unpinned and the window freed; otherwise the span is loaded if it fits. -/
def preloadGo (s : State) (b : Nat) : State :=
  let y := bndOf s b
  let n := getF s (F.MEM_PRE_LEN_N b) 0
  if n = 0 then
    let s1 := keepPoison s b (fun _ => false)
    showFree (setF (setF (setBnd s1 b { bndOf s1 b with pins := [], preload := none })
      (F.MEM_ALLOC_WIN b) 0 0) (F.MEM_PRE_VA_HI_GO b) 0 0)
  else
    let p := (List.range 64).find? (fun p => getF s F.POL_BIND_SEQSEL p == b && rsOf s p != .off)
    let noct := match p with | some p => (octsOf s (anchor s p)).length | none => y.noct
    let s1 := setBnd s b { y with noct := noct }
    let had := getF s (F.MEM_ALLOC_WIN b) 0
    let s2 := if had ≠ 0 then s1 else showFree (setF s1 (F.MEM_ALLOC_WIN b) 0 (Nat.min (cwin s b) (spareUnits s1 b / 64)))
    let x := spanAt s2 b (getF s (F.MEM_PRE_VA_LO_VA b) 0 + 2 ^ 32 * getF s (F.MEM_PRE_VA_HI_VA b) 0) n
      (isSet s (F.MEM_PRE_VA_HI_COMPACT b) 0)
    if x.lines ≤ freeLines s2 b then
      setF (setBnd s2 b { bndOf s2 b with preload := some x }) (F.MEM_PRE_VA_HI_GO b) 0 1
    else raise s2 .mem 0 E.MEM_CWIN_SHORT

/-- The uncorrectable errors that a read of [a, e) of DRAM meets: the 64-bit words known to be bad, and those that the read finds
(`found`, R172, R393). -/
def readUe (s : State) (a e : Nat) (found : List EccErr) : List EccErr :=
  (s.dramBad.filter (fun w => decide (w < e) && decide (a < w + 8))).map (fun w => { addr := BitVec.ofNat 40 w })
    ++ found.filter (fun x => x.cache || !s.dramBad.contains (x.addr.toNat / 8 * 8))

/-- PRELOAD_DONE (R176): the span is pinned; words of it loaded with an uncorrectable error are poisoned there (R172). Which errors the
load finds beside the words known to be bad is a free value (log entry 69). -/
def execPreloadDone (b : Bind) (s : State) : Host.Outcome State Fault Refusal :=
  let s := cycle s
  .next (match (bndOf s b.val).preload with
    | none => s
    | some x =>
      let e := Config.loadErrs s.free
      let own (l : List EccErr) : List EccErr := l.filter (fun e => x.line e.addr.toNat)
      let ue := readUe s x.addr x.stop (own e.2)
      let s1 := eccErrs { s with free := s.free + 1 } (own e.1) ue
      let y := bndOf s1 b.val
      raise (setF (setBnd s1 b.val { y with pins := y.pins ++ [x], preload := none, poison := y.poison ++ poisonOf ue })
        (F.MEM_PRE_VA_HI_GO b.val) 0 0) .mem 0 E.MEM_PRELOAD_DONE)

/-! DMA writes (R177). -/

/-- Bytes [a, a + n) of DRAM are about to change: what locked and pinned lines of a reserved binding hold stays there, other
prefetched words are invalidated, with their poison, and the pinned lines of a binding that is not reserved that the write touches are
unpinned. -/
def invalidate (s : State) (a n : Nat) : State :=
  forAll (List.range 20) s (fun s b =>
    let y := bndOf s b
    if reserved s b then
      let kept (q : Nat) : Bool := (spans s b).any (fun x => x.line q)
      let stale := (((List.range n).map (a + ·)).filter kept).foldl (fun (m : Store (Option Byte)) i =>
        if (Store.get m none i).isSome then m else Store.put m none i (some (Memory.read s.dram i))) y.stale
      let lead := ((streamedAhead s b).takeWhile (fun w =>
        !touches a n (wordAddr s b w.1 w.2) (wordAddr s b w.1 w.2 + wordBytes s b w.2))).length
      keepPoison (setBnd s b { y with stale := stale, lead := Nat.min y.lead lead }) b
        (fun q => kept q || !touches a n q (q + 8))
    else
      let pins := y.pins.flatMap (Span.cut a n)
      if pins = y.pins then s
      else keepPoison (setBnd s b { y with pins := pins }) b (fun q => pins.any (fun x => x.line q)))

/-! Overlays (R71, R187, R188). -/

/-- OVLCNT.N above 4,096 acts as 4,096. -/
def ovlCount (s : State) (a : Nat) : Nat := Nat.min 4096 (getF s F.POL_OVLCNT_N a)

def ovlEntry (s : State) (a i : Nat) : BitVec 192 := getWide s .pol a 4 i

/-- The overlay entries of word `vwi` are applied in table order against the credit; the result lists those applied. -/
def takeOvl : Nat → State → Nat → Nat → List (BitVec 192) → State × List (BitVec 192)
  | 0, s, _, _, acc => (s, acc)
  | f + 1, s, b, vwi, acc =>
    let y := bndOf s b
    let a := bndAnchor s b
    if ovlCount s a ≤ y.ovl then (s, acc)
    else
      let e := ovlEntry s a y.ovl
      if vwi < ovVwi e then (s, acc)
      else
        let s1 := setBnd s b { y with ovl := y.ovl + 1 }
        if ovVwi e < vwi ∨ !(bndMem s b).contains (ovMember e) then takeOvl f s1 b vwi acc
        else if y.credit = 0 then
          takeOvl f (raise (addCt s1 F.POL_OVLLATE_N (ovMember e) 1) .pol (ovMember e) E.POL_OVL_LATE) b vwi acc
        else takeOvl f (setBnd s1 b { bndOf s1 b with credit := y.credit - 1 }) b vwi (acc ++ [e])

/-- R188: the credit grows by 4 in every sequencer cycle (4 ticks) and never exceeds 64. -/
def growCredit (s : State) (b : Nat) : State :=
  let y := bndOf s b
  let cycles := (y.vstart.toNat / 4096 + 2 ^ 52 - y.ovlT.toNat / 4096) % 2 ^ 52
  setBnd s b { y with credit := if y.started then Nat.min 64 (y.credit + 4 * cycles) else 64, ovlT := y.vstart }

/-- R187: the character of member `p` at template channel `8 o + j`, vector `v`. -/
def memberChar (s : State) (b va : Nat) (cp : Bool) (es : List (BitVec 192)) (p o j v : Nat) : Nat :=
  match (es.filter (fun e => ovMember e == p && ovToct e == o && (ovMask e).testBit j)).getLast? with
  | some e => if cp then ovChar e j v % 4 else ovChar e j v
  | none => wordChar s b va cp o j v

end Sys2Proof.Machine
end

