-- ==== Sys2Proof/Machine/Run.lean ====
section
/-! DEFINITION. The run life of polders and bindings (R58 to R75): arming, start, pauses, stops, benching, entry to Dike. -/

namespace Sys2Proof.Machine

/-! Latches of a binding (R202, R218). -/

/-- Every latch of a binding clears, with the record of the members that have failed. -/
def clearLatches (s : State) (b : Nat) : State :=
  let s1 := setB s b F.SEQ_COND_LATCH F.MCE_COND_LATCH 0
  let s2 := setB (setB s1 b F.SEQ_COND_FAIL_ANY F.MCE_COND_FAIL_ANY 0) b F.SEQ_COND_FAIL_ALL F.MCE_COND_FAIL_ALL 0
  setBnd s2 b { bndOf s2 b with failedM := [] }

/-- One latch clears: `code` 1 to 15 of CMAP, 17 and 18 of the fails. The record of the members that have failed is FAIL_ALL's
(R202). -/
def clearLatch (s : State) (b code : Nat) : State :=
  if code = 17 then setB s b F.SEQ_COND_FAIL_ANY F.MCE_COND_FAIL_ANY 0
  else if code = 18 then setB (setBnd s b { bndOf s b with failedM := [] }) b F.SEQ_COND_FAIL_ALL F.MCE_COND_FAIL_ALL 0
  else if 1 ≤ code ∧ code ≤ 15 then
    let v := getB s b F.SEQ_COND_LATCH F.MCE_COND_LATCH
    setB s b F.SEQ_COND_LATCH F.MCE_COND_LATCH (if v.testBit (code - 1) then v - 2 ^ (code - 1) else v)
  else s

/-- A latch sets. -/
def setLatch (s : State) (b code : Nat) : State :=
  setB s b F.SEQ_COND_LATCH F.MCE_COND_LATCH (getB s b F.SEQ_COND_LATCH F.MCE_COND_LATCH ||| 2 ^ (code - 1))

/-- R202, R206: FAIL_ALL is judged again when a member has left. -/
def rejudgeFailAll (s : State) (b : Nat) : State :=
  let m := bndMem s b
  if !m.isEmpty && m.all (fun q => (bndOf s b).failedM.contains q) then setB s b F.SEQ_COND_FAIL_ALL F.MCE_COND_FAIL_ALL 1 else s

def cmapSrc (s : State) (b k : Nat) : Nat := if b < 16 then getF s (F.SEQ_CMAP_SRC k) b else getF s (F.MCE_CMAP_SRC k) (b - 16)
def cmapPol (s : State) (b k : Nat) : Bool := if b < 16 then isSet s (F.SEQ_CMAP_POL k) b else isSet s (F.MCE_CMAP_POL k) (b - 16)
def cmapMode (s : State) (b k : Nat) : Bool := if b < 16 then isSet s (F.SEQ_CMAP_MODE k) b else isSet s (F.MCE_CMAP_MODE k) (b - 16)

/-- A condition of the codes that sequencers and engines share (R201, R217): CMAP, true, fails, HOST. -/
def condOf (s : State) (b code : Nat) : Bool :=
  if code = 0 then false
  else if code ≤ 15 then
    if cmapMode s b code then (getB s b F.SEQ_COND_LATCH F.MCE_COND_LATCH).testBit (code - 1)
    else Store.get s.rtr.prompt false (cmapSrc s b code) == cmapPol s b code
  else if code = 16 then true
  else if code = 17 then getB s b F.SEQ_COND_FAIL_ANY F.MCE_COND_FAIL_ANY != 0
  else if code = 18 then getB s b F.SEQ_COND_FAIL_ALL F.MCE_COND_FAIL_ALL != 0
  else if code = 19 then getB s b F.SEQ_SEQCTL_HFLAG F.MCE_ENGCTL_HFLAG != 0
  else false

/-! Reserving and releasing (R173, R196, R202, R207, R216, R223). -/

def setCause (s : State) (b sq me : Nat) : State :=
  if b < 16 then setF s F.SEQ_STATE_STOPCAUSE b sq else setF s F.MCE_STOPINFO_STOPCAUSE (b - 16) me

def setIssuing (s : State) (b : Nat) (v : Bool) : State := setB s b F.SEQ_STATE_ISSUING F.MCE_STATE_ISSUING (b2n v)

/-- An engine at arming (R216, R223, R228): flags, counters and stacks cleared, VA and the microaddress loaded. F0 deasserts. -/
def engArm (s : State) (m : Nat) (mem : List Nat) : State :=
  let f0 := (getF s F.MCE_COND_FLAGS m).testBit 0
  let s1 := setF s F.MCE_COND_FLAGS m 0
  let s2 := if f0 then forAll mem s1 (fun s p => launch s { src := BitVec.ofNat 12 (0x640 + p), pol := false, stamp := now s }) else s1
  let s3 := forAll (List.range 8) s2 (fun s k => setF s (F.MCE_CNT_C k) m 0)
  let s4 := setF (setF (setF s3 F.MCE_STATE_LSP m 0) F.MCE_STATE_RSP m 0) F.MCE_STATE_WAITING m 0
  let s5 := setVa s4 m (getF s F.MCE_STARTVA_LO_VA m + 2 ^ 32 * getF s F.MCE_STARTVA_HI_VA m)
  setF (setF (setF s5 F.MCE_STATE_UPC m (getF s F.MCE_START_ADDR m)) F.MCE_STOPINFO_FADDR m 0) F.MCE_STOPINFO_STOPCAUSE m 0

/-- Binding `b` is reserved for anchor `a` and the members `mem`. -/
def reserve (s : State) (b a : Nat) (mem : List Nat) : State :=
  let s1 := setB (setB s b F.SEQ_STATE_RESERVED F.MCE_STATE_RESERVED 1) b F.SEQ_STATE_ANCHOR F.MCE_STATE_ANCHOR a
  let s2 := clearLatches (setCause s1 b 0 0) b
  let s3 := setBnd s2 b { pins := (bndOf s2 b).pins, preload := (bndOf s2 b).preload, poison := (bndOf s2 b).poison
                          hit := (bndOf s2 b).hit
                          goto := some (getF s (F.SEQ_STARTENT_ENTRY (b % 16)) (b % 16), 0) }
  let s4 := setF (setF s3 (F.MEM_VMSTAT_LASTSTOP b) 0 0) (F.MEM_VMSTAT_UR_PAUSED b) 0 0
  let s5 := setF s4 (F.HKP_X3_IDLE b) 0 0
  let s6 := if b < 16 then s5 else engArm s5 (b - 16) mem
  cacheAlloc s6 b (octsOf s a).length

/-- The binding releases its sequencer (R70, R173); a wait of an engine ends (R219). -/
def releaseBnd (s : State) (b : Nat) : State :=
  let s1 := cacheFree (setIssuing s b false) b
  let s2 := setBnd s1 b { failedM := (bndOf s1 b).failedM, noct := (bndOf s1 b).noct, pins := (bndOf s1 b).pins
                          preload := (bndOf s1 b).preload, poison := (bndOf s1 b).poison, hit := (bndOf s1 b).hit }
  let s3 := forAll (bndMem s2 b) s2 (fun s p => setPol s p { polOf s p with bind := none })
  let s3 := if b < 16 then s3 else setF s3 F.MCE_STATE_WAITING (b - 16) 0
  setF (setB s3 b F.SEQ_STATE_RESERVED F.MCE_STATE_RESERVED 0) (F.MEM_VMSTAT_UR_PAUSED b) 0 0

/-! Arming (R63, R64, R66, R67, R93, R94, R192, R256, R294, R295). -/

/-- What entry to ARMED clears on the page of polder `p`. -/
def clearRun (s : State) (p : Nat) : State :=
  let s1 := [F.POL_FAILCNT_N, F.POL_FAILVEC_N, F.POL_FLOGCNT_N, F.POL_FF_VWI_LO_VWI, F.POL_FF_VWI_HI_VWI, F.POL_FF_VWI_HI_VEC,
    F.POL_FF_INFO_NCH, F.POL_FF_INFO_TCH, F.POL_FF_INFO_VALID, F.POL_FF_STAMP_LO_T, F.POL_FF_STAMP_HI_T,
    F.POL_VMSTAT_TIMING_BROKEN, F.POL_VMSTAT_STALLED, F.POL_VMSTAT_STOPCAUSE, F.POL_STALLTK_T, F.POL_NOSTARTCNT_N,
    F.POL_UNPAIREDCNT_N, F.POL_TMEASCNT_N, F.POL_STATE_PAUSE_CAUSE, F.POL_RUNINFO_ARMERR, F.POL_RUNCTL_RUN,
    F.POL_STATE_RESTART_PENDING, F.POL_STATE_BENCHED].foldl (fun s f => setF s f p 0) s
  forAll (octsOf s1 p) s1 (fun s o => forAll (List.range 8) (setF s F.OCT_SCOPELOST_N o 0) (fun s j =>
    setF (setF (setF s (F.OCT_CHFAIL_N j) o 0) (F.OCT_DTLOST_N j) o 0) (F.OCT_TDCLOST_N j) o 0))

/-- R271: the reclaim of polder `p` finishes, and the EOR follows into newly granted granules: what was written since the entry to
DIKE is handed to drain. -/
def reclaimEnd (s : State) (p : Nat) : State :=
  if (polOf s p).reclaim then
    endRun (raise (addCt (forAll (List.range 4) (setPol s p { polOf s p with reclaim := false })
      (fun s j => handOff s (4 * p + j) true))
      F.SLU_RECLAIMCNT_N 0 1) .slu 0 E.SLU_RECLAIM_DONE) p (now s)
  else s

/-- Polder `p` enters ARMED on binding `b`. -/
def armPol (s : State) (p b : Nat) : State :=
  let s1 := clearRun (reclaimEnd s p) p
  let s2 := setPol s1 p { polOf s1 p with lsPush := none, fails := [], sof := false, flogStop := false
                                          startEv := false, late := none, benchDike := false, abortStop := false
                                          bind := some b, armS := now s }
  takePdly (acqArmed (setRs s2 p .armed) p) p

/-- Overlay entries of the anchor (R64, checks 5 and 6). -/
def ovlUnordered (s : State) (a : Nat) : Bool :=
  (List.range (ovlCount s a - 1)).any (fun i => decide (ovVwi (ovlEntry s a (i + 1)) < ovVwi (ovlEntry s a i)))

def ovlForeign (s : State) (a : Nat) (mem : List Nat) : Bool :=
  (List.range (ovlCount s a)).any (fun i =>
    !mem.contains (ovMember (ovlEntry s a i)) || decide ((octsOf s a).length ≤ ovToct (ovlEntry s a i)))

/-- R64: the first check that fails, 0 when all pass. -/
def armErr (s : State) (p : Nat) : Nat :=
  let a := anchor s p
  let mem := consort s p
  let b := getF s F.POL_BIND_SEQSEL a
  let n := (octsOf s a).length
  if 20 ≤ b then 1
  else if reserved s b && !mem.any (fun q => (polOf s q).bind == some b) then 2
  else if b < 16 ∧ 8 < n then 3
  else if !mem.all (fun q => (octsOf s q).length == n) then 4
  else if ovlUnordered s a then 5
  else if ovlForeign s a mem then 6
  else if 16 ≤ b ∧ !isSet s F.MCE_COND_CRC_OK (b - 16) then 7
  else if !mem.any (fun q => rsOf s q == .idle) then 8
  else if getF s F.POL_START_STARTSEL a = 3 then 9
  else 0

def startTime (s : State) (a : Nat) : Stamp := get64 s F.POL_START_TIME_LO_T F.POL_START_TIME_HI_T a

/-- The first tick at which the first vector can reach the pins when the engine is told at stamp `t` (R21, R65): the next
sequencer cycle and 64 ticks. -/
def firstTick (t : Stamp) : Stamp := BitVec.ofNat 64 (4096 * (t.toNat / 4096 + 1)) + ticks 64

/-- R64, R67: the members then IDLE arm, members in DIKE are marked BENCHED. A start time that is past, or that the first
vector cannot reach, sets LATE_START (R65, R300). -/
def arm (s : State) (p : Nat) : State :=
  let a := anchor s p
  let mem := consort s p
  let b := getF s F.POL_BIND_SEQSEL a
  let go := mem.filter (fun q => rsOf s q == .idle)
  let out := mem.filter (fun q => rsOf s q == .dike)
  let s1 := reserve s b a go
  let s2 := forAll go s1 (fun s q => armPol s q b)
  let s3 := forAll out s2 (fun s q => setF (raise (setF s F.POL_STATE_BENCHED q 1) .pol q E.POL_BENCHED) F.POL_RUNCTL_RUN q 0)
  if getF s F.POL_START_STARTSEL a = 2 ∧ (2 ^ 63 ≤ (startTime s a - now s).toNat ∨ earlier (startTime s a) (firstTick (now s))) then
    forAll go s3 (fun s q => raise (setPol s q { polOf s q with late := some (now s) }) .pol q E.POL_LATE_START)
  else s3

/-! Marks of the run (R252, R253). -/

/-- The vector word in play, 0 outside a run. -/
def vwiOf (s : State) (p : Nat) : Nat :=
  match (polOf s p).bind with
  | some b => (bndOf s b).vwi - 1
  | none => 0

/-- A MARK of a state change of polder `p`, while its unit records. -/
def markRun (s : State) (p cause : Nat) : State :=
  if streaming s p || (acqOf s p).runS.isSome then markAll s p cause (now s) none (vwiOf s p) else s

/-! Stops (R60, R61, R68, R70). -/

/-- The capture gate of a member ends with its last vector (R238). -/
def closeGate (s : State) (p : Nat) (t : Stamp) : State := gateClose s p t

/-- ABORT empties the level queue and takes the units off the pins (R61, R104, R139); parametric orders of words still on their way to
the pins are dropped with it (DESIGN CHOICE, log entry 75). -/
def abortPins (s : State) (p : Nat) : State :=
  let s1 := pmuNowDue (emptyQueue s p)
  showPmu (forAll (octsOf s1 p) (setPol s1 p { polOf s1 p with trigs := [] }) disconnectOct) p

/-- The pins of a member hold the park from the end of its last vector, unless it is PAUSED or no word has issued (R61, R68). -/
def parkOut (s : State) (b p : Nat) (paused : Bool) : State :=
  let y := bndOf s b
  if y.started && !paused then setPark s p y.tset y.vstart none true else s

/-- A member enters STOPPING: the last vector word has issued (R61). Its run ends with that word, with `abort` at the decision
(R247), and an open burst ends (R117). -/
def toStopping (s : State) (b p : Nat) (abort : Bool) : State :=
  let y := bndOf s b
  let paused := rsOf s p == .paused
  let s1 := setF (setF (setRs s p .stopping) F.POL_STATE_PAUSE_CAUSE p 0) F.POL_RUNCTL_PAUSE p 0
  let s2 := runEnd (setPol s1 p { polOf s1 p with abortStop := abort, endT := y.vstart }) p (if abort then now s else y.vstart)
  let s3 := closeGate (if streaming s2 p then s2 else markRun s2 p 6) p y.vstart
  let s4 := if abort then abortPins (closeRec s3 p 2 (now s3)) p else closeEvent s3 p y.vstart
  parkOut (endsBurst s4 p y.vstart) b p paused

/-- Issue of binding `b` ends with cause codes `sq`, `me`: every member that is not benched enters STOPPING, a pause still
pending is dropped (R205) and a wait of the engine ends (R219). -/
def endIssue (s : State) (b sq me : Nat) (abort : Bool) : State :=
  let mem := bndMem s b
  let s0 := setIssuing (setCause s b sq me) b false
  let s1 := if b < 16 then s0 else setF s0 F.MCE_STATE_WAITING (b - 16) 0
  let s2 := setBnd s1 b { bndOf s1 b with due := none, pauseReq := false, since := none }
  setF (forAll mem s2 (fun s p => toStopping s b p abort)) (F.MEM_VMSTAT_UR_PAUSED b) 0 0

/-- A sequencer stop fault (R61, R207, R229). -/
def stopFault (s : State) (b sq me : Nat) : State :=
  let mem := bndMem s b
  let s1 := endIssue s b sq me true
  let s2 := if b < 16 then raise s1 .seq b E.SEQ_STOPFLT else raise s1 .mce (b - 16) E.MCE_STOPFLT
  causeOn s2 (128 + b) mem

/-- A stop for a vector-memory cause (R170, R172, R185, R191, R192). -/
def vmStop (s : State) (b code : Nat) : State :=
  let mem := bndMem s b
  let s1 := raise (setF s (F.MEM_VMSTAT_LASTSTOP b) 0 code) .mem 0 E.MEM_VM_STOP
  let s2 := forAll mem s1 (fun s p => raise (setF s F.POL_VMSTAT_STOPCAUSE p code) .pol p E.POL_VM_STOP)
  let s3 := if code = 1 then causeOn s2 (148 + b) mem else s2
  let s4 := if code = 2 then setBnd s3 b { bndOf s3 b with since := none } else s3
  let s5 := if b < 16 then s4 else setF s4 F.MCE_STOPINFO_FADDR (b - 16) (engUpc s (b - 16))
  stopFault s5 b 6 8

/-- Word `va` cannot issue, for the cause `code`: the binding stops. A poisoned word that has been reached is none of those that CORRPF
counts, and stays where it is pinned (R172, R176); a lead that falls to 0 below the guard has been declared an underrun (R182, R185). -/
def wordStop (s : State) (b va : Nat) (cp : Bool) (code : Nat) : State :=
  let y := bndOf s b
  let s1 := if code = 1 then
      let now := y.poison.filter (inWord s b va cp)
      let stays (q : Nat) : Bool := y.pins.any (fun x => x.line q)
      setBnd s b { y with poison := y.poison.filter (fun q => stays q || !now.contains q), hit := y.hit ++ now.filter stays }
    else if code = 2 && y.since.isNone && y.above then addCt s (F.MEM_URCNT_N b) 0 1
    else s
  vmStop s1 b code

/-- Some member of the consort of `p` is ARMED, RUNNING, PAUSED or STOPPING. -/
def running (s : State) (p : Nat) : Bool := (consort s p).any (fun q => (rsOf s q).busy)

/-- The polder is in a consort of two or more. -/
def multi (s : State) (p : Nat) : Bool := decide (2 ≤ (consort s p).length)

/-- BENCHED clears when the last running member of the consort has reached IDLE or DIKE (R69). -/
def clearBenched (s : State) (p : Nat) : State :=
  if running s p then s else forAll (consort s p) s (fun s q => setF s F.POL_STATE_BENCHED q 0)

/-- RUNCTL commands that have ended. -/
def endCmds (s : State) (p : Nat) : State :=
  [F.POL_RUNCTL_STOP, F.POL_RUNCTL_ABORT, F.POL_RUNCTL_PAUSE, F.POL_RUNCTL_RESUME].foldl (fun s f => setF s f p 0) s

/-- RESTART_PENDING is given up (R62). -/
def cancelRestart (s : State) (p : Nat) : State :=
  if isSet s F.POL_STATE_RESTART_PENDING p then
    raise (setF (setF s F.POL_STATE_RESTART_PENDING p 0) F.POL_RUNCTL_RUN p 0) .pol p E.POL_RESTART_CANCELLED
  else s

/-- The pins and queues of a polder in Dike (R73, R139, R117). -/
def dikePins (s : State) (p : Nat) : State :=
  let s1 := endBurst (dikeQueues s p) p
  showPmu (forAll (octsOf s1 p) (setPol s1 p { polOf s1 p with fails := [], sof := false })
    (fun s o => octSafe (disconnectOct s o) o)) p

/-- R68, R70: a member leaves binding `b`. With no member left the binding stops and releases its sequencer; the cause of a run that
has already ended stands (R207). -/
def leaveBnd (s : State) (b p cause : Nat) : State :=
  let s1 := rejudgeFailAll (setPol s p { polOf s p with bind := none }) b
  if (bndMem s1 b).isEmpty then
    releaseBnd (if getB s b F.SEQ_STATE_STOPCAUSE F.MCE_STOPINFO_STOPCAUSE = 0 then setCause s1 b cause cause else s1) b
  else s1

/-- R68: an entry to Dike benches a member of a consort of two or more that runs. -/
def dikeBench (s : State) (p : Nat) : State :=
  if multi s p && running s p && !isSet s F.POL_STATE_BENCHED p then
    markRun (raise (setF s F.POL_STATE_BENCHED p 1) .pol p E.POL_BENCHED) p 7
  else s

/-- The rank of a cause of entry to DIKE: 5, 4, 3, 6, 2, 7, 1 (R74). -/
def dikeRank (src : Nat) : Nat := [5, 4, 3, 6, 2, 7, 1].idxOf src

/-- R247, R271: the open record of polder `p` is truncated as for Dike and what its streams hold is reclaimed; recording has
ended. -/
def dikeRecords (s : State) (p : Nat) : State :=
  let s1 := runEnd s p (now s)
  let s2 := reclaim (setAcq s1 p { acqOf s1 p with scope := [], after := [], gate := none, ended := true }) p
  let s3 := closeRec s2 p 4 (now s2)
  setPol s3 p { polOf s3 p with reclaim := true }

/-- The state DIKE with the cause `src` (R74): the commands in progress have ended. -/
def dikeState (s : State) (p src : Nat) : State :=
  let s1 := setPol (setRs s p .dike) p { polOf (setRs s p .dike) p with benchDike := false, dikeT := some (now s) }
  let s2 := endCmds (cancelRestart (setF s1 F.POL_STATE_PAUSE_CAUSE p 0) p) p
  let s3 := setF (setF (setF s2 F.POL_RUNCTL_RUN p 0) F.POL_RUNCTL_DIKE p 0) F.POL_STATE_DIKE_SRC p src
  raise s3 .pol p E.POL_DIKE_ENTERED

/-- A trigger that meets polder `p` in DIKE: one that ranks before the cause and comes before the polder has reached DIKE gives the
cause (R74); a release in progress ends. The polder reaches DIKE within 2 µs of its first trigger (R73), not before the hub cycle of
that: whether it had is a free value (log entry 80). -/
def dikeAgain (s : State) (p src : Nat) : State :=
  let x := polOf s p
  let s1 := setF (setPol s p { x with releasing := false }) F.POL_RUNCTL_RELEASE p 0
  if dikeRank (getF s F.POL_STATE_DIKE_SRC p) ≤ dikeRank src then s1
  else match x.dikeT with
    | none => s1
    | some t =>
      if t = now s then setF s1 F.POL_STATE_DIKE_SRC p src
      else if within t (t + ticks 3200) (now s) then
        let u := freeB s1
        if u.1 then setF u.2 F.POL_STATE_DIKE_SRC p src else u.2
      else s1

/-- R73, R74: entry to DIKE with the cause `src`. A polder that is in DIKE stays there. -/
def dikeEntry (s : State) (p src : Nat) : State :=
  match rsOf s p with
  | .off => s
  | .dike => dikeAgain s p src
  | _ =>
    let s1 := markRun (dikeBench (dikeRecords s p) p) p 8
    let s2 := dikeState (dikePins s1 p) p src
    let s3 := match (polOf s2 p).bind with
      | some b => leaveBnd s2 b p 3
      | none => s2
    clearBenched s3 p

/-- A member that is benched receives no word any more (R68): one that goes to DIKE has its open record truncated and records no more
(R237, R247), one that goes to IDLE records up to the end of its last vector. The last member of the binding stops as for ABORT, also
where its bench state is IDLE (R70; log entry 64). -/
def benchOut (s : State) (b p : Nat) (toDike : Bool) : State :=
  let y := bndOf s b
  let s1 := if toDike then
      let s1 := runEnd (closeRec s p 4 (now s)) p (now s)
      setAcq s1 p { acqOf s1 p with ended := true }
    else s
  let s2 := if (bndMem s b).length = 1 then toStopping s1 b p true
    else
      let s2 := closeEvent (closeGate (runEnd (setPol s1 p { polOf s1 p with endT := y.vstart }) p y.vstart) p y.vstart) p y.vstart
      parkOut (endsBurst s2 p y.vstart) b p (rsOf s p == .paused)
  leaveBnd (setPol s2 p { polOf s2 p with abortStop := toDike || (bndMem s b).length == 1 }) b p 3

/-- An ARMED member returns to IDLE (R60). -/
def disarm (s : State) (p : Nat) (abort : Bool) : State :=
  let s1 := endsBurst s p (now s)
  endCmds (setRs (if abort then abortPins s1 p else s1) p .idle) p

/-- R68: member `p` is benched, to DIKE when `toDike`. -/
def benchTo (s : State) (p : Nat) (toDike : Bool) : State :=
  let s1 := raise (setF s F.POL_STATE_BENCHED p 1) .pol p E.POL_BENCHED
  let s2 := markRun (setPol s1 p { polOf s1 p with benchDike := toDike }) p 7
  match (polOf s2 p).bind with
  | none => s2
  | some b =>
    if rsOf s2 p == .armed then
      let last := (bndMem s2 b).length == 1
      let s3 := leaveBnd s2 b p 3
      clearBenched (if toDike then dikeEntry s3 p 7 else disarm s3 p last) p
    else benchOut s2 b p toDike

/-- R68 with the member's own BENCH_TO. -/
def bench (s : State) (p : Nat) : State := benchTo s p (isSet s F.POL_CSRT_BENCH_TO p)

/-- R61: STOP or ABORT of the whole binding that plays to `p`; ARMED members return to IDLE (R60). -/
def stopAll (s : State) (p : Nat) (abort : Bool) : State :=
  match (active s p).findSome? (fun q => (polOf s q).bind) with
  | none => s
  | some b =>
    if (bndMem s b).all (fun q => rsOf s q == .armed) then
      let mem := bndMem s b
      clearBenched (forAll mem (releaseBnd (setCause s b 2 2) b) (fun s q => disarm s q abort)) p
    else endIssue s b 2 2 abort

/-! Word issue (R65, R80, R145, R197, R212). -/

/-- What a vector word carries besides its characters. `adv`: the path moves past the word (a word that is held stays ahead). -/
structure WordOp where
  va : Nat
  tset : Nat
  lset : Nat
  gate : Bool
  adv : Bool := true

/-- The first vector of a run begins at `t` (R58, R77, R80, R237, R306). -/
def firstWord (s : State) (p : Nat) (t : Stamp) : State :=
  let s1 := raise s .pol p E.POL_STARTED
  acqStart (forAll (octsOf s1 p) s1 octActive) p t

/-- The characters of a word play on the pins of member `p`; an isolated die is sent none (R412). -/
def playWord (s : State) (b p va tset : Nat) (cp : Bool) (es : List (BitVec 192)) (vwi per : Nat) (t : Stamp) : State :=
  forAll (List.range (8 * (bndOf s b).noct)) s (fun s' k =>
    match chanOfT s p k with
    | none => s'
    | some c => if isoDie s (c / 64) then s' else forAll (List.range 4) s' (fun s' v =>
        let r : VecRef := { vwi := vwi, vec := v, start := t + BitVec.ofNat 64 (v * per) }
        playChar s' c tset (memberChar s b va cp es p (k / 8) (k % 8) v) per r false))

/-- The activity fraction A of R432 in 1/256. -/
def actFrac (s : State) : Nat := getF s F.HKP_STATE_ACT 0

/-- `n` throttle idle periods of the current set play on the pins of the binding's members (R205, R433). -/
def insertIdle (s : State) (b n : Nat) : State :=
  if n = 0 then s
  else
    let y := bndOf s b
    let per := period s (bndAnchor s b) y.tset
    let e := y.vstart + BitVec.ofNat 64 (n * per)
    let s1 := forAll (bndMem s b) s (fun s p => setPark s p y.tset y.vstart (some e) false)
    addCt (setBnd s1 b { bndOf s1 b with vstart := e, idle := 0 }) (F.HKP_X3_IDLE b) 0 (n * per / 1024)

/-- The end of an issue: an underrun is declared as the lead falls below its guard (R182, R183, R185), pauses and throttling at the
word's point (R205, R433). -/
def afterWord (s : State) (b : Nat) (streamed safe thr : Bool) : State :=
  let y := bndOf s b
  let n := match y.since with | some k => some (k + 1) | none => none
  let low := streamed && n.isNone && y.above && decide (leadOf s b < curGuard s b)
  let s1 := if low then addCt s (F.MEM_URCNT_N b) 0 1 else s
  let since := if low then some 0 else n
  let per := period s (bndAnchor s b) y.tset
  let k := if thr && decide (0 < per) then (y.debt / per).floor.toNat else 0
  let s2 := setBnd s1 b { bndOf s1 b with since := since, above := y.above && !low, debt := y.debt - k * per }
  if safe && (y.pauseReq || since.isSome) then
    setBnd s2 b { bndOf s2 b with due := some thr, idle := k }
  else if (match n with | some j => decide (4096 ≤ j) | none => false) then vmStop s2 b 2
  else leadRegained (insertIdle s2 b k) b

/-- A binding issues one vector word to every member that is not benched. The word is fetchable and resident. -/
def issueWord (s : State) (b : Nat) (w : WordOp) : State :=
  let y := bndOf s b
  let a := bndAnchor s b
  let cp := compact s a w.tset
  let per := period s a w.tset
  let mem := bndMem s b
  let t := y.vstart
  let streamed := !resident s b w.va cp
  let s1 := if y.started then s else forAll mem s (fun s p => firstWord s p t)
  let s2 := if y.fresh then forAll mem s1 (fun s p => muteStarts s p (· == 5) t) else s1
  let s3 := forAll mem s2 (fun s p => if w.gate then gateOpen s p t else gateClose s p t)
  let s4 := forAll mem s3 (fun s p => pushLset s p (BitVec.ofNat 4 w.lset))
  let g := growCredit s4 b
  let o := takeOvl (ovlCount g (bndAnchor g b)) g b y.vwi []
  let d := forAll mem o.1 (fun s p => forAll (chansOf s p) s dueDeskew)
  let s5 := forAll mem d (fun s p => playWord s b p w.va w.tset cp o.2 y.vwi per t)
  let s6 := forAll mem s5 (fun s p =>
    setF (setF s F.POL_STOPVWI_LO_VWI p (y.vwi % 2 ^ 32)) F.POL_STOPVWI_HI_VWI p (y.vwi / 2 ^ 32))
  let s7 := noteSeen s6 b w.va cp
  let z := bndOf s7 b
  let act := actFrac s
  setIssuing (setBnd s7 b { z with
    started := true, fresh := false, vwi := y.vwi + 1, tset := w.tset
    vstart := t + BitVec.ofNat 64 (4 * per)
    lead := if streamed && w.adv then z.lead - 1 else z.lead
    rate := if streamed then wordBytes s7 b cp * 40960 / Nat.max 1 per else 0
    debt := if 256 ≤ act ∨ act = 0 then z.debt else z.debt + (4 * per * (256 - act) : Rat) / act }) b true

/-- The binding may issue: its members run and no pause is due (R58, R205). -/
def mayIssue (s : State) (b : Nat) : Bool :=
  reserved s b && !(bndMem s b).isEmpty && (bndMem s b).all (fun p => rsOf s p == .running) && (bndOf s b).due.isNone

/-! Start, pause and resume (R65, R183, R184, R186, R205). -/

/-- The start condition of the binding's anchor is met (R65); never during a BSYNC reset (R340) or before the first lock (R341). -/
def startMet (s : State) (b : Nat) : Bool :=
  let a := bndAnchor s b
  let mem := bndMem s b
  s.clk.reset.isNone && s.clk.first && (match getF s F.POL_START_STARTSEL a with
  | 0 => leadFull s b
  | 1 => mem.any (fun p => (polOf s p).startEv)
  | 2 => mem.any (fun p => (polOf s p).late.isSome) || !earlier (now s + ticks 64) (startTime s a)
  | _ => false)

/-- The stamp of the first vector (R65): for a time start the first tick at or after the time, or, where it is past, the earliest
tick after the moment at which it was taken as past. -/
def startStamp (s : State) (b : Nat) : Stamp :=
  let a := bndAnchor s b
  if getF s F.POL_START_STARTSEL a = 2 then
    match (bndMem s b).findSome? (fun p => (polOf s p).late) with
    | some t => firstTick t
    | none => tickOf (startTime s a + 1023)
  else firstTick (now s)

/-- R60, R65: the members enter RUNNING. -/
def startRun (s : State) (b : Nat) : State :=
  let t := startStamp s b
  let s1 := forAll (bndMem s b) s (fun s p => addCt (setRs s p .running) F.POL_RUNCNT_RUNS p 1)
  leadRegained (setBnd s1 b { bndOf s1 b with vstart := t, fresh := true }) b

/-- R183, R205: the members of a binding enter PAUSED at the stall-safe point `tol`. -/
def takePause (s : State) (b : Nat) (tol : Bool) : State :=
  let y := bndOf s b
  let ur := y.since.isSome
  let mem := bndMem s b
  let s1 := forAll mem s (fun s p =>
    let s1 := setF (setRs s p .paused) F.POL_STATE_PAUSE_CAUSE p (if y.pauseReq then 1 else 2)
    let s2 := raise (setF s1 F.POL_RUNCTL_PAUSE p 0) .pol p E.POL_PAUSED
    let s3 := if ur then raise (setF s2 F.POL_VMSTAT_STALLED p 1) .pol p E.POL_VM_PAUSE else s2
    let s4 := if ur && !tol then setF s3 F.POL_VMSTAT_TIMING_BROKEN p 1 else s3
    let s5 := setPark (markRun s4 p 4) p y.tset y.vstart none true
    flushFails (forAll (chansOf s5 p) s5 (fun s c => winClose s c y.vstart)) p)
  let s2 := setIssuing (setF s1 (F.MEM_VMSTAT_UR_PAUSED b) 0 (b2n ur)) b false
  setBnd s2 b { bndOf s2 b with due := none, pauseReq := false, stall := ur }

/-- No edge of a vector word is still to be played before `t` on the pins of a polder. -/
def played (s : State) (p : Nat) (t : Stamp) : Bool :=
  (chansOf s p).all (fun c => (chanOf s c).edges.all (fun e => e.park || !earlier e.t t))

/-- R184, R186: the members return to RUNNING; issue goes on at the next vector boundary that the pins can reach. -/
def resumeRun (s : State) (b : Nat) : State :=
  let y := bndOf s b
  let per := Nat.max 1 (period s (bndAnchor s b) y.tset)
  let need := firstTick (now s)
  let k := if earlier y.vstart need then ((need - y.vstart).toNat + per - 1) / per else 0
  let t := y.vstart + BitVec.ofNat 64 (k * per)
  let mem := bndMem s b
  let s1 := forAll mem s (fun s p =>
    endCmds (setF (setRs (endPark (markRun s p 5) p t) p .running) F.POL_STATE_PAUSE_CAUSE p 0) p)
  let s2 := setBnd s1 b { bndOf s1 b with vstart := t, since := none, stall := false, fresh := true }
  let s3 := insertIdle s2 b y.idle
  let tk := ((bndOf s3 b).vstart - y.vstart).toNat / 1024
  let s4 := if y.stall then
      let v := getF s3 (F.MEM_STALL_LO_T b) 0 + 2 ^ 32 * getF s3 (F.MEM_STALL_HI_T b) 0
      let v' := Nat.min (v + tk) (2 ^ 64 - 1)
      let s4 := setF (setF s3 (F.MEM_STALL_LO_T b) 0 (v' % 2 ^ 32)) (F.MEM_STALL_HI_T b) 0 (v' / 2 ^ 32)
      forAll mem s4 (fun s p => addCt s F.POL_STALLTK_T p tk)
    else s3
  setIssuing (setF s4 (F.MEM_VMSTAT_UR_PAUSED b) 0 0) b true

end Sys2Proof.Machine
end

