-- ==== Sys2Proof/Machine/Faults.lean ====
section
/-! DEFINITION. The fault collector: occurrences and reactions, isolation, recovery, Embankment mode (R408 to R424, R492). -/

namespace Sys2Proof.Machine

/-! What a source names (R408, R409). -/

def fstate (s : State) (f : Nat) : Nat := getF s (F.FLT_X2_FSTATE f) 0
def setFstate (s : State) (f v : Nat) : State := setF s (F.FLT_X2_FSTATE f) 0 v

/-- The polders with an octet on channel die `d`. -/
def polsOnDie (s : State) (d : Nat) : List Nat :=
  ((List.range 8).filterMap (fun k => owner s (8 * d + k))).eraseDups

/-- The polders with an octet or a DS controller on channel die `d`. -/
def polsOfDie (s : State) (d : Nat) : List Nat :=
  (polsOnDie s d ++ (List.range 4).filterMap (fun k => dsOwner s (4 * d + k))).eraseDups

/-- The polders that source `f` names, by the ownership in force. -/
def namesNow (s : State) (f : Nat) : List Nat :=
  let x := fltOf s f
  if f < 64 then [f]
  else if f < 96 then (dsOwner s (f - 64)).toList
  else if f < 128 then
    let d := (f - 96) / 4
    if f % 4 = 2 then []
    else if f % 4 = 3 then polsOfDie s d
    else if forced s f || x.asked then polsOnDie s d else x.names
  else if f < 168 then
    let b := if f < 148 then f - 128 else f - 148
    ((if x.hw then x.names else []) ++ (if forced s f || x.asked then bndMem s b else [])).eraseDups
  else if f < 184 then [getF s (F.FLT_X1_TGT f) 0]
  else List.range 64

/-- The reaction of an occurrence, with R410 for a source that names no polder or no die. -/
def reactNow (s : State) (f : Nat) (names : List Nat) : Nat :=
  let r := getF s (F.FLT_X1_REACT f) 0
  if r = 3 then 3
  else if fltClass f = 0 then 0
  else
    let r1 := if r = 2 ∧ (srcFltDie f).isNone then 1 else r
    if r1 = 1 ∧ names.isEmpty then 0 else r1

/-- Sources whose cause may be seen first by FAULT_OCCURRENCE itself: a substrate link error, an error in a hub memory that no
other command reads. -/
def reported (f : Nat) : Bool := (decide (96 ≤ f) && decide (f < 128) && f % 4 == 3) || f == 190

/-! Router sources (R416). -/

/-- A source of the collector or of another hub block takes the level `v` at the present tick. -/
def hubSource (s : State) (src : Nat) (v : Bool) : State :=
  if liveOf s src == v then s else launch (setLive s src v) { src := BitVec.ofNat 12 src, pol := v, stamp := now s }

def faultSources (s : State) : State :=
  let s1 := forAll (List.range 64) s (fun s' p => hubSource s' (0x780 + p) (faultActive s p || faultLatched s p))
  let s2 := forAll (List.range 8) s1 (fun s' k => hubSource s' (0x7C0 + k) (isoDie s k))
  let s3 := hubSource s2 0x7C8 (isSet s F.FLT_STATE_EMBANK 0)
  hubSource s3 0x7C9 ((List.range 192).any (fun f => fstate s f == 1 && (fltOf s f).react == 0))

/-- Source 0x802: the cause of FS188 is present (R439). -/
def shutSource (s : State) : State := hubSource s 0x802 (causeNow s 188)

/-! Embankment mode (R420). -/

/-- A preload in progress is given up. -/
def preloadDrop (s : State) (b : Nat) : State :=
  if (bndOf s b).preload.isNone then s
  else setF (setBnd s b { bndOf s b with preload := none }) (F.MEM_PRE_VA_HI_GO b) 0 0

def setEmbank (s : State) (v : Bool) : State :=
  setF (setF (setF s F.FLT_STATE_EMBANK 0 (b2n v)) F.FLT_COND_EMBANK 0 (b2n v)) F.DEV_STATE_EMBANK 0 (b2n v)

/-- Entry at `t` by `cause` 1 (source `f`) or 2 (self-check). -/
def embank (s : State) (cause f : Nat) (t : Stamp) : State :=
  if isSet s F.FLT_STATE_EMBANK 0 then s
  else
    let s1 := setF (setF (setF (setEmbank s true) F.FLT_EMBINFO_CAUSE 0 cause) F.FLT_EMBINFO_SRC 0 f) F.FLT_EMBINFO_EXITERR 0 0
    let s2 := set64 s1 F.FLT_EMB_T_LO_T F.FLT_EMB_T_HI_T 0 t
    let s3 := forAll (List.range 64) s2 (fun s p => dikeEntry s p 5)
    let s4 := forAll (List.range 32) (forAll (List.range 64) (forAll (List.range 20) s3 preloadDrop) applyFaultDacs) faultRamp
    let s5 := raise (raise s4 .dev 0 E.DEV_EMBANK_IN) .flt 0 E.FLT_EMBANK_IN
    let s6 := { s5 with smb := { s5.smb with alert := true } }
    if cause = 1 then faultRecord s6 f t 3 (namesNow s f) false else s6

/-! Isolation (R412). -/

def setIso (s : State) (d : Nat) (v : Bool) : State :=
  let m := getF s F.FLT_STATE_ISO 0
  let m' := if v then m ||| 2 ^ d else if m.testBit d then m - 2 ^ d else m
  forAll (List.range 8) (setF (setF s F.FLT_STATE_ISO 0 m') F.FLT_COND_ISO 0 m')
    (fun s k => setF s F.OCT_STATE_DIE_ISOLATED (8 * d + k) (b2n v))

/-- Channel die `d` is isolated by source `f`: its octets are SAFE, and its causes but that of its integrity are discarded. -/
def isolate (s : State) (d f : Nat) (t : Stamp) (names : List Nat) : State :=
  if isoDie s d then s
  else
    let s1 := forAll ((List.range 8).map (fun k => 8 * d + k)) (setIso s d true) octSafe
    let s2 := forAll ((List.range 192).filter (fun g => srcFltDie g == some d && !(decide (96 ≤ g) && g % 4 == 3))) s1 causeDrop
    faultRecord (raise s2 .flt 0 E.FLT_ISOLATE) f t 2 names true

/-- Isolation ends when no source that isolated the die is ACTIVE, QUIET or LATCHED. -/
def endIso (s : State) : State :=
  forAll (List.range 8) s (fun s d =>
    if isoDie s d && !(List.range 192).any (fun f => fstate s f != 0 && (fltOf s f).react == 2 && (fltOf s f).die == some d)
    then setIso s d false else s)

/-! Reactions (R410). -/

/-- The reaction that source `f` took at its occurrence. -/
def takeReaction (s : State) (f : Nat) (t : Stamp) : State :=
  let x := fltOf s f
  match x.react with
  | 1 => forAll x.occNames s (fun s p => if isSet s F.POL_DIKECFG_DIKE_OVR p then s else dikeEntry s p 3)
  | 2 => match x.die with
    | some d => forAll (polsOfDie s d) (isolate s d f t x.occNames) (fun s p => dikeEntry s p 4)
    | none => s
  | 3 => embank s 1 f t
  | _ => s

/-- A CLEAR source becomes ACTIVE: an occurrence at `t`. -/
def occurrence (s : State) (f : Nat) (t : Stamp) : State :=
  let names := namesNow s f
  let s1 := setFlt (setFstate s f 1) f { fltOf s f with
    occNames := names, react := reactNow s f names, die := srcFltDie f, occT := t }
  let s2 := setF (setF (addCt s1 (F.FLT_X3_OCC f) 0 1) F.FLT_LASTSRC_SRC 0 f) F.FLT_LASTSRC_VALID 0 1
  takeReaction (raise (set64 s2 F.FLT_LASTT_LO_T F.FLT_LASTT_HI_T 0 t) .flt 0 E.FLT_FAULT_NEW) f t

/-- An enabled source meets a cause that is present, or was present since the source was last looked at (R413). While SELFERR is
set every source keeps its state (R417). -/
def occur (s : State) (f : Nat) (t : Stamp) : State :=
  if isSet s F.FLT_STATE_SELFERR 0 || !isSet s (F.FLT_X1_EN f) 0 then (if momentary f then causeDrop s f else s)
  else if !(causeNow s f || (fltOf s f).due) then s
  else
    let s1 := match fstate s f with
      | 0 => occurrence s f t
      | 2 => takeReaction (setFstate s f 1) f t
      | _ => s
    let s2 := setFlt s1 f { fltOf s1 f with due := false, asked := false }
    faultSources (if momentary f then causeOff s2 f else s2)

/-- FAULT_OCCURRENCE. -/
def execFaultOccurrence (f : Fin 192) (t : Stamp) (s : State) : Host.Outcome State Fault Refusal :=
  let s := reach (cycle s) t
  let k := f.val
  .next (if reported k && !causeNow s k then
    let s1 := occur (causeOn s k []) k t
    causeDrop s1 k
  else occur s k t)

/-! The end of a cause (R413, R492). -/

/-- Causes that last while the hardware sees the condition; their end is this command. -/
def sensed (f : Nat) : Bool :=
  (decide (64 ≤ f) && decide (f < 96)) || (decide (96 ≤ f) && decide (f < 128) && decide (f % 4 < 2)) || f == 184

/-- The condition behind a sensed cause ends: a clipped set point keeps the cause of its controller; no clamp of the die carries the
10 mA of R85 any more. -/
def senseGone (s : State) (f : Nat) : State :=
  if f = 184 then
    setF (setF { causeOff s f with clk := { s.clk with apll := true } } F.CLK_COND_XO_FAIL 0 0) F.CLK_STATE_XO_RC 0 0
  else if f < 96 then
    let d := f - 64
    let s1 := setF s (F.DSC_COND_ILIM (d % 8)) (d / 8) 0
    dsCause (setDs s1 d { dsOf s1 d with oc := false, so := false }) d
  else if f % 4 = 1 then
    forAll ((List.range 64).map (fun k => 64 * ((f - 96) / 4) + k)) (causeOff s f)
      (fun s c => setChan s c { chanOf s c with clampT := none })
  else causeOff s f

/-- An ACTIVE source whose cause is absent becomes QUIET. -/
def toQuiet (s : State) (f : Nat) : State :=
  if fstate s f == 1 && !causeNow s f && !isSet s F.FLT_STATE_SELFERR 0 then
    faultSources (setFstate (setFlt s f { fltOf s f with goneT := now s, due := false, asked := false }) f 2)
  else s

/-- FAULT_CAUSE_GONE. -/
def execFaultCauseGone (f : Fin 192) (s : State) : Host.Outcome State Fault Refusal :=
  let s := cycle s
  .next (toQuiet (if sensed f.val then senseGone s f.val else s) f.val)

/-! Recovery, latching, clear (R413 to R415). -/

/-- Milliseconds in ticks. -/
def msTicks (n : Nat) : Stamp := ticks (1600000 * n)

/-- The quiet period in ms (R426). -/
def quietMs (s : State) (f : Nat) : Nat := Nat.min 10000 (Nat.max 1 (getF s (F.FLT_X1_QUIET f) 0))

/-- The recoveries stamped within the preceding RWIN ms. -/
def recent (s : State) (f : Nat) : List Stamp :=
  (fltOf s f).recs.filter (fun r => !earlier r (now s - msTicks (Nat.max 1 (getF s F.FLT_RECLIM_RWIN 0))))

/-- The quiet period of source `f` ends with its cause still absent. REACT and AUTOREC are judged as they now read (R424). -/
def quietEnd (s : State) (f : Nat) : State :=
  let x := fltOf s f
  let r := recent s f
  if isSet s (F.FLT_X1_AUTOREC f) 0 && getF s (F.FLT_X1_REACT f) 0 != 3 && decide (r.length < Nat.max 1 (getF s F.FLT_RECLIM_RLIM 0))
    then
    setFlt (setFstate s f 0) f { x with recs := r ++ [now s] }
  else
    faultRecord (raise (setFstate s f 3) .flt 0 E.FLT_LATCHED) f x.occT x.react x.occNames true

/-- QUIET_EXPIRY. -/
def execQuietExpiry (f : Fin 192) (s : State) : Host.Outcome State Fault Refusal :=
  let s := cycle s
  let k := f.val
  .next (if fstate s k != 2 || causeNow s k || (fltOf s k).due || isSet s F.FLT_STATE_SELFERR 0 then s
  else
    let s1 := quietEnd (reach s ((fltOf s k).goneT + msTicks (quietMs s k))) k
    faultSources (endIso s1))

/-- R413: EN has been cleared; the source is CLEAR at once, but for SELFERR, which holds its state (R417). -/
def fltDisable (s : State) (f : Nat) : State :=
  if isSet s (F.FLT_X1_EN f) 0 || isSet s F.FLT_STATE_SELFERR 0 then s
  else
    let s1 := if momentary f then causeDrop s f else setFlt s f { fltOf s f with due := false, asked := false }
    if fstate s f == 0 then s1 else faultSources (endIso (setFstate s1 f 0))

/-- R415 for one source. -/
def clearSource (s : State) (f : Nat) : State :=
  let s1 := setFlt s f { fltOf s f with recs := [] }
  match fstate s1 f with
  | 3 => if causeNow s1 f then occur (setFstate s1 f 0) f (now s1) else setFstate s1 f 0
  | 2 => setFstate s1 f 0
  | _ => s1

/-- R417: the copies are rewritten, the words with bad parity restored; a source that is not enabled is CLEAR (R413). -/
def clearSelf (s : State) : State :=
  let s1 := forAll s.fltBad s (fun s f =>
    match loadedOf s 4 with
    | some r => setFltCfg s f (payWord r.payload f)
    | none => setFltCfg s f (1 + fltReact f * 8 + fltAutorec f * 32 + 10 * 64))
  setF (forAll (List.range 192) (setF { s1 with fltBad := [] } F.FLT_STATE_SELFERR 0 0) fltDisable) F.FLT_COND_SELFERR 0 0

/-- CLRCTL.GO (R415). -/
def clrGo (s : State) : State :=
  let s1 := if isSet s F.FLT_CLRCTL_SELF 0 then clearSelf s else s
  if isSet s1 F.FLT_STATE_SELFERR 0 then s1
  else
    let l := if isSet s1 F.FLT_CLRCTL_ALL 0 then List.range 192
      else if getF s1 F.FLT_CLRCTL_SRC 0 < 192 then [getF s1 F.FLT_CLRCTL_SRC 0] else []
    faultSources (endIso (forAll l s1 clearSource))

/-! Self-protection (R417). -/

/-- A parity error or a mismatch at `t`. -/
def selfErr (s : State) (t : Stamp) : State :=
  let s1 := raise (setF (setF s F.FLT_STATE_SELFERR 0 1) F.FLT_COND_SELFERR 0 1) .flt 0 E.FLT_SELFERR
  let s2 := setF (embank s1 2 0 t) F.FLT_EMBINFO_CAUSE 0 2
  faultSources (faultRecord s2 0xFFFFFFFF t 3 [] false)

/-- SELFERR. -/
def execSelferr (t : Stamp) (s : State) : Host.Outcome State Fault Refusal := .next (selfErr (reach (cycle s) t) t)

/-- FLT_PARITY_SCAN: the scan of every configuration word. -/
def execFltParityScan (bad : List (Fin 192)) (t : Stamp) (s : State) : Host.Outcome State Fault Refusal :=
  let s := reach (cycle s) t
  .next (if bad.isEmpty then s
  else selfErr { s with fltBad := (s.fltBad ++ bad.map (·.val)).eraseDups } t)

/-- KEEPALIVE_TIMEOUT (R412): the die applies the Dike sequence to its octets and its DS controllers. -/
def execKeepaliveTimeout (d : Fin 8) (s : State) : Host.Outcome State Fault Refusal :=
  let s := cycle s
  .next (forAll ((List.range 4).map (fun k => 4 * d.val + k))
    (forAll ((List.range 8).map (fun k => 8 * d.val + k)) s octSafe) faultRamp)

/-! Leaving Embankment mode (R423). -/

/-- The first condition of R423 that fails, 0 for none. -/
def exitErr (s : State) : Nat :=
  if (List.range 192).any (fun f => fstate s f != 0 && (fltOf s f).react == 3) then 1
  else if isSet s F.FLT_STATE_SELFERR 0 then 2
  else if !isSet s F.DEV_STATE_MAINPWR 0 || getF s F.DEV_STATE_BOOT 0 != 4 then 3
  else if isSet s F.DEV_STATE_THERMREC 0 then 4
  else 0

/-- EMBCTL.EXIT. -/
def exitGo (s : State) : State :=
  if !isSet s F.FLT_STATE_EMBANK 0 then s
  else
    let e := exitErr s
    if e = 0 then
      faultSources (raise (raise (setEmbank s false) .dev 0 E.DEV_EMBANK_OUT) .flt 0 E.FLT_EMBANK_OUT)
    else raise (setF s F.FLT_EMBINFO_EXITERR 0 e) .flt 0 E.FLT_EXIT_REFUSED

end Sys2Proof.Machine
end

