-- ==== Sys2Proof/Machine/Clock.lean ====
section
/-! DEFINITION. The crystal, the main PLL, the clock outputs and the Bourdon counter (R325 to R343). -/

namespace Sys2Proof.Machine

/-! The ageing model (R326, R453). -/

/-- A number of IEEE 754 binary32; none for an infinity or a NaN. -/
def binary32 (w : Nat) : Option Rat :=
  let e := bits w 23 8
  let m : Rat := bits w 0 23
  let v := if e = 0 then m / 2 ^ 149 else (m + 2 ^ 23) * 2 ^ e / 2 ^ 150
  if e = 255 then none else some (if w.testBit 31 then -v else v)

/-- The natural logarithm of `2^96 + z` over `2^96 - z`, in 2^-96: twice the first 64 terms of its series. -/
def lnSeries (z : Nat) : Nat :=
  2 * ((List.range 64).foldl (fun (a : Nat × Nat) k => (a.1 + a.2 / (2 * k + 1), a.2 * z / 2 ^ 96 * z / 2 ^ 96)) (0, z)).1

/-- The natural logarithm of a number of at least 1, well below 2^-64 from it. -/
def lnUp (x : Rat) : Rat :=
  let e := Nat.log2 x.floor.toNat
  let m := x / 2 ^ e
  let z := ((m - 1) / (m + 1) * 2 ^ 96).floor.toNat
  ((e * lnSeries (2 ^ 96 / 3) + lnSeries z : Nat) : Rat) / 2 ^ 96

/-- The crystal's error in 0.1 ppb by the loaded AGEMODEL record: f(t) and the temperature term c1 ΔT + c2 ΔT² at TS36; none
without a record whose numbers give a value. -/
def ageModel (s : State) : Option Rat := do
  let r ← s.nvm.loaded.find? (fun r => r.typ.toNat == 3)
  let a ← binary32 (payWord r.payload 0)
  let b ← binary32 (payWord r.payload 1)
  let t0 ← binary32 (payWord r.payload 2)
  let tr ← binary32 (payWord r.payload 3)
  let c1 ← binary32 (payWord r.payload 4)
  let c2 ← binary32 (payWord r.payload 5)
  let t : Rat := getF s F.NVM_POH_H 0
  let dt : Rat := (signed (getF s (F.HKP_X1_T 36) 0) 16 : Rat) / 8 - tr
  if t0 ≤ 0 then none else some (10 * (a * lnUp (1 + t / t0) + b * t + c1 * dt + c2 * dt * dt))

/-- The range of the field XO_AGE. -/
def ageClip (v : Rat) : Rat := max (-524288) (min 524287 v)

/-- `v` is the model's value within a unit of 0.1 ppb, the rounding that R326 leaves open. -/
def ageFits (s : State) (v : Int) : Bool :=
  match ageModel s with
  | some f => decide (ageClip v - ageClip f ≤ 1) && decide (ageClip f - ageClip v ≤ 1)
  | none => true

/-! The feedback ratio (R326, R330, R331). -/

/-- A signed field limited to ±50 ppm, in 0.1 ppb. -/
def ppb10 (s : State) (f : Fld) : Int := max (-500000) (min 500000 (signed (getF s f 0) 20))

/-- The ratio with the crystal as reference, in 2^-32, rounded. -/
def xoRatio (s : State) : Nat :=
  let d := ppb10 s F.CLK_FOFS_F - ppb10 s F.CLK_XO_AGE_F
  ((128 * 2 ^ 32 * (10000000000 + d) + 5000000000) / 10000000000).toNat

/-- The ratio with BCLK as reference. -/
def bclkRatio : Nat := 64 * 2 ^ 32

/-- The ratio of holdover: BCLK as measured against the crystal, with the present XO_AGE (R334). -/
def holdRatio (s : State) : Nat :=
  (128 * 2 ^ 32 + s.clk.beta - roundDiv (128 * 2 ^ 32 * ppb10 s F.CLK_XO_AGE_F) 10000000000).toNat

def mstate (s : State) : Nat := getF s F.CLK_STATE_MSTATE 0
def locked (s : State) : Bool := isSet s F.CLK_COND_LOCKED 0
def onBclk (s : State) : Bool := isSet s F.CLK_STATE_REFACT 0

/-- The reference that REFSEL asks for; true is BCLK. -/
def wantsBclk (s : State) : Bool :=
  match getF s F.CLK_REFCFG_REFSEL 0 with
  | 1 => true
  | 2 => isSet s F.CLK_STATE_BCLK_VALID 0
  | _ => false

/-- BCLK is asked for and may be used. -/
def takesBclk (s : State) : Bool := wantsBclk s && isSet s F.CLK_STATE_BCLK_VALID 0

/-- A change of the ratio waits to be applied as a small step; it replaces one that waits. -/
def wantStep (s : State) (r : Option Nat) : State := { s with clk := { s.clk with want := r } }

/-- The step that ends a holdover: to the ratio of the reference to be acquired; none while BCLK is awaited (R329, R335). -/
def holdTarget (s : State) : Option Nat :=
  if takesBclk s then some bclkRatio else if wantsBclk s then none else some (xoRatio s)

/-- FOFS or, with `age`, XO_AGE has changed: a small step while the crystal counts (R331); in holdover XO_AGE corrects the measured
ratio (R334), or the ratio of the crystal that is being acquired changes. -/
def ratioChanged (s : State) (age : Bool) : State :=
  if mstate s = 3 then
    if takesBclk s then s else if wantsBclk s then (if age then wantStep s (some (holdRatio s)) else s)
    else wantStep s (some (xoRatio s))
  else if mstate s = 0 ∨ onBclk s then s
  else wantStep s (some (xoRatio s))

/-- A happening after which results carry CLKSTEP (R290). -/
def clkStep (s : State) : State := { s with clkSteps := s.clkSteps + 1 }

/-- Results that span this instant carry HOLDOVER (R290). -/
def holdMark (s : State) : State := { s with holds := s.holds + 1 }

/-! Outputs (R333, R336 to R338). -/

/-- Output `k` is on its holdover clock; the bit of a disabled output reads 0. -/
def setOnhold (s : State) (k : Nat) (v : Bool) : State :=
  let v' := v && isSet s (F.CLK_OUTCTL_EN k) 0
  let m := getF s F.CLK_STATE_ONHOLD 0
  setF (setF s (F.CLK_OUTCTL_ONHOLD k) 0 (b2n v')) F.CLK_STATE_ONHOLD 0
    (if v' then m ||| 2 ^ k else if m.testBit k then m - 2 ^ k else m)

def dividing (s : State) (k : Nat) : Bool := Store.get s.clk.divNow (0, 0, 0) k != (0, 0, 0)

/-- Every output goes to its holdover clock. -/
def switchAll (s : State) : State := forAll (List.range 12) s (fun s k => setOnhold s k true)

/-- The MPLL drives its outputs: it is locked or in holdover, and no BSYNC reset is in progress. -/
def drives (s : State) : Bool := (mstate s == 2 || mstate s == 3) && s.clk.reset.isNone

/-- Outputs are switched back to the MPLL; one whose divider is being changed waits for its OUTDIV_CHANGE_DONE (R337). -/
def switchBack (s : State) : State := forAll (List.range 12) s (fun s k => setOnhold s k (!drives s || dividing s k))

/-- The reset divider of output `k` (R336). -/
def resetDiv (k : Nat) : Nat × Nat × Nat := (outDivN k, outDivP k, outDivQ k)

/-- The divider in effect. -/
def effDiv (s : State) (k : Nat) : Nat × Nat × Nat := Store.get s.clk.divEff (resetDiv k) k

/-- The divider of output `k`'s holdover clock, in VCO periods of 6.4 GHz: of the dividers before and after a change the one that gives
the lower frequency (R328). CK5's is the crystal itself, as 128 of them. -/
def holdDiv (s : State) (k : Nat) : Nat × Nat × Nat :=
  let d := effDiv s k
  let n := Store.get s.clk.divNow (0, 0, 0) k
  if dividing s k ∧ (d.1 * d.2.2 + d.2.1) * n.2.2 < (n.1 * n.2.2 + n.2.1) * d.2.2 then n else d

/-- A holdover clock runs: it needs the auxiliary PLL, CK5's the crystal alone (R327, R328). -/
def holdRuns (s : State) (k : Nat) : Bool := if k = 5 then !isSet s F.CLK_COND_XO_FAIL 0 else s.clk.apll

/-- R337: a divider setting that is refused. -/
def divRefused (k n p q : Nat) : Bool :=
  decide (n < 2) || q == 0 || decide (q ≤ p) ||
    (k == 4 && decide (200 * (n * q + p) < 6400 * q)) || (k == 9 && decide (400 * (n * q + p) < 6400 * q))

/-- A write of OUTDIVk for an output whose divider can be changed. -/
def outdivSet (s : State) (k n p q : Nat) : State :=
  if k ≠ 4 ∧ k ≠ 9 then s
  else if divRefused k n p q then raise s .clk 0 E.CLK_DIV_REJECT
  else
    let s1 := setF (setF (setF s (F.CLK_OUTDIV_N k) 0 n) (F.CLK_OUTDIV_P k) 0 p) (F.CLK_OUTDIV_Q k) 0 q
    if dividing s1 k then { s1 with clk := { s1.clk with divWait := Store.put s1.clk.divWait (0, 0, 0) k (n, p, q) } }
    else setOnhold { s1 with clk := { s1.clk with divNow := Store.put s1.clk.divNow (0, 0, 0) k (n, p, q) } } k true

/-- OUTDIV_CHANGE_DONE: the divider in progress takes effect, and one that waits begins. -/
def execOutdivChangeDone (k : Fin 12) (s : State) : Host.Outcome State Fault Refusal :=
  let s := cycle s
  let k := k.val
  .next (if !dividing s k then s
  else
    let w := Store.get s.clk.divWait (0, 0, 0) k
    let s1 := { s with clk := { s.clk with
                  divEff := Store.put s.clk.divEff (resetDiv k) k (Store.get s.clk.divNow (0, 0, 0) k)
                  divNow := Store.put s.clk.divNow (0, 0, 0) k w
                  divWait := Store.put s.clk.divWait (0, 0, 0) k (0, 0, 0) } }
    if w = (0, 0, 0) then setOnhold s1 k (!drives s1) else s1)

/-- A write of OUTCTLk has changed EN: an enabled output starts on the clock that its fellows use. -/
def outEnSet (s : State) (k : Nat) : State := setOnhold s k (!drives s || dividing s k)

/-- OUTPUT_DELAY_STEP (R338): the delay of output `k` moves one step towards DLY. -/
def execOutputDelayStep (k : Fin 12) (s : State) : Host.Outcome State Fault Refusal :=
  let s := cycle s
  let d := getF s (F.CLK_OUTCTL_DLY k.val) 0
  let x := Store.get s.clk.dly 0 k.val
  let y := if x < d then x + 1 else if d < x then x - 1 else x
  .next { s with clk := { s.clk with dly := Store.put s.clk.dly 0 k.val y } }

/-! Lock (R332, R333). -/

/-- R360: a calibration in progress fails. -/
def xcalFail (s : State) : State :=
  raise (setF (setF s F.BGL_STATE_XCAL_BUSY 0 0) F.BGL_XCALCTL_GO 0 0) .bgl 0 E.BGL_XCAL_FAIL

def xcalBreak (s : State) : State := if isSet s F.BGL_STATE_XCAL_BUSY 0 then xcalFail s else s

/-- The LFSR is loaded from SEED and the modulator starts anew, so that modules of equal seeds run alike from there (R330). -/
def loadLfsr (s : State) : State :=
  { s with clk := { s.clk with lfsr := let v := getF s F.CLK_SEED_S 0; if v = 0 then 1 else BitVec.ofNat 32 v
                               mash := { upTo := s.bdn } } }

/-- The LFSR's next state: taps 32, 22, 2 and 1, shifted towards the least significant bit. -/
def lfsrNext (l : BitVec 32) : BitVec 32 := (l >>> 1) ||| ((l ^^^ (l >>> 10) ^^^ (l >>> 30) ^^^ (l >>> 31)) <<< 31)

/-- One reference cycle of the modulator at the ratio `r` (R330). -/
def modCycle (s : State) (r : Nat) : State :=
  let m := s.clk.mash
  let dither : Nat := if isSet s F.CLK_DITHER_EN 0 then b2n (s.clk.lfsr.getLsbD 0) else 0
  let a1 := m.e1.toNat + r % 2 ^ 32 + dither
  let a2 := m.e2.toNat + a1 % 2 ^ 32
  let a3 := m.e3.toNat + a2 % 2 ^ 32
  let c (a : Nat) : Int := (a / 2 ^ 32 : Nat)
  let y : Int := c a1 + (c a2 - b2n m.c2) + (c a3 - 2 * b2n m.c3 + b2n m.c3z)
  { s with clk := { s.clk with
      lfsr := lfsrNext s.clk.lfsr
      mash := { m with e1 := BitVec.ofNat 32 a1, e2 := BitVec.ofNat 32 a2, e3 := BitVec.ofNat 32 a3, c2 := decide (2 ^ 32 ≤ a2)
                       c3 := decide (2 ^ 32 ≤ a3), c3z := m.c3, n := (r / 2 ^ 32 : Nat) + y } } }

/-- The modulator after a jump of the count, whose reference cycles were not followed: free values (log entry 78). -/
def modLost (s : State) (r : Nat) : State :=
  let a := freeW s
  let b := freeW a.2
  let c := freeW b.2
  let l := freeW c.2
  let c2 := freeB l.2
  let c3 := freeB c2.2
  let cz := freeB c3.2
  let y := freeW cz.2
  { y.2 with clk := { y.2.clk with
      lfsr := l.1
      mash := { e1 := a.1, e2 := b.1, e3 := c.1, c2 := c2.1, c3 := c3.1, c3z := cz.1
                n := (r / 2 ^ 32 : Nat) + (y.1.toNat % 8 : Nat) - 3, upTo := y.2.bdn - 1 } } }

/-- The reference cycle in ticks of CK0: 20 ns of the crystal, 10 ns of BCLK. -/
def refTicks (s : State) : Nat := if onBclk s then 16 else 32

/-- The Bourdon count has advanced by one tick: the modulator makes the reference cycle that ends there (R330). -/
def modTick (s : State) : State :=
  match s.clk.fb with
  | none => s
  | some r =>
    let s1 := if s.clk.mash.upTo + 1 = s.bdn then s else modLost s r
    let s2 := if s.bdn.toNat % refTicks s = 0 then modCycle s1 r else s1
    { s2 with clk := { s2.clk with mash := { s2.clk.mash with upTo := s.bdn } } }

/-- An acquisition begins on reference `bclk` (R333): slews and PHREM are abandoned, the outputs go to their holdover clocks. -/
def acquire (s : State) (bclk : Bool) : State :=
  let s1 := setF (setF (setF s F.CLK_COND_LOCKED 0 0) F.CLK_STATE_MSTATE 0 1) F.CLK_COND_HOLDOVER 0 0
  let s2 := setF (setF (setF s1 F.CLK_STATE_REFACT 0 (b2n bclk)) F.CLK_STATE_SLEWING 0 0) F.CLK_PHREM_N 0 0
  let s3 := switchAll s2
  clkStep { s3 with clk := { s3.clk with slew := 0, want := none, meas := bclk
                                         fb := some (if bclk then bclkRatio else xoRatio s3) } }

/-- A loss of lock. -/
def loseLock (s : State) : State :=
  if !locked s then s
  else
    let s1 := acquire (if mstate s = 3 then holdMark s else s) (takesBclk s)
    let s2 := raise (addCt s1 F.CLK_UNLOCKCNT_N 0 1) .clk 0 E.CLK_UNLOCK
    xcalBreak (causeOn s2 185 [])

/-- What the MPLL steers by changes to `bclk`; `hold` while it coasts. -/
def steer (s : State) (bclk hold : Bool) : State :=
  setF (setF (setF s F.CLK_STATE_MSTATE 0 (if hold then 3 else 2)) F.CLK_COND_HOLDOVER 0 (b2n hold)) F.CLK_STATE_REFACT 0 (b2n bclk)

/-- BCLK as last measured against the corrected crystal, within ±90 ppm (R334); what was measured is a free value. -/
def measureB (s : State) : State :=
  let u := freeW s
  { u.2 with clk := { u.2.clk with beta := ((u.1.toNat % 98956047 : Nat) : Int) - 49478023 } }

/-- Holdover begins on the ratio in use (R334): the crystal becomes the reference of the phase detector. After BCLK the ratio is the
measured one, which includes a step that waited (R343); from the crystal it stays (R329). The step that ends the holdover waits. -/
def enterHoldover (s : State) : State :=
  let s0 := if onBclk s then (if s.clk.want.isSome then clkStep (measureB s) else measureB s)
    else { s with clk := { s.clk with beta := roundDiv (128 * 2 ^ 32 * ppb10 s F.CLK_FOFS_F) 10000000000 } }
  let s1 := holdMark (steer s0 false true)
  wantStep { s1 with clk := { s1.clk with fb := if onBclk s then some (holdRatio s1) else s1.clk.fb } } (holdTarget s1)

/-- A locked MPLL leaves its reference; without an edge of the crystal it cannot coast and loses lock (R327). -/
def leaveRef (s : State) : State := if isSet s F.CLK_COND_XO_FAIL 0 then loseLock s else enterHoldover s

/-- R335: a measured phase error of `e` fine-phase steps (625/256 ps each) is judged, and slewed or left for a BSYNC reset. -/
def judgePhase (s : State) (e : Int) : State :=
  let s1 := setF s F.CLK_PHERR_E 0 (unsign e 32)
  let big := decide (256 * getF s F.CLK_PHCFG_THR 0 < 625 * e.natAbs)
  let s2 := raiseIf big s1 .clk 0 E.CLK_PHASE_STEP
  if big && isSet s2 F.CLK_REFCFG_REALIGN_ON_SYNC 0 then setF s2 F.CLK_STATE_REALIGN_WAIT 0 1
  else if e = 0 then s2
  else setF { s2 with clk := { s2.clk with slew := e } } F.CLK_STATE_SLEWING 0 1

/-- Epoch frames are received and the echo compensation is valid, so the phase is taken against the aligned edge (R335). -/
def framed (s : State) : Bool := isSet s F.BGL_STATE_SYNC 0 && isSet s F.BGL_STATE_ECHO_VALID 0

/-- A phase modulo the BCLK period of 4,096 fine-phase steps, the shorter way. -/
def wrapPhase (e : Int) : Int := (e + 2048) % 4096 - 2048

/-- R335: a phase error that waits to be measured is taken modulo the BCLK period where no frames serve; what is measured is a free
value. Where frames serve, the next used one measures it. -/
def phaseDue (s : State) : State :=
  if s.clk.meas && onBclk s && mstate s = 2 && !framed s then
    let u := freeW s
    judgePhase { u.2 with clk := { u.2.clk with meas := false } } (wrapPhase u.1.toNat)
  else s

/-- A long window of the lock count has ended with the difference `d` (R332). -/
def lockWindow (s : State) (d : BitVec 16) : State :=
  let s1 := setF s F.CLK_LKDIFF_D 0 d.toNat
  if 8 < d.toNat then loseLock s1 else s1

/-- MPLL_UNLOCK: a window of the lock count ends; more than 8 in a long one, more than 16 in a short one lose lock. -/
def execMpllUnlock (diff : LockWindow) (s : State) : Host.Outcome State Fault Refusal :=
  let s := cycle s
  .next (if mstate s = 0 then s
  else match diff with
    | .long d => lockWindow s d
    | .short d => if 16 < d.toNat then loseLock s else s)

/-- Lock is declared (R332, R333): an acquisition ends, the outputs return to the MPLL. REFSEL may ask for the other reference. -/
def declareLock (s : State) : State :=
  let s2 := raise (addCt s F.CLK_LOCKCNT_N 0 1) .clk 0 E.CLK_LOCK
  if mstate s ≠ 1 then s2
  else
    let s3 := setF (setF (setF s2 F.CLK_COND_LOCKED 0 1) F.CLK_STATE_MSTATE 0 2) F.CLK_REFCFG_RELOCK 0 0
    let s4 := causeOff (clkStep (loadLfsr (switchBack { s3 with clk := { s3.clk with first := true } }))) 185
    if getF s4 F.CLK_REFCFG_REFSEL 0 = 1 ∧ !onBclk s4 then enterHoldover s4 else phaseDue s4

/-- MPLL_LOCK: four long windows in a row; lock is declared when all agree within 2. Nothing locks to a crystal that shows no edge
(R327, R343). -/
def execMpllLock (diff : LockWindows) (s : State) : Host.Outcome State Fault Refusal :=
  let s := cycle s
  let l := [diff.d0, diff.d1, diff.d2, diff.d3]
  .next (if mstate s = 0 then s
  else
    let s1 := l.foldl lockWindow s
    if l.any (fun d => decide (2 < d.toNat)) ∨ mstate s = 3 ∨ (!onBclk s ∧ isSet s F.CLK_COND_XO_FAIL 0) then s1
    else declareLock s1)

/-- REFCFG.RELOCK (R333). -/
def relockGo (s : State) : State :=
  if mstate s = 0 then s
  else xcalBreak (setF (acquire (if mstate s = 3 then holdMark s else s) (takesBclk s)) F.CLK_REFCFG_RELOCK 0 1)

/-- REFSEL has been written (R329, R343): a locked MPLL goes into holdover on the old reference and acquires the new one from there. -/
def refselSet (s : State) : State :=
  match mstate s with
  | 0 => s
  | 1 => acquire s (takesBclk s)
  | 2 => if wantsBclk s = onBclk s then s else leaveRef s
  | _ => wantStep s (holdTarget s)

/-! The crystal (R327). -/

/-- XO_FAIL: no crystal edge for 1 µs. -/
def execXoFail (s : State) : Host.Outcome State Fault Refusal :=
  let s := cycle s
  .next (if isSet s F.CLK_COND_XO_FAIL 0 then s
  else
    let s1 := setF (setF { s with clk := { s.clk with apll := false } } F.CLK_COND_XO_FAIL 0 1) F.CLK_STATE_XO_RC 0 1
    let s2 := causeOn (raise s1 .clk 0 E.CLK_XO_FAIL) 184 []
    if !onBclk s2 || mstate s2 = 3 then loseLock s2 else s2)

/-- XO_AGE_UPDATE (R326): the firmware writes the ageing model's value to XO_AGE when it has changed by at least 1 ppb. -/
def execXoAgeUpdate (v : Int) (s : State) : Host.Outcome State Fault Refusal :=
  let s := cycle s
  .next (if nvmReady s && ageFits s v && decide (10 ≤ (v - signed (getF s F.CLK_XO_AGE_F 0) 20).natAbs) then
    ratioChanged (setF s F.CLK_XO_AGE_F 0 (unsign (max (-524288) (min 524287 v)) 20)) true
  else s)

/-! BCLK (R334, R335). -/

/-- BCLK may be used no longer: where it is the reference, the MPLL coasts, or loses lock where the crystal shows no edge; an
acquisition starts again on the crystal; a holdover awaits it no more, or goes on to the crystal. -/
def dropBclk (s : State) : State :=
  if mstate s = 3 then (if s.clk.want = some bclkRatio then wantStep s (holdTarget s) else s)
  else if !onBclk s then s
  else if mstate s = 1 then acquire s false
  else if mstate s = 2 then leaveRef s
  else s

/-- BCLK_LOSS: four periods without an edge. -/
def execBclkLoss (s : State) : Host.Outcome State Fault Refusal :=
  let s := cycle s
  .next (if !isSet s F.CLK_COND_BCLK_PRESENT 0 then s
  else
    let s1 := setF (setF { s with clk := { s.clk with lost := true } } F.CLK_COND_BCLK_PRESENT 0 0) F.CLK_STATE_BCLK_VALID 0 0
    dropBclk (hubSource (raise s1 .clk 0 E.CLK_REFLOST) 0x706 true))

/-- BCLK_QUALIFIED: four windows of BCLK have been compared with the crystal. Where it returns as the reference of a locked MPLL, the
phase is measured: whole ticks count where frames serve, else it is taken modulo the BCLK period (R335). -/
def execBclkQualified (bofs pherr : Int) (s : State) : Host.Outcome State Fault Refusal :=
  let s := cycle s
  let s0 := hubSource (setF (setF { s with clk := { s.clk with lost := false } } F.CLK_COND_BCLK_PRESENT 0 1) F.CLK_LKDIFF_BOFS 0
      (unsign bofs 16)) 0x706 false
  .next (if 900 < bofs.natAbs then dropBclk (raise (setF s0 F.CLK_STATE_BCLK_VALID 0 0) .clk 0 E.CLK_REF_BAD)
  else
    let s1 := raise (setF s0 F.CLK_STATE_BCLK_VALID 0 1) .clk 0 E.CLK_REFBACK
    if !wantsBclk s1 then s1
    else match mstate s1 with
      | 0 => s1
      | 1 => if onBclk s1 then s1 else acquire s1 true
      | _ =>
        if onBclk s1 && mstate s1 = 2 then s1
        else
          let s2 := wantStep (holdMark (steer s1 true false)) (some bclkRatio)
          judgePhase { s2 with clk := { s2.clk with meas := false } } (if framed s1 then pherr else wrapPhase pherr))

/-- A holdover ends as the ratio of the reference asked for has been reached; BCLK's phase is then to be measured (R329, R335). -/
def endHoldover (s : State) : State :=
  if mstate s ≠ 3 ∨ (wantsBclk s ∧ !takesBclk s) then s
  else
    let s1 := holdMark (steer s (takesBclk s) false)
    if takesBclk s then phaseDue { s1 with clk := { s1.clk with meas := true } } else s1

/-- SMALL_STEP (R331): the waiting change is applied, no sooner than 10 µs after the step before it. -/
def execSmallStep (s : State) : Host.Outcome State Fault Refusal :=
  let s := cycle s
  .next (match s.clk.want with
    | some r =>
      let s1 := match s.clk.stepT with | some t => reach s (t + ticks 16000) | none => s
      endHoldover (clkStep { s1 with clk := { s1.clk with fb := some r, want := none, stepT := some (now s1) } })
    | none => s)

/-! Phase control (R335, R339). -/

/-- One step towards zero. -/
def towards (v : Int) : Int := if 0 < v then v - 1 else if v < 0 then v + 1 else 0

/-- PHASE_SLEW_STEP: the slew in progress and the steps of PHSTEP each make one step. -/
def execPhaseSlewStep (s : State) : Host.Outcome State Fault Refusal :=
  let s := cycle s
  let rem := signed (getF s F.CLK_PHREM_N 0) 16
  .next (if s.clk.slew = 0 ∧ rem = 0 then s
  else
    let s1 := setF s F.CLK_PHREM_N 0 (unsign (towards rem) 16)
    let s2 := if s.clk.slew = 0 then s1
      else
        let e := towards s.clk.slew
        let pe := signed (getF s F.CLK_PHERR_E 0) 32
        let s2 := setF { s1 with clk := { s1.clk with slew := e } } F.CLK_PHERR_E 0
          (unsign (if 0 < s.clk.slew then pe - 1 else pe + 1) 32)
        if e = 0 then raise (setF s2 F.CLK_STATE_SLEWING 0 0) .clk 0 E.CLK_SLEW_DONE else s2
    clkStep s2)

/-- PHSTEP.GO. -/
def phstepGo (s : State) : State :=
  setF s F.CLK_PHREM_N 0 (unsign (signed (getF s F.CLK_PHREM_N 0) 16 + signed (getF s F.CLK_PHSTEP_N 0) 16) 16)

/-! Spans measured in time (R342, R422). -/

/-- Spans of the always-on domain and the collector go on from where they stood as the count steps by `x` (R414, R418, R432, R434). -/
def shiftSpans (s : State) (x : Stamp) : State :=
  { s with
    hkp := { s.hkp with earlyT := s.hkp.earlyT + x, capT := s.hkp.capT + x }
    nvm := { s.nvm with fltStamps := s.nvm.fltStamps.map (· + x) }
    flts := s.flts.map (fun e => (e.1, { e.2 with goneT := e.2.goneT + x, recs := e.2.recs.map (· + x) })) }

/-! Time starts passed over (R340, R342). -/

/-- Time starts of ARMED polders at or after `t0` that have passed at `t1` are taken late, at `t1`. -/
def passStarts (s : State) (t0 t1 : Stamp) : State :=
  forAll (List.range 64) s (fun s p =>
    match (polOf s p).bind with
    | some b =>
      let a := bndAnchor s b
      if rsOf s p == .armed && getF s F.POL_START_STARTSEL a == 2 && (polOf s p).late.isNone
          && !earlier (startTime s a) t0 && earlier (startTime s a) (firstTick t1) then
        raise (setPol s p { polOf s p with late := some t1 }) .pol p E.POL_LATE_START
      else s
    | none => s)

/-- A polder runs, so the count and the dividers stay (R340, R342, R360). -/
def anyRunning (s : State) : Bool :=
  (List.range 64).any (fun p => rsOf s p == .running || rsOf s p == .paused || rsOf s p == .stopping)

/-- R340: a BSYNC reset begins. -/
def bsyncReset (s : State) : State :=
  let s1 := switchAll s
  clkStep { s1 with clk := { s1.clk with reset := some (now s), slew := 0 } }

/-- REALIGNED: the BSYNC reset ends, 1 µs after it began; time starts within it are taken at its end. -/
def execRealigned (pherr : Int) (s : State) : Host.Outcome State Fault Refusal :=
  let s := cycle s
  .next (match s.clk.reset with
  | none => s
  | some t0 =>
    if 1 < pherr.natAbs then s
    else
      let t1 := t0 + ticks 1600
      let s1 := reach { s with clk := { s.clk with reset := none } } t1
      let s2 := loadLfsr (switchBack s1)
      let s3 := setF (setF (setF s2 F.CLK_STATE_REALIGN_WAIT 0 0) F.BGL_SYNCCTL_REALIGN 0 0) F.CLK_STATE_SLEWING 0 0
      passStarts (raise (setF s3 F.CLK_PHERR_E 0 (unsign pherr 32)) .clk 0 E.CLK_REALIGNED) t0 t1)

/-! The Bourdon counter (R341). -/

/-- EPOCH_WRAP: the count reaches the next multiple of 2^54. -/
def execEpochWrap (s : State) : Host.Outcome State Fault Refusal :=
  let s := cycle s
  .next { s with bdn := BitVec.ofNat 64 (2 ^ 54 * (s.bdn.toNat / 2 ^ 54 + 1)) }

/-- A read of BDN_LO captures the count. -/
def bdnCapture (s : State) : State :=
  setF (setF s F.EVR_BDN_LO_T 0 (s.bdn.toNat % 2 ^ 32)) F.EVR_BDN_HI_T 0 (s.bdn.toNat / 2 ^ 32)

end Sys2Proof.Machine
end

