-- ==== Sys2Proof/Machine/Router.lean ====
section
/-! DEFINITION. The event router: arrival, muting, prompt and ordered delivery, the host ring, the Bugle output lines
(R296 to R319, R356). -/

namespace Sys2Proof.Machine

/-! States and lines. -/

/-- The state of a source as prompt destinations see it, and as ordered destinations see it. -/
def promptOf (s : State) (src : Nat) : Bool := Store.get s.rtr.prompt false src
def orderedOf (s : State) (src : Nat) : Bool := Store.get s.rtr.ordered false src

/-- R310: the ordering hold. -/
def holdH : Stamp := 157287

/-- The first tick at or after `t` is reached. -/
def reachUp (s : State) (t : Stamp) : State := reach s (t + 1023)

/-- The Levee monitors (R297). -/
def isMon (src : Nat) : Bool := decide (0x200 ≤ src) && decide (src < 0x620)

/-- The level that Bugle output `k` follows (R315). -/
def lineLevel (s : State) (k : Nat) : Bool :=
  let src := getF s (F.EVR_BOUT_SRC k) 0
  isSet s (F.EVR_BOUT_EN k) 0 &&
    (if isSet s (F.EVR_BOUT_ORD k) 0 then orderedOf s src else promptOf s src) == isSet s (F.EVR_BOUT_POL k) 0

def lineOf (s : State) (k : Nat) : Bool := Store.get s.bgl.lines false k

/-- The stamp at which line `k` last rose. -/
def roseOf (s : State) (k : Nat) : Option Stamp := Store.get s.bgl.rose none k

/-- Line `k` takes level `v`; a rise is stamped. -/
def driveLine (s : State) (k : Nat) (v : Bool) : State :=
  { s with bgl := { s.bgl with
      lines := Store.put s.bgl.lines false k v
      rose := if v && !lineOf s k then Store.put s.bgl.rose none k (some (now s)) else s.bgl.rose } }

/-- The level of pin BTRIG_OUTk: a high level shorter than 16 ticks is widened to 16 ticks; EN = 0 holds the line low (R315). -/
def linePin (s : State) (k : Nat) : Bool :=
  lineOf s k || isSet s (F.EVR_BOUT_EN k) 0 && (match roseOf s k with | some r => earlier (now s) (r + ticks 16) | none => false)

/-- Line `k` is timed (R351, R356). -/
def timedLine (s : State) (k : Nat) : Bool :=
  getF s F.BGL_STATE_VER 0 == 2 && (getF s F.BGL_HUBDLY_TTIMED 0).testBit k

/-- R355: TLAT. -/
def tlat : Stamp := ticks 256

/-- R356: the instant at which a change of source stamp `t` is launched so that it reaches the hub at `t` + TLAT. -/
def launchT (s : State) (t : Stamp) : Stamp :=
  t + tlat - (BitVec.ofNat 64 (getF s F.BGL_DCOMP_D 0) - BitVec.ofNat 64 (getF s F.BGL_RXDLY_D 0))

/-- R315, R356: the output follows its source; a change by an event stamped `t` is held on a timed line. -/
def lineEvent (s : State) (k : Nat) (t : Stamp) : State :=
  let v := lineLevel s k
  let q := s.bgl.held.filter (·.line == k)
  let cur := match q.getLast? with | some h => h.level | none => lineOf s k
  if v == cur then s
  else if timedLine s k then
    if earlier (launchT s t) (now s) then
      let s1 := { s with bgl := { s.bgl with held := s.bgl.held.filter (·.line != k) } }
      raise (addCt (driveLine s1 k v) F.BGL_TLATECNT_N 0 1) .bgl 0 E.BGL_TLATE
    else { s with bgl := { s.bgl with held := s.bgl.held ++ [{ line := k, stamp := t, level := v }] } }
  else driveLine { s with bgl := { s.bgl with held := s.bgl.held.filter (·.line != k) } } k v

/-- Every output of class `ord` that names the source follows an event. -/
def linesEvent (s : State) (src : Nat) (ord : Bool) (t : Stamp) : State :=
  forAll (List.range 4) s (fun s k =>
    if getF s (F.EVR_BOUT_SRC k) 0 == src && isSet s (F.EVR_BOUT_ORD k) 0 == ord then lineEvent s k t else s)

/-- A write of BOUTk: the line takes the level that its new configuration gives. -/
def lineConfig (s : State) (k : Nat) : State :=
  driveLine { s with bgl := { s.bgl with held := s.bgl.held.filter (·.line != k) } } k (lineLevel s k)

/-! Fault routes (R316, R416). -/

/-- The cause of route `k` is present while the delivered state of its source equals POL. -/
def refreshRoute (s : State) (k : Nat) : State :=
  let src := getF s (F.EVR_FROUT_SRC k) 0
  let on := isSet s (F.EVR_FROUT_EN k) 0 && !(decide (0x780 ≤ src) && decide (src ≤ 0x7FF)) &&
    promptOf s src == isSet s (F.EVR_FROUT_POL k) 0
  if on == (fltOf s (168 + k)).hw then s else if on then causeOn s (168 + k) [] else causeOff s (168 + k)

/-! Prompt destinations (R309). -/

/-- Latches of every binding that name the event (R202, R217). -/
def latchEvent (s : State) (src : Nat) (pol : Bool) : State :=
  forAll (List.range 20) s (fun s b => forAll (List.range 15) s (fun s i =>
    if cmapMode s b (i + 1) && cmapSrc s b (i + 1) == src && cmapPol s b (i + 1) == pol then setLatch s b (i + 1) else s))

/-- Start conditions of ARMED polders that the event meets (R65); none during a BSYNC reset (R340). -/
def startEvent (s : State) (src : Nat) (pol : Bool) (t : Stamp) : State :=
  if s.clk.reset.isSome then s
  else forAll (List.range 64) s (fun s p =>
    match (polOf s p).bind with
    | some b =>
      let a := bndAnchor s b
      if rsOf s p == .armed && getF s F.POL_START_STARTSEL a == 1 && getF s F.POL_START_SRC a == src
          && isSet s F.POL_START_POL a == pol && !earlier t (polOf s p).armS then
        setPol s p { polOf s p with startEv := true }
      else s
    | none => s)

/-- Mute timers that the event starts (R306). -/
def muteEvent (s : State) (src : Nat) (pol : Bool) (t : Stamp) : State :=
  forAll (List.range 64) s (fun s p => forAll (List.range 4) s (fun s k =>
    if getF s (F.POL_MT_START k) p == 4 && getF s (F.POL_MT_SRC k) p == src && isSet s (F.POL_MT_POL k) p == pol then
      muteStart s p k t
    else s))

/-- The polder that owns the channel or controller of a monitor. -/
def monPol (s : State) (src : Nat) : Option Nat :=
  if src < 0x600 then owner s ((src - 0x200) / 16) else dsOwner s (src - 0x600)

/-- An event reaches the prompt destinations. It delivers nothing where it does not change the state (R296), unless a TDC
sent it. -/
def deliverPrompt (s : State) (e : Ev) : State :=
  let src := e.src.toNat
  if promptOf s src == e.pol && !e.tdc then s
  else
    let s1 := { s with rtr := { s.rtr with prompt := Store.put s.rtr.prompt false src e.pol } }
    let s2 := startEvent (latchEvent (muteEvent s1 src e.pol e.stamp) src e.pol) src e.pol e.stamp
    let s3 := forAll (List.range 16) s2 (fun s k => if getF s (F.EVR_FROUT_SRC k) 0 == src then refreshRoute s k else s)
    let s4 := linesEvent s3 src false e.stamp
    if isMon src then (match monPol s4 src with | some p => refreshLevee s4 p | none => s4) else s4

/-! Ordered destinations (R309, R317, R318). -/

/-- A record enters the host ring, with LOSS where records before it were dropped. -/
def ringWrite (s : State) (w0 : Stamp) (w1 : Nat) : State :=
  if !isSet s F.EVR_HSCTL_EN 0 then s
  else
    let wr := getF s F.EVR_HSWR_IDX 0
    if (wr + 1) % 4096 = getF s F.EVR_HSRD_IDX 0 then
      let s1 := raise (addCt s F.EVR_HSDROP_N 0 1) .evr 0 E.EVR_HS_DROP
      { s1 with rtr := { s1.rtr with lossNext := true } }
    else
      let v := w0.toNat + 2 ^ 64 * (w1 + 2 ^ 23 * b2n s.rtr.lossNext)
      let s1 := setF (setWide s .evr 0 2 wr (BitVec.ofNat 192 v)) F.EVR_HSWR_IDX 0 (wr + 1)
      { s1 with rtr := { s1.rtr with lossNext := false } }

/-- Word 1 of the record of a router event (R317). -/
def evWord (e : Ev) (late : Bool) : Nat :=
  1 + 2 ^ 4 * e.src.toNat + 2 ^ 16 * b2n e.pol + 2 ^ 17 * e.code.toNat + 2 ^ 21 * b2n e.muted + 2 ^ 22 * b2n late

/-- Word 1 of the record of a page event (R403). -/
def pageWord (idx bit : Nat) (seq : BitVec 16) : Nat := 2 + 2 ^ 4 * idx + 2 ^ 12 * bit + 2 ^ 24 * seq.toNat

/-- An event reaches the ordered destinations. -/
def deliverOrdered (s : State) (e : Ev) (late : Bool) : State :=
  let src := e.src.toNat
  if orderedOf s src == e.pol && !e.tdc then s
  else
    let s1 := { s with rtr := { s.rtr with ordered := Store.put s.rtr.ordered false src e.pol } }
    let s2 := forAll (List.range 64) s1 (fun s p => routerTrigger s p e (vwiOf s p))
    let s3 := linesEvent s2 src true e.stamp
    if hostSelected s3 src then ringWrite s3 e.stamp (evWord e late) else s3

/-- The deassertion of a pulse, one tick later (R296). -/
def pulseEnd (e : Ev) : Ev := { e with pol := false, pulse := false, stamp := e.stamp + ticks 1 }

/-- An event as prompt destinations see it: a pulse asserts and deasserts. -/
def promptEvent (s : State) (e : Ev) : State :=
  if e.pulse then
    (if promptOf s e.src.toNat then s else deliverPrompt (deliverPrompt s { e with pulse := false }) (pulseEnd e))
  else deliverPrompt s e

def hold (s : State) (h : Held) : State := { s with rtr := { s.rtr with held := s.rtr.held ++ [h] } }

/-- An event is released to the ordered destinations; the deassertion of a pulse waits for its own stamp, but for a late one. -/
def orderedEvent (s : State) (e : Ev) (late : Bool) : State :=
  if e.pulse then
    (if orderedOf s e.src.toNat then s
     else
      let s1 := deliverOrdered s { e with pulse := false } late
      if late then deliverOrdered s1 (pulseEnd e) true else hold s1 (.ev (pulseEnd e)))
  else deliverOrdered s e late

/-! Monitors and Mute windows (R307). -/

/-- The MUTE mask of a monitor. -/
def monMute (s : State) (src : Nat) : Nat :=
  if src < 0x600 then let c := (src - 0x200) / 2; getF s (F.OCT_X8_LVCFG_MUTE (c % 8)) (c / 8)
  else let d := src - 0x600; getF s (F.DSC_LVDS_MUTE (d % 8)) (d / 8)

/-- The polder one of whose windows mutes the monitor at `t`. -/
def mutedBy (s : State) (src : Nat) (t : Stamp) : Option Nat :=
  match monPol s src with
  | none => none
  | some p =>
    if (polOf s p).mute.any (fun e => (monMute s src).testBit e.1 && within e.2.openS e.2.closeS t) then some p else none

/-- A transition of a monitor at its release: muted and counted, or delivered to every destination. -/
def monEvent (s : State) (e : Ev) (late : Bool) : State :=
  match (if e.muted then none else mutedBy s e.src.toNat e.stamp) with
  | some p =>
    let s1 := addCt s F.POL_MUTECNT_N p 1
    setPol s1 p { polOf s1 p with frozen := Store.put (polOf s1 p).frozen none e.src.toNat (some e.pol) }
  | none => deliverOrdered (deliverPrompt s e) e late

/-- The held monitor events stamped `t` start their Mute timers before any event of that stamp is delivered (R309). -/
def startHeld (s : State) (t : Stamp) : State :=
  let l := s.rtr.held.filterMap (fun h => match h with
    | .ev e => if isMon e.src.toNat && e.stamp == t && !e.muted && (mutedBy s e.src.toNat t).isNone
        && promptOf s e.src.toNat != e.pol then some e else none
    | .page .. => none)
  l.foldl (fun s e => muteEvent s e.src.toNat e.pol e.stamp) s

/-- A window of a monitor's mask other than the one that ends at `c` covers `c`. -/
def stillMuted (s : State) (p src : Nat) (c : Stamp) : Bool :=
  (polOf s p).mute.any (fun e => (monMute s src).testBit e.1 && within e.2.openS e.2.closeS c)

/-- A held transition of source `src` stamped `t`. -/
def ownAt (src : Nat) (t : Stamp) : Held → Bool
  | .ev e => e.src.toNat == src && e.stamp == t
  | .page .. => false

/-- A held transition is one that a Mute window's end has sent. -/
def isMuted : Held → Bool
  | .ev e => e.muted
  | .page .. => false

/-- A transition of a monitor is held. One stamped exactly at a close is delivered with its own stamp, in place of the transition
that the end of the window sends (R307). -/
def holdMon (s : State) (e : Ev) : State :=
  hold { s with rtr := { s.rtr with held := s.rtr.held.filter (fun h => !(ownAt e.src.toNat e.stamp h && isMuted h)) } } (.ev e)

/-- A window of polder `p` that closes at `c` ends: each monitor frozen by it whose live state differs sends one transition,
stamped at the close and marked MUTED, unless a transition of its own is stamped there. -/
def muteEnd (s : State) (p k : Nat) (c : Stamp) : State :=
  let x := polOf s p
  let s1 := setPol s p { x with mute := x.mute.filter (fun e => !(e.1 == k && e.2.closeS == c)) }
  x.frozen.foldl (fun s e =>
    match e.2 with
    | some v =>
      if stillMuted s p e.1 c then s
      else
        let y := polOf s p
        let s2 := setPol s p { y with frozen := Store.put y.frozen none e.1 none }
        if promptOf s2 e.1 == v || s2.rtr.held.any (ownAt e.1 c) then s2
        else hold s2 (.ev { src := BitVec.ofNat 12 e.1, pol := v, stamp := c, muted := true })
    | none => s) s1

/-! Order of release (R311, R403). -/

def heldT : Held → Stamp
  | .ev e => e.stamp
  | .page t _ _ _ => t

/-- Rank among equal stamps: router events by source, assertion first, then page events by page and bit. -/
def heldRank : Held → Nat
  | .ev e => e.src.toNat * 2 + b2n (!e.pol)
  | .page _ i b _ => 0x2000 + i * 32 + b

def heldFirst (a b : Held) : Bool :=
  earlier (heldT a) (heldT b) || (heldT a == heldT b && decide (heldRank a < heldRank b))

/-- The held event to be released next. -/
def nextHeld : List Held → Option Held
  | [] => none
  | h :: t => match nextHeld t with
    | none => some h
    | some m => if heldFirst m h then some m else some h

/-- The earliest of the windows of timer `k` still listed. -/
def firstClose (s : State) (p k : Nat) : Option Stamp :=
  ((polOf s p).mute.filter (·.1 == k)).foldl (fun r e => match r with
    | none => some e.2.closeS
    | some c => if earlier e.2.closeS c then some e.2.closeS else some c) none

/-- A Mute window that froze a monitor closes at `t` or before it, and its close has not been judged. -/
def closeOwed (s : State) (t : Stamp) : Bool :=
  s.pols.any (fun e => !e.2.frozen.isEmpty && e.2.mute.any (fun w => !earlier t w.2.closeS))

/-! The commands. -/

/-- ROUTER_EVENT_ARRIVAL (R309, R312, R491): event `k` in flight arrives. -/
def execRouterEventArrival (k : Nat) (s : State) : Host.Outcome State Fault Refusal :=
  let s := cycle s
  .next (match s.rtr.flight[k]? with
    | none => s
    | some e =>
      let s0 := { s with rtr := { s.rtr with flight := s.rtr.flight.eraseIdx k } }
      let s1 := reach s0 e.stamp
      let late := earlier (tickOf (e.stamp + holdH + 1023)) (now s1)
      if late then
        let s2 := raise (addCt s1 F.EVR_LATECNT_N 0 1) .evr 0 E.EVR_LATE
        if isMon e.src.toNat then monEvent s2 e true else orderedEvent (promptEvent s2 e) e true
      else if isMon e.src.toNat then holdMon s1 e
      else hold (promptEvent s1 e) (.ev e))

/-- EVENT_DELIVERY (R310, R311): the earliest held event is released, unless a Mute window closes before it. -/
def execEventDelivery (s : State) : Host.Outcome State Fault Refusal :=
  let s := cycle s
  .next (match nextHeld s.rtr.held with
    | none => s
    | some h =>
      if closeOwed s (heldT h) then s
      else
        let s1 := reachUp s (heldT h + holdH)
        let s2 := startHeld s1 (heldT h)
        let s3 := { s2 with rtr := { s2.rtr with held := s2.rtr.held.erase h } }
        match h with
        | .page t i b q => ringWrite s3 t (pageWord i b q)
        | .ev e => if isMon e.src.toNat then monEvent s3 e false else orderedEvent s3 e false)

/-- MUTE_WINDOW_CLOSE (R307): the window of timer `k` that closes first, once every transition stamped before the close has been
released: with the ordering hold after the close none can be left (R310). -/
def execMuteWindowClose (p : Fin 64) (k : Fin 4) (s : State) : Host.Outcome State Fault Refusal :=
  let s := cycle s
  .next (match firstClose s p.val k.val with
    | none => s
    | some c =>
      let before (e : Ev) : Bool := isMon e.src.toNat && earlier e.stamp c
      let waits := s.rtr.flight.any before || s.rtr.held.any (fun h => match h with
        | .ev e => before e
        | .page .. => false)
      if waits then s else muteEnd (reachUp s (c + holdH)) p.val k.val c)

/-- SUBSCRIPTION_CHANGE (R313): a source that has become subscribed forwards its live state, within the limits of every event. -/
def execSubscriptionChange (src : BitVec 12) (t : Stamp) (s : State) : Host.Outcome State Fault Refusal :=
  let s := cycle s
  let n := src.toNat
  .next (match srcDie n with
    | none => s
    | some d =>
      if isoDie s d || !subscribed s n || liveOf s n == fwdOf s n then s
      else dieEvent s { src := src, pol := liveOf s n, stamp := t })

/-! Host software events (R296, R298, R320). -/

/-- The event that a write of HOSTEVT with ACT `act` orders; its stamp is the present tick. -/
def hostEvent (s : State) (k act code : Nat) : State :=
  let e : Ev := { src := BitVec.ofNat 12 (0xF00 + k % 256), pol := act != 3, pulse := act == 1, stamp := now s,
                  code := BitVec.ofNat 4 code }
  if act % 4 = 0 then s else launch s e

end Sys2Proof.Machine
end

