-- ==== Sys2Proof/Machine/Bugle.lean ====
section
/-! DEFINITION. The Bugle bus: epoch frames, echo and delay compensation, the Bourdon preset, trigger lines, calibration
(R342, R346 to R362). -/

namespace Sys2Proof.Machine

/-! The frame (R348 to R350). -/

/-- Bits `b` to `b + w - 1` of a frame, most significant first; the operand holds bits 24 to 183. -/
def frameF (v : Nat) (b w : Nat) : Nat := bits v (184 - b - w) w

/-- CRC-16 with polynomial 0x1021 and initial value 0xFFFF over frame bits `b` to `b + w - 1`. -/
def crc16 (v b w : Nat) : Nat :=
  (List.range w).foldl (fun c i =>
    let x := (c / 2 ^ 15 + frameF v (b + i) 1) % 2
    let c1 := c * 2 % 2 ^ 16
    if x = 1 then c1 ^^^ 0x1021 else c1) 0xFFFF

/-- R350: the frame is accepted. -/
def frameOk (v : Nat) : Bool :=
  frameF v 24 8 == 0xA5 && crc16 v 24 96 == frameF v 120 16 && frameF v 32 4 != 0

/-- The version a frame asks for, under VMAX (R350, R351). -/
def frameVer (s : State) (v : Nat) : Nat :=
  if getF s F.BGL_BGLCFG_VMAX 0 = 1 then 1 else Nat.min 2 (frameF v 32 4)

def crcbOk (v : Nat) : Bool := crc16 v 136 32 == frameF v 168 16

/-- D (R353). -/
def bglD (s : State) : Stamp := BitVec.ofNat 64 (getF s F.BGL_DCOMP_D 0)

/-- R354: the BSYNC-aligned edge of a frame whose marker edge is at `tm`. -/
def alignedEdge (s : State) (tm : Stamp) : Stamp := tm - bglD s + ticks 4096

/-- R357: source 0x707 and COND.ECHO_BAD. -/
def echoState (s : State) : State :=
  let v := isSet s F.BGL_STATE_SYNC 0 && !isSet s F.BGL_STATE_ECHO_VALID 0
  hubSource (setF s F.BGL_COND_ECHO_BAD 0 (b2n v)) 0x707 v

/-! The preset and the BSYNC reset (R340, R342). -/

/-- The whole count of the tick nearest to stamp `t`. -/
def countAt (s : State) (t : Stamp) : Int :=
  let k := ((t.toNat + 512) / 1024) % 2 ^ 54
  (s.bdn.toNat : Int) + signed (k + 2 ^ 54 - s.bdn.toNat % 2 ^ 54) 54

/-- B − c, signed. -/
def presetD (s : State) (v : Nat) (t : Stamp) : Int := signed (unsign ((frameF v 40 64 : Int) - countAt s t) 64) 64

/-- A phase error is slewed (R335, R342). -/
def startSlew (s : State) (e : Int) : State :=
  if e = 0 then s
  else setF { setF s F.CLK_PHERR_E 0 (unsign e 32) with clk := { s.clk with slew := e } } F.CLK_STATE_SLEWING 0 1

def sat32 (n : Nat) : Nat := Nat.min n (2 ^ 32 - 1)

/-- The count steps forward by `x`: spans that are measured in time go on from where they stood (R331, R340, R352, R358). -/
def stepCount (s : State) (x : Stamp) : State :=
  clkStep { shiftSpans s x with
    bdn := s.bdn + (x >>> 10)
    bgl := { s.bgl with frameT := s.bgl.frameT + x, echoT := s.bgl.echoT.map (· + x) }
    clk := { s.clk with stepT := s.clk.stepT.map (· + x), reset := s.clk.reset.map (· + x) } }

/-- R342; `e` is the phase error on the aligned edge, whole ticks included. -/
def loadPreset (s : State) (d e : Int) : State :=
  if d = 0 then s
  else if anyRunning s then setF s F.CLK_PHERR_E 0 (unsign (256 * d) 32)
  else if d < 0 then
    let s1 := raise (setF s F.EVR_BDNAHEAD_D 0 (sat32 d.natAbs)) .evr 0 E.EVR_BDN_AHEAD
    startSlew (setF s1 F.CLK_STATE_REALIGN_WAIT 0 0) e
  else
    let s1 := stepCount s (ticks d.toNat)
    if d = 1 then s1
    else
      let s2 := addCt (setF s1 F.EVR_BDNFWD_D 0 (sat32 d.toNat)) F.EVR_BDNFWDCNT_N 0 1
      passStarts (raise s2 .evr 0 E.EVR_BDN_FWD) (now s) (now s1)

/-- R340: a reset that is due is made, unless R342 refuses the frame's preset. -/
def bsyncDue (s : State) (d : Int) : State :=
  let due := isSet s F.CLK_STATE_REALIGN_WAIT 0 || isSet s F.BGL_SYNCCTL_REALIGN 0
  if !due || anyRunning s || s.clk.reset.isSome then s
  else if d < 0 then setF s F.BGL_SYNCCTL_REALIGN 0 0
  else bsyncReset s

/-- R335, R343: the phase error left to be measured after a re-lock. -/
def frameMeasure (s : State) (pherr : Int) : State :=
  if s.clk.meas && onBclk s && mstate s = 2 then judgePhase { s with clk := { s.clk with meas := false } } pherr else s

/-- R360: a residual is added to the calibration in progress. -/
def xcalSample (s : State) (r : Int) : State :=
  if isSet s F.BGL_STATE_XCAL_BUSY 0 && decide (s.bgl.xn < Nat.max 1 (getF s F.BGL_XCALCTL_XCALN 0)) then
    { s with bgl := { s.bgl with xn := s.bgl.xn + 1, xsum := s.bgl.xsum + r, xsq := s.bgl.xsq + r.natAbs ^ 2 } }
  else s

/-- The aligned edge `ta` less the tick nearest to it, in fine units (R354, R360). -/
def residOfEdge (ta : Stamp) : Int := (((ta.toNat + 512) % 1024 : Nat) : Int) - 512

/-- R335, R354: the phase error on the aligned edge `ta` in fine-phase steps of 4 fine units: the preset's tick, `d` from the
nearest, less the edge. -/
def phaseError (ta : Stamp) (d : Int) (up : Bool) : Int := (1024 * d - residOfEdge ta + (if up then 3 else 0)) / 4

/-- R354: an accepted frame is used while the echo is valid. The phase error that a load leaves is what is measured. -/
def useFrame (s : State) (v : Nat) (tm : Stamp) (resid : BitVec 4) (pherr : Bool) : State :=
  if !isSet s F.BGL_STATE_ECHO_VALID 0 then s
  else
    let ta := alignedEdge s tm
    let s1 := launch (reachUp s ta) { src := 0x704, pol := true, pulse := true, stamp := ta }
    let d := if frameF v 39 1 = 1 ∧ isSet s1 F.EVR_BDNCTL_PRESET_EN 0 then presetD s1 v ta else 0
    let left := if 0 < d ∧ !anyRunning s1 then 0 else d
    let s2 := frameMeasure (xcalSample s1 (16 * residOfEdge ta + resid.toNat)) (phaseError ta left pherr)
    let s3 := bsyncDue s2 d
    loadPreset s3 d (phaseError ta d pherr)

/-- A marker edge at `tm` is received: with ECHO_EN its echo is awaited and BECHO rises ETURN after it (R352). -/
def markerEdge (s : State) (tm : Stamp) : State :=
  if isSet s F.BGL_BGLCFG_ECHO_EN 0 then
    { s with bgl := { s.bgl with marker := some tm, echoT := some (tm + BitVec.ofNat 64 (getF s F.BGL_ETURN_T 0)) } }
  else { s with bgl := { s.bgl with marker := none } }

/-- The level of the output BECHO: high for 64 ticks (R346, R352). -/
def bechoPin (s : State) : Bool :=
  match s.bgl.echoT with
  | some t => within t (t + ticks 64) (now s)
  | none => false

/-- EPOCH_FRAME. -/
def execEpochFrame (bs : BitVec 160) (tm : Stamp) (resid : BitVec 4) (pherr : Bool) (s : State) :
    Host.Outcome State Fault Refusal :=
  let s := reach (cycle s) tm
  let v := bs.toNat
  .next (if s.clk.lost then s
  else
  let s := markerEdge s tm
  if !frameOk v then raise (addCt s F.BGL_FRAMEERR_N 0 1) .bgl 0 E.BGL_FRAME_ERR
  else
    let want2 := decide (frameVer s v = 2)
    let v2 := want2 && crcbOk v
    let s1 := raiseIf (want2 && !v2) (addCt s F.BGL_FRAMECNT_N 0 1) .bgl 0 E.BGL_FRAME_ERR
    let s2 := setF (setF s1 F.BGL_HLOOP_D 0 (frameF v 104 16)) F.BGL_STATE_VER 0 (if v2 then 2 else 1)
    let s3 := set64 s2 F.BGL_LASTB_LO_B F.BGL_LASTB_HI_B 0 (BitVec.ofNat 64 (frameF v 40 64))
    let s4 := if v2 then
        setF (setF s3 F.BGL_HUBDLY_D 0 (frameF v 136 16)) F.BGL_HUBDLY_TTIMED 0 (frameF v 152 4)
      else s3
    let s5 := setF s4 F.BGL_STATE_SYNC 0 1
    let s6 := if isSet s5 F.BGL_COND_SYNC_LOST 0 then
        hubSource (raise (setF s5 F.BGL_COND_SYNC_LOST 0 0) .bgl 0 E.BGL_SYNC_BACK) 0x705 false
      else s5
    let s7 := { s6 with bgl := { s6.bgl with frameT := now s } }
    useFrame (echoState s7) v tm resid pherr)

/-! The echo (R352, R353). -/

/-- The round trip of an echo whose edges are at `tm` and `te`. -/
def rttOf (s : State) (tm te : Stamp) : Int :=
  signed (te - tm).toNat 64 - getF s F.BGL_ETURN_T 0 - getF s F.BGL_HLOOP_D 0

/-- Within ±100 ps of the mean of `l`: a fine unit is 625/1024 ps. -/
def nearMean (l : List Int) (r : Int) : Bool :=
  l.isEmpty || decide (625 * (r * l.length - l.sum).natAbs ≤ 102400 * l.length)

/-- An accepted round trip. -/
def goodEcho (s : State) (r : Int) : State :=
  let l := (r :: s.bgl.rtts).take 16
  let g := s.bgl.good + 1
  let s1 := { s with bgl := { s.bgl with rtts := l, good := g, bad := 0 } }
  if 16 ≤ g then
    setF (setF s1 F.BGL_STATE_ECHO_VALID 0 1) F.BGL_DCOMP_D 0
      (unsign (roundDiv l.sum 32 + getF s F.BGL_RXDLY_D 0) 18)
  else s1

/-- A missing echo, or one outside the band. -/
def badEcho (s : State) : State :=
  let b := s.bgl.bad + 1
  let s1 := addCt { s with bgl := { s.bgl with bad := b } } F.BGL_ECHOBAD_N 0 1
  if !isSet s1 F.BGL_STATE_ECHO_VALID 0 then { s1 with bgl := { s1.bgl with rtts := [], good := 0 } }
  else if b < 4 then s1
  else
    phaseDue (raise (setF { s1 with bgl := { s1.bgl with rtts := [], good := 0 } } F.BGL_STATE_ECHO_VALID 0 0) .bgl 0 E.BGL_ECHO_BAD)

/-- ECHO_RECEIVE: the echo of the last marker, or none. -/
def execEchoReceive (te : Option Stamp) (s : State) : Host.Outcome State Fault Refusal :=
  let s := cycle s
  .next (match s.bgl.marker with
    | none => s
    | some tm =>
      let s0 := { s with bgl := { s.bgl with marker := none } }
      echoState (match te with
        | none => badEcho s0
        | some t =>
          let s1 := reach s0 t
          let r := rttOf s1 tm t
          if !within (tm + ticks 160) (tm + ticks 256) t then badEcho s1
          else
            let s2 := setF s1 F.BGL_RTT_T 0 (unsign r 18)
            if nearMean s2.bgl.rtts r then goodEcho s2 r else badEcho s2))

/-! Trigger lines (R355, R356). -/

/-- The stamp of a transition received on line `k` at `rx`. -/
def btrigStamp (s : State) (k : Nat) (rx : Stamp) : Stamp :=
  if timedLine s k then rx - bglD s - BitVec.ofNat 64 (getF s F.BGL_HUBDLY_D 0) - tlat else tickOf (rx - bglD s)

/-- BTRIG_IN_TRANSITION: transitions less than 2 ticks apart are merged. -/
def execBtrigInTransition (k : Fin 4) (level : Bool) (rx : Stamp) (s : State) : Host.Outcome State Fault Refusal :=
  let s := reach (cycle s) rx
  let src := 0x700 + k.val
  let t := btrigStamp s k.val rx
  .next (if liveOf s src == level then s
  else
    let s1 := uncorrect (setLive s src level) src t
    let merged := match lastOf s1 src with | some l => within l (l + ticks 2) t | none => false
    if merged then correct (addCt s1 F.EVR_MERGED_N 0 1) src t
    else if fwdOf s1 src == level then s1
    else forwardEv s1 { src := BitVec.ofNat 12 src, pol := level, stamp := t })

/-- TIMED_LAUNCH: the first change held on line `k`. -/
def execTimedLaunch (k : Fin 4) (s : State) : Host.Outcome State Fault Refusal :=
  let s := cycle s
  .next (match s.bgl.held.find? (·.line == k.val) with
    | none => s
    | some h =>
      let s1 := reach s (launchT s h.stamp)
      driveLine { s1 with bgl := { s1.bgl with held := s1.bgl.held.erase h } } k.val h.level)

/-! Loss of BSYNC (R358). -/

/-- SYNC_LOST: no frame has been accepted for SYNCTO. -/
def execSyncLost (s : State) : Host.Outcome State Fault Refusal :=
  let s := cycle s
  .next (if isSet s F.BGL_COND_SYNC_LOST 0 then s
  else
    let s := reach s (s.bgl.frameT + msTicks (Nat.max 1 (getF s F.BGL_BGLCFG_SYNCTO 0)))
    let s1 := owe (setF (setF s F.BGL_COND_SYNC_LOST 0 1) F.BGL_STATE_SYNC 0 0) 186
    phaseDue (xcalBreak (echoState (hubSource (raise s1 .bgl 0 E.BGL_SYNC_LOST) 0x705 true))))

/-! Calibration (R360). -/

/-- XCALCTL.GO. -/
def xcalGo (s : State) : State :=
  if isSet s F.BGL_STATE_SYNC 0 && isSet s F.BGL_STATE_ECHO_VALID 0 && locked s then
    setF (setF { s with bgl := { s.bgl with xn := 0, xsum := 0, xsq := 0 } } F.BGL_STATE_XCAL_BUSY 0 1) F.BGL_XCALCTL_GO 0 1
  else xcalFail s

/-- The rms of the residuals in sixteenths of a fine unit, rounded down or up. -/
def xcalRms (n sq : Nat) (up : Bool) : Nat := let r := Nat.sqrt (sq / n); if up ∧ r * r * n < sq then r + 1 else r

/-- XCAL_DONE: the residuals of XCALN frames have been gathered. -/
def execXcalDone (s : State) : Host.Outcome State Fault Refusal :=
  let s := cycle s
  let n := s.bgl.xn
  .next (if !isSet s F.BGL_STATE_XCAL_BUSY 0 || decide (n < Nat.max 1 (getF s F.BGL_XCALCTL_XCALN 0)) then s
  else
    let mean := roundDiv s.bgl.xsum (16 * n)
    let u := freeB s
    let s1 := setF (setF u.2 F.BGL_XRES_MEAN 0 (unsign mean 16)) F.BGL_XRES_RMS 0 (Nat.min 65535 (xcalRms n s.bgl.xsq u.1))
    if 16384 * n < s.bgl.xsq then xcalFail s1
    else
      let c := -mean + signed (getF s1 F.BGL_XTRIM_T 0) 16
      let s2 := setF (setF s1 F.BGL_MOFS_MOFSC 0 (unsign c 16)) F.BGL_STATE_MOFS_PEND 0 1
      raise (setF (setF s2 F.BGL_STATE_XCAL_BUSY 0 0) F.BGL_XCALCTL_GO 0 0) .bgl 0 E.BGL_XCAL_DONE)

/-- MOFS_APPLY: the candidate is copied in the first hub cycle in which no polder runs. -/
def execMofsApply (s : State) : Host.Outcome State Fault Refusal :=
  let s := cycle s
  .next (if !isSet s F.BGL_STATE_MOFS_PEND 0 || anyRunning s then s
  else
    let s1 := setF (setF s F.BGL_MOFS 0 (getF s F.BGL_MOFS_MOFSC 0)) F.BGL_STATE_MOFS_PEND 0 0
    forAll (List.range 512) s1 applyDeskew)

end Sys2Proof.Machine
end

