-- ==== Sys2Proof/Machine/Polder.lean ====
section
/-! DEFINITION. Polders: formation, the RUNCTL commands, release, the end of STOPPING, stop-on-fail and mask actions
(R54 to R76, R96, R249). -/

namespace Sys2Proof.Machine

/-- R59. -/
def ignored (s : State) (p : Nat) : State := raise s .pol p E.POL_CMD_IGNORED

/-! Forming a polder (R54 to R57, R152). -/

/-- Octet `o` joins polder `p` in its present state. On an isolated die it takes the pin state SAFE, and an IDLE polder stays IDLE
(DESIGN CHOICE, log entry 64: R75 speaks of a polder that has octets on the die as it is isolated). -/
def takeOct (s : State) (p o : Nat) : State :=
  let s1 := setF (setF s F.OCT_STATE_OWNED o 1) F.OCT_STATE_OWNER o p
  let s2 := clearSpace s1 .oct o 5
  if rsOf s2 p == .idle then octIdle s2 o else octSafe s2 o

/-- Octet `o` leaves its polder: it returns to the unowned pin state, and the level queue of the polder empties (R139). -/
def dropOct (s : State) (o : Nat) : State :=
  let s1 := octOff (disconnectOct (match owner s o with | some p => emptyQueue s p | none => s) o) o
  let s2 := octSafe (setF (setF s1 F.OCT_STATE_OWNED o 0) F.OCT_STATE_OWNER o 0) o
  clearSpace s2 .oct o 5

/-- R56: the controllers that bits of `v` name are taken, the others released. DSMAP shows what is owned. -/
def takeDsmap (s : State) (p v : Nat) : State :=
  let s1 := forAll (List.range 32) s (fun s d =>
    match v.testBit d, dsOwner s d with
    | true, none => takeDs s p d
    | true, some q => if q = p then s else raise s .pol p E.POL_OWN_CONFLICT
    | false, some q => if q = p then dropDs s d else s
    | false, none => s)
  refreshLevee (setF s1 F.POL_DSMAP_DS p ((dsOfPol s1 p).foldl (fun n d => n + 2 ^ d) 0)) p

/-- R57: OFF is left for DIKE: an entry to Dike (R68, R74, R271). The controllers taken ramp to FAULT (R73, R136). -/
def form (s : State) (p : Nat) : State :=
  let s1 := dikeBench (dikeRecords (dikeState s p 1) p) p
  let s2 := suspendQueue (emptyQueue (setF s1 F.POL_LQSTAT_LSAPPLIED p 16) p) p true
  let s3 := takeDsmap s2 p (getF s2 F.POL_DSMAP_DS p)
  forAll (dsOfPol s3 p) s3 faultRamp

/-- R57: the polder owns no octet any more. -/
def dissolve (s : State) (p : Nat) : State :=
  let s1 := forAll (dsOfPol s p) s dropDs
  let s2 := setF (setF (setF (setRs s1 p .off) F.POL_STATE_BENCHED p 0) F.POL_RUNCTL_RELEASE p 0) F.POL_RUNCTL_RUN p 0
  let s3 := showPmu (endBurst (emptyQueue s2 p) p) p
  setPol s3 p { polOf s3 p with releasing := false, fails := [], mute := [] }

/-- A write of `v` to OCTMAP_HI when `hi`, to OCTMAP_LO otherwise (R54, R57). -/
def octmapSet (s : State) (p : Nat) (hi : Bool) (v : Nat) : State :=
  let base := if hi then 32 else 0
  let s1 := forAll (List.range 32) s (fun s k =>
    match v.testBit k, owner s (base + k) with
    | true, none => takeOct s p (base + k)
    | true, some q => if q = p then s else raise s .pol p E.POL_OWN_CONFLICT
    | false, some q => if q = p then dropOct s (base + k) else s
    | false, none => s)
  let m := (octsOf s1 p).foldl (fun n o => n + 2 ^ o) 0
  let s2 := setF (setF s1 F.POL_OCTMAP_LO_OCT p (m % 2 ^ 32)) F.POL_OCTMAP_HI_OCT p (m / 2 ^ 32)
  let s3 := if rsOf s2 p == .off then (if m = 0 then s2 else form s2 p)
    else if m = 0 then dissolve s2 p else s2
  refreshLevee (showPmu s3 p) p

/-- A write of DSMAP (R57): in OFF it is only stored. -/
def dsmapSet (s : State) (p v : Nat) : State :=
  if rsOf s p == .off then setF s F.POL_DSMAP_DS p v else takeDsmap s p v

/-! Commands (R59, R60, R62, R64, R67 to R69). -/

/-- R64: a RUN is judged. While a member of the consort still runs, one that passes starts nobody (R69) and sets CMD_IGNORED (DESIGN
CHOICE, log entry 24: R69 says only that it starts no member earlier). -/
def judgeRun (s : State) (p : Nat) : State :=
  let e := armErr s p
  let s1 := setF s F.POL_RUNINFO_ARMERR p e
  if e ≠ 0 then raise s1 .pol p E.POL_ARM_FAIL
  else if running s p then ignored s1 p
  else arm s1 p

/-- RUN written to polder `p` (R62, R64, R67, R69). -/
def cmdRun (s : State) (p : Nat) (scope : Bool) : State :=
  if multi s p && !scope then ignored s p
  else match rsOf s p with
    | .stopping =>
      let go := (consort s p).filter (fun q => rsOf s q == .stopping)
      setF (forAll go s (fun s q => setF s F.POL_STATE_RESTART_PENDING q 1)) F.POL_RUNCTL_RUN p 1
    | .idle | .dike => judgeRun s p
    | _ => ignored s p

/-- A stop command reads 1 on its page until IDLE or DIKE. -/
def showStop (s : State) (p : Nat) (abort : Bool) : State :=
  if (rsOf s p).busy then setF s (if abort then F.POL_RUNCTL_ABORT else F.POL_RUNCTL_STOP) p 1 else s

/-- STOP or ABORT written to polder `p` (R60, R62, R67, R68). -/
def cmdStop (s : State) (p : Nat) (scope abort : Bool) : State :=
  let r := rsOf s p
  if multi s p && !scope then
    if isSet s F.POL_STATE_BENCHED p then ignored s p
    else if r == .stopping then
      (if isSet s F.POL_STATE_RESTART_PENDING p then showStop (cancelRestart s p) p abort else ignored s p)
    else if r.busy then showStop (bench s p) p abort
    else ignored s p
  else
    let act := (active s p).filter (fun q => (rsOf s q).busy)
    if act.isEmpty then ignored s p
    else if act.all (fun q => rsOf s q == .stopping) then
      if act.any (fun q => isSet s F.POL_STATE_RESTART_PENDING q) then showStop (forAll act s cancelRestart) p abort
      else ignored s p
    else showStop (stopAll s p abort) p abort

/-- The binding that the members of the consort of `p` play from. -/
def bindOf (s : State) (p : Nat) : Option Nat := (active s p).findSome? (fun q => (polOf s q).bind)

/-- PAUSE written to polder `p` (R60, R67). -/
def cmdPause (s : State) (p : Nat) (scope : Bool) : State :=
  if multi s p && !scope then ignored s p
  else match bindOf s p with
    | none => ignored s p
    | some b =>
      if (bndMem s b).all (fun q => rsOf s q == .running) then
        let s1 := setBnd s b { bndOf s b with pauseReq := true }
        if (bndMem s b).contains p then setF s1 F.POL_RUNCTL_PAUSE p 1 else s1
      else ignored s p

/-- RESUME written to polder `p` (R60, R67, R186, R189). -/
def cmdResume (s : State) (p : Nat) (scope : Bool) : State :=
  if multi s p && !scope then ignored s p
  else match bindOf s p with
    | none => ignored s p
    | some b =>
      if (bndMem s b).all (fun q => rsOf s q == .paused) then
        if leadOf s b < guardWords s b then
          ignored (forAll (bndMem s b) s (fun s q => setF s F.POL_STATE_PAUSE_CAUSE q 2)) p
        else resumeRun s b
      else ignored s p

/-- Polder `q` can be sent to Dike by a command. -/
def dikeable (s : State) (q : Nat) : Bool := !(rsOf s q == .off) && (!(rsOf s q == .dike) || (polOf s q).releasing)

/-- DIKE written to polder `p` (R60, R67). -/
def cmdDike (s : State) (p : Nat) (scope : Bool) : State :=
  let tgt := (if scope then consort s p else [p]).filter (dikeable s)
  if tgt.isEmpty then ignored s p else forAll tgt s (fun s q => dikeEntry s q 2)

/-- The conditions of R72. -/
def releasable (s : State) (p : Nat) : Bool :=
  !isSet s F.FLT_STATE_EMBANK 0 && !faultActive s p && !faultLatched s p && !(octsOf s p).any (fun o => isoDie s (o / 8))

/-- RELEASE written to polder `p` (R67, R72). -/
def cmdRelease (s : State) (p : Nat) (scope : Bool) : State :=
  let tgt := (if scope then consort s p else [p]).filter (fun q => rsOf s q == .dike)
  if tgt.isEmpty then ignored s p
  else forAll tgt s (fun s q =>
    if releasable s q then
      let s1 := setPol s q { polOf s q with releasing := true }
      if q = p then setF s1 F.POL_RUNCTL_RELEASE p 1 else s1
    else ignored s q)

/-- One write of RUNCTL with the commands of `v` (R59). -/
def runctl (s : State) (p v : Nat) (scope : Bool) : State :=
  let has := [v.testBit 5, v.testBit 2, v.testBit 1, v.testBit 3, v.testBit 4, v.testBit 0, v.testBit 6]
  let s1 := if 2 ≤ (has.filter id).length then ignored s p else s
  if v.testBit 5 then cmdDike s1 p scope
  else if v.testBit 2 then cmdStop s1 p scope true
  else if v.testBit 1 then cmdStop s1 p scope false
  else if v.testBit 3 then cmdPause s1 p scope
  else if v.testBit 4 then cmdResume s1 p scope
  else if v.testBit 0 then cmdRun s1 p scope
  else if v.testBit 6 then cmdRelease s1 p scope
  else s1

/-! Release (R72, R80, R136, R139). -/

/-- The release of a polder takes effect. -/
def releaseNow (s : State) (p : Nat) : State :=
  let s1 := setF (setPol s p { polOf s p with releasing := false }) F.POL_RUNCTL_RELEASE p 0
  if releasable s p then
    raise (releaseQueues (forAll (octsOf s1 p) (setRs s1 p .idle) octIdle) p) .pol p E.POL_DIKE_LEFT
  else ignored s1 p

/-- RELEASE_COMPLETE: a release in progress ends. -/
def execReleaseComplete (p : Fin 64) (s : State) : Host.Outcome State Fault Refusal :=
  let s := cycle s
  .next (if rsOf s p.val == .dike && (polOf s p.val).releasing then releaseNow s p.val else s)

/-! The end of STOPPING (R60 to R62, R68, R69, R247). -/

/-- A conversion ordered by the words of the run is still to come on a channel that can make it (R112, R117). -/
def convOrdered (s : State) (p : Nat) : Bool :=
  (polOf s p).trigs.any (fun x => x.act == .conv) && (pmuChans s p).any (canConvert s)

/-- Nothing that a polder still plays or converts is outstanding. -/
def settled (s : State) (p : Nat) : Bool :=
  (chansOf s p).all (fun c => (chanOf s c).edges.all (·.park)) &&
    ((polOf s p).abortStop || !(converting s p false || converting s p true || convOrdered s p))

/-- The last windows of a member are judged, and its failing vectors, scope samples and TDC stamps become records. -/
def lastItems (s : State) (p : Nat) : State :=
  let x := polOf s p
  let s1 := flushScopes (flushAllFails (forAll (chansOf s p) s (fun s c => winClose s c x.endT)) p) p
  forAll (List.range 8) s1 (drainChans (chansOf s p))

/-- A polder whose last vector has passed closes its records and returns its pins to idle. -/
def finish (s : State) (p : Nat) : State :=
  let s2 := endRec (lastItems s p) p
  let s3 := forAll (octsOf s2 p) (setRs s2 p .idle) octIdle
  endCmds (endRun s3 p (now s3)) p

/-- A benched member that has played its last vector goes to its bench state; it has not been STOPPING, so it shows no DONE. -/
def endBenched (s : State) (p : Nat) : State :=
  if (polOf s p).benchDike then dikeEntry (lastItems s p) p 7 else clearBenched (finish s p) p

/-- The members of a stopping consort: those not benched, and a last member that was benched. -/
def stopGroup (s : State) (p : Nat) : List Nat := (consort s p).filter (fun q => rsOf s q == .stopping)

/-- The members complete; those benched to DIKE enter it, and a restart still pending arms the consort (R62, R69, R70). -/
def endStopping (s : State) (p : Nat) (g : List Nat) : State :=
  let b := g.findSome? (fun q => (polOf s q).bind)
  let toDike := g.filter (fun q => (polOf s q).benchDike)
  let s1 := forAll g s (fun s q => raise (if (polOf s q).benchDike then lastItems s q else finish s q) .pol q E.POL_DONE)
  let s2 := match b with | some b => releaseBnd s1 b | none => s1
  let s3 := clearBenched (forAll toDike s2 (fun s q => dikeEntry s q 7)) p
  let rs := g.filter (fun q => isSet s3 F.POL_STATE_RESTART_PENDING q)
  if rs.isEmpty then s3
  else arm (forAll rs s3 (fun s q =>
    raise (setF (setF s F.POL_STATE_RESTART_PENDING q 0) F.POL_RUNCTL_RUN q 0) .pol q E.POL_RESTART_TAKEN)) p

/-- STOPPING_COMPLETE: of the polder and the members that stop with it, or of a benched member that has played out. -/
def execStoppingComplete (p : Fin 64) (s : State) : Host.Outcome State Fault Refusal :=
  let k := p.val
  let s := pmuDue (pmuNowDue (cycle s)) ((polOf s k).endT + 1)
  let r := rsOf s k
  .next (if r == .stopping then
    let g := stopGroup s k
    if g.all (settled s) then endStopping s k g else s
  else if isSet s F.POL_STATE_BENCHED k && (r == .running || r == .paused) then
    if settled s k then endBenched s k else s
  else s)

/-! Stop-on-fail and mask actions (R96, R249). -/

/-- The action of R96 or R249 on polder `p`: with `one` this member is benched, otherwise its consort stops. In STOPPING, where no
word is left to withhold, a restart is given up as for STOP (R62). -/
def stopOrBench (s : State) (p : Nat) (one : Bool) : State :=
  let who := if one && multi s p then [p].filter (fun q => !isSet s F.POL_STATE_BENCHED q) else active s p
  let act := who.filter (fun q => (rsOf s q).busy)
  if act.isEmpty then s
  else if act.all (fun q => rsOf s q == .stopping) then forAll act s cancelRestart
  else if one && multi s p then bench s p
  else stopAll s p false

/-- STOP_ON_FAIL: the count of failing vectors has reached its limit; the action is taken whatever the run does (R96). -/
def execStopOnFail (p : Fin 64) (s : State) : Host.Outcome State Fault Refusal :=
  let s := cycle s
  let k := p.val
  .next (if (polOf s k).sof then
    let s1 := setPol s k { polOf s k with sof := false }
    raise (stopOrBench s1 k (getF s1 F.POL_FAILCFG_SOF_MODE k == 2)) .pol k E.POL_SOF_TAKEN
  else s)

/-- MASK_ACTION: the first violation of the run takes its action. -/
def execMaskAction (p : Fin 64) (s : State) : Host.Outcome State Fault Refusal :=
  let s := cycle s
  let k := p.val
  .next (match (acqOf s k).maskPend with
    | none => s
    | some t0 =>
      let s1 := setAcq s k { acqOf s k with maskPend := none }
      let s2 := raise (freeze s1 k t0 (vwiOf s1 k)) .acq k E.ACQ_MASK_ACT
      match getF s2 F.ACQ_MASKCFG_MASKACT k with
      | 2 => stopOrBench s2 k false
      | 3 => stopOrBench s2 k true
      | _ => s2)

/-- RECLAIM_DONE (R271). -/
def execReclaimDone (p : Fin 64) (s : State) : Host.Outcome State Fault Refusal :=
  .next (reclaimEnd (cycle s) p.val)

end Sys2Proof.Machine
end

