-- ==== Sys2Proof/Machine/Sampling.lean ====
section
/-! DEFINITION. Timed happenings of the acquisition units and the Sluice pool, streaming mode, the spill ring's read pointer
(R241 to R246, R264, R267, R268). -/

namespace Sys2Proof.Machine

/-- PRE_TRIGGER_FILL_END (R241): at F the unit goes from FILL to READY. -/
def execPreTriggerFillEnd (p : Fin 64) (s : State) : Host.Outcome State Fault Refusal :=
  let s := cycle s
  .next (if getF s F.ACQ_STATE_ASTATE p == 2 then setAstate (reach s (fillEnd s p)) p 3 else s)

/-- AUTO_TIMEOUT (R242): the wait for a trigger ends at F + ATO. -/
def execAutoTimeout (p : Fin 64) (s : State) : Host.Outcome State Fault Refusal :=
  let s := cycle s
  .next (if waiting s p && getF s F.ACQ_ACQCTL_MODE p == 1 then
      forceTrig (reach s (fillEnd s p + ticks (atoTicks s p))) p
    else s)

/-- RECORD_COMPLETE (R245): 4,000 ticks after T + POST the TAIL is written. A record that the end of the run cuts is written by that
(R247). -/
def execRecordComplete (p : Fin 64) (s : State) : Host.Outcome State Fault Refusal :=
  let s := cycle s
  .next (match (acqOf s p).rcd with
    | some w => if beforeEnd (acqOf s p) w.closeS || (acqOf s p).endS == some w.closeS
      then completeRec (reach s (w.closeS + ticks 4000)) p else s
    | none => s)

/-- RETENTION_EXPIRY (R244): items stamped before `t` have been kept for PRE + 6,400 ticks. -/
def execRetentionExpiry (p : Fin 64) (src : Fin 4) (t : Stamp) (s : State) : Host.Outcome State Fault Refusal :=
  let s := cycle s
  .next (if retaining s (4 * p.val + src.val) then
      expire (reach s (t + ticks (getF s F.ACQ_PRE_T p + 6400))) p src t
    else s)

/-- GRANULE_FLUSH_TIMEOUT (R264): a granule FILLING for FLUSHT µs is handed to drain; one with retained items is not. -/
def execGranuleFlushTimeout (k : Fin 256) (s : State) : Host.Outcome State Fault Refusal :=
  let s := cycle s
  .next (match (strmOf s k).fill with
    | some g =>
      if retaining s k && g.hasItem then s
      else handOff (reach s (g.opened + ticks (1600 * Nat.max 1 (getF s F.SLU_SLUCTL_FLUSHT 0)))) k true
    | none => s)

/-- The first whole multiple of 16,384 ticks that the count has not passed (R268). -/
def evalStamp (s : State) : Stamp := ticks (16384 * ((s.bdn.toNat + 16383) / 16384))

/-- R269, R272 for one stream: at a change of its factor the samples being gathered become records with the old one, and the
granule closes. -/
def spwEval (z s : State) (k : Nat) : State :=
  let r := spwNext z s k
  let s0 := setStrm s k { strmOf s k with closed := 0, low := r.1 }
  if r.2 = dflog s k then s0
  else
    let s1 := if strmSrc k = 3 then flushScopes s0 (strmPol k) else s0
    addCt (raise (setDflog s1 k r.2) .slu 0 E.SLU_SPW_STEP) (F.SLU_X3_SPWSTEPS k) 0 1

/-- SPILLWAY_EVALUATION (R268, R269): every stream with SPW_EN is evaluated; the fill of the interval restarts for each. -/
def execSpillwayEvaluation (s : State) : Host.Outcome State Fault Refusal :=
  let s := cycle s
  let z := reach s (evalStamp s)
  .next (forAll (List.range 256) z (fun s k => if cfgSpwEn s k then spwEval z s k else setStrm s k { strmOf s k with closed := 0 }))

/-- A write of ACQCTL (R240, R246, R256): in STREAM mode a change of EN from 0 to 1 restarts the streams and starts recording;
the end of streaming closes the samples gathered. -/
def acqctlSet (s : State) (p : Nat) (en : Bool) (mode : Nat) (strig rtrig : Bool) : State :=
  let stream := en && mode == 3
  let s1 := if streaming s p && !stream then flushScopes s p else s
  let old := isSet s F.ACQ_ACQCTL_EN p
  let s2 := setF (setF (setF (setF s1 F.ACQ_ACQCTL_EN p (b2n en)) F.ACQ_ACQCTL_MODE p mode) F.ACQ_ACQCTL_STRIG p (b2n strig))
    F.ACQ_ACQCTL_RTRIG p (b2n rtrig)
  let s3 := if stream && !old then restartStreams s2 p else s2
  setAstate s3 p (if stream then 7 else if en then 1 else 0)

/-! The spill ring (R267). -/

def spillBase (s : State) : Nat := 512 * getF s F.SLU_SPILLBASE_LO_BASE 0 + 2 ^ 32 * getF s F.SLU_SPILLBASE_HI_BASE 0
def spillLim (s : State) : Nat := 512 * getF s F.SLU_SPILLLIM_LO_LIM 0 + 2 ^ 32 * getF s F.SLU_SPILLLIM_HI_LIM 0
def spillWr (s : State) : Nat := getF s F.SLU_SPILLWR_LO_A 0 + 2 ^ 32 * getF s F.SLU_SPILLWR_HI_A 0
def spillRd (s : State) : Nat := 512 * getF s F.SLU_SPILLRD_LO_A 0 + 2 ^ 32 * getF s F.SLU_SPILLRD_HI_A 0

/-- The pointer after `a`: 512 bytes on, wrapping from SPILLLIM to SPILLBASE. -/
def spillNext (s : State) (a : Nat) : Nat := if spillLim s ≤ a + 512 then spillBase s else a + 512

def spillFull (s : State) : Bool := spillNext s (spillWr s) == spillRd s

/-- R273: SPILL_FULL is set when the ring becomes full. -/
def becameFull (old new : State) : State := raiseIf (!spillFull old && spillFull new) new .slu 0 E.SLU_SPILL_FULL

/-- A write of SPILLRD_HI (`hi`) or SPILLRD_LO: taken where the pointer it makes lies in the ring (R267). -/
def spillrdSet (s : State) (hi : Bool) (v : Nat) : State :=
  let s1 := if hi then setF s F.SLU_SPILLRD_HI_A 0 (bits v 0 8) else setF s F.SLU_SPILLRD_LO_A 0 (bits v 9 23)
  if spillBase s ≤ spillRd s1 ∧ spillRd s1 < spillLim s then becameFull s s1 else raise s .slu 0 E.SLU_SPILLRD_ERR

end Sys2Proof.Machine
end

