-- ==== Sys2Proof/Machine/LinkTrain.lean ====
section
/-! DEFINITION. The ports of the Porhus link: training, sessions and epochs, degrade, retrain, loss of the host (R364 to R370,
R377 to R379, R384 to R387). -/

namespace Sys2Proof.Machine

def portOf (s : State) (p : Nat) : Port := Store.get s.ports {} p
def setPort (s : State) (p : Nat) (x : Port) : State := { s with ports := Store.put s.ports {} p x }

def lstate (s : State) (p : Nat) : Nat := getF s F.PHL_STATE_LSTATE p
def setL (s : State) (p v : Nat) : State := setF s F.PHL_STATE_LSTATE p v

/-- R386: no host port is ACTIVE; a fast retrain does not yet count as loss (as the worked example of the chapter shows). -/
def hostless (s : State) : Bool := ([0, 1] : List Nat).all (fun p => !(hostPort s p && (lstate s p == 6 || lstate s p == 7)))

/-! Lanes. -/

def maskOf (f : Nat → Bool) : Nat := ((List.range 4).map (fun i => if f i then 2 ^ i else 0)).sum

/-- The lanes locked. -/
def locks (s : State) (p : Nat) : Nat := maskOf (fun i => isSet s (F.PHL_LANE_LOCK i) p)

/-- The lanes locked and not failed. -/
def lockMask (s : State) (p : Nat) : Nat :=
  maskOf (fun i => isSet s (F.PHL_LANE_LOCK i) p && !isSet s (F.PHL_LANE_FAILED i) p)

def setLocks (s : State) (p m : Nat) : State :=
  forAll (List.range 4) s (fun s i => setF s (F.PHL_LANE_LOCK i) p (b2n (m.testBit i)))

/-- The lanes of a mask, ascending. -/
def lanesOf (m : Nat) : List Nat := (List.range 4).filter (fun i => m.testBit i)

/-- R369: the width that `n` lanes allow. -/
def widthOf (n : Nat) : Nat := if 4 ≤ n then 4 else if 2 ≤ n then 2 else n

/-- The lowest-numbered lanes of a mask that make up its width (R369). -/
def lowLanes (m : Nat) : Nat :=
  let l := (lanesOf m).take (widthOf (lanesOf m).length)
  maskOf (fun i => l.contains i)

/-! Sessions (R44, R379, R384). -/

/-- The two ports share one session. -/
def sharedSess (s : State) : Bool :=
  (portOf s 1).role == 1 && decide (2 ≤ getF s F.PHL_STATE_VER 0) && decide (2 ≤ getF s F.PHL_STATE_VER 1)

/-- The port whose state holds the session of port `p`, and the pages that show it. -/
def sessPort (s : State) (p : Nat) : Nat := if sharedSess s then 0 else p
def sessPages (s : State) (p : Nat) : List Nat := if sharedSess s then [0, 1] else [p]

def setSess (s : State) (p v : Nat) : State := forAll (sessPages s p) s (fun s q => setF s F.PHL_STATE_SESS q v)
def setEpoch (s : State) (p v : Nat) : State := forAll (sessPages s p) s (fun s q => setF s F.PHL_STATE_EPOCH q v)

/-- The session falls to level `v` at most. -/
def lowerSess (s : State) (p v : Nat) : State := setSess s p (Nat.min v (getF s F.PHL_STATE_SESS (sessPort s p)))

/-- The epoch advances; the cache keeps the epoch that has become the previous one (R380). -/
def nextEpoch (s : State) (p : Nat) : State :=
  let q := sessPort s p
  let e := getF s F.PHL_STATE_EPOCH q
  let x := portOf s q
  setEpoch (setPort s q { x with cache := x.cache.filter (fun c => c.epoch.toNat == e) }) p ((e + 1) % 256)

/-- R384: the roles in force. -/
def showRoles (s : State) : State :=
  let r := (portOf s 1).role
  setF s F.PHL_STATE_ROLE 1 (if r = 2 then 2 else if sharedSess s then 1 else 0)

/-! Training (R368, R369, R391). -/

/-- Entry to DETECT: MAXVER, LOWRATE, LANEEN and ROLE are read. ROM recovery trains PH0 alone, with protocol 1.0 (R446). -/
def enterDetect (s : State) (p : Nat) : State :=
  let rom := isSet s F.SEC_STATE_ROMREC 0
  if rom && p != 0 then s
  else
    let r := if p = 0 then 0 else getF s F.PHL_PHCFG_ROLE p
    let x := { portOf s p with
      cfgVer := if rom then 1 else Nat.max 1 (getF s F.PHL_PHCFG_MAXVER p)
      cfgLow := isSet s F.PHL_PHCFG_LOWRATE p
      cfgLanes := getF s F.PHL_PHCFG_LANEEN p
      role := if r = 3 then 0 else r
      peer := none
      tried := false
      full := 0
      surv := 0
      lanes := 0 }
    let s1 := forAll (List.range 4) (setPort s p x) (fun s i => setF s (F.PHL_LANE_FAILED i) p 0)
    setL (setLocks s1 p 0) p 1

/-- VDD_LINK of the port was in range in the last round (R387, R427). -/
def railOk (s : State) (p : Nat) : Bool := !s.hkp.rails.contains (14 + p)

/-- PHY_READY (R387, R443): after the channel dies are initialised the firmware has initialised the PHYs; each port that is DOWN and
whose VDD_LINK was in range in the last round enters DETECT. ROM recovery does it for PH0 (R446). -/
def execPhyReady (s : State) : Host.Outcome State Fault Refusal :=
  let s := cycle s
  .next (if isSet s F.DEV_STATE_MAINPWR 0 && (decide (2 ≤ getF s F.DEV_STATE_BOOT 0) || isSet s F.SEC_STATE_ROMREC 0) then
    forAll [0, 1] { s with pwr := { s.pwr with phy := true } } (fun s p =>
      if lstate s p == 0 && railOk s p then enterDetect s p else s)
  else s)

/-! Block lock (R365). -/

/-- A valid sync header: data or control. -/
def validSync (h : BitVec 2) : Bool := h == 1 || h == 2

/-- 64 consecutive valid headers lock a lane. -/
def locksOn (l : List (BitVec 2)) : Bool := decide (64 ≤ l.length) && (l.drop (l.length - 64)).all validSync

/-- 16 invalid headers in a window of 64 lose the lock. -/
def losesLock (w : List (BitVec 2)) : Bool := w.length == 64 && decide (16 ≤ (w.filter (fun h => !validSync h)).length)

/-- A lane fails by loss of block lock or by two ALIGN blocks missed in a row (R378). -/
def lossFails : LossWhy → Bool
  | .headers w => losesLock w
  | .aligns n => decide (2 ≤ n)

/-- The lanes that a fast retrain locks again: those that survive, or all that were in use when none does (R378, R390). -/
def relocks (s : State) (p : Nat) : Nat :=
  if (portOf s p).lanes = 0 then getF s F.PHL_STATE_LANEMAP p else (portOf s p).lanes

/-- LANE_BLOCK_LOCK (R365, R368): a lane that LANEEN allows locks at the rate of the state. -/
def execLaneBlockLock (port : Fin 2) (lane : LaneSync) (s : State) : Host.Outcome State Fault Refusal :=
  let s := cycle s
  let p := port.val
  let x := portOf s p
  let sync := lane
  let lane := lane.lane
  let lock (s : State) : State := setF s (F.PHL_LANE_LOCK lane) p 1
  .next (if !locksOn sync.hdrs || !x.cfgLanes.testBit lane then s
    else match lstate s p with
      | 1 => if x.cfgLow then s else setF (setL (lock s) p 3) F.PHL_STATE_RATE p 0
      | 2 => setF (setL (lock s) p 3) F.PHL_STATE_RATE p 1
      | 3 => lock s
      | 7 => if (relocks s p).testBit lane then lock s else s
      | _ => s)

/-- A fast retrain starts (R378): rate, width and version are kept, the lanes in use lock again; a degrade that has not been done is
done with it (R390). -/
def startRetrain (s : State) (p : Nat) : State :=
  if portActive s p then setL (setLocks (setPort s p { portOf s p with peer := none }) p 0) p 7 else s

/-- The TS block that the port sends on a lane (R367). -/
def ownTs (s : State) (p : Nat) (lane : Fin 4) : BitVec 56 :=
  tsWord { lane := BitVec.ofNat 3 lane, rate := isSet s F.PHL_STATE_RATE p, maxver := BitVec.ofNat 2 (portOf s p).cfgVer
           role := BitVec.ofNat 2 (portOf s p).role, lmask := BitVec.ofNat 4 (lockMask s p)
           epoch := BitVec.ofNat 8 (getF s F.PHL_STATE_EPOCH p), nrxseq := (portOf s p).rxSeq
           hops := BitVec.ofNat 3 (getF s F.PHL_STATE_HOPS 0), rt := lstate s p == 7 }

/-- TS_BLOCK (R367): the fields of the far end. In ACTIVE, a block with RT = 1 draws the port into the fast retrain that the far
end has started (R378). -/
def execTsBlock (port : Fin 2) (ts : BitVec 56) (s : State) : Host.Outcome State Fault Refusal :=
  let s := cycle s
  let p := port.val
  let ts := tsOf ts
  let s1 := if portActive s p && ts.rt then startRetrain s p else s
  .next (if lstate s1 p == 0 || lstate s1 p == 6 then s1 else setPort s1 p { portOf s1 p with peer := some ts })

/-- The lanes locked at both ends at the present rate (R369). -/
def commonLanes (s : State) (p : Nat) : Nat :=
  match (portOf s p).peer with
  | some ts => if b2n ts.rate == getF s F.PHL_STATE_RATE p then lockMask s p &&& ts.lmask.toNat else 0
  | none => 0

/-- A trial at 10.3125 GBd is under way (R369, step 2). -/
def onTrial (x : Port) : Bool := x.tried && x.full != 0

/-- Back to LOCK at 25.78125 GBd with the lanes that had locked there. -/
def endTrial (s : State) (p : Nat) : State :=
  let x := portOf s p
  setL (setF (setLocks (setPort s p { x with full := 0 }) p x.full) F.PHL_STATE_RATE p 0) p 3

/-- The end of LOCK: the choice of R369. -/
def lockEnd (s : State) (p : Nat) : State :=
  let x := portOf s p
  let n := (lanesOf (commonLanes s p)).length
  if isSet s F.PHL_STATE_RATE p then
    (if onTrial x then (if n = 4 then setL s p 4 else endTrial s p) else if 1 ≤ n then setL s p 4 else enterDetect s p)
  else if 2 ≤ n then setL s p 4
  else if n = 1 then
    (if x.tried then setL s p 4
     else setL (setLocks (setPort s p { x with tried := true, full := lockMask s p }) p 0) p 2)
  else enterDetect s p

/-- TRAINING_STATE_TIMEOUT (R368): 2 ms of DETECT or RATE, 500 µs of LOCK, or 10 ms of training. A port that is DOWN with the PHY
ready and VDD_LINK in range enters DETECT (R387). -/
def execTrainingStateTimeout (port : Fin 2) (s : State) : Host.Outcome State Fault Refusal :=
  let s := cycle s
  let p := port.val
  .next (match lstate s p with
    | 0 => if s.pwr.phy && railOk s p then enterDetect s p else s
    | 1 => setL (setLocks s p 0) p 2
    | 2 => if onTrial (portOf s p) then endTrial s p else enterDetect s p
    | 3 => lockEnd s p
    | 4 => enterDetect s p
    | 5 => enterDetect s p
    | _ => s)

/-- Deskew (R366): each lane in use brought one ALIGN block with its own number, and no two arrived more than 100 ns apart. -/
def deskews (s : State) (p : Nat) (l : List AlignRx) : Bool :=
  let use := lanesOf (lowLanes (commonLanes s p))
  let got := l.filter (fun a => use.contains a.rx.val)
  use.all (fun i => (got.filter (fun a => a.rx.val == i)).map (fun a => a.num.toNat) == [i])
    && got.all (fun a => got.all (fun b => decide (a.ps ≤ b.ps + 100000)))

/-- ALIGN_BLOCK (R368): deskew completes or fails. -/
def execAlignBlock (port : Fin 2) (ok : List AlignRx) (s : State) : Host.Outcome State Fault Refusal :=
  let s := cycle s
  let p := port.val
  .next (if lstate s p == 4 then (if deskews s p ok then setL s p 5 else enterDetect s p) else s)

/-! Credits (R374). -/

/-- The credits that a packet of a type takes: requests, captures and events are flow-controlled, completions are not. -/
def costOf (typ len : Nat) : List (CreditClass × Nat) :=
  match typ with
  | 1 => [(.np, 1)]
  | 2 => [(.np, 1)]
  | 3 => [(.ph, 1), (.pd, (len + 15) / 16)]
  | 7 => [(.cap, 1)]
  | 8 => [(.evs, 1)]
  | _ => []

/-- One class of some credits, changed. -/
def Credits.upd (c : Credits) (cls : CreditClass) (f : Nat → Nat) : Credits :=
  match cls with
  | .np => { c with np := f c.np }
  | .ph => { c with ph := f c.ph }
  | .pd => { c with pd := f c.pd }
  | .cap => { c with cap := f c.cap }
  | .evs => { c with evs := f c.evs }

def Credits.of (c : Credits) : CreditClass → Nat
  | .np => c.np | .ph => c.ph | .pd => c.pd | .cap => c.cap | .evs => c.evs

/-- Port `p` sends LCTL blocks. -/
def tell (s : State) (p : Nat) (l : List Lctl) : State := setPort s p { portOf s p with lctl := l }

/-- Port `p` grants the far end credits. -/
def giveCredit (s : State) (p : Nat) (l : List (CreditClass × Nat)) : State :=
  setPort s p { portOf s p with
    given := l.foldl (fun c x => c.upd x.1 (· + x.2)) (portOf s p).given
    lctl := (portOf s p).lctl ++ l.map (fun x => Lctl.credit x.1 x.2) }

/-- The grants of a port that becomes ACTIVE (R374). What a pass-through port grants the next module for captures and events, where a
host port is granted its host's choice, the manual does not say: free values. -/
def firstGrants (s : State) (p : Nat) : State :=
  let s1 := setPort s p { portOf s p with given := {}, granted := {}, lctl := [], wait := [] }
  if hostPort s1 p then giveCredit s1 p [(.np, 256), (.ph, 128), (.pd, 1024)]
  else
    let n (i : Nat) : Nat := (Config.freeWord (s.free + i)).toNat % 65536
    giveCredit { s1 with free := s.free + 2 } p [(.cap, n 0), (.evs, n 1)]

/-- The port becomes ACTIVE with the negotiated values (R369, R370). -/
def negotiated (s : State) (p : Nat) (ts : TsFields) : State :=
  let x := portOf s p
  let m := lowLanes (commonLanes s p)
  let s1 := setF (setF s F.PHL_STATE_WIDTH p (lanesOf m).length) F.PHL_STATE_LANEMAP p m
  let s2 := setF s1 F.PHL_STATE_VER p (Nat.min x.cfgVer (Nat.max 1 ts.maxver.toNat))
  let s3 := showRoles s2
  let s4 := if p = 1 ∧ x.role = 2 then forAll [0, 1] s3 (fun s q => setF s F.PHL_STATE_HOPS q (ts.hops.toNat + 1)) else s3
  let s5 := setPort s4 p { portOf s4 p with trained := (lanesOf m).length, txSeq := ts.nrxseq, replay := [], tries := 0,
                                            resume := none, surv := 0, lanes := commonLanes s p }
  setL (firstGrants s5 p) p 6

/-- LINK_ACTIVE (R369, R379): every full training of a port but its first increments the epoch; the session starts at Operator. -/
def execLinkActive (port : Fin 2) (s : State) : Host.Outcome State Fault Refusal :=
  let s := cycle s
  let p := port.val
  .next (match (portOf s p).peer with
    | none => s
    | some ts =>
      if lstate s p == 5 && commonLanes s p != 0 then
        let again := (portOf s p).trained != 0
        let s1 := negotiated s p ts
        let s1 := if sharedSess s1 then setEpoch s1 p (getF s1 F.PHL_STATE_EPOCH 0) else s1
        let s2 := if again then nextEpoch s1 p else s1
        let s3 := if hostPort s2 p then
            (if sharedSess s2 && portActive s2 (1 - p) then lowerSess s2 p 1 else setSess s2 p 1)
          else s2
        let s4 := raise (addCt s3 F.PHL_TRAINCNT_N p 1) .phl p E.PHL_UP
        let s5 := if hostPort s4 p then setF s4 F.PHL_COND_LLPEND 0 0 else s4
        if getF s5 F.DEV_STATE_BOOT 0 == 2 then setF s5 F.DEV_STATE_BOOT 0 3 else s5
      else s)

/-! Replay buffer (R376). -/

/-- A packet gets the next SEQ and enters the replay buffer. The packets at the front that fit 64 KiB and 2,048 packets are on
their way; the others wait. -/
def sendPkt (s : State) (p : Nat) (k : TxPkt) : State :=
  let x := portOf s p
  setPort s p { x with txSeq := x.txSeq + 1, replay := x.replay ++ [{ k with seq := x.txSeq }] }

/-- Bytes of a packet in the buffer. -/
def pktBytes (k : TxPkt) : Nat := 16 + 4 * k.payload.length

/-- The header of a packet (R371). -/
def txHeader (k : TxPkt) : BitVec 128 :=
  packHeader (BitVec.ofNat 4 k.typ) k.retry k.hop k.tag k.epoch (BitVec.ofNat 4 k.status) (BitVec.ofNat 11 k.len) k.addr
    (BitVec.ofNat 8 k.stream)

/-- A packet of the replay buffer as it goes onto the link (R366, R371). -/
def onLink (k : TxPkt) : Packet :=
  { seq := k.seq, header := txHeader k, payload := k.payload, crc := pktCrc k.seq (txHeader k) k.payload }

/-- The transmitter of the port must wait with a packet of `n` bytes (R376). -/
def txFull (s : State) (p n : Nat) : Bool :=
  let l := (portOf s p).replay
  decide (2048 ≤ l.length) || decide (65536 < (l.map pktBytes).sum + n)

/-- The credit that port `p` holds (R374, R391). -/
def holdsCredit (s : State) (p : Nat) : CreditClass → Nat
  | .cap => getF s F.PHL_CREDITS_CAP p
  | .evs => getF s F.PHL_CREDITS_EVS p
  | c => (portOf s p).granted.of c

/-- Port `p` takes credit for a packet. -/
def useCredit (s : State) (p : Nat) (l : List (CreditClass × Nat)) : State :=
  l.foldl (fun s x => match x.1 with
    | .cap => setF s F.PHL_CREDITS_CAP p (getF s F.PHL_CREDITS_CAP p - x.2)
    | .evs => setF s F.PHL_CREDITS_EVS p (getF s F.PHL_CREDITS_EVS p - x.2)
    | c => setPort s p { portOf s p with granted := (portOf s p).granted.upd c (· - x.2) }) s

/-- The class that a packet is held back by. -/
def clsOf (k : TxPkt) : Option CreditClass := (costOf k.typ k.len).head?.map (·.1)

/-- A forwarded packet leaves on port `p` when it holds credit for it and none of its class waits before it; what it took on the other
port is given back there (R374, R385). -/
def passOn (p : Nat) (s : State) (k : TxPkt) : State :=
  let cost := costOf k.typ k.len
  let x := portOf s p
  if cost.all (fun c => decide (c.2 ≤ holdsCredit s p c.1)) && !(clsOf k).any (fun c => x.wait.any (fun w => clsOf w == some c)) then
    giveCredit (sendPkt (useCredit s p cost) p k) (1 - p) cost
  else setPort s p { x with wait := x.wait ++ [k] }

/-- Credit has come: the packets that wait try again, in their order. -/
def drainWait (s : State) (p : Nat) : State :=
  let l := (portOf s p).wait
  if l.isEmpty then s else l.foldl (passOn p) (tell (setPort s p { portOf s p with wait := [] }) (1 - p) [])

/-- A granule of stream `k` is QUEUED again: the packet that carried it is gone. -/
def requeue (s : State) (k idx : Nat) : State :=
  let x := strmOf s k
  setStrm s k { x with queue := x.queue.map (fun g => if g.idx = idx then { g with gst := .queued } else g) }

/-- What a discarded packet leaves: a granule queued again, a completion of a shared session on the other port, REPLAY_EXH for a
request that was not delivered downstream (R382, R384, R385). -/
def discardPkt (p : Nat) (s : State) (k : TxPkt) : State :=
  match k.gran with
  | some g => requeue s k.stream g
  | none =>
    if (k.typ == 5 || k.typ == 6) && sharedSess s && portUp s (1 - p) then sendPkt s (1 - p) k
    else if (k.typ == 1 || k.typ == 2) && p == 1 && portUp s 0 then
      raise (sendPkt s 0 { typ := 5, tag := k.tag, epoch := k.epoch, status := 3, seq := 0 }) .phl 1 E.PHL_FWD_EXH
    else s

/-- A forwarded packet that waited for credit on a port that goes DOWN is gone too, and what it took on the other port is given back. -/
def discardWait (p : Nat) (s : State) (k : TxPkt) : State :=
  let s1 := discardPkt p s k
  if portUp s1 (1 - p) then giveCredit s1 (1 - p) (costOf k.typ k.len) else s1

/-- The port goes DOWN (R368, R378, R385, R386). STATE keeps width, rate, version and role until the next full training (R391); DOWN is
set, and the loss of the host begins, where it was ACTIVE or in RETRAIN. -/
def goDown (s : State) (p : Nat) : State :=
  let x := portOf s p
  let up := portUp s p
  let s1 := setL (setPort s p { x with replay := [], wait := [], tries := 0, resume := none, peer := none, surv := 0, lanes := 0
                                       lctl := [], given := {}, granted := {} }) p 0
  let s2 := x.wait.foldl (discardWait p) (x.replay.foldl (discardPkt p) s1)
  let s3 := [F.PHL_COND_CAPHELD, F.PHL_CREDITS_CAP, F.PHL_CREDITS_EVS, F.PHL_PHCFG_RETRAIN].foldl (fun s f => setF s f p 0)
    (setLocks s2 p 0)
  let s4 := if p = 1 ∧ x.role = 2 then forAll [0, 1] s3 (fun s q => setF s F.PHL_STATE_HOPS q 0) else s3
  if !up then s4
  else
    let s5 := raise s4 .phl p E.PHL_DOWN
    if hostPort s5 p && hostless s5 then
      setPort (setF s5 F.PHL_COND_LLPEND 0 1) 0 { portOf s5 0 with lostT := now s5 }
    else s5

/-- PORT_DOWN (R368): from ACTIVE or RETRAIN. -/
def execPortDown (port : Fin 2) (s : State) : Host.Outcome State Fault Refusal :=
  let s := cycle s
  .next (if lstate s port == 6 || lstate s port == 7 then goDown s port else s)

/-! Degrade and retrain (R378). -/

/-- The port narrows to the largest width that the surviving lanes `m` allow. -/
def narrow (s : State) (p m : Nat) : State :=
  let l := lowLanes m
  setF (setF s F.PHL_STATE_WIDTH p (lanesOf l).length) F.PHL_STATE_LANEMAP p l

/-- Every unacknowledged packet is replayed; after four replays without progress the port retrains (R376, R377). -/
def replay (s : State) (p : Nat) : State :=
  let x := portOf s p
  if !portActive s p || x.replay.isEmpty then s
  else if 4 ≤ x.tries then
    startRetrain (raise (addCt (setPort s p { x with tries := 0 }) F.PHL_REPLAYEXH_N p 1) .phl p E.PHL_REPLAY_EXH) p
  else addCt (setPort s p { x with tries := x.tries + 1 }) F.PHL_REPLAYCNT_N p 1

/-- The degrade is done, and shows. -/
def narrowed (s : State) (p m : Nat) : State :=
  let s1 := setPort (narrow s p m) p { portOf s p with surv := 0 }
  raise (addCt s1 F.PHL_DEGRADECNT_N p 1) .phl p E.PHL_DEGRADE

/-- The degrade is done, and packets in flight are replayed. -/
def degrade (s : State) (p m : Nat) : State := replay (narrowed s p m) p

/-- LANE_FAIL (R365, R378, R390): in training a lane loses its lock. In ACTIVE or RETRAIN the lane is failed; the port degrades to the
lanes that survive, which it tells the far end, or retrains when none does. -/
def execLaneFail (port : Fin 2) (lane : LaneLoss) (s : State) : Host.Outcome State Fault Refusal :=
  let s := cycle s
  let p := port.val
  let i := lane.lane.val
  .next (if !lossFails lane.why then s
    else if portUp s p then
      let inUse := (getF s F.PHL_STATE_LANEMAP p).testBit i
      let x := portOf s p
      let left := x.lanes &&& maskOf (fun j => j != i)
      let y := { x with lanes := left }
      let s1 := setPort (setF (setF s (F.PHL_LANE_FAILED lane.lane) p 1) (F.PHL_LANE_LOCK lane.lane) p 0) p y
      if left = 0 then startRetrain (setPort s1 p { y with surv := 0 }) p
      else if !inUse && x.surv == 0 then s1
      else if portActive s p then setPort s1 p { y with surv := left, lctl := [.degrade left] }
      else setPort s1 p { y with surv := left }
    else match lane.why with
      | .headers _ => setF s (F.PHL_LANE_LOCK lane.lane) p 0
      | .aligns _ => s)

/-- DEGRADE_DONE (R378). -/
def execDegradeDone (port : Fin 2) (s : State) : Host.Outcome State Fault Refusal :=
  let s := cycle s
  let p := port.val
  .next (if portActive s p && (portOf s p).surv != 0 then degrade s p (portOf s p).surv else s)

/-- DEGRADE_COMMAND (R378): the far end keeps `lanes`; the lanes in use that it does not keep are shown as failed. -/
def execDegradeCommand (port : Fin 2) (lanes : BitVec 4) (s : State) : Host.Outcome State Fault Refusal :=
  let s := cycle s
  let p := port.val
  let m := getF s F.PHL_STATE_LANEMAP p
  let x := portOf s p
  let left := x.lanes &&& lanes.toNat
  .next (if !portActive s p then s
    else
      let s1 := setPort s p { x with lanes := left }
      if m &&& lanes.toNat = m then s1
      else
        let s2 := forAll ((lanesOf m).filter (fun i => !lanes.toNat.testBit i)) s1 (fun s i => setF s (F.PHL_LANE_FAILED i) p 1)
        if left = 0 then startRetrain (setPort s2 p { portOf s2 p with surv := 0 }) p else degrade s2 p left)

/-- A write of 1 to PHCFG.RETRAIN (R378): the bit reads 1 until the retrain ends. -/
def retrainGo (s : State) (p : Nat) : State :=
  if portActive s p then setF (startRetrain s p) F.PHL_PHCFG_RETRAIN p 1 else s

/-- The packets that the far end has not received (R378): those from its NRXSEQ on. -/
def unreceived (l : List TxPkt) (nrx : BitVec 12) : List TxPkt := l.filter (fun k => decide ((k.seq - nrx).toNat < 2048))

/-- ACK of a packet (R266, R382, R383): a granule returns to FREE, HSRD passes the records. -/
def ackedPkt (s : State) (k : TxPkt) : State :=
  match k.gran with
  | some g => freeGran s k.stream g
  | none => if k.typ = 8 then setF s F.EVR_HSRD_IDX 0 ((getF s F.EVR_HSRD_IDX 0 + k.recs) % 4096) else s

/-- The lanes that a fast retrain brings back to service are locked, and the far end has answered with a TS block of the retrain. -/
def relocked (s : State) (p : Nat) : Bool :=
  let x := portOf s p
  let use := if x.surv = 0 then getF s F.PHL_STATE_LANEMAP p else lowLanes x.surv
  locks s p &&& use == use && x.peer.any (·.rt)

/-- The fast retrain completes with resume point `r`: what the far end has received counts as acknowledged, epoch, session and counters
follow, and the rest is replayed. -/
def retrained (s : State) (p : Nat) (r : BitVec 12) : State :=
  let x := portOf s p
  let keep := match x.peer with | some ts => unreceived x.replay ts.nrxseq | none => x.replay
  let done := x.replay.filter (fun k => !keep.contains k)
  let s1 := setL (setPort s p { x with replay := keep, tries := if done.isEmpty then x.tries else 0, resume := some r
                                       lanes := locks s p &&& relocks s p }) p 6
  let s2 := done.foldl ackedPkt s1
  let s3 := if x.surv = 0 then s2 else narrowed s2 p x.surv
  let s4 := if hostPort s3 p then lowerSess (nextEpoch s3 p) p 1 else nextEpoch s3 p
  replay (raise (addCt (setF s4 F.PHL_PHCFG_RETRAIN p 0) F.PHL_RETRAINCNT_N p 1) .phl p E.PHL_RETRAIN) p

/-- RETRAIN_DONE (R378): the retrain completes once the lanes in use are locked again; one that fails takes the port DOWN. -/
def execRetrainDone (port : Fin 2) (ok : Option (BitVec 12)) (s : State) : Host.Outcome State Fault Refusal :=
  let s := cycle s
  let p := port.val
  .next (if lstate s p != 7 then s
    else match ok with
      | none => goDown s p
      | some r => if relocked s p then retrained s p r else s)

/-! Loss of the host (R386, R388). -/

/-- LINK_LOSS_HOLD (R386): without a host for the hold time, every polder other than OFF enters DIKE. -/
def execLinkLossHold (s : State) : Host.Outcome State Fault Refusal :=
  let s := cycle s
  .next (if isSet s F.PHL_COND_LLPEND 0 && hostless s then
      let s1 := reach s ((portOf s 0).lostT + ticks (1600000 * Nat.max 1 (getF s F.PHL_LINKLOSS_LINK_LOSS_HOLD 0)))
      setF (forAll (List.range 64) s1 (fun s p => dikeEntry s p 6)) F.PHL_COND_LLPEND 0 0
    else s)

/-- WITHOUT_HOST_ALERT (R388): 1 ms without an ACTIVE host port. -/
def execWithoutHostAlert (s : State) : Host.Outcome State Fault Refusal :=
  let s := cycle s
  .next (if hostless s then
      let s1 := reach s ((portOf s 0).lostT + ticks 1600000)
      { s1 with smb := { s1.smb with alert := true } }
    else s)

end Sys2Proof.Machine
end

