-- ==== Sys2Proof/Machine/Live.lean ====
section
/-! DEFINITION. Fields that show other state at the moment of a read (R32 LV, R38, R402), and the words of the descriptor space. -/

namespace Sys2Proof.Machine

/-! Page summary (R402). -/

/-- The page of a summary index (R396). -/
def pageAt (i : Nat) : Option PageRef :=
  allPages.findSome? (fun p => if p.summary ≤ i ∧ i < p.summary + p.count then some ⟨p, i - p.summary⟩ else none)

/-- The page has an unmasked event. -/
def evPending (s : State) (p : Page) (n : Nat) : Bool := getF s (F.EVT p) n &&& (0xFFFFFFFF - getF s (F.EVT_MASK p) n) != 0

def pageSum (s : State) (w : Nat) : Nat :=
  ((List.range 32).map (fun i => match pageAt (32 * w + i) with
    | some x => if evPending s x.page x.inst then 2 ^ i else 0
    | none => 0)).sum

def pageSumW (s : State) : Nat := ((List.range 8).map (fun w => if pageSum s w = 0 then 0 else 2 ^ w)).sum

/-! The collector (R425, R426). -/

/-- The sources in a state that satisfies `f`. -/
def srcsIn (s : State) (f : Nat → Bool) : List Nat := (List.range 192).filter (fun k => f (fstate s k))

def srcSum (s : State) (f : Nat → Bool) (w : Nat) : Nat :=
  ((List.range 32).map (fun i => if f (fstate s (32 * w + i)) then 2 ^ i else 0)).sum

def actOrQuiet (v : Nat) : Bool := v == 1 || v == 2

/-- A configuration word without its parity bit. -/
def fltWord (s : State) (i : Nat) : Nat :=
  getF s (F.FLT_X1_EN i) 0 + getF s (F.FLT_X1_CLASS i) 0 * 2 + getF s (F.FLT_X1_REACT i) 0 * 8 + getF s (F.FLT_X1_AUTOREC i) 0 * 32
    + getF s (F.FLT_X1_QUIET i) 0 * 64 + 2 ^ 20 * getF s (F.FLT_X1_TGT i) 0

/-- The parity bit that makes the number of ones even; a word with bad parity holds the other one (R417). -/
def fltPar (s : State) (i : Nat) : Nat :=
  let p := (((List.range 31).filter (fun b => (fltWord s i).testBit b)).length) % 2
  if s.fltBad.contains i then 1 - p else p

/-! Sluice (R260, R267, R274). -/

/-- The GSTATE code of a granule (R259). -/
def GState.code : GState → Nat
  | .free => 0 | .filling => 1 | .retained => 2 | .queued => 3 | .draining => 4

/-- The granule after `g` in a list. -/
def nextIdx (g : Nat) : List Gran → Option Nat
  | x :: y :: l => if x.idx = g then some y.idx else nextIdx g (y :: l)
  | _ => none

/-- Descriptor `g`: NEXT, NEXTV, STREAM and GSTATE. -/
def descriptor (s : State) (g : Nat) : BitVec 192 :=
  match (List.range 256).findSome? (fun k => ((Strm.all (strmOf s k)).find? (fun x => x.idx == g)).map (fun x => (k, x))) with
  | none => 0
  | some (k, x) =>
    let nx := nextIdx g (Strm.all (strmOf s k))
    BitVec.ofNat 192 (nx.getD 0 + 2 ^ 17 * b2n nx.isSome + 2 ^ 18 * k + 2 ^ 26 * x.gst.code)

/-! Fields computed at the read. -/

def liveDev (s : State) (f : Fld) (v : Nat) : Nat :=
  if f = F.DEV_COND_ANYPG then b2n (pageSumW s != 0)
  else if f = F.DEV_PGSUMW_W then pageSumW s
  else if decide (0x080 ≤ f.off) && decide (f.off < 0x0A0) then pageSum s ((f.off - 0x080) / 4)
  else v

def liveFlt (s : State) (f : Fld) (v : Nat) : Nat :=
  match f.space with
  | 0 =>
    if f = F.FLT_STATE_NACT then (srcsIn s actOrQuiet).length
    else if f = F.FLT_STATE_NLAT then (srcsIn s (· == 3)).length
    else if decide (0x058 ≤ f.off) && decide (f.off < 0x070) then srcSum s actOrQuiet ((f.off - 0x058) / 4)
    else if decide (0x070 ≤ f.off) && decide (f.off < 0x088) then srcSum s (· == 3) ((f.off - 0x070) / 4)
    else v
  | 1 => if f.lo = 31 then fltPar s f.off else v
  | 2 =>
    if f.lo = 2 then b2n (causeNow s f.off)
    else if f.lo = 3 then b2n (forced s f.off)
    else if f.lo = 4 then Nat.min 15 (recent s f.off).length
    else v
  | _ => v

def liveEvr (s : State) (f : Fld) (v : Nat) : Nat :=
  let wr := getF s F.EVR_HSWR_IDX 0
  let rd := getF s F.EVR_HSRD_IDX 0
  if f = F.EVR_COND_HS_FULL then b2n ((wr + 1) % 4096 == rd)
  else if f = F.EVR_COND_HS_NONEMPTY then b2n (wr != rd)
  else if f = F.EVR_EPOCH_E then s.bdn.toNat / 2 ^ 54
  else v

def livePhl (s : State) (f : Fld) (n v : Nat) : Nat :=
  if f = F.PHL_COND_ACTIVE then b2n (portActive s n)
  else if f = F.PHL_COND_DEGRADED then b2n (portUp s n && decide (getF s F.PHL_STATE_WIDTH n < (portOf s n).trained))
  else v

def liveSlu (s : State) (f : Fld) (v : Nat) : Nat :=
  if f = F.SLU_COND_SPILL_FULL then b2n (spillFull s)
  else if f = F.SLU_COND_POOL_LOW then b2n (poolLow s)
  else if f = F.SLU_DRAINCAP_SPILL then spillCap s / 10
  else if f = F.SLU_DRAINCAP_HOST then hostCap s / 10
  else if f = F.SLU_FREE_N then freeCount s
  else if f = F.SLU_RSVSUM_N then ((List.range 256).map (cfgReserve s)).sum
  else if f.space = 3 ∧ f.off % 4 = 0 ∧ f.lo = 0 then held s (f.off / 4)
  else v

def livePol (s : State) (f : Fld) (n v : Nat) : Nat :=
  let on := rsOf s n != .off
  if f = F.POL_STATE_ANCHOR then b2n (on && anchor s n == n)
  else if f = F.POL_COND_IN_DIKE then b2n (rsOf s n == .dike)
  else if f = F.POL_COND_FAULT_ACTIVE then b2n (faultActive s n)
  else if f = F.POL_COND_FAULT_LATCHED then b2n (faultLatched s n)
  else if f = F.POL_COND_DS_RAMPING then b2n (dsRamping s n)
  else if f = F.POL_COND_RECORDS_OPEN then b2n (recordsOpen s n)
  else if f = F.POL_CSRT_MEMBERS then (if on then (consort s n).length else 0)
  else if f = F.POL_TEMPLATE_NOCT then (octsOf s n).length
  else if f = F.POL_TEMPLATE_FIRST then (octsOf s n).headD 0
  else if 0x0C0 ≤ f.off ∧ f.off < 0x0D0 then getF (pmuNowDue s) f n
  else v

def liveAcq (s : State) (f : Fld) (n v : Nat) : Nat :=
  if f = F.ACQ_COND_RECORD_OPEN then b2n (acqOf s n).rcd.isSome
  else if f = F.ACQ_COND_PRESHORT then b2n (acqOf s n).short
  else v

/-- A clamp of channel `c` is known to carry 10 mA: it was found to at this very count, or it is the only one of its die found to and
the cause that this raised still stands (R85, R408). -/
def clampKnown (s : State) (c : Nat) : Bool :=
  (chanOf s c).clampT == some s.bdn ||
    ((chanOf s c).clampT.isSome && (fltOf s (97 + 4 * (c / 64))).hw &&
      (List.range 64).all (fun k => 64 * (c / 64) + k == c || (chanOf s (64 * (c / 64) + k)).clampT.isNone))

/-- COND.CLAMPING of an octet (R38, R85): a clamp of the channel that is on and carries more than 1 mA at the read. -/
def clampBits (s : State) (o : Nat) : Nat :=
  if getF s F.OCT_STATE_PSTATE o = 0 then 0
  else ((List.range 8).map (fun j => let c := 8 * o + j
    b2n (clampKnown s c || Config.clampFlow c (clampHi s c) (clampLo s c) s.bdn) * 2 ^ j)).sum

def liveOct (s : State) (f : Fld) (n v : Nat) : Nat :=
  if f = F.OCT_STATE_DIE_ISOLATED then b2n (isoDie s (n / 8))
  else if f = F.OCT_COND_CLAMPING then clampBits s n
  else if f.space = 2 then getF (pmuNowDue s) f n
  else v

/-- COND.ILIM of a controller that is ON, COND.VCLIP, and the applied set point (R124, R126, R137). -/
def liveDsc (s : State) (f : Fld) (n v : Nat) : Nat :=
  match (List.range 8).find? (fun i => f == F.DSC_COND_ILIM i || f == F.DSC_COND_VCLIP i || f == F.DSC_APPLIED_CODE i) with
  | some i =>
    if f = F.DSC_COND_VCLIP i then b2n (vclipNow s (8 * n + i))
    else if f = F.DSC_COND_ILIM i then
      (if isSet s (F.DSC_QSTAT_ON i) n && (v == 1 || Config.limiting (8 * n + i) s.bdn) then 1 else 0)
    else appliedNow s (8 * n + i)
  | none => v

/-- Posted indirect writes of a page (R49). -/
def postedOf (s : State) (p : Page) (n : Nat) : List Posted := Store.get s.posted [] (wideKey p n 0 0)

/-- What a read of field `f` finds. -/
def liveF (s : State) (f : Fld) (n : Nat) : Nat :=
  let v := getF s f n
  if f = F.IX_CTRL_WPEND f.page then (postedOf s f.page n).length
  else match f.page with
    | .dev => liveDev s f v
    | .flt => liveFlt s f v
    | .evr => liveEvr s f v
    | .phl => livePhl s f n v
    | .slu => liveSlu s f v
    | .pol => livePol s f n v
    | .acq => liveAcq s f n v
    | .oct => liveOct s f n v
    | .cdi => if f = F.CDI_PBUDGET_USED ∨ f = F.CDI_PREFUSE_N then getF (pmuNowDue s) f n else v
    | .dsc => liveDsc s f n v
    | .mem => liveMem s f v
    | .hkp => if f = F.HKP_STATE_SHUTDOWN then b2n (causeNow s 188) else v
    | _ => v

end Sys2Proof.Machine
end

