-- ==== Sys2Proof/Machine/Micro.lean ====
section
/-! DEFINITION. Microcode engines (R210 to R234). -/

namespace Sys2Proof.Machine

/-! The control store (R230, R232). -/

/-- R230: the first check that a microword for address `a` fails, 0 when it passes. -/
def mwReason (a v : Nat) : Nat :=
  let lop := mwLop v
  let vop := mwVop v
  let bm := mwBmode v
  if !mwParityOk v then 1
  else if bits v 122 30 ≠ 0 then 2
  else if 10 ≤ lop ∨ 7 ≤ vop ∨ 6 ≤ mwCap v ∨ 4 ≤ mwThr v ∨ 14 ≤ mwFlg v then 3
  else if 1 ≤ bm ∧ bm ≤ 4 ∧ mwNxt v % 2 ^ bm ≠ 0 then 4
  else if mwWsel v ≠ 0 ∧ mwWto v ≠ 0 ∧ mwNxt v % 2 = 1 then 5
  else if (lop = 1 ∨ lop = 2 ∨ lop = 5) ∧ (vop = 2 ∨ vop = 3 ∨ vop = 5 ∨ vop = 6) then 6
  else if bm = 7 ∧ (1 ≤ lop ∧ lop ≤ 4 ∨ lop = 9) then 7
  else if vop = 4 ∧ bm ≠ 5 then 8
  else if bm = 6 ∧ a = 0x3FFF then 9
  else 0

/-- R232: CRC_OK clears; a check that runs ends at once. -/
def csChanged (s : State) (m : Nat) : State :=
  let s1 := setF s F.MCE_COND_CRC_OK m 0
  if isSet s F.MCE_ENGCTL_CHECK m then
    setF (raise (raise s1 .mce m E.MCE_CRC_DONE) .mce m E.MCE_CRC_FAIL) F.MCE_ENGCTL_CHECK m 0
  else s1

/-- R230, R232: microword `a` commits with value `v`. -/
def commitMword (s : State) (m a : Nat) (v : BitVec 192) : State :=
  let r := mwReason a v.toNat
  if r = 0 then csChanged (setWide s .mce m 1 a v) m
  else raise (setF (setF s F.MCE_CSREJ_REASON m r) F.MCE_CSREJ_ADDR m a) .mce m E.MCE_CS_REJECT

/-- CSLEN as it acts (R234). -/
def csLen (s : State) (m : Nat) : Nat := Nat.min 16384 (Nat.max 1 (getF s F.MCE_CSLEN_N m))

/-- R232: the CRC over the words covered, 20 bytes each. -/
def csCrc (s : State) (m : Nat) : BitVec 32 :=
  crc32c ((List.range (csLen s m)).flatMap (fun a => (List.range 20).map (fun i => BitVec.ofNat 8 (bits (mword s m a) (8 * i) 8))))

/-- CRC_DONE (R232). -/
def execCrcDone (m : Fin 4) (s : State) : Host.Outcome State Fault Refusal :=
  let s := cycle s
  let k := m.val
  .next (if !isSet s F.MCE_ENGCTL_CHECK k then s
  else
    let s1 := raise (setF s F.MCE_ENGCTL_CHECK k 0) .mce k E.MCE_CRC_DONE
    if (csCrc s k).toNat = getF s F.MCE_CSCRC_CRC k then setF s1 F.MCE_COND_CRC_OK k 1 else raise s1 .mce k E.MCE_CRC_FAIL)

/-! Conditions (R217, R218). -/

/-- A condition of an engine by its 5-bit code. -/
def engCond (s : State) (m code : Nat) : Bool :=
  if code < 20 then condOf s (16 + m) code
  else if code < 28 then getF s (F.MCE_CNT_C (code - 20)) m != 0
  else (getF s F.MCE_COND_FLAGS m).testBit (code - 28)

/-- The code is that of a latch. -/
def isLatch (s : State) (m code : Nat) : Bool :=
  code == 17 || code == 18 || (decide (1 ≤ code) && decide (code ≤ 15) && cmapMode s (16 + m) code)

/-- R218: a latch that released a wait or supplied a 1 is consumed. -/
def consume (s : State) (m code : Nat) : State := if isLatch s m code then clearLatch s (16 + m) code else s

/-- R217: the code that the condition map gives to index `i`. -/
def cdm (s : State) (m i : Nat) : Nat :=
  if i < 6 then bits (getF s F.MCE_CDM0_M m) (5 * i) 5
  else if i < 12 then bits (getF s F.MCE_CDM1_M m) (5 * (i - 6)) 5
  else bits (getF s F.MCE_CDM2_M m) (5 * (i - 12)) 5

/-! Stacks (R223 to R226). -/

def setLoops (s : State) (m : Nat) (l : List LoopLv) : State :=
  setF (setBnd s (16 + m) { bndOf s (16 + m) with loops := l }) F.MCE_STATE_LSP m l.length

def setCalls (s : State) (m : Nat) (l : List (BitVec 14 × BitVec 40)) : State :=
  setF (setBnd s (16 + m) { bndOf s (16 + m) with calls := l }) F.MCE_STATE_RSP m l.length

def cnt (s : State) (m k : Nat) : Nat := getF s (F.MCE_CNT_C k) m
def setCnt (s : State) (m k v : Nat) : State := setF s (F.MCE_CNT_C k) m v
def setUpc (s : State) (m a : Nat) : State := setF s F.MCE_STATE_UPC m a

/-- An engine fault with STOPINFO cause `c` at the word in execution (R229). -/
def engFault (s : State) (m c : Nat) : State := stopFault (setF s F.MCE_STOPINFO_FADDR m (engUpc s m)) (16 + m) 0 c

/-- An operation that may fault: the state, or the STOPINFO cause with the state at the fault. -/
abbrev EngRes := Except (Nat × State) State

/-- BEGIN (R224, R226, R227): counter `k` takes `n`, a level is pushed; a restoring loop with a count other than 1 and an extent
asks for a lock. -/
def lopBegin (s : State) (m k n nxt : Nat) (restore : Bool) : EngRes :=
  let y := bndOf s (16 + m)
  if 8 ≤ y.loops.length then .error (5, s)
  else
    let va := engVa s m
    let s1 := setLoops (setCnt s m k n) m (y.loops
        ++ [{ start := BitVec.ofNat 14 nxt, cnt := BitVec.ofNat 3 k, va := BitVec.ofNat 40 va,
                                                                 restore := restore }])
    let len := getF s (F.MCE_LSPAN_N k) m
    .ok (if restore ∧ n ≠ 1 ∧ len ≠ 0 then
      lockSpan s1 (16 + m) { spanAt s1 (16 + m) va len (compact s (bndAnchor s (16 + m)) (mwTset (mword s m nxt))) with
        seen := some [], lvl := y.loops.length + 1 }
    else s1)

/-- The top loop level is popped and its lock released (R174). -/
def popLoop (s : State) (m : Nat) : State :=
  let l := (bndOf s (16 + m)).loops
  setLoops (unlock s (16 + m) (fun x => decide (x.lvl = l.length))) m l.dropLast

/-- LOP (R224). -/
def lopDo (s : State) (m lop k imm nxt : Nat) : EngRes :=
  let reg := getF s (F.MCE_LREG_N k) m
  match lop with
  | 1 => lopBegin s m k imm nxt true
  | 2 => lopBegin s m k imm nxt false
  | 3 => lopBegin s m k reg nxt true
  | 4 => lopBegin s m k reg nxt false
  | 5 => .ok (setCnt s m k imm)
  | 6 => .ok (setCnt s m k reg)
  | 7 => .ok (setCnt s m k (cnt s m k - 1))
  | 8 => .ok (setCnt s m k (Nat.min (cnt s m k + 1) 0xFFFFFFFF))
  | 9 => if (bndOf s (16 + m)).loops.isEmpty then .error (5, s) else .ok (popLoop s m)
  | _ => .ok s

/-- LOOP_TEST (R225, R226). -/
def loopTest (s : State) (m nxt : Nat) : EngRes :=
  match (bndOf s (16 + m)).loops.getLast? with
  | none => .error (5, s)
  | some l =>
    let back (s : State) : State :=
      let s1 := setUpc s m l.start.toNat
      if l.restore then jumpLead (setVa s1 m l.va.toNat) (16 + m) true else s1
    let c := cnt s m l.cnt.toNat
    .ok (if c = 0 then back s else if c = 1 then setUpc (popLoop s m) m nxt else back (setCnt s m l.cnt.toNat (c - 1)))

/-- The conditions of map entries as an issue samples them: code and value (R217, R222). -/
def sampleBcs (s : State) (m : Nat) (bcs : List Nat) : List (Nat × Bool) :=
  bcs.map (fun i => (cdm s m i, engCond s m (cdm s m i)))

/-- R221: the next microaddress of a multi-way branch over the sampled conditions `cs`, and the latches consumed. -/
def branch (s : State) (m nxt : Nat) (cs : List (Nat × Bool)) : State :=
  let a := (cs.zipIdx.map (fun x => if x.1.2 then 2 ^ x.2 else 0)).foldl (· ||| ·) nxt
  cs.foldl (fun s c => if c.2 then consume s m c.1 else s) (setUpc s m a)

/-- CALL (R226). -/
def doCall (s : State) (m nxt : Nat) : EngRes :=
  let y := bndOf s (16 + m)
  if 16 ≤ y.calls.length then .error (6, s)
  else .ok (setUpc (setCalls s m (y.calls ++ [(BitVec.ofNat 14 (engUpc s m + 1), BitVec.ofNat 40 (engVa s m))])) m nxt)

/-- RETURN (R226, R228): with RETVA the vector address takes the value saved in the popped level. -/
def doReturn (s : State) (m : Nat) (retva : Bool) : EngRes :=
  match (bndOf s (16 + m)).calls.getLast? with
  | none => .error (6, s)
  | some c =>
    let s1 := setUpc (setCalls s m (bndOf s (16 + m)).calls.dropLast) m c.1.toNat
    .ok (if retva then jumpLead (setVa s1 m c.2.toNat) (16 + m) true else s1)

/-- BMODE (R221). -/
def bmodeDo (s : State) (m bm nxt : Nat) (cs : List (Nat × Bool)) (retva : Bool) : EngRes :=
  match bm with
  | 0 => .ok (setUpc s m nxt)
  | 5 => doReturn s m retva
  | 6 => doCall s m nxt
  | 7 => loopTest s m nxt
  | _ => .ok (branch s m nxt (cs.take bm))

/-! Fields of a microword (R214 to R216, R228). -/

/-- A signed 18-bit IMM. -/
def immSigned (v : Nat) : Int := signed v 18

/-- VOP (R228): the word issued and the vector address afterwards. -/
def vopDo (s : State) (m vop imm k : Nat) : Nat × Nat :=
  let va := engVa s m
  let w (x : Nat) : Nat := x % 2 ^ 40
  match vop with
  | 1 | 4 => (va, va)
  | 2 => (vtt s m (imm % 4096), w (vtt s m (imm % 4096) + 1))
  | 3 => (vtt s m (imm % 4096), vtt s m (imm % 4096))
  | 5 => let a := unsign ((va : Int) + immSigned imm) 40; (a, w (a + 1))
  | 6 => let a := w (vtt s m (imm % 4096) + cnt s m k); (a, w (a + 1))
  | _ => (va, w (va + 1))

/-- Flag `k` of an engine takes `v` (R216); F0 goes to the router for every member that is not benched. -/
def setFlag (s : State) (m k : Nat) (v : Bool) (t : Stamp) : State :=
  let f := getF s F.MCE_COND_FLAGS m
  if f.testBit k = v then s
  else
    let s1 := setF s F.MCE_COND_FLAGS m (if v then f + 2 ^ k else f - 2 ^ k)
    if k = 0 then forAll (bndMem s (16 + m)) s1 (fun s p => launch s { src := BitVec.ofNat 12 (0x640 + p), pol := v, stamp := t })
    else s1

def getFlag (s : State) (m k : Nat) : Bool := (getF s F.MCE_COND_FLAGS m).testBit k

/-- FLG 1 to 12 (R216). -/
def flgDo (s : State) (m flg : Nat) (t : Stamp) : State :=
  if 1 ≤ flg ∧ flg ≤ 4 then setFlag s m (flg - 1) true t
  else if 5 ≤ flg ∧ flg ≤ 8 then setFlag s m (flg - 5) false t
  else if 9 ≤ flg ∧ flg ≤ 12 then setFlag s m (flg - 9) (!getFlag s m (flg - 9)) t
  else s

/-- An event of line `i` (R215): action 1 pulse, 2 assert, 3 deassert. -/
def engEvent (s : State) (m i act : Nat) (code : BitVec 4) (t : Stamp) : State :=
  let src := BitVec.ofNat 12 (0x6C0 + 4 * m + i)
  match act with
  | 1 => launch s { src := src, pol := true, pulse := true, stamp := t, code := code }
  | 2 => launch s { src := src, pol := true, stamp := t, code := code }
  | 3 => launch s { src := src, pol := false, stamp := t, code := code }
  | _ => s

/-- CAP 4: a sequencer trigger to each member's unit, if it admits one (R214, R239). -/
def capTrig (s : State) (b : Nat) (t : Stamp) : State :=
  forAll (bndMem s b) s (fun s p => if isSet s F.ACQ_ACQCTL_STRIG p then trigger s p t .sequencer (vwiOf s p) else s)

/-- CAP 5: a MARK in each member's streams (R214, R253). -/
def capMark (s : State) (b : Nat) (t : Stamp) : State :=
  forAll (bndMem s b) s (fun s p => markAll s p 2 t none (vwiOf s p))

/-- The capture gate is open. -/
def gateIsOpen (s : State) (b : Nat) : Bool := (bndMem s b).any (fun p => (acqOf s p).gate.isSome)

/-! Executing a word (R212, R213, R219, R220, R229). -/

/-- The engine fault met before the word at `a` executes (R229): range, then parity. -/
def faultAt (s : State) (m a : Nat) : Option Nat :=
  if csLen s m ≤ a then some 7
  else if !mwParityOk (mword s m a) then some 4
  else none

/-- That of the word at UPC. -/
def wordFault (s : State) (m : Nat) : Option Nat := faultAt s m (engUpc s m)

/-- The PMU field of a word on the members `mem`: the operation travels with the word, whose vector 0 is at the pins at `t`; a
conversion is held from TRIGDLY of its polder after that (R112). -/
def microPmu (s : State) (mem : List Nat) (op : Nat) (t : Stamp) : State :=
  forAll mem s (fun s p => pmuOp s p op (tickOf t) (tickOf t + ticks (getF s F.POL_PMUCFG_TRIGDLY p)))

/-- Step 2 of R212. -/
def firstActs (s : State) (m v : Nat) (t : Stamp) : State :=
  let b := 16 + m
  let s1 := microPmu s (bndMem s b) (mwPmu v) t
  let s2 := if mwCap v = 4 then capTrig s1 b t else if mwCap v = 5 then capMark s1 b t else s1
  let s3 := engEvent s2 m (bits (mwEvt v) 0 2) (bits (mwEvt v) 2 2) (BitVec.ofNat 4 (bits (mwEvt v) 4 4)) t
  let s4 := forAll (bndMem s3 b) s3 (fun s p => pushStaged s p (mwDacq v))
  flgDo s4 m (mwFlg v) t

/-- Step 3 of R212 after a normal end; `cs` are the conditions sampled with the final issue. -/
def lastActs (s : State) (m v : Nat) (cs : List (Nat × Bool)) : EngRes :=
  match lopDo s m (mwLop v) (mwLsel v) (mwImm v) (mwNxt v) with
  | .error c => .error c
  | .ok s1 => bmodeDo s1 m (mwBmode v) (mwNxt v) cs (mwVop v == 4)

/-- The gate that the issues of a word hold (R214). -/
def gateWant (s : State) (b cap : Nat) : Bool :=
  match cap with
  | 1 | 3 => true
  | 2 => false
  | _ => (bndOf s b).gateOld.getD (gateIsOpen s b)

/-- The word issues once; none where the issue stops the binding. -/
def engIssue (s : State) (m vop imm k tset lset cap : Nat) : State × Bool :=
  let b := 16 + m
  let w := vopDo s m vop imm k
  let s0 := if w.1 = engVa s m then s else jumpLead (setVa s m w.1) b (vop == 2 || vop == 3)
  let cp := compact s (bndAnchor s b) tset
  match issueStop s0 b w.1 cp with
  | some c => (setVa (wordStop s0 b w.1 cp c) m (engVa s m), false)
  | none =>
    let old := if cap = 3 then some ((bndOf s b).gateOld.getD (gateIsOpen s b)) else none
    let s1 := issueWord s0 b { va := w.1, tset := tset, lset := lset, gate := gateWant s b cap, adv := w.2 != w.1 }
    (setVa (setBnd s1 b { bndOf s1 b with gateOld := old }) m w.2, true)

/-- How an issue of the word in execution ends (R219, R220): it waits on, it ends, it times out. -/
inductive WaitEnd where
  | more | done | timeout
deriving DecidableEq, Repr

def waitEnd (s : State) (m v : Nat) : WaitEnd :=
  let seen := engCond s m (mwWsel v) != mwWpol v
  if mwWsel v = 0 ∨ seen then .done
  else if mwWto v ≠ 0 ∧ mwWto v ≤ (bndOf s (16 + m)).waitN then .timeout
  else .more

/-- The word is left with the end `e`: the next one begins with its first issue. -/
def leaveWord (s : State) (m : Nat) (e : WordEnd) : State :=
  let b := 16 + m
  setF (setBnd s b { bndOf s b with first := true, waitN := 0, pend := some e }) F.MCE_STATE_WAITING m 0

/-- Step 3 of R212 for the word that has issued: it acts before anything else of the engine. A STOP or an ABORT in between keeps it
from acting (R233). -/
def resolveWord (s : State) (m : Nat) : State :=
  let b := 16 + m
  let y := bndOf s b
  let v := mword s m (engUpc s m)
  match y.pend with
  | none => s
  | some .timeout => setUpc (setBnd s b { y with pend := none }) m (mwNxt v ||| 1)
  | some (.normal cs) =>
    match lastActs (setBnd s b { y with pend := none }) m v (cs.map (fun c => (0, c))) with
    | .ok s1 => s1
    | .error c => engFault c.2 m c.1

/-- The latches that supplied a 1 to a multi-way branch are consumed with the sample (R218). -/
def consumeAll (s : State) (m v : Nat) (cs : List (Nat × Bool)) : State :=
  if 1 ≤ mwBmode v ∧ mwBmode v ≤ 4 then (cs.take (mwBmode v)).foldl (fun s c => if c.2 then consume s m c.1 else s) s else s

/-- One issue of the microword at UPC. -/
def issueMicroword (s : State) (m : Nat) : State :=
  let b := 16 + m
  let a := engUpc s m
  let v := mword s m a
  let y := bndOf s b
  let fault := if y.first then wordFault s m else none
  match fault with
  | some 4 => engFault (raise (addCt s F.MCE_CSPARERR_N m 1) .mce m E.MCE_CS_PARITY) m 4
  | some c => engFault s m c
  | none =>
    let how := waitEnd s m v
    let w := vopDo s m (mwVop v) (mwImm v) (mwLsel v)
    let streamed := !resident s b w.1 (compact s (bndAnchor s b) (mwTset v))
    let i := engIssue s m (mwVop v) (mwImm v) (mwLsel v) (mwTset v) (mwLset v) (mwCap v)
    if !i.2 then i.1
    else
      let s1 := if y.first then firstActs i.1 m v y.vstart else i.1
      let safe := mwThr v == 1 || mwThr v == 3
      let thr := mwThr v == 2 || mwThr v == 3
      match how with
      | .more =>
        let per := period s (bndAnchor s b) (mwTset v)
        let s2 := setF (setBnd s1 b { bndOf s1 b with first := false, waitN := y.waitN + (y.vstart.toNat % 4096 + 4 * per) / 4096 })
          F.MCE_STATE_WAITING m 1
        afterWord s2 b streamed safe thr
      | .timeout =>
        let s2 := leaveWord (raise (addCt s1 F.MCE_WAITTO_N m 1) .mce m E.MCE_WAIT_TO) m .timeout
        if mwFlg v = 13 then endIssue (resolveWord s2 m) b 1 1 false else afterWord s2 b streamed safe thr
      | .done =>
        let cs := sampleBcs s m ((List.range 4).map (mwBc v))
        let s2 := consumeAll (if mwWsel v ≠ 0 && !mwWpol v then consume s1 m (mwWsel v) else s1) m v cs
        let s3 := leaveWord s2 m (.normal (cs.map (·.2)))
        match lastActs s2 m v (cs.map (fun c => (0, c.2))) with
        | .error c => engFault c.2 m c.1
        | .ok _ => if mwFlg v = 13 then endIssue (resolveWord s3 m) b 1 1 false else afterWord s3 b streamed safe thr

/-- The engine of the binding may go on: the word that has issued first takes its end. -/
def engReady (s : State) (m : Nat) : Option State :=
  if mayIssue s (16 + m) then
    let s1 := resolveWord s m
    if mayIssue s1 (16 + m) then some s1 else none
  else none

/-- The microaddress of the word that would execute next: where LOP and BMODE of the word that has issued lead (R219 to R221). -/
def nextUpc (s : State) (m : Nat) : Option Nat :=
  let v := mword s m (engUpc s m)
  match (bndOf s (16 + m)).pend with
  | none => some (engUpc s m)
  | some .timeout => some (mwNxt v ||| 1)
  | some (.normal cs) =>
    match lastActs s m v (cs.map (fun c => (0, c))) with
    | .ok s1 => some (engUpc s1 m)
    | .error _ => none

/-- The members of the binding stop, and neither the end of the test nor a fault of the engine is the cause (R231). -/
def stopMet (s : State) (m : Nat) : Bool :=
  let b := 16 + m
  let c := getF s F.MCE_STOPINFO_STOPCAUSE m
  reserved s b && !(bndMem s b).isEmpty && (bndMem s b).all (fun p => rsOf s p == .stopping) && (c == 0 || c == 2 || c == 3)

/-- A MICROWORD_ISSUE of the cycle in which a stop was decided: the word that was about to execute does not, and a parity error of it
is only counted (R229, R233; log entry 64). -/
def parityMet (s : State) (m : Nat) : State :=
  let y := bndOf s (16 + m)
  if stopMet s m && y.first && (nextUpc s m).bind (faultAt s m) == some 4
  then addCt (setBnd s (16 + m) { y with first := false }) F.MCE_CSPARERR_N m 1
  else s

/-- MICROWORD_ISSUE (R212). -/
def execMicrowordIssue (m : Fin 4) (s : State) : Host.Outcome State Fault Refusal :=
  let s := cycle s
  .next (match engReady s m.val with
    | some s1 => issueMicroword s1 m.val
    | none => parityMet s m.val)

/-- WAIT (R219): the issue with which the wait of the word in execution ends by its condition. -/
def execWait (m : Fin 4) (wsel : BitVec 5) (wpol : Bool) (s : State) : Host.Outcome State Fault Refusal :=
  let s := cycle s
  let k := m.val
  .next (match engReady s k with
    | none => s
    | some s1 =>
      let v := mword s1 k (engUpc s1 k)
      if wsel != 0 && mwWsel v == wsel.toNat && mwWpol v == wpol && waitEnd s1 k v == .done then issueMicroword s1 k else s)

/-- WAIT_TIMEOUT (R220): the issue with which the wait of the word in execution times out. -/
def execWaitTimeout (m : Fin 4) (nxt : BitVec 14) (s : State) : Host.Outcome State Fault Refusal :=
  let s := cycle s
  let k := m.val
  .next (match engReady s k with
    | none => s
    | some s1 =>
      let v := mword s1 k (engUpc s1 k)
      if mwNxt v == nxt.toNat && waitEnd s1 k v == .timeout then issueMicroword s1 k else s)

/-! One resource of a microword on its own: the engine runs. -/

/-- The operation `f` of the engine, which may fault. -/
def engStep (s : State) (m : Nat) (f : State → EngRes) : State :=
  match engReady s m with
  | none => s
  | some s1 => match f s1 with
    | .ok s2 => s2
    | .error c => engFault c.2 m c.1

def engAct (s : State) (m : Nat) (f : State → State) : State := match engReady s m with | some s1 => f s1 | none => s

/-- A vector-address operation: one word issues. -/
def engVop (s : State) (m vop imm k tset : Nat) : State :=
  engAct s m (fun s =>
    let b := 16 + m
    let w := vopDo s m vop imm k
    let streamed := !resident s b w.1 (compact s (bndAnchor s b) tset)
    let i := engIssue s m vop imm k tset (mwLset (mword s m (engUpc s m))) 0
    if i.2 then afterWord i.1 b streamed false false else i.1)

def execBranchNone (m : Fin 4) (nxt : BitVec 14) (s : State) : Host.Outcome State Fault Refusal :=
  .next (engAct (cycle s) m.val (fun s => setUpc s m.val nxt.toNat))

def execBranch2Way (m : Fin 4) (nxt : BitVec 14) (bc0 : BitVec 4) (s : State) : Host.Outcome State Fault Refusal :=
  .next (engAct (cycle s) m.val (fun s => branch s m.val nxt.toNat (sampleBcs s m.val [bc0.toNat])))

def execBranch4Way (m : Fin 4) (nxt : BitVec 14) (bc0 bc1 : BitVec 4) (s : State) : Host.Outcome State Fault Refusal :=
  .next (engAct (cycle s) m.val (fun s => branch s m.val nxt.toNat (sampleBcs s m.val [bc0.toNat, bc1.toNat])))

def execBranch8Way (m : Fin 4) (nxt : BitVec 14) (bc0 bc1 bc2 : BitVec 4) (s : State) : Host.Outcome State Fault Refusal :=
  .next (engAct (cycle s) m.val (fun s => branch s m.val nxt.toNat (sampleBcs s m.val [bc0.toNat, bc1.toNat, bc2.toNat])))

def execBranch16Way (m : Fin 4) (nxt : BitVec 14) (bc0 bc1 bc2 bc3 : BitVec 4) (s : State) : Host.Outcome State Fault Refusal :=
  .next (engAct (cycle s) m.val (fun s => branch s m.val nxt.toNat (sampleBcs s m.val [bc0.toNat, bc1.toNat, bc2.toNat, bc3.toNat])))

def execRet (m : Fin 4) (retva : Bool) (s : State) : Host.Outcome State Fault Refusal :=
  .next (engStep (cycle s) m.val (fun s => doReturn s m.val retva))

def execCall (m : Fin 4) (nxt : BitVec 14) (s : State) : Host.Outcome State Fault Refusal :=
  .next (engStep (cycle s) m.val (fun s => doCall s m.val nxt.toNat))

def execLoopTest (m : Fin 4) (nxt : BitVec 14) (s : State) : Host.Outcome State Fault Refusal :=
  .next (engStep (cycle s) m.val (fun s => loopTest s m.val nxt.toNat))

def execBegin (m : Fin 4) (lsel : BitVec 3) (imm : BitVec 18) (nxt : BitVec 14) (s : State) : Host.Outcome State Fault Refusal :=
  .next (engStep (cycle s) m.val (fun s => lopDo s m.val 1 lsel.toNat imm.toNat nxt.toNat))

def execBeginW (m : Fin 4) (lsel : BitVec 3) (imm : BitVec 18) (nxt : BitVec 14) (s : State) : Host.Outcome State Fault Refusal :=
  .next (engStep (cycle s) m.val (fun s => lopDo s m.val 2 lsel.toNat imm.toNat nxt.toNat))

def execBeginR (m : Fin 4) (lsel : BitVec 3) (nxt : BitVec 14) (s : State) : Host.Outcome State Fault Refusal :=
  .next (engStep (cycle s) m.val (fun s => lopDo s m.val 3 lsel.toNat 0 nxt.toNat))

def execBeginRw (m : Fin 4) (lsel : BitVec 3) (nxt : BitVec 14) (s : State) : Host.Outcome State Fault Refusal :=
  .next (engStep (cycle s) m.val (fun s => lopDo s m.val 4 lsel.toNat 0 nxt.toNat))

def execLoad (m : Fin 4) (lsel : BitVec 3) (imm : BitVec 18) (s : State) : Host.Outcome State Fault Refusal :=
  .next (engStep (cycle s) m.val (fun s => lopDo s m.val 5 lsel.toNat imm.toNat 0))

def execLoadr (m : Fin 4) (lsel : BitVec 3) (s : State) : Host.Outcome State Fault Refusal :=
  .next (engStep (cycle s) m.val (fun s => lopDo s m.val 6 lsel.toNat 0 0))

def execLoopDec (m : Fin 4) (lsel : BitVec 3) (s : State) : Host.Outcome State Fault Refusal :=
  .next (engStep (cycle s) m.val (fun s => lopDo s m.val 7 lsel.toNat 0 0))

def execLoopInc (m : Fin 4) (lsel : BitVec 3) (s : State) : Host.Outcome State Fault Refusal :=
  .next (engStep (cycle s) m.val (fun s => lopDo s m.val 8 lsel.toNat 0 0))

def execBreakLoop (m : Fin 4) (s : State) : Host.Outcome State Fault Refusal :=
  .next (engStep (cycle s) m.val (fun s => lopDo s m.val 9 0 0 0))

def execVaInc (m : Fin 4) (tset : BitVec 6) (s : State) : Host.Outcome State Fault Refusal :=
  .next (engVop (cycle s) m.val 0 0 0 tset.toNat)

def execHold (m : Fin 4) (tset : BitVec 6) (s : State) : Host.Outcome State Fault Refusal :=
  .next (engVop (cycle s) m.val 1 0 0 tset.toNat)

def execJmp (m : Fin 4) (tset : BitVec 6) (imm : BitVec 18) (s : State) : Host.Outcome State Fault Refusal :=
  .next (engVop (cycle s) m.val 2 imm.toNat 0 tset.toNat)

def execJmph (m : Fin 4) (tset : BitVec 6) (imm : BitVec 18) (s : State) : Host.Outcome State Fault Refusal :=
  .next (engVop (cycle s) m.val 3 imm.toNat 0 tset.toNat)

/-- RETVA (R228): the word at VA issues; VA takes its saved value at the pop of the word's RETURN. -/
def execRetva (m : Fin 4) (tset : BitVec 6) (s : State) : Host.Outcome State Fault Refusal :=
  .next (engVop (cycle s) m.val 4 0 0 tset.toNat)

def execRel (m : Fin 4) (tset : BitVec 6) (imm : BitVec 18) (s : State) : Host.Outcome State Fault Refusal :=
  .next (engVop (cycle s) m.val 5 imm.toNat 0 tset.toNat)

def execIdx (m : Fin 4) (tset : BitVec 6) (imm : BitVec 18) (lsel : BitVec 3) (s : State) : Host.Outcome State Fault Refusal :=
  .next (engVop (cycle s) m.val 6 imm.toNat lsel.toNat tset.toNat)

def execGateOn (m : Fin 4) (t : Stamp) (s : State) : Host.Outcome State Fault Refusal :=
  .next (engAct (cycle s) m.val (fun s => forAll (bndMem s (16 + m.val)) s (fun s p => gateOpen s p t)))

def execGateOff (m : Fin 4) (t : Stamp) (s : State) : Host.Outcome State Fault Refusal :=
  .next (engAct (cycle s) m.val (fun s => forAll (bndMem s (16 + m.val)) s (fun s p => gateClose s p t)))

/-- GATE_WORD (R214): open from `t` to `te`, then as it was. -/
def execGateWord (m : Fin 4) (t te : Stamp) (s : State) : Host.Outcome State Fault Refusal :=
  .next (engAct (cycle s) m.val (fun s => forAll (bndMem s (16 + m.val)) s (fun s p =>
    if (acqOf s p).gate.isSome then s else gateClose (gateOpen s p t) p te)))

def execTrig (m : Fin 4) (t : Stamp) (s : State) : Host.Outcome State Fault Refusal :=
  .next (engAct (cycle s) m.val (fun s => capTrig s (16 + m.val) t))

def execMark (m : Fin 4) (t : Stamp) (s : State) : Host.Outcome State Fault Refusal :=
  .next (engAct (cycle s) m.val (fun s => capMark s (16 + m.val) t))

def execFlagSet (m k : Fin 4) (t : Stamp) (s : State) : Host.Outcome State Fault Refusal :=
  .next (engAct (cycle s) m.val (fun s => setFlag s m.val k.val true t))

def execFlagClear (m k : Fin 4) (t : Stamp) (s : State) : Host.Outcome State Fault Refusal :=
  .next (engAct (cycle s) m.val (fun s => setFlag s m.val k.val false t))

def execFlagToggle (m k : Fin 4) (t : Stamp) (s : State) : Host.Outcome State Fault Refusal :=
  .next (engAct (cycle s) m.val (fun s => setFlag s m.val k.val (!getFlag s m.val k.val) t))

/-- END (R216): end of test. -/
def execEndTest (m : Fin 4) (s : State) : Host.Outcome State Fault Refusal :=
  .next (engAct (cycle s) m.val (fun s => endIssue s (16 + m.val) 1 1 false))

def execEngineEventPulse (m line : Fin 4) (code : BitVec 4) (t : Stamp) (s : State) : Host.Outcome State Fault Refusal :=
  .next (engAct (cycle s) m.val (fun s => engEvent s m.val line.val 1 code t))

def execEngineEventAssert (m line : Fin 4) (code : BitVec 4) (t : Stamp) (s : State) : Host.Outcome State Fault Refusal :=
  .next (engAct (cycle s) m.val (fun s => engEvent s m.val line.val 2 code t))

def execEngineEventDeassert (m line : Fin 4) (code : BitVec 4) (t : Stamp) (s : State) : Host.Outcome State Fault Refusal :=
  .next (engAct (cycle s) m.val (fun s => engEvent s m.val line.val 3 code t))

end Sys2Proof.Machine
end

