-- ==== Sys2Proof/Machine/Sec.lean ====
section
/-! DEFINITION. Security: firmware images, anti-rollback, keys, lifecycle, attestation, Custodian sessions, the mailbox (R447 to
R449, R457 to R466). -/

namespace Sys2Proof.Machine

def secOf (s : State) (p : Nat) : SecP := Store.get s.sec.ports {} p
def setSec (s : State) (p : Nat) (x : SecP) : State := { s with sec := { s.sec with ports := Store.put s.sec.ports {} p x } }

def romrec (s : State) : Bool := isSet s F.SEC_STATE_ROMREC 0

/-- The epoch of a port (R379). -/
def epochOf (s : State) (p : Nat) : Nat := getF s F.PHL_STATE_EPOCH (sessPort s p)

/-! Anti-rollback and keys (R449, R458). -/

/-- ARB.ADV. -/
def advGo (s : State) : State :=
  if romrec s || s.otp.lc == 0 then raise s .sec 0 E.SEC_ARB_REJECT
  else
    let n := Nat.max s.otp.arb (match s.sec.img with | some x => x.svn.toNat | none => 0)
    setF { s with otp := { s.otp with arb := n } } F.SEC_ARB_COUNT 0 n

/-- KEYCTL.PROG carried by `port`. -/
def progGo (s : State) (port : Nat) : State :=
  let k := getF s F.SEC_KEYCTL_SLOT 0
  if s.otp.lc == 3 || !(Store.get s.otp.okh [] k).isEmpty then raise s .sec 0 E.SEC_KEY_REJECT
  else
    setF { s with otp := { s.otp with okh := Store.put s.otp.okh [] k (Memory.readN s.mbox (mbReq port) 32) } }
      F.SEC_KEYSLOT_PROGD 0 (getF s F.SEC_KEYSLOT_PROGD 0 ||| 2 ^ k)

/-- KEYCTL.REVOKE. -/
def revokeGo (s : State) : State :=
  let k := getF s F.SEC_KEYCTL_SLOT 0
  setF { s with otp := { s.otp with revoked := if s.otp.revoked.contains k then s.otp.revoked else k :: s.otp.revoked } }
    F.SEC_KEYSLOT_REVOKED 0 (getF s F.SEC_KEYSLOT_REVOKED 0 ||| 2 ^ k)

/-! Lifecycle (R459, R460). -/

/-- R460: TARGET follows the present lifecycle; only Development may be skipped. -/
def lcLater (lc t : Nat) : Bool := t == lc + 1 || (lc == 0 && t == 2)

/-- LCCTL.GO. -/
def lcGo (s : State) : State :=
  let t := getF s F.SEC_LCCTL_TARGET 0
  if getF s F.SEC_LCCTL_KEY 0 ≠ 0x5A then s
  else if lcLater s.otp.lc t && (List.range 64).all (fun p => rsOf s p == .off || rsOf s p == .dike) then
    setF { s with sec := { s.sec with lcTo := some t } } F.SEC_LCCTL_GO 0 1
  else raise s .sec 0 E.SEC_LC_REJECT

def showLc (s : State) : State := setF (setF s F.SEC_STATE_LIFECYCLE 0 s.otp.lc) F.DEV_STATE_LIFECYCLE 0 s.otp.lc

/-- LC_DONE: the fuses are blown. -/
def lcEnd (s : State) : State :=
  match s.sec.lcTo with
  | none => s
  | some t =>
    let s1 := showLc { s with sec := { s.sec with lcTo := none }, otp := { s.otp with lc := t } }
    let s2 := raise (setF s1 F.SEC_LCCTL_GO 0 0) .sec 0 E.SEC_LC_DONE
    if t = 3 then
      forAll [0, 1] { s2 with otp := { s2.otp with seeds := false },
                              nvm := { s2.nvm with recs := s2.nvm.recs.filter (fun x => x.ring == 3) } }
        (fun s p => lowerSess s p 1)
    else s2

def execLcDone (s : State) : Host.Outcome State Fault Refusal := .next (lcEnd (cycle s))

/-! Custodian sessions (R463, R464). -/

/-- Ten seconds. -/
def tenSeconds : Stamp := ticks 16000000000

/-- The nonce of a port as bytes. -/
def nonceBytes (s : State) (p : Nat) : List Byte := (List.range 8).flatMap (fun j => toBytes 4 (getF s (F.SEC_NONCE_N p j) 0))

/-- AUTHCTLp.CHREQ: a fresh nonce bound to the port's epoch. -/
def chreqGo (s : State) (p : Nat) : State :=
  let v := (Config.nonce s.free).toNat
  let s1 := forAll (List.range 8) { s with free := s.free + 1 } (fun s j => setF s (F.SEC_NONCE_N p j) 0 (bits v (32 * j) 32))
  setSec (setF s1 (F.SEC_AUTHSTAT_EPOCH p) 0 (epochOf s p)) p { secOf s1 p with chal := some (now s) }

/-- The result of a check that starts now (R464). -/
def authVerdict (s : State) (p : Nat) : Nat :=
  let x := secOf s p
  let k := getF s (F.SEC_AUTHCTL_SLOT p) 0
  let key := Memory.readN s.mbox (mbReq p) 48
  let msg := toBytes 8 s.otp.serial.toNat ++ toBytes 1 p ++ toBytes 1 (getF s (F.SEC_AUTHSTAT_EPOCH p) 0) ++ nonceBytes s p
  if (match x.lockout with | some t => earlier (now s) t | none => false) then 8
  else if s.otp.lc = 3 then 7
  else if (match x.chal with | some t => earlier (t + tenSeconds) (now s) | none => true) then 2
  else if !okhValid s k then 3
  else if Config.sha256 key ≠ Store.get s.otp.okh [] k then 4
  else if !Config.slhVerify key ctxAuth msg (Memory.readN s.mbox (mbReq p + 48) 16224) then 5
  else if getF s (F.SEC_AUTHSTAT_EPOCH p) 0 ≠ epochOf s p then 6
  else 1

/-- AUTHCTLp.GO: the challenge is used. -/
def authGo (s : State) (p : Nat) : State :=
  setF (setSec s p { secOf s p with chal := none, verdict := some (authVerdict s p), goEpoch := epochOf s p })
    (F.SEC_AUTHCTL_GO p) 0 1

/-- The check ends: RESULT is set, the session is raised or unchanged. -/
def authEnd (s : State) (p : Nat) : State :=
  let x := secOf s p
  match x.verdict with
  | none => s
  | some v =>
    let r := if v ≠ 8 ∧ x.goEpoch ≠ epochOf s p then 6 else v
    let s1 := setF (setF s (F.SEC_AUTHSTAT_RESULT p) 0 r) (F.SEC_AUTHCTL_GO p) 0 0
    if r = 1 then
      raise (setSess (setSec s1 p { x with verdict := none, fails := 0 }) p 2) .sec 0 E.SEC_AUTH_OK
    else
      let y := if r = 8 then { x with verdict := none }
        else if x.fails = 3 then { x with verdict := none, fails := 0, lockout := some (now s + tenSeconds) }
        else { x with verdict := none, fails := x.fails + 1 }
      raise (setSec s1 p y) .sec 0 E.SEC_AUTH_FAIL

def execAuthResult (port : Fin 2) (s : State) : Host.Outcome State Fault Refusal := .next (authEnd (cycle s) port.val)

/-! Attestation (R462). -/

/-- The privileged fields of a page and instance outside the indirect spaces, without FORCE. -/
def privRows (p : Page) (n : Nat) : List (Fld × Nat) :=
  ((pageRows p n).filter (fun f => f.priv && f != F.FORCE p)).map (fun f => (f, n))

/-- The fields of FLT space 0x1, word by word. -/
def fltWords : List (Fld × Nat) :=
  (List.range 192).flatMap (fun i => [F.FLT_X1_EN i, F.FLT_X1_CLASS i, F.FLT_X1_REACT i, F.FLT_X1_AUTOREC i, F.FLT_X1_QUIET i,
    F.FLT_X1_TGT i].map (fun f => (f, 0)))

/-- The fields that the configuration digest covers, in the order of R406. -/
def digestFields : List (Fld × Nat) :=
  allPages.flatMap (fun p => (List.range p.count).map (fun n => (F.FORCE p, n))) ++ privRows .dev 0 ++
  (List.range 64).flatMap (privRows .pol) ++
  (List.range 64).flatMap (fun o => (List.range 8).flatMap (fun j => [(F.OCT_X1_CLAMP_CLHI j, o), (F.OCT_X1_CLAMP_CLLO j, o)])) ++
  (List.range 64).flatMap (fun o => (List.range 8).flatMap (fun j => [(F.OCT_X6_DSKD_DDSK j, o), (F.OCT_X6_DSKC_CDSK j, o),
    (F.OCT_X6_TCOEF_TCD j, o), (F.OCT_X6_TCOEF_TCC j, o), (F.OCT_X6_CALINFO_T0 j, o)])) ++
  (List.range 4).flatMap (privRows .dsc) ++ privRows .clk 0 ++ privRows .bgl 0 ++ privRows .phl 0 ++ privRows .flt 0 ++ fltWords ++
  privRows .hkp 0 ++ privRows .nvm 0 ++ privRows .sec 0

/-- A loaded record, whole: header, payload, CRC field and commit word (R452). -/
def recWhole (r : NvmRecord) : List Byte :=
  let body := toBytes 2 r.typ.toNat ++ toBytes 2 r.ver.toNat ++ toBytes 4 r.payload.length ++ toBytes 8 r.seq.toNat ++
    r.payload ++ List.replicate ((4 - r.payload.length % 4) % 4) 0
  body ++ toBytes 4 (crc32c body).toNat ++ toBytes 4 r.commit.toNat

/-- The fields of a report made now with the host's nonce. -/
def reportBody (s : State) (nonce : List Byte) : List Byte :=
  let svn := match s.sec.img with | some x => x.svn.toNat | none => 0
  toBytes 4 1 ++ toBytes 8 s.otp.serial.toNat ++ toBytes 1 s.otp.lc ++ toBytes 1 s.otp.arb ++ toBytes 1 svn ++
    toBytes 1 (b2n s.sec.slotB) ++ Config.sha256 Config.bootRom ++
    Config.sha256 (match s.sec.img with | some x => imgBytes x | none => []) ++
    Config.sha256 ((storeTypes.filterMap (loadedOf s)).flatMap recWhole) ++
    Config.sha256 (digestFields.flatMap (fun x => toBytes 4 (getF s x.1 x.2))) ++
    toBytes 8 s.bdn.toNat ++ nonce

/-! The mailbox (R465). -/

/-- The request of a port: its operation, length and payload. -/
def mbOp (s : State) (p : Nat) : Nat := ofBytes (Memory.readN s.mbox (mbReq p) 2)
def mbLen (s : State) (p : Nat) : Nat := ofBytes (Memory.readN s.mbox (mbReq p + 4) 4)
def mbPay (s : State) (p n : Nat) : List Byte := Memory.readN s.mbox (mbReq p + 16) n

/-- An operation of port `p` is under way; its reply waits for MB_DONE. -/
def mbRun (s : State) (p st : Nat) (reply : List Byte) (flash : Option FwImage) : State :=
  setF (setSec s p { secOf s p with mbStat := some st, mbReply := reply, mbFlash := flash }) (F.SEC_MBCTL_GO p) 0 1

/-- The operation of port `p` ends with a reply and a status. -/
def mbEnd (s : State) (p st : Nat) (reply : List Byte) : State :=
  let a := mbRep p
  let s1 := { s with mbox := Memory.writeN (Memory.writeN s.mbox (a + 4) (toBytes 4 reply.length)) (a + 16) reply }
  let s2 := setSec s1 p { secOf s1 p with mbStat := none, mbReply := [], mbFlash := none }
  raise (setF (setF s2 (F.SEC_MBSTAT_STATUS p) 0 st) (F.SEC_MBCTL_GO p) 0 0) .sec 0
    (if p = 0 then E.SEC_MB_DONE0 else E.SEC_MB_DONE1)

/-- NVM_READ: the newest record of a type; of FAULT entries the newest 1,024. -/
def nvmReply (s : State) (typ : Nat) : Option (List Byte) :=
  if typ = 0x10 then
    let l := ((s.nvm.recs.filter (fun x => committed x.r && x.r.typ.toNat == 0x10)).map (fun (x : FlashRec) => x.r)).reverse.take 1024
    l.head?.map (fun (r : NvmRecord) => toBytes 8 r.seq.toNat ++ l.flatMap (·.payload))
  else
    let r : Option NvmRecord := match loadedOf s typ with
      | some r => some r
      | none => if storeTypes.contains typ then none else (newestOf s typ).map (fun x => x.r)
    r.map (fun (r : NvmRecord) => toBytes 8 r.seq.toNat ++ r.payload)

/-- A reply that may be missing: its status is then free, since the manual states none. -/
def mbReplyRun (s : State) (p : Nat) (r : Option (List Byte)) : State :=
  match r with
  | some bs => mbRun s p 0 bs none
  | none => mbRun (freeW s).2 p ((freeW s).1.toNat % 256) [] none

/-- FW_UPDATE with the image `bs` whole. -/
def fwTake (s : State) (p : Nat) (bs : List Byte) : State :=
  match parseImg bs with
  | some x => if imgOk s x then mbRun s p 0 [] (some x) else mbRun s p 3 [] none
  | none => mbRun s p 3 [] none

/-- FW_UPDATE in ROM recovery: the bytes of the request area follow those taken before. -/
def fwPiece (s : State) (p : Nat) : State :=
  let bs := s.sec.recov ++ mbPay s p (mbLen s p)
  let whole := 16384 + ofBytes (bs.take 4)
  if 4 ≤ bs.length ∧ whole ≤ bs.length then fwTake { s with sec := { s.sec with recov := [] } } p bs
  else mbRun { s with sec := { s.sec with recov := bs } } p 0 [] none

/-- MBCTLp.GO, written by an initiator with privilege when `priv`. The ROM in recovery knows FW_UPDATE only (R455). -/
def mbGo (s : State) (p : Nat) (priv : Bool) : State :=
  let op := mbOp s p
  let len := mbLen s p
  if romrec s ∧ op ≠ 3 then mbRun s p 1 [] none
  else if op = 1 ∧ len = 0 then mbReplyRun s p ((loadedOf s 6).map (·.payload))
  else if op = 2 ∧ len = 32 then
    if s.otp.lc = 3 then mbRun s p 2 [] none
    else
      let s1 := setSec { s with sec := { s.sec with att := s.sec.att ++ [p] } } p { secOf s p with mbReply := mbPay s p 32 }
      setF (setF s1 F.SEC_STATE_ATTBUSY 0 1) (F.SEC_MBCTL_GO p) 0 1
  else if op = 3 ∧ (if romrec s then decide (len ≤ 65520) else len == 12) then
    if !priv then mbRun s p 2 [] none
    else if s.nvm.op.isSome then mbRun s p 4 [] none
    else if romrec s then fwPiece s p
    else
      let q := mbPay s p 12
      fwTake s p (Memory.readN s.dram (ofBytes (q.take 8)) (ofBytes (q.drop 8)))
  else if op = 4 ∧ len = 2 then mbReplyRun s p (nvmReply s (ofBytes (mbPay s p 2)))
  else mbRun s p 1 [] none

/-- The slot that FW_UPDATE writes: the one not running. -/
def spareSlotB (s : State) : Bool := s.sec.img.isSome && !s.sec.slotB

/-- A slot takes an image. -/
def flashSlot (s : State) (b : Bool) (x : FwImage) : State :=
  let h := getF s F.NVM_POH_H 0
  let n := if b then { s.nvm with slotB := some x, hourB := h, eraseB := s.nvm.eraseB + 1, slotHr := some h }
    else { s.nvm with slotA := some x, hourA := h, eraseA := s.nvm.eraseA + 1, slotHr := some h }
  let s1 := { s with nvm := n }
  setF s1 F.NVM_WEAR_N 0 (wearOf s1)

/-- MB_DONE. -/
def execMbDone (port : Fin 2) (ok : Bool) (s : State) : Host.Outcome State Fault Refusal :=
  let s := cycle s
  let p := port.val
  let x := secOf s p
  .next (match x.mbStat with
    | none => s
    | some st =>
      match x.mbFlash with
      | none => mbEnd s p st x.mbReply
      | some img => if ok then mbEnd (flashSlot s (spareSlotB s) img) p 0 [] else mbEnd s p 5 [])

/-- ATTEST_DONE: the report of the port at the front of the queue, over the nonce that its request gave, is signed and written, from
BOOT 1 on. -/
def execAttestDone (port : Fin 2) (s : State) : Host.Outcome State Fault Refusal :=
  let s := cycle s
  let p := port.val
  .next (match s.sec.att with
    | [] => s
    | q :: l =>
      if q = p ∧ getF s F.DEV_STATE_BOOT 0 ≠ 0 then
        let body := reportBody s (secOf s p).mbReply
        mbEnd (setF { s with sec := { s.sec with att := l } } F.SEC_STATE_ATTBUSY 0 (b2n (!l.isEmpty))) p 0
          (body ++ Config.slhSign ctxAtt body)
      else s)

end Sys2Proof.Machine
end

