-- ==== Sys2Proof/Machine/Thermal.lean ====
section
/-! DEFINITION. The housekeeping round, sensors, throttling, thermal shutdown (R427 to R440). -/

namespace Sys2Proof.Machine

/-! Sensors and groups (R427, R428). -/

def sensOf (s : State) (i : Nat) : Sens := Store.get s.hkp.sens {} i
def setSens (s : State) (i : Nat) (x : Sens) : State := { s with hkp := { s.hkp with sens := Store.put s.hkp.sens {} i x } }

/-- The group of a sensor: 0 to 7 the channel dies, 8 the hub, 9 the DRAM. -/
def sensGroup (i : Nat) : Nat := if i < 32 then i / 4 else if i < 38 then 8 else 9

/-- Sensors of channel dies whose rails have not come up are not sampled. -/
def sampled (s : State) (i : Nat) : Bool := decide (32 ≤ i) || isSet s F.DEV_STATE_MAINPWR 0

def sensFailed (s : State) (i : Nat) : Bool := isSet s (F.HKP_X1_FAILED i) 0

/-- R430: a valid sensor. -/
def sensValid (s : State) (i : Nat) : Bool := sampled s i && !sensFailed s i

/-- The value in use. -/
def sensVal (s : State) (i : Nat) : Int := signed (getF s (F.HKP_X1_T i) 0) 16

/-- The largest value in use of the sensors of `l`. -/
def maxVal (s : State) (l : List Nat) : Option Int :=
  l.foldl (fun m i => match m with | none => some (sensVal s i) | some v => some (max v (sensVal s i))) none

/-! Judging (R429). -/

/-- The last 64 readings, with the present one. -/
def last64 (s : State) (i : Nat) (v : Int) : List Int := (v :: (sensOf s i).hist).take 64

def spread (l : List Int) : Int :=
  match l with
  | [] => 0
  | v :: t => t.foldl max v - t.foldl min v

/-- Why a reading is judged failing: 1 range, 2 stuck, 3 rate, 0 not. `rd` gives the readings of the round. -/
def whyFailing (s : State) (rd : Nat → Int) (i : Nat) : Nat :=
  let v := rd i
  let h := (sensOf s i).hist
  let same := last64 s i v
  let other := (List.range 40).any (fun j => j != i && sensGroup j == sensGroup i && sensValid s j &&
    (last64 s j (rd j)).length == 64 && decide (16 ≤ spread (last64 s j (rd j))))
  if v < -400 ∨ 1280 < v then 1
  else if same.length = 64 ∧ same.all (· == v) ∧ other then 2
  else match h with
    | p :: _ => if 1024 < (v - p).natAbs * 10 then 3 else 0
    | [] => 0

/-- FAILMAP shows the failed sensors. -/
def showFailmap (s : State) : State :=
  let m := ((List.range 40).map (fun i => if sensFailed s i then 2 ^ i else 0)).sum
  setF (setF s F.HKP_FAILMAP_LO_F 0 (m % 2 ^ 32)) F.HKP_FAILMAP_HI_F 0 (m / 2 ^ 32)

/-- One sensor in a round, judged `why`: its value is used, held, or the sensor is declared failed. One that has failed is still
judged, and keeps what it failed by (R442). -/
def judgeSensor (rd : Nat → Int) (why : Nat → Nat) (s : State) (i : Nat) : State :=
  if !sampled s i then s
  else
    let x := sensOf s i
    let v := rd i
    let w := why i
    let h := (v :: x.hist).take 65
    let s0 := setF s (F.HKP_X1_FAILING i) 0 (b2n (w != 0))
    if sensFailed s i then setSens s0 i { x with hist := h }
    else
      let s1 := setF (setF s0 (F.HKP_X1_SUBST i) 0 0) (F.HKP_X1_WHY i) 0 w
      if w = 0 then setF (setSens s1 i { hist := h, good := v, bad := false }) (F.HKP_X1_T i) 0 (unsign v 16)
      else if !x.bad then setF (setSens s1 i { x with hist := h, bad := true }) (F.HKP_X1_T i) 0 (unsign x.good 16)
      else
        let s2 := setF (setF (setSens s1 i { x with hist := h }) (F.HKP_X1_FAILED i) 0 1) (F.HKP_X1_SUBST i) 0 1
        raise (raise (addCt s2 F.HKP_SENSFAILCNT_N 0 1) .hkp 0 E.HKP_SENS_FAIL) .hkp 0 E.HKP_SUBST

/-- R430: the substitute of a failed sensor. Where no sensor of the module is valid it keeps its value. -/
def substitute (s : State) (i : Nat) : State :=
  if !sampled s i || !sensFailed s i then s
  else
    let grp := (List.range 40).filter (fun j => sensGroup j == sensGroup i && sensValid s j)
    let any := (List.range 40).filter (sensValid s)
    match maxVal s (if grp.isEmpty then any else grp) with
    | some v => setF s (F.HKP_X1_T i) 0 (unsign (v + 80) 16)
    | none => s

/-! The maximum (R431). -/

/-- The sensor with the largest value in use, the lowest-numbered of equals. -/
def hottest (s : State) : Nat :=
  ((List.range 40).filter (sampled s)).foldl (fun m i => if sensVal s m < sensVal s i then i else m) 32

def showMax (s : State) : State :=
  let h := hottest s
  let m := (List.range 40).find? (fun i => sampled s i && sensVal s i == sensVal s h)
  let i := m.getD h
  let sub := isSet s (F.HKP_X1_SUBST i) 0
  let s1 := setF (setF s F.HKP_TMAX_T 0 (unsign (sensVal s i) 16)) F.HKP_TMAX_SENSOR 0 i
  let s2 := setF (setF s1 F.HKP_TMAX_SUBSTITUTED 0 (b2n sub)) F.HKP_COND_SUBSTITUTED 0 (b2n sub)
  hubSource s2 0x804 sub

def tmax (s : State) : Int := signed (getF s F.HKP_TMAX_T 0) 16

/-! Throttling (R432 to R434). -/

/-- A from TMAX, rounded down to 1/256. -/
def activity (s : State) : Nat :=
  let t := tmax s
  let a := thr s F.HKP_THRA_THR_START
  let b := thr s F.HKP_THRA_THR_FULL
  if t < a then 256
  else if b ≤ t then 64
  else 256 - ((192 * (t - a) + (b - a) - 1) / (b - a)).toNat

/-- A takes the value `a`; below 256 the module throttles, at 256 every throttle debt is cleared. -/
def setActivity (s : State) (a : Nat) : State :=
  let on := decide (a < 256)
  let was := decide (getF s F.HKP_STATE_ACT 0 < 256)
  let s1 := setF (setF (setF s F.HKP_STATE_ACT 0 a) F.HKP_STATE_THROTTLING 0 (b2n on)) F.HKP_COND_THROTTLING 0 (b2n on)
  let s2 := if on && !was then
      let s2 := raise s1 .hkp 0 E.HKP_THR_ON
      { s2 with smb := { s2.smb with alert := true } }
    else s1
  let s3 := if on then s2 else forAll (List.range 20) s2 (fun s b => setBnd s b { bndOf s b with debt := 0 })
  hubSource s3 0x800 on

def setEarly (s : State) (v : Bool) : State :=
  hubSource (setF (setF s F.HKP_STATE_EARLY 0 (b2n v)) F.HKP_COND_EARLY 0 (b2n v)) 0x801 v

/-- R434: a sensor has risen by more than the limit over four rounds. `hist` holds the readings before the round. -/
def rorExceeded (s : State) (rd : Nat → Int) (why : Nat → Nat) : Bool :=
  (List.range 40).any (fun i => sensValid s i && why i == 0 &&
    (match (sensOf s i).hist[3]? with
     | some p => decide (1024 * ((Nat.max 1 (getF s F.HKP_RORCFG_LIM 0) : Nat) : Int) < 1250 * (rd i - p))
     | none => false))

/-- Early throttle starts or restarts, or ends with the cause of FS187. -/
def rateOfRise (s : State) (rise : Bool) : State :=
  if rise then
    let s1 := setEarly s true
    raise { s1 with hkp := { s1.hkp with earlyT := now s1 } } .hkp 0 E.HKP_EARLY_ON
  else if s.hkp.early then setEarly (causeOff { s with hkp := { s.hkp with early := false } } 187) false
  else s

/-- The activity of the round, with early throttle and the hold of R432; `began`: a substitution began in the round. -/
def throttle (s : State) (began : Bool) : State :=
  let a0 := if isSet s F.HKP_STATE_EARLY 0 then 64 else activity s
  let a := match s.hkp.cap with | some c => Nat.min c a0 | none => a0
  let s1 := setActivity s a
  if began then setF { s1 with hkp := { s1.hkp with cap := some a, capT := now s1 } } F.HKP_STATE_HOLD 0 1 else s1

/-! Shutdown (R435). -/

/-- THERMAL: stamp (8 bytes), TMAX (2), sensor (2), the ten group maxima (2 each), FAILMAP (8). -/
def thermalPayload (s : State) (t : Stamp) : List Byte :=
  toBytes 8 t.toNat ++ toBytes 2 (getF s F.HKP_TMAX_T 0) ++ toBytes 2 (getF s F.HKP_TMAX_SENSOR 0) ++
  (List.range 10).flatMap (fun g =>
    toBytes 2 (match maxVal s ((List.range 40).filter (fun i => sampled s i && sensGroup i == g)) with
      | some v => unsign v 16 | none => 0x8000)) ++
  toBytes 8 (getF s F.HKP_FAILMAP_LO_F 0 + 2 ^ 32 * getF s F.HKP_FAILMAP_HI_F 0)

/-- R435: the hardware cause of FS188 comes with its record, or goes. -/
def shutdown (s : State) (t : Stamp) : State :=
  let on := (fltOf s 188).hw
  if thr s F.HKP_THRB_THR_SHUT ≤ tmax s ∧ !on then
    let q := nextSeq s
    let s1 := writeRec (raise (shutSource (causeOn (setF s F.HKP_THCTL_THACK 0 0) 188 [])) .hkp 0 E.HKP_SHUTDOWN) 0x20
      (thermalPayload s t)
    setF { s1 with nvm := { s1.nvm with thermal := some (BitVec.ofNat 64 q) }, hkp := { s1.hkp with thack := false } }
      F.DEV_STATE_THERMREC 0 1
  else if tmax s < thr s F.HKP_THRB_THR_RESUME ∧ on then shutSource (causeOff s 188)
  else s

/-! Rails (R427). -/

/-- A rail that is judged: VDD_AUX always, every other once PWRGD_MAIN is asserted. -/
def railJudged (s : State) (r : Nat) : Bool := r == 17 || isSet s F.DEV_STATE_MAINPWR 0

/-- A cause of the housekeeping unit takes the level `v`. -/
def levelCause (s : State) (f : Nat) (v : Bool) : State :=
  if v == (fltOf s f).hw then s else if v then causeOn s f [] else causeOff s f

/-- The operating range of the rail of word `r` in its units of 125 µV (R470); none for VPH, which a word cannot hold. -/
def railRange (r : Nat) : Option (Int × Int) :=
  if r < 8 then some (7760, 8240)
  else if r = 8 then none
  else if r = 9 then some (-28840, -27160)
  else if r < 14 then some (5820, 6180)
  else if r < 16 then some (6984, 7416)
  else if r = 16 then some (13680, 15120)
  else if r = 17 then some (25080, 27720)
  else if r < 20 then some (8000, 8800)
  else if r < 22 then some (6960, 7440)
  else some (3840, 4160)

/-- The rails whose samples lie outside their ranges; of VPH the converter itself tells (`vph`, log entry 81). -/
def railsOut (smp : List (BitVec 16)) (vph : Bool) : List Nat :=
  (List.range 24).filter (fun r => match railRange r with
    | some x => let v := signed (smp.getD (104 + r) 0).toNat 16; decide (v < x.1) || decide (x.2 < v)
    | none => vph)

/-- Rails out of range in two consecutive rounds. -/
def rails (s : State) (smp : List (BitVec 16)) (out : List Nat) : State :=
  let oor (r : Nat) : Bool := out.contains r && s.hkp.rails.contains r && railJudged s r
  let s1 := forAll (List.range 24) s (fun s r =>
    setF (setF s (F.HKP_X2_V r) 0 (smp.getD (104 + r) 0).toNat) (F.HKP_X2_OOR r) 0 (b2n (oor r)))
  let any := (List.range 24).any oor
  let s2 := raiseIf (any && !isSet s1 F.HKP_COND_RAIL_OOR 0) s1 .hkp 0 E.HKP_RAIL_OOR
  let s3 := hubSource (setF s2 F.HKP_COND_RAIL_OOR 0 (b2n any)) 0x806 any
  levelCause { s3 with hkp := { s3.hkp with rails := out } } 191 ((List.range 16).any (fun r => oor (8 + r)))

/-- FS(99 + 4k): VDD_CD out of range, or fewer than two valid sensors on the die. -/
def dieIntegrity (s : State) : State :=
  forAll (List.range 8) s (fun s k =>
    let n := ((List.range 4).filter (fun j => sensValid s (4 * k + j))).length
    levelCause s (99 + 4 * k) (isSet s (F.HKP_X2_OOR k) 0 || (isSet s F.DEV_STATE_MAINPWR 0 && decide (n < 2))))

/-- DIETEMP of each die: the mean of its valid sensors (R158), rounded down or up. -/
def dieTemps (s : State) : State :=
  forAll (List.range 8) s (fun s k =>
    let l := ((List.range 4).map (4 * k + ·)).filter (sensValid s)
    if l.isEmpty then s
    else
      let n : Int := l.length
      let t := (l.map (sensVal s)).sum
      let u := freeB s
      setF u.2 F.CDI_DIETEMP_T k (unsign (if t % n ≠ 0 ∧ u.1 then t / n + 1 else t / n) 16))

/-- R338: the servo compares the measured round trip of each CK0 copy with its target and moves its delay by at most one step. What is
measured is a free value (log entry 32). -/
def ck0Servo (s : State) : State :=
  if (getF s F.CLK_STATE_ONHOLD 0).testBit 0 then s
  else forAll (List.range 8) s (fun s d =>
    let u := freeW s
    let x := getF s (F.CLK_CK0CPY_DLY d) 0
    let trip := u.1.toNat % 4096
    let tgt := getF s (F.CLK_CK0CPY_TGT d) 0
    let y := if trip < tgt then Nat.min 4095 (x + 1) else if tgt < trip then x - 1 else x
    setF u.2 (F.CLK_CK0CPY_DLY d) 0 y)

/-- Measured voltages of the DS controllers (R143). -/
def dsMeas (s : State) (smp : List (BitVec 16)) : State :=
  forAll (List.range 32) s (fun s d =>
    setF (setF s (F.DSC_IMEAS_VS (d % 8)) (d / 8) (smp.getD (40 + d) 0).toNat)
      (F.DSC_VMEAS_V (d % 8)) (d / 8) (smp.getD (72 + d) 0).toNat)

/-- HOUSEKEEPING_ROUND. -/
def execHousekeepingRound (smp : List (BitVec 16)) (railOut : List (Fin 24)) (t : Stamp) (s : State) :
    Host.Outcome State Fault Refusal :=
  let s := reach (cycle s) t
  .next (if !s.pwr.aux then s
  else
    let rd (i : Nat) : Int := signed (smp.getD i 0).toNat 16
    let why := whyFailing s rd
    let rise := rorExceeded s rd why
    let n0 := getF s F.HKP_SENSFAILCNT_N 0
    let s1 := pinRails (rails (dsMeas s smp) smp (railsOut smp (railOut.contains 8)))
    let s2 := (List.range 40).foldl (judgeSensor rd why) s1
    let began := (List.range 40).any (fun i => sensFailed s2 i && !sensFailed s i) || getF s2 F.HKP_SENSFAILCNT_N 0 != n0
    let s3 := hubSource (forAll (List.range 40) (showFailmap s2) substitute) 0x803 ((List.range 40).any (sensFailed s2))
    let s4 := throttle (rateOfRise (showMax s3) rise) began
    let s5 := dieTemps (dieIntegrity (shutdown s4 t))
    let s6 := ck0Servo (deskewRound s5)
    let s7 := addCt (setF s6 F.HKP_STATE_FIRST 0 1) F.HKP_ROUNDCNT_N 0 1
    launch s7 { src := 0x805, pol := true, pulse := true, stamp := now s7 })

/-! Timed ends and commands (R430, R432, R434, R437, R438). -/

/-- EARLY_THROTTLE_EXPIRY: the 10 ms of early throttle have passed. -/
def execEarlyThrottleExpiry (s : State) : Host.Outcome State Fault Refusal :=
  let s := cycle s
  .next (if !isSet s F.HKP_STATE_EARLY 0 || s.hkp.early then s
  else
    let s1 := reach s (s.hkp.earlyT + msTicks 10)
    causeOn { s1 with hkp := { s1.hkp with early := true } } 187 [])

/-- SUBSTITUTION_HOLD_END. -/
def execSubstitutionHoldEnd (s : State) : Host.Outcome State Fault Refusal :=
  let s := cycle s
  .next (if s.hkp.cap.isNone then s
    else
      let s1 := reach s (s.hkp.capT + msTicks 100)
      setF { s1 with hkp := { s1.hkp with cap := none } } F.HKP_STATE_HOLD 0 0)

/-- THCTL.THACK. -/
def thackGo (s : State) : State :=
  if isSet s F.DEV_STATE_THERMREC 0 && !causeNow s 188 then
    setF { s with hkp := { s.hkp with thack := true } } F.HKP_THCTL_THACK 0 1
  else s

/-- The thermal records that no THACK record names. -/
def unacked (s : State) : List Nat :=
  let acks := (s.nvm.recs.filter (fun x => committed x.r && x.r.typ == 0x21)).map (fun x => ackedSeq x.r)
  (s.nvm.recs.filter (fun x => committed x.r && x.r.typ == 0x20 && !acks.contains x.r.seq.toNat)).map (·.r.seq.toNat)

/-- The acknowledgment is committed, unless FS188 has come back. -/
def thackEnd (s : State) : State :=
  if !s.hkp.thack then s
  else
    let s1 := setF { s with hkp := { s.hkp with thack := false } } F.HKP_THCTL_THACK 0 0
    if causeNow s1 188 then s1
    else
      let s2 := forAll (unacked s1) s1 (fun s q => writeRec s 0x21 (toBytes 8 q))
      raise (setF { s2 with nvm := { s2.nvm with thermal := none } } F.DEV_STATE_THERMREC 0 0) .hkp 0 E.HKP_THACK_DONE

/-- THACK_DONE. -/
def execThackDone (s : State) : Host.Outcome State Fault Refusal := .next (thackEnd (cycle s))

/-- THCTL.SENSCLR: until the next round gives the sensor a value, the substitute stands in its place. -/
def sensclrGo (s : State) : State :=
  let l := if isSet s F.HKP_THCTL_SENSALL 0 then List.range 40
    else if getF s F.HKP_THCTL_SENS 0 < 40 then [getF s F.HKP_THCTL_SENS 0] else []
  let s1 := forAll l s (fun s i =>
    if sensFailed s i then
      setF (setF (setSens s i { sensOf s i with hist := [], bad := false }) (F.HKP_X1_FAILED i) 0 0) (F.HKP_X1_WHY i) 0 0
    else s)
  hubSource (showFailmap s1) 0x803 ((List.range 40).any (sensFailed s1))

end Sys2Proof.Machine
end

