-- ==== Sys2Proof/Machine/Power.lean ====
section
/-! DEFINITION. Power, start-up, power-on reset and device reset (R404, R405, R422, R436, R443 to R448, R472, R475, R490). -/

namespace Sys2Proof.Machine

/-! Parts of the register store. -/

def keyPage (k : Nat) : Nat := k % 32
def keySpace (k : Nat) : Nat := k / 2 ^ 34 % 16
def keyOff (k : Nat) : Nat := k / 2 ^ 10 % 2 ^ 24

/-- A key lies in page `p` itself, at an offset that satisfies `f`. -/
def keyIn (p : Page) (f : Nat → Bool) (k : Nat) : Bool := keyPage k == p.code && keySpace k == 0 && f (keyOff k)

/-- The registers whose keys satisfy `f` keep their values; every other returns to its reset value. -/
def keepRegs (s : State) (f : Nat → Bool) : Store Word := s.regs.filter (fun e => f e.1)

/-! Power-on reset (R405, R472). -/

/-- A record write that power interrupts leaves a record without its commit word, and the write position at the first 16-byte
boundary after its CRC (R454, R466). -/
def cutWrite (s : State) : State :=
  match s.nvm.op with
  | some (.write typ payload _) =>
    let n := payload.length
    let s1 := makeRoom s typ.toNat (recBytes n)
    let g := nvmRing typ.toNat
    let s2 := programRec s1 { typ := typ, ver := 1, seq := BitVec.ofNat 64 (nextSeq s1), payload := payload, commit := 0xFFFFFFFF
                              crcOk := true }
    { s2 with nvm := { s2.nvm with wpos := Store.put s2.nvm.wpos 0 g (wposOf s1 g + (20 + (n + 3) / 4 * 4 + 15) / 16 * 16) } }
  | _ => s

/-- The module in power-on reset: the flash and the OTP keep their contents, everything else is as after reset. -/
def powerOn (s : State) (aux : Bool) : State :=
  let n := (cutWrite s).nvm
  { State.reset with
    nvm := { n with loaded := [], op := none, fltStamps := [], thermal := none }
    otp := s.otp
    pwr := { State.reset.pwr with aux := aux }
    free := s.free
    pending := s.pending }

/-- PWRGD_AUX_ASSERT: power-on reset ends; the boot ROM starts. -/
def execPwrgdAuxAssert (s : State) : Host.Outcome State Fault Refusal :=
  let s := cycle s
  .next (if s.pwr.aux then s else powerOn s true)

/-- PWRGD_AUX_DEASSERT: the always-on domain is held in power-on reset; the main domains are as without power. -/
def execPwrgdAuxDeassert (s : State) : Host.Outcome State Fault Refusal := .next (powerOn (cycle s) false)

/-- SURPRISE_POWER_LOSS (R475): every rail falls; pins are in high impedance and no supply is driven. -/
def execSurprisePowerLoss (s : State) : Host.Outcome State Fault Refusal := .next (powerOn (cycle s) false)

/-! Start-up (R443, R448, R454). -/

/-- OTP_READ: the crystal is stable and the auxiliary PLL locked (R328, R443); the fields that come from the OTP take their values
(R401, R459, R468). -/
def execOtpRead (s : State) : Host.Outcome State Fault Refusal :=
  let s := cycle s
  .next (if !s.pwr.aux || s.pwr.otp then s
  else
    let s0 := { s with pwr := { s.pwr with otp := true }, clk := { s.clk with apll := !isSet s F.CLK_COND_XO_FAIL 0 } }
    let s1 := set64 (showLc s0) F.DEV_SERIAL_LO_SN F.DEV_SERIAL_HI_SN 0 s.otp.serial
    let slots (f : Nat → Bool) : Nat := ((List.range 4).map (fun k => if f k then 2 ^ k else 0)).sum
    setF (setF (setF s1 F.SEC_ARB_COUNT 0 s.otp.arb) F.SEC_KEYSLOT_PROGD 0 (slots (fun k => !(Store.get s.otp.okh [] k).isEmpty)))
      F.SEC_KEYSLOT_REVOKED 0 (slots (fun k => s.otp.revoked.contains k)))

/-- R448: of two images, the one that runs is the one with the higher SVN, then the higher version, then that of slot A. -/
def preferB (a b : FwImage) : Bool :=
  let rank (x : FwImage) : Nat := 2 ^ 32 * x.svn.toNat + 2 ^ 16 * x.major.toNat + x.minor.toNat
  decide (rank a < rank b)

/-- The image that the boot ROM runs, and whether it stands in slot B. -/
def bootImage (s : State) : Option (FwImage × Bool) :=
  match s.nvm.slotA.filter (imgOk s), s.nvm.slotB.filter (imgOk s) with
  | some a, some b => some (if preferB a b then (b, true) else (a, false))
  | some a, none => some (a, false)
  | none, some b => some (b, true)
  | none, none => none

/-- R446: with main power, the ROM in recovery lets the MPLL acquire lock. -/
def romClock (s : State) : State :=
  if romrec s && isSet s F.DEV_STATE_MAINPWR 0 && mstate s == 0 then acquire s false else s

/-- IMAGE_VERIFY: an image runs, or the ROM enters recovery (R446). -/
def execImageVerify (s : State) : Host.Outcome State Fault Refusal :=
  let s := cycle s
  .next (if !s.pwr.otp || s.pwr.img || romrec s then s
  else match bootImage s with
    | none => romClock (setF s F.SEC_STATE_ROMREC 0 1)
    | some (x, b) =>
      let s1 := { s with pwr := { s.pwr with img := true }, sec := { s.sec with img := some x, slotB := b } }
      setF (setF (setF s1 F.DEV_FWVER_MINOR 0 x.minor.toNat) F.DEV_FWVER_MAJOR 0 x.major.toNat) F.SEC_ARB_FWSVN 0 x.svn.toNat)

/-- R436: an unacknowledged thermal record puts the module into Embankment mode with FS188 LATCHED (R414, R418). -/
def thermalStart (s : State) : State :=
  if s.nvm.thermal.isSome then
    let s1 := if fstate s 188 = 0 then
        let s0 := setFstate (setFlt s 188 { fltOf s 188 with react := 3, occNames := List.range 64 }) 188 3
        faultRecord (raise s0 .flt 0 E.FLT_LATCHED) 188 (now s) 3 (List.range 64) true
      else s
    faultSources (embank s1 1 188 (now s1))
  else s

/-- Records are selected and applied; a source that they disable is CLEAR (R413). -/
def loadRecords (s : State) : State := forAll (List.range 192) (applyRecords (selectRecords s)) fltDisable

/-- NVM_LOAD: records are selected and applied, the PWRUP values reach the outputs, MPLL acquisition starts; BOOT is 1. -/
def execNvmLoad (s : State) : Host.Outcome State Fault Refusal :=
  let s := cycle s
  .next (if s.pwr.img && isSet s F.DEV_STATE_MAINPWR 0 && getF s F.DEV_STATE_BOOT 0 == 0 then
      let s1 := acquire (applyPwrup (loadRecords s)) false
      thermalStart (setF s1 F.DEV_STATE_BOOT 0 1)
    else s)

/-- BOOT_READY: once the PHYs are initialised BOOT reaches 4, with or without an ACTIVE port. -/
def execBootReady (s : State) : Host.Outcome State Fault Refusal :=
  let s := cycle s
  .next (if s.pwr.phy && (getF s F.DEV_STATE_BOOT 0 == 2 || getF s F.DEV_STATE_BOOT 0 == 3) then
      raise (setF s F.DEV_STATE_BOOT 0 4) .dev 0 E.DEV_READY
    else s)

/-- R138: a controller that Embankment mode holds OFF stays so over a device reset and a return of main power. -/
def heldDss (s : State) : Store Ds := (s.dss.filter (fun e => e.2.held)).map (fun e => (e.1, { held := true }))

/-! Main power (R422). -/

/-- The router sources that hub blocks drive by level show their levels, as after a reset of the router (R357, R416, R439). -/
def hubLevels (s : State) : State :=
  let lost := isSet s F.BGL_COND_SYNC_LOST 0
  let echo := isSet s F.BGL_STATE_SYNC 0 && !isSet s F.BGL_STATE_ECHO_VALID 0
  let lv : List (Nat × Bool) := [(0x705, lost), (0x706, s.clk.lost), (0x707, echo), (0x800, decide (getF s F.HKP_STATE_ACT 0 < 256)),
    (0x801, isSet s F.HKP_STATE_EARLY 0), (0x803, (List.range 40).any (sensFailed s)), (0x804, isSet s F.HKP_COND_SUBSTITUTED 0),
    (0x806, isSet s F.HKP_COND_RAIL_OOR 0)]
  shutSource (lv.foldl (fun s e => hubSource s e.1 e.2) (faultSources s))

/-- What the always-on domain and the fault collector keep while main power is absent; the rest returns to its reset value. The count
starts at 0, and spans go on from where they stood (R341). -/
def mainReset (z : State) : State :=
  let s := shiftSpans z (0 - now z)
  let kept (k : Nat) : Bool := [Page.dev, .flt, .hkp, .nvm].any (fun p => keyPage k == p.code) ||
    keyIn .sec (fun o => o == 0x00C || o == 0x044 || o == 0x048) k
  let alwaysOn : List Nat := [187, 188, 191]
  let s1 : State := { State.reset with
    regs := keepRegs s kept
    flts := s.flts.map (fun e => (e.1, { e.2 with
      hw := e.2.hw && alwaysOn.contains e.1, due := e.2.due && alwaysOn.contains e.1 }))
    fltBad := s.fltBad
    dss := heldDss s
    hkp := s.hkp
    pwr := { s.pwr with phy := false, wdt := false }
    nvm := s.nvm
    clk := { lost := s.clk.lost, apll := s.clk.apll }
    otp := s.otp
    sec := { s.sec with ports := [], att := [], lcTo := none }
    smb := s.smb
    jtag := s.jtag
    mbox := s.mbox
    free := s.free
    pending := s.pending }
  [F.DEV_STATE_BOOT, F.NVM_STATE_LOADED, F.SEC_STATE_ATTBUSY, F.DEV_STATE_RSTBUSY, F.DEV_RSTCTL_GO, F.SEC_ARB_ADV].foldl
    (fun s f => setF s f 0 0) { s1 with flts := s1.flts.filter (fun e => e.2 != {}) }

/-- The main domains lose power: polders in DIKE, supplies OFF without a ramp, links DOWN, DRAM, pool and cache lost. -/
def mainLost (s : State) (t : Stamp) : State :=
  let s1 := forAll (List.range 64) s (fun s p => dikeEntry s p 5)
  let s2 := forAll (List.range 32) s1 (fun s d => dsOff (showRamp s d false) d t)
  let s3 := forAll [0, 1] s2 (fun s p => if lstate s p = 0 then s else goDown s p)
  let s4 := { s3 with dram := [], dramBad := [], strms := [], pool := [], pwr := { s3.pwr with phy := false } }
  pinRails (setF (forAll (List.range 20) s4 cacheFree) F.DEV_STATE_BOOT 0 0)

/-- PWRGD_MAIN_DEASSERT (R422). A loss before step 4 of R473 has completed comes before PWRGD_MAIN_ASSERT, which is that step, and
changes nothing (R475; log entry 79). -/
def execPwrgdMainDeassert (t : Stamp) (s : State) : Host.Outcome State Fault Refusal :=
  let s := cycle s
  .next (if !isSet s F.DEV_STATE_MAINPWR 0 then s
  else
    let s1 := setF (reach s t) F.DEV_STATE_MAINPWR 0 0
    mainLost (occur (causeOn s1 189 []) 189 t) t)

/-- PWRGD_MAIN_ASSERT: the main domains start from their reset values; the Bourdon count from 0. At start-up nothing has run that a
reset could undo, and no EVT bit clears (R490). -/
def execPwrgdMainAssert (s : State) : Host.Outcome State Fault Refusal :=
  let s := cycle s
  .next (if !s.pwr.aux || isSet s F.DEV_STATE_MAINPWR 0 then s
  else
    let s1 := if s.pwr.ran then mainReset s else { shiftSpans s (0 - now s) with bdn := 0 }
    romClock (hubLevels (setF { s1 with pwr := { s1.pwr with ran := true } } F.DEV_STATE_MAINPWR 0 1)))

/-! Device reset (R404, R445). -/

/-- Steps 1 and 2: RSTBUSY is set and every polder that is not OFF enters DIKE as for a host DIKE command. -/
def resetGo (s : State) : State :=
  forAll (List.range 64) (setF (setF s F.DEV_STATE_RSTBUSY 0 1) F.DEV_RSTCTL_GO 0 1) (fun s p => dikeEntry s p 2)

/-- WATCHDOG_EXPIRY: a device reset. -/
def execWatchdogExpiry (s : State) : Host.Outcome State Fault Refusal :=
  let s := cycle s
  .next (if !s.pwr.img || isSet s F.DEV_STATE_RSTBUSY 0 then s else resetGo { s with pwr := { s.pwr with wdt := true } })

/-- The registers that a device reset keeps. -/
def resetKeeps (k : Nat) : Bool :=
  [Page.phl, .clk, .sec].any (fun p => keyPage k == p.code) ||
  keyIn .dev (fun o => o == 0x00C || o == 0x028 || (decide (0x040 ≤ o) && decide (o ≤ 0x060)) || o == 0x068 || o == 0x06C) k ||
  keyIn .evr (fun o => decide (0x040 ≤ o) && decide (o ≤ 0x058)) k ||
  keyIn .flt (fun o => o == 0x00C || o == 0x020 || (decide (0x044 ≤ o) && decide (o ≤ 0x04C))) k ||
  (keyPage k == Page.flt.code && keySpace k == 2)

/-- The registers of the sensors that have failed, which stay so over a device reset (R430). -/
def failedKey (s : State) (k : Nat) : Bool :=
  keyPage k == Page.hkp.code &&
    (keySpace k == 0 && (keyOff k == 0x054 || keyOff k == 0x058) || keySpace k == 1 && sensFailed s (keyOff k))

/-- Faults: what is LATCHED stays, with the causes of parts that the reset does not reach and of a thermal shutdown (R435). -/
def resetFaults (s : State) : State :=
  let live : List Nat := [184, 185, 188, 189]
  let s1 := { s with flts := (s.flts.map (fun e =>
    if fstate s e.1 = 3 then (e.1, { e.2 with hw := e.2.hw && live.contains e.1, due := false, asked := false, names := [] })
    else (e.1, ({ hw := e.2.hw && live.contains e.1 } : Flt)))).filter (fun e => e.2 != {}) }
  endIso (forAll (List.range 192) s1 (fun s f => if fstate s f = 3 then s else setFstate s f 0))

/-- Step 4: pages, tables, queues and granules return to their reset contents; octets are unowned, in SAFE. -/
def resetParts (s : State) : State :=
  let s1 : State := { s with
    regs := keepRegs s (fun k => resetKeeps k || failedKey s k)
    wide := []
    stage := []
    posted := []
    strms := []
    acqs := []
    chans := []
    pols := []
    queues := []
    dss := heldDss s
    bnds := []
    dies := (s.dies.map (fun e => (e.1, ({ inited := e.2.inited } : Die)))).filter (fun e => e.2 != {})
    rtr := {}
    bgl := {}
    hkp := {}
    pool := []
    ret := none }
  forAll (List.range 64) (resetFaults s1) octSafe

/-- The NVM operation in progress is completed first, an acknowledgment of the thermal record too (R466). -/
def finishNvm (s : State) : State := thackEnd (refreshEnd (writeDone s true))

/-- No device reset of the watchdog is in progress any more. -/
def wdtEnd (s : State) : State := { s with pwr := { s.pwr with wdt := false } }

/-- The clocks, which a device reset keeps, take what DEFAULTS has changed since `s`. -/
def clkApplied (s t : State) : State :=
  let changed (f : Fld) : Bool := getF t f 0 != getF s f 0
  let t1 := if changed F.CLK_FOFS_F || changed F.CLK_XO_AGE_F then ratioChanged t (changed F.CLK_XO_AGE_F) else t
  if changed F.CLK_REFCFG_REFSEL then refselSet t1 else t1

/-- DEVICE_RESET_DONE: steps 3 to 6. -/
def resetDone (s : State) : State :=
  let s1 := resetParts (finishNvm s)
  let s2 := forAll [0, 1] s1 (fun s p => lowerSess s p 1)
  let up := isSet s2 F.DEV_STATE_MAINPWR 0 && s2.pwr.img
  let s3 := if up then clkApplied s2 (applyPwrup (loadRecords s2)) else s2
  let s4 := setF (setF (setF s3 F.DEV_RSTCAUSE_POR 0 0) F.DEV_RSTCAUSE_DEVRST 0 1) F.DEV_RSTCAUSE_FWWDT 0 (b2n s3.pwr.wdt)
  let s5 := addCt (setF (wdtEnd s4) F.DEV_STATE_RSTBUSY 0 0) F.DEV_RSTCNT_N 0 1
  let s6 := if up then raise (setF s5 F.DEV_STATE_BOOT 0 4) .dev 0 E.DEV_READY else s5
  hubLevels (raise s6 .dev 0 E.DEV_RST_DONE)

def execDeviceResetDone (s : State) : Host.Outcome State Fault Refusal :=
  let s := cycle s
  .next (if isSet s F.DEV_STATE_RSTBUSY 0 then resetDone s else s)

end Sys2Proof.Machine
end

