-- ==== Sys2Proof/Machine/Seq.lean ====
section
/-! DEFINITION. Segment sequencers (R193 to R209), and the start, the pause and the resumption of a binding. -/

namespace Sys2Proof.Machine

/-! The table (R194, R195). -/

/-- R195: entry `e` commits with value `v`, written through page SEQ `n`. -/
def commitSeg (s : State) (n e : Nat) (v : BitVec 192) : State :=
  let r := if sgLen v.toNat = 0 then 1 else if 20 ≤ sgJcond v.toNat then 2 else 0
  if r = 0 then setWide s .seq 0 1 e v
  else raise (setF (setF s F.SEQ_SEGREJ_REASON n r) F.SEQ_SEGREJ_ENTRY n e) .seq n E.SEQ_SEG_REJECT

def inRange (s : State) (q e : Nat) : Bool :=
  decide (getF s (F.SEQ_TRANGE_TBASE q) q ≤ e) && decide (e ≤ getF s (F.SEQ_TRANGE_TLIMIT q) q)

/-- R196: the entry lies within the range of a reserved sequencer. -/
def segLocked (s : State) (e : Nat) : Bool := (List.range 16).any (fun q => isSet s F.SEQ_STATE_RESERVED q && inRange s q e)

/-! Fetching ahead (R199). -/

/-- The entries that the sequencer keeps or fetches ahead, from entry `e` on: two along NEXT and the jump targets. -/
def wanted (s : State) (e : Nat) : List Nat :=
  let j (x : Nat) : Nat := sgJtgt (seg s x)
  let n1 := sgNext (seg s e)
  let n2 := sgNext (seg s n1)
  [j e, n1, j n1, n2, j n2]

/-- The entry in play, or the first entry before the run. -/
def entryOf (s : State) (q : Nat) : Nat :=
  match (bndOf s q).started, (bndOf s q).goto with
  | false, some g => g.1
  | _, _ => getF s F.SEQ_STATE_CURENT q

/-- SEGMENT_FETCH (R199): an entry of the range fetched ahead arrives. -/
def execSegmentFetch (q : Fin 16) (entry : BitVec 15) (s : State) : Host.Outcome State Fault Refusal :=
  let s := cycle s
  let y := bndOf s q.val
  let e := entry.toNat
  .next (if reserved s q.val && inRange s q.val e && (wanted s (entryOf s q.val)).contains e && !y.ready.contains e then
    setBnd s q.val { y with ready := e :: y.ready }
  else s)

/-- The following entry is present when its first word is due: it has been fetched, or it is the entry in play. The first entry
of a run is fetched before the start. -/
def present (s : State) (q e : Nat) : Bool :=
  !(bndOf s q).started || (bndOf s q).ready.contains e || decide (e = getF s F.SEQ_STATE_CURENT q)

/-! Playing (R197 to R205). -/

/-- The stop fault met on entering entry `e`, by its STOPCAUSE (R199, R200). -/
def entryStop (s : State) (q e : Nat) : Option Nat :=
  if !inRange s q e then some 5
  else if sgLen (seg s e) = 0 then some 7
  else if !present s q e then some 4
  else none

/-- Entry `e` is entered; `jc` is the condition of the jump that led to it, 0 for none (R174, R202, R203). -/
def enterEntry (s : State) (q e jc : Nat) : State :=
  let v := seg s e
  let s1 := if jc = 0 then s
    else
      let s1 := addCt s F.SEQ_JMPCNT_N q 1
      if 17 ≤ jc ∧ jc ≤ 18 ∨ (jc ≤ 15 ∧ cmapMode s q jc) then clearLatch s1 q jc else s1
  let s2 := unlock s1 q (fun x => !x.keep)
  let s2 := if jc = 0 then s2 else jumpLead s2 q true
  let s3 := addCt (setF (setF s2 F.SEQ_STATE_CURENT q e) F.SEQ_CURPASS_PASS q 0) F.SEQ_ENTCNT_N q 1
  let y := bndOf s3 q
  let s4 := setBnd s3 q { y with off := 0, final := false, goto := none, ready := y.ready.filter (fun x => (wanted s e).contains x) }
  if sgRpt v = 1 then s4
  else lockSpan s4 q { spanAt s4 q (sgVaddr v) (sgLen v) (compact s (bndAnchor s q) (sgTset v)) with
    seen := some [], keep := decide (sgRpt v = 0) }

/-- R174: the first pass of the span of the entry is over. -/
def passSeen (s : State) (q e : Nat) : State :=
  let v := seg s e
  setBnd s q { bndOf s q with locks := (bndOf s q).locks.map (fun x =>
    if x.va = sgVaddr v ∧ x.len = sgLen v then { x with seen := none } else x) }

/-- One word of the entry in play issues (R197, R198, R203 to R205). -/
def segWord (s : State) (q : Nat) : State :=
  let e := getF s F.SEQ_STATE_CURENT q
  let v := seg s e
  let y := bndOf s q
  let va := sgVaddr v + y.off
  let cp := compact s (bndAnchor s q) (sgTset v)
  match issueStop s q va cp with
  | some code => wordStop s q va cp code
  | none =>
    let streamed := !resident s q va cp
    let fin := y.final || condOf s q (sgJcond v)
    let s1 := issueWord s q { va := va, tset := sgTset v, lset := sgLset v, gate := sgCapen v }
    let s2 := if sgDacq v && y.off == 0
      then forAll (bndMem s1 q) s1 (fun s p => pushStaged s p (Nat.max 1 (getF s F.POL_LQCFG_SEGIDX p))) else s1
    if y.off + 1 < sgLen v then
      afterWord (setBnd s2 q { bndOf s2 q with off := y.off + 1, final := fin }) q streamed false false
    else
      let pass := getF s F.SEQ_CURPASS_PASS q + 1
      let s3 := passSeen (setF s2 F.SEQ_CURPASS_PASS q (Nat.min pass 0xFFFFF)) q e
      let ended := decide (sgRpt v ≠ 0) && decide (sgRpt v ≤ pass)
      let to' := if fin then some (sgJtgt v, sgJcond v) else if ended then some (sgNext v, 0) else none
      let s4 := setBnd s3 q { bndOf s3 q with off := 0, final := false, goto := to' }
      if ended && sgEot v && !fin then endIssue s4 q 1 1 false
      else afterWord s4 q streamed (sgSsafe v) (sgThrpt v)

/-- SEGMENT_WORD_ISSUE (R197): the sequencer's next word, after it has entered the following entry where one is due. -/
def execSegmentWordIssue (q : Fin 16) (s : State) : Host.Outcome State Fault Refusal :=
  let s := cycle s
  let b := q.val
  .next (if !mayIssue s b then s
  else
    match (bndOf s b).goto with
    | none => segWord s b
    | some g =>
      match entryStop s b g.1 with
      | some c => stopFault s b c 0
      | none => segWord (enterEntry s b g.1 g.2) b)

/-! Start, pauses (R65, R186, R200, R205). -/

/-- START_CONDITION_MET (R65, R200): an entry that may not be played ends the run at once. -/
def execStartConditionMet (b : Bind) (s : State) : Host.Outcome State Fault Refusal :=
  let s := cycle s
  let k := b.val
  .next (if reserved s k && !(bndMem s k).isEmpty && (bndMem s k).all (fun p => rsOf s p == .armed) && startMet s k then
    let s1 := startRun s k
    if k < 16 then
      match entryStop s1 k ((bndOf s1 k).goto.getD (0, 0)).1 with
      | some c => stopFault s1 k c 0
      | none => s1
    else s1
  else s)

/-- PAUSE_TAKEN (R183, R205): the last vector before the pause has played. -/
def execPauseTaken (b : Bind) (s : State) : Host.Outcome State Fault Refusal :=
  let s := cycle s
  let k := b.val
  .next (match (bndOf s k).due with
    | some tol =>
      if (bndMem s k).all (fun p => rsOf s p == .running && played s p (bndOf s k).vstart) then takePause s k tol else s
    | none => s)

/-- R60: every member of the binding is PAUSED. -/
def bndPaused (s : State) (b : Nat) : Bool :=
  reserved s b && !(bndMem s b).isEmpty && (bndMem s b).all (fun p => rsOf s p == .paused)

/-- AUTO_RESUME (R186, R189): members paused for an underrun, with AUTORES set and the lead full. -/
def execAutoResume (b : Bind) (s : State) : Host.Outcome State Fault Refusal :=
  let s := cycle s
  let k := b.val
  .next (if bndPaused s k && (bndMem s k).all (fun p => getF s F.POL_STATE_PAUSE_CAUSE p == 2)
      && isSet s (F.MEM_PFCFG_AUTORES k) 0 && leadFull s k then resumeRun s k
    else s)

end Sys2Proof.Machine
end

