-- ==== Sys2Proof/Machine/Fabric.lean ====
section
/-! DEFINITION. The register fabric: rights, locks, checks of writes, reads, and what a write does beyond storing its value
(R29 to R46, R63, R412, R421, R444, R446). -/

namespace Sys2Proof.Machine

/-! Rights (R44, R46). -/

def Initiator.code : Initiator → Nat
  | .mp => 0 | .ph0 => 1 | .ph1 => 2 | .jtag => 3

/-- The port through which a request arrives. -/
def Initiator.port : Initiator → Option Nat
  | .ph0 => some 0 | .ph1 => some 1 | _ => none

/-- The initiator reads and writes privileged fields. -/
def privileged (s : State) : Initiator → Bool
  | .mp => true
  | .ph0 => getF s F.PHL_STATE_SESS (sessPort s 0) == 2
  | .ph1 => getF s F.PHL_STATE_SESS (sessPort s 1) == 2
  | .jtag => decide (s.otp.lc ≤ 1)

/-- The initiator may only read. -/
def observer (s : State) : Initiator → Bool
  | .mp => false
  | .ph0 => getF s F.PHL_STATE_SESS (sessPort s 0) == 0
  | .ph1 => getF s F.PHL_STATE_SESS (sessPort s 1) == 0
  | .jtag => s.otp.lc == 3

/-- Fields that every session level writes: the session authentication fields (R468) and SESSCTL (R391). -/
def anySession (f : Fld) : Bool :=
  (f.page == .sec && (f.off == 0x060 || f.off == 0x0A0)) || (f.page == .phl && f.off == 0x044)

/-! Whether a page is served (R404, R412, R444, R446). -/

/-- A register answers, answers zero and ignores writes, or is not there. -/
inductive Served where
  | yes | quiet | no
deriving DecidableEq, Repr

/-- R412, R422, R443, R467: with its die isolated the words that an octet's page has on the die (the channel registers and the
indirect spaces) read zero; its header, where STATE.DIE_ISOLATED shows the isolation, and the CDI gateway of the die answer. -/
def servedPage (s : State) (p : Page) (n off : Nat) : Served :=
  if !s.pwr.aux then .quiet
  else if isSet s F.DEV_STATE_RSTBUSY 0 then (if p = .dev ∨ p = .phl then .yes else .quiet)
  else if romrec s then (if p = .dev ∨ p = .phl ∨ p = .nvm ∨ p = .sec then .yes else .no)
  else if getF s F.DEV_STATE_BOOT 0 < 4 then
    (if [Page.dev, .flt, .hkp, .clk, .evr, .bgl, .phl, .nvm, .sec].contains p then .yes else .quiet)
  else if p = .oct ∧ isoDie s (n / 8) ∧ (0x040 ≤ off ∨ off = 0x034) then .quiet
  else .yes

/-! Locks and run-locks. -/

/-- The bits that a LOCK register has (R77, R85, R400). -/
def lockMask' (p : Page) : Nat := match p with | .dev => 1 | .pol => 3 | .oct => 1 | _ => 0

def lockBit (s : State) (p : Page) (n b : Nat) : Bool := (getF s (F.LOCK p) n).testBit b

/-- The bits that a FORCE register has (R408). -/
def forceMask (p : Page) (n : Nat) : Nat :=
  ((List.range 32).map (fun b => if (List.range 192).any (fun f => forceHome f == (p, n, b)) then 2 ^ b else 0)).sum

/-- R421: Embankment mode leaves the field of a page writable. -/
def embankOk (f : Fld) : Bool :=
  f.off == 0x018 && f.space == 0 || f.page == .phl ||
  match f.page with
  | .sec => f.off == 0x060 || f.off == 0x0A0
  | .flt => f.priv || (f.space == 0 && (f.off == 0x030 || f.off == 0x034 || f.off == 0x038))
  | .hkp => f == F.HKP_THCTL_THACK
  | .dev => f.off == 0x064
  | _ => false

/-- A LOCK bit, the Retired lifecycle or Embankment mode refuses the field (R41, R421, R459). -/
def lockedF (s : State) (f : Fld) (n : Nat) : Bool :=
  (isSet s F.FLT_STATE_EMBANK 0 && !embankOk f) ||
  match f.page, f.space with
  | .dev, 0 => f.off == 0x064 && lockBit s .dev 0 0
  | .pol, 0 =>
    ((f.off == 0x044 || f.off == 0x048) && s.otp.lc == 3) ||
    ((f.off == 0x044 || f.off == 0x048 || f.off == 0x04C || f.off == 0x054) && lockBit s .pol n 0) ||
    (f.off == 0x064 && lockBit s .pol n 1)
  | .oct, 1 => f.off % 8 == 0 && lockBit s .oct n 0
  | _, _ => false

/-- R63: the states in which the configuration of a polder is run-locked. -/
def polBusy (s : State) (p : Nat) : Bool := (rsOf s p).busy || isSet s F.POL_STATE_RESTART_PENDING p

def octBusy (s : State) (o : Nat) : Bool := match owner s o with | some p => polBusy s p | none => false

def polLocked : List Nat := [0x044, 0x048, 0x04C, 0x050, 0x054, 0x058, 0x05C, 0x060, 0x074, 0x080, 0x084, 0x088]

/-- A field of a page is run-locked (R63, R98, R151, R191, R196, R231, R256, R267). -/
def runlockedF (s : State) (f : Fld) (n : Nat) : Bool :=
  match f.page with
  | .pol => polBusy s n && (polLocked.contains f.off || f == F.POL_TSCTL_CLR)
  | .acq => polBusy s n && f.off != 0x010 && f.off != 0x018 && f.off != 0x01C
  | .oct => octBusy s n && decide (0x040 ≤ f.off) && decide (f.off < 0x060) && f.lo == 3
  | .seq => reserved s n && decide (0x044 ≤ f.off) && decide (f.off < 0x088)
  | .mce => reserved s (16 + n) && decide (0x044 ≤ f.off) && decide (f.off < 0x0E0)
  | .mem =>
    let o := f.off % 0x40
    decide (0x100 ≤ f.off) && reserved s ((f.off - 0x100) / 0x40) && (decide (o < 0x18) || (decide (0x30 ≤ o) && decide (o < 0x3C)))
  | .slu => decide (0x04C ≤ f.off) && decide (f.off < 0x05C) &&
      (List.range 64).any (fun p => polBusy s p || streaming s p)
  | _ => false

/-- A word of an indirect space is run-locked (R63, R191, R196, R231, R257, R261). -/
def runlockedIx (s : State) (p : Page) (n sp a : Nat) : Bool :=
  match p with
  | .pol => polBusy s n && (sp == 4 || sp == 6)
  | .oct => octBusy s n && (sp == 3 || sp == 5)
  | .acq => polBusy s n
  | .seq => segLocked s (a / 4)
  | .mce => reserved s (16 + n)
  | .slu => sp == 2 && (polBusy s (a / 8) || streamSet s (a / 8))
  | _ => false

/-! Refusals (R42, R43). -/

/-- LOCKVIO.REASON. -/
inductive Reason where
  | priv | locked | woUsed | runlock | busy
deriving DecidableEq, Repr

def Reason.code : Reason → Nat
  | .locked => 1 | .woUsed => 2 | .runlock => 3 | .priv => 4 | .busy => 5

/-- The first reason that applies, in the order of R42. -/
def firstReason (l : List Reason) : Option Reason := [Reason.priv, .locked, .woUsed, .runlock, .busy].find? l.contains

/-- A refused write is recorded. -/
def refuse (s : State) (ini : Initiator) (p : Page) (n : Nat) (ix : Bool) (a : Nat) (l : List Reason) : State :=
  match firstReason l with
  | none => s
  | some r =>
    let s1 := setF (setF s (F.LOCKVIO_REASON p) n r.code) (F.LOCKVIO_INIT p) n (Initiator.code ini)
    let s2 := raise (setF (setF s1 (F.LOCKVIO_IX p) n (b2n ix)) (F.LOCKVIO_ADDR p) n a) p n 30
    raiseIf (l.contains .busy) s2 p n 29

/-! The check of a field (R31, R32, R40 to R46). -/

/-- What becomes of a written field: nothing, accepted with a value, refused for the reasons of `why`, or both for the bits of a LOCK
register. -/
structure Judged where
  ok : Option Nat := none
  why : List Reason := []
deriving DecidableEq, Repr

/-- The part of a written value that the field has bits for. -/
def cleanVal (f : Fld) (n v : Nat) : Nat :=
  if f = F.LOCK f.page then v &&& lockMask' f.page else if f = F.FORCE f.page then v &&& forceMask f.page n else v

/-- Field `f` of instance `n` is written with `v`; `run` tells whether it is run-locked, `mixed` whether its register also holds
fields that are not privileged: only there a 0 for a privileged field is no violation (R44, R46). A 1 to an SC field whose command
runs is BUSY beside any other reason (R40, R42). -/
def judge (s : State) (ini : Initiator) (f : Fld) (n : Nat) (run mixed : Bool) (v : Nat) : Judged :=
  let v := cleanVal f n v
  let old := getF s f n
  let busy : List Reason := if f.ty = .sc ∧ v ≠ 0 ∧ old ≠ 0 then [.busy] else []
  if f.ty = .ro ∨ f.ty = .lv ∨ (f.ty = .wo ∧ v = 0) then {}
  else if f.priv ∧ !privileged s ini then (if v = 0 ∧ mixed then {} else { why := .priv :: busy })
  else if observer s ini ∧ !anySession f then { why := .priv :: busy }
  else if f.ty = .st ∨ (f.ty = .sc ∧ v = 0) then {}
  else if lockedF s f n then { why := .locked :: busy }
  else if f.ty = .wo then
    { ok := if v &&& old = v then none else some (v ||| old), why := if v &&& old = 0 then [] else [.woUsed] }
  else if run then { why := .runlock :: busy }
  else if busy.isEmpty then { ok := some v }
  else { why := busy }

/-! Sticky events written by software (R35, R37). -/

/-- EVT_ACK holds a new value. -/
def ackEvents (s : State) (p : Page) (n : Nat) : State :=
  if getF s (F.EVT_ACK p) n = getF s (F.EVT_SEQ p) n then setF s (F.EVT p) n 0 else raise s p n 31

/-- EVT_MASK has changed from `old`: a set bit that is now unmasked is reported. -/
def maskEvents (s : State) (p : Page) (n old : Nat) : State :=
  forAll (List.range 32) s (fun s b =>
    if old.testBit b && !(getF s (F.EVT_MASK p) n).testBit b && (getF s (F.EVT p) n).testBit b then report s p n b else s)

/-! What writes do. -/

/-- Fields whose accepted value is not simply stored: the effect of the register decides. -/
def custom (f : Fld) : Bool :=
  f.space == 0 && match f.page with
  | .dev => f.off == 0x064
  | .sec => f.off == 0x040
  | .pol => f.off == 0x044 || f.off == 0x048 || f.off == 0x04C
  | .acq => f.off == 0x040
  | .hkp => f.off == 0x044 || f.off == 0x048
  | .slu => f.off == 0x064 || f.off == 0x068
  | .clk => decide (0x070 ≤ f.off) && decide (f.off < 0x0D0) && f.off % 8 == 0
  | .phl => f.off == 0x044
  | _ => false

/-- The accepted value of a field is stored. -/
def storeF (s : State) (n : Nat) (x : Fld × Nat) : State :=
  if x.1.ty = .sc ∨ custom x.1 then s else setF s x.1 n x.2

/-- The accepted value of field `f`. -/
def took (acc : List (Fld × Nat)) (f : Fld) : Option Nat := (acc.find? (fun x => x.1 == f)).map (·.2)

def tookAny (acc : List (Fld × Nat)) (f : Fld) : Bool := (took acc f).isSome

/-- SESSCTL (R391): it acts only through the port's own session, and only lowers it. -/
def sessGo (s : State) (ini : Initiator) (p : Nat) (acc : List (Fld × Nat)) : State :=
  match Initiator.port ini with
  | none => s
  | some q =>
    let lvl := getF s F.PHL_STATE_SESS (sessPort s p)
    let req := (took acc F.PHL_SESSCTL_REQ).getD (getF s F.PHL_SESSCTL_REQ p)
    if sessPort s q ≠ sessPort s p ∨ lvl < req then s
    else
      let s1 := setF s F.PHL_SESSCTL_REQ p req
      if tookAny acc F.PHL_SESSCTL_GO then setSess s1 p req else s1

/-- RSTCTL (R404): GO with a KEY other than 0xA5 does nothing, KEY itself included. -/
def devWrite (s : State) (off : Nat) (acc : List (Fld × Nat)) : State :=
  if off ≠ 0x064 then s
  else match took acc F.DEV_RSTCTL_KEY with
    | none => s
    | some key =>
      if !tookAny acc F.DEV_RSTCTL_GO then setF s F.DEV_RSTCTL_KEY 0 key
      else if key = 0xA5 then resetGo (setF s F.DEV_RSTCTL_KEY 0 key) else s

/-- LCCTL (R460): a write with a KEY other than 0x5A does nothing. -/
def lcctlWrite (s : State) (acc : List (Fld × Nat)) : State :=
  match took acc F.SEC_LCCTL_KEY, took acc F.SEC_LCCTL_TARGET with
  | some key, some t =>
    if key ≠ 0x5A then s
    else
      let s1 := setF (setF s F.SEC_LCCTL_KEY 0 key) F.SEC_LCCTL_TARGET 0 t
      if tookAny acc F.SEC_LCCTL_GO then lcGo s1 else s1
  | _, _ => s

def fltWrite (s : State) (acc : List (Fld × Nat)) : State :=
  if tookAny acc F.FLT_EMBCTL_EXIT then exitGo s else if tookAny acc F.FLT_CLRCTL_GO then clrGo s else s

def hkpWrite (s : State) (off v : Nat) (acc : List (Fld × Nat)) : State :=
  if acc.isEmpty then s
  else if off = 0x044 then thrSet s false v
  else if off = 0x048 then thrSet s true v
  else
    let s1 := if tookAny acc F.HKP_THCTL_THACK then thackGo s else s
    if tookAny acc F.HKP_THCTL_SENSCLR then sensclrGo s1 else s1

def clkWrite (s : State) (off v : Nat) (acc : List (Fld × Nat)) (old : Fld → Nat) : State :=
  let changed (f : Fld) : Bool := match took acc f with | some x => x != old f | none => false
  if off = 0x040 then
    let s1 := if changed F.CLK_REFCFG_REFSEL then refselSet s else s
    if tookAny acc F.CLK_REFCFG_RELOCK then relockGo s1 else s1
  else if off = 0x044 ∨ off = 0x048 then (if changed F.CLK_FOFS_F || changed F.CLK_XO_AGE_F then ratioChanged s (off == 0x048) else s)
  else if off = 0x058 then (if tookAny acc F.CLK_PHSTEP_GO then phstepGo s else s)
  else if decide (0x070 ≤ off) && decide (off < 0x0D0) then
    let k := (off - 0x070) / 8
    if off % 8 = 0 then (if acc.isEmpty then s else outdivSet s k (bits v 0 12) (bits v 12 10) (bits v 22 10))
    else if changed (F.CLK_OUTCTL_EN k) then outEnSet s k else s
  else s

def evrWrite (s : State) (off : Nat) (acc : List (Fld × Nat)) : State :=
  if acc.isEmpty then s
  else if off = 0x060 then
    (if tookAny acc F.EVR_HOSTEVT_GO then
      hostEvent s (getF s F.EVR_HOSTEVT_K 0) (getF s F.EVR_HOSTEVT_ACT 0) (getF s F.EVR_HOSTEVT_CODE 0) else s)
  else if decide (0x064 ≤ off) && decide (off < 0x074) then lineConfig s ((off - 0x064) / 4)
  else if decide (0x074 ≤ off) && decide (off < 0x0B4) then refreshRoute s ((off - 0x074) / 4)
  else s

def bglWrite (s : State) (acc : List (Fld × Nat)) : State :=
  if tookAny acc F.BGL_SYNCCTL_REALIGN then setF s F.BGL_SYNCCTL_REALIGN 0 1
  else if tookAny acc F.BGL_XCALCTL_GO then xcalGo s else s

def phlWrite (s : State) (ini : Initiator) (n off : Nat) (acc : List (Fld × Nat)) : State :=
  if off = 0x044 then sessGo s ini n acc else if tookAny acc F.PHL_PHCFG_RETRAIN then retrainGo s n else s

/-- The port whose mailbox area an initiator uses (R455, R458). -/
def areaPort (ini : Initiator) : Nat := (Initiator.port ini).getD 0

def nvmWrite (s : State) (ini : Initiator) (acc : List (Fld × Nat)) : State :=
  if tookAny acc F.NVM_WRCTL_GO then recordGo s (areaPort ini)
  else if tookAny acc F.NVM_REFRESH_GO then refreshGo s
  else if tookAny acc F.NVM_CALSAVE_GO then calsaveGo s else s

def secWrite (s : State) (ini : Initiator) (off : Nat) (acc : List (Fld × Nat)) : State :=
  if off < 0x060 then
    (if off = 0x040 then lcctlWrite s acc
    else if tookAny acc F.SEC_ARB_ADV then advGo s
    else
      let s1 := if tookAny acc F.SEC_KEYCTL_PROG then progGo s (areaPort ini) else s
      if tookAny acc F.SEC_KEYCTL_REVOKE then revokeGo s1 else s1)
  else
    let p := (off - 0x060) / 0x40
    let s1 := if tookAny acc (F.SEC_AUTHCTL_CHREQ p) then chreqGo s p else s
    let s2 := if tookAny acc (F.SEC_AUTHCTL_GO p) then authGo s1 p else s1
    if tookAny acc (F.SEC_MBCTL_GO p) then mbGo s2 p (privileged s ini) else s2

def sluWrite (s : State) (off v : Nat) (acc : List (Fld × Nat)) : State :=
  if acc.isEmpty ∨ (off ≠ 0x064 ∧ off ≠ 0x068) then s else spillrdSet s (off == 0x068) v

def memWrite (s : State) (off : Nat) (acc : List (Fld × Nat)) : State :=
  let b := (off - 0x100) / 0x40
  if 0x100 ≤ off ∧ tookAny acc (F.MEM_PRE_VA_HI_GO b) then preloadGo s b else s

def dscWrite (s : State) (n off : Nat) (acc : List (Fld × Nat)) : State :=
  let i := (off - 0x040) / 0x40
  if decide (0x040 ≤ off) && decide (off < 0x240) && tookAny acc (F.DSC_QPUSH_HI_E i) then
    pushEntry s (64 + 8 * n + i) (get64 s (F.DSC_QPUSH_LO_E i) (F.DSC_QPUSH_HI_E i) n)
  else if decide (0x040 ≤ off) && decide (off < 0x240) && tookAny acc (F.DSC_VMAX_CODE i) then
    (if (dsOf s (8 * n + i)).ramp then clipDs s (8 * n + i) (rampClips s (8 * n + i)) else applySp s (8 * n + i))
  else if decide (0x240 ≤ off) && decide (off < 0x260) && !acc.isEmpty then
    let k := (off - 0x240) / 4
    let d := 8 * n + k
    let s1 := if isSet s (F.DSC_LVDS_EN k) n then s else dsMonOff s d (now s)
    match dsOwner s1 d with | some p => refreshLevee s1 p | none => s1
  else s

/-- The commands accepted by one write of RUNCTL, as its low seven bits. -/
def runBits (acc : List (Fld × Nat)) : Nat :=
  ((List.range 7).map (fun b => if acc.any (fun x => x.1.ty == .sc && x.1.lo == b) then 2 ^ b else 0)).sum

def polWrite (s : State) (p off v : Nat) (acc : List (Fld × Nat)) : State :=
  if acc.isEmpty then s
  else if off = 0x040 then runctl s p (runBits acc) (isSet s F.POL_RUNCTL_SCOPE p)
  else if off = 0x044 then octmapSet s p false v
  else if off = 0x048 then octmapSet s p true v
  else if off = 0x04C then dsmapSet s p v
  else if off = 0x064 then faultSources s
  else if off = 0x0C0 then
    forAll (List.range 6) s (fun s b => if (runBits acc).testBit b then pmuctl s p b else s)
  else if off = 0x0E8 then pushEntry s p (get64 s F.POL_LQPUSH_LO_E F.POL_LQPUSH_HI_E p)
  else if off = 0x110 ∧ tookAny acc F.POL_TSCTL_CLR then clearSet s p (getF s F.POL_TSCTL_SET p)
  else s

def acqWrite (s : State) (p off v : Nat) (acc : List (Fld × Nat)) : State :=
  if off = 0x040 ∧ !acc.isEmpty then acqctlSet s p (v.testBit 0) (bits v 1 2) (v.testBit 3) (v.testBit 4) else s

/-- CHCFG (R80): a change of IDLE acts on the driver while the octet is IDLE. -/
def octWrite (s : State) (o off : Nat) (acc : List (Fld × Nat)) : State :=
  if decide (0x040 ≤ off) && decide (off < 0x060) && getF s F.OCT_STATE_PSTATE o == 2 && !acc.isEmpty then
    let c := 8 * o + (off - 0x040) / 4
    setChan s c { chanOf s c with drv := idleDrv s c }
  else s

def seqWrite (s : State) (n : Nat) (acc : List (Fld × Nat)) : State :=
  if tookAny acc F.SEQ_SEQCTL_LCLR then clearLatches s n else s

def mceWrite (s : State) (m : Nat) (acc : List (Fld × Nat)) : State :=
  let s1 := if tookAny acc F.MCE_ENGCTL_LCLR then clearLatches s (16 + m) else s
  let s2 := if tookAny acc F.MCE_ENGCTL_CHECK then setF s1 F.MCE_ENGCTL_CHECK m 1 else s1
  if tookAny acc F.MCE_CSCRC_CRC || tookAny acc F.MCE_CSLEN_N then csChanged s2 m else s2

def cdiWrite (s : State) (d : Nat) (acc : List (Fld × Nat)) : State :=
  if tookAny acc F.CDI_CALCTL_SELFCAL then setF (selfcalStart s d) F.CDI_CALCTL_SELFCAL d 1 else s

/-- The effect of a register of a page, after its accepted fields have been stored; `v` is the word written, `old` what the
fields held before. -/
def pageWrite (s : State) (ini : Initiator) (p : Page) (n off v : Nat) (acc : List (Fld × Nat)) (old : Fld → Nat) : State :=
  match p with
  | .dev => devWrite s off acc
  | .flt => fltWrite s acc
  | .hkp => hkpWrite s off v acc
  | .clk => clkWrite s off v acc old
  | .evr => evrWrite s off acc
  | .bgl => bglWrite s acc
  | .phl => phlWrite s ini n off acc
  | .nvm => nvmWrite s ini acc
  | .sec => secWrite s ini off acc
  | .slu => sluWrite s off v acc
  | .mem => memWrite s off acc
  | .dsc => dscWrite s n off acc
  | .pol => polWrite s n off v acc
  | .acq => acqWrite s n off v acc
  | .oct => octWrite s n off acc
  | .seq => seqWrite s n acc
  | .mce => mceWrite s n acc
  | .cdi => cdiWrite s n acc

/-- The sources whose FORCE bit of a page has risen from `old` owe their occurrence (R39, R413). -/
def forceEvents (s : State) (p : Page) (n old : Nat) : State :=
  forAll ((List.range 192).filter (fun f =>
    let h := forceHome f
    h.1 == p && h.2.1 == n && forced s f && !old.testBit h.2.2)) (if p = .hkp then shutSource s else s) owe

/-- EVT_ACK, EVT_MASK and FORCE act on every page. -/
def headWrite (s : State) (p : Page) (n off oldMask oldForce : Nat) (acc : List (Fld × Nat)) : State :=
  if acc.isEmpty then s
  else if off = (F.FORCE p).off then forceEvents s p n oldForce
  else if off = 0x018 then ackEvents s p n
  else if off = 0x01C then maskEvents s p n oldMask
  else s

end Sys2Proof.Machine
end

