-- ==== Sys2Proof/Machine/Indirect.lean ====
section
/-! DEFINITION. Indirect access and whole accesses of the register fabric (R30, R47 to R51, R274, R393, R397 to R399). -/

namespace Sys2Proof.Machine

/-! The spaces (R398, R426, R441). -/

/-- Words and words per entry of a space; no words for a space that is not named (R399). -/
def ixSize (p : Page) (sp : Nat) : Nat × Nat :=
  match p, sp with
  | .pol, 4 => (24576, 6) | .pol, 5 => (30, 2) | .pol, 6 => (128, 2)
  | .oct, 1 => (64, 1) | .oct, 2 => (64, 1) | .oct, 3 => (1024, 1) | .oct, 4 => (256, 1) | .oct, 5 => (32768, 4)
  | .oct, 6 => (64, 1) | .oct, 7 => (64, 1) | .oct, 8 => (64, 1)
  | .seq, 1 => (131072, 4)
  | .mce, 1 => (81920, 5) | .mce, 2 => (8192, 2)
  | .slu, 1 => (262144, 2) | .slu, 2 => (512, 2) | .slu, 3 => (1024, 1)
  | .acq, 1 => (1024, 1) | .acq, 2 => (1024, 1)
  | .evr, 1 => (128, 1) | .evr, 2 => (16384, 1)
  | .flt, 1 => (192, 1) | .flt, 2 => (192, 1) | .flt, 3 => (192, 1)
  | .hkp, 1 => (40, 1) | .hkp, 2 => (24, 1) | .hkp, 3 => (20, 1)
  | _, _ => (0, 1)

/-- The fields of word `a` of a space of one-word entries. -/
def ixFields (p : Page) (sp a : Nat) : List Fld :=
  let j := a / 8
  let w := a % 8
  match p, sp with
  | .oct, 1 => match w with
    | 0 => [F.OCT_X1_CLAMP_CLHI j, F.OCT_X1_CLAMP_CLLO j]
    | 1 => [F.OCT_X1_ZOUT_Z j]
    | 2 => [F.OCT_X1_CMPTRIM_OFSH j, F.OCT_X1_CMPTRIM_OFSL j]
    | _ => []
  | .oct, 2 => match w with
    | 0 => [F.OCT_X2_PMUCFG_MODE j, F.OCT_X2_PMUCFG_IRANGE j, F.OCT_X2_PMUCFG_PMUEN j, F.OCT_X2_PMUCFG_CONNECT j]
    | 1 => [F.OCT_X2_FORCE_CODE j]
    | 2 => [F.OCT_X2_VCOMP_VCH j, F.OCT_X2_VCOMP_VCL j]
    | 3 => [F.OCT_X2_RESULT_CODE j, F.OCT_X2_RESULT_COMPL j, F.OCT_X2_RESULT_DEFER j, F.OCT_X2_RESULT_OVR j,
            F.OCT_X2_RESULT_VALID j]
    | 4 => [F.OCT_X2_NEXT_CODE j, F.OCT_X2_NEXT_IRANGE j]
    | 5 => [F.OCT_X2_CLAIM_I j]
    | _ => []
  | .oct, 3 => if w = 7 then [] else [F.OCT_X3_LSET_CODE (a / 128) (j % 16) w, F.OCT_X3_LSET_G (a / 128) (j % 16) w]
  | .oct, 4 =>
    if w = 7 then []
    else match j % 4 with
      | 0 => [F.OCT_X4_APPLIED_CODE (a / 32) w, F.OCT_X4_APPLIED_G (a / 32) w]
      | 1 => [F.OCT_X4_PWRUP (a / 32) w]
      | 2 => [F.OCT_X4_FAULT (a / 32) w]
      | _ => []
  | .oct, 6 => match w with
    | 0 => [F.OCT_X6_DSKD_DDSK j]
    | 1 => [F.OCT_X6_DSKC_CDSK j]
    | 2 => [F.OCT_X6_TCOEF_TCD j, F.OCT_X6_TCOEF_TCC j]
    | 3 => [F.OCT_X6_PDLY_PDLY j]
    | 4 => [F.OCT_X6_APPD_DOFS j]
    | 5 => [F.OCT_X6_APPC_COFS j]
    | 6 => [F.OCT_X6_CALINFO_T0 j, F.OCT_X6_CALINFO_SCVALID j]
    | _ => []
  | .oct, 7 => match w with
    | 0 => [F.OCT_X7_TDCCFG_CLASS j, F.OCT_X7_TDCCFG_CMPSEL j, F.OCT_X7_TDCCFG_EDGESEL j, F.OCT_X7_TDCCFG_HOLDOFF j,
            F.OCT_X7_TDCCFG_PARTNER j]
    | 1 => [F.OCT_X7_ARMWIN_T j]
    | 2 => [F.OCT_X7_GATE_T j]
    | 3 => [F.OCT_X7_PRESC_N j]
    | 4 => [F.OCT_X7_IWIN_T j]
    | 5 => [F.OCT_X7_FREQ_LO_F j]
    | 6 => [F.OCT_X7_FREQRES_F j, F.OCT_X7_FREQRES_RESID j, F.OCT_X7_FREQRES_FEW j, F.OCT_X7_FREQRES_CAPPED j,
            F.OCT_X7_FREQRES_CLKSTEP j, F.OCT_X7_FREQRES_HOLDOVER j]
    | _ => [F.OCT_X7_FREQN_NSTAMP j, F.OCT_X7_FREQN_VALID j, F.OCT_X7_FREQN_REFBUGLE j]
  | .oct, 8 => match w with
    | 0 => [F.OCT_X8_LVTHR_LVHI j, F.OCT_X8_LVTHR_LVLO j]
    | 1 => [F.OCT_X8_LVCFG_ENH j, F.OCT_X8_LVCFG_ENL j, F.OCT_X8_LVCFG_MUTE j, F.OCT_X8_LVCFG_FLTEN j]
    | _ => []
  | .slu, 3 => match a % 4 with
    | 0 => [F.SLU_X3_HELD (a / 4), F.SLU_X3_DFLOG (a / 4)]
    | 1 => [F.SLU_X3_DROPCNT (a / 4)]
    | 2 => [F.SLU_X3_SPWSTEPS (a / 4)]
    | _ => [F.SLU_X3_DRAINED (a / 4)]
  | .flt, 1 => [F.FLT_X1_EN a, F.FLT_X1_CLASS a, F.FLT_X1_REACT a, F.FLT_X1_AUTOREC a, F.FLT_X1_QUIET a, F.FLT_X1_TGT a,
                F.FLT_X1_PAR a]
  | .flt, 2 => [F.FLT_X2_FSTATE a, F.FLT_X2_CAUSE a, F.FLT_X2_FORCED a, F.FLT_X2_RECN a]
  | .flt, 3 => [F.FLT_X3_OCC a]
  | .hkp, 1 => [F.HKP_X1_T a, F.HKP_X1_FAILING a, F.HKP_X1_FAILED a, F.HKP_X1_SUBST a, F.HKP_X1_WHY a]
  | .hkp, 2 => [F.HKP_X2_V a, F.HKP_X2_OOR a]
  | .hkp, 3 => [F.HKP_X3_IDLE a]
  | _, _ => []

/-- A space whose words are held whole: the bits each word has (R257, R321); the host ring is read-only. -/
def rawBits (p : Page) (sp : Nat) : Option Nat :=
  match p, sp with
  | .acq, 1 => some 18 | .acq, 2 => some 18 | .evr, 1 => some 32 | .evr, 2 => some 32 | _, _ => none

/-- A word that software cannot write (R274, R321). -/
def ixReadOnly (p : Page) (sp : Nat) : Bool := (p == .evr && sp == 2) || (p == .slu && sp == 1)

/-- The bits of word `w` of an entry of a wide space that are not reserved. -/
def wideMask (p : Page) (sp w : Nat) : Nat :=
  match p, sp, w with
  | .pol, 4, 1 => 0x0FFFFFFF
  | .pol, 5, 1 => 0xFC00003F
  | .pol, 6, 0 => 0x3FFFFFFF | .pol, 6, 1 => 0xF1
  | .oct, 5, _ => 0x03FFFFFF
  | .mce, 2, 1 => 0xFF
  | .slu, 2, 1 => 0x3FFFFF
  | _, _, _ => 0xFFFFFFFF

/-! Wide entries (R50). -/

/-- Entry `e` of a wide space as the table holds it. The segment table is one for all SEQ pages; characters of an unowned octet
read zero (R152). -/
def entryVal (s : State) (p : Page) (n sp e : Nat) : BitVec 192 :=
  match p, sp with
  | .slu, 1 => descriptor s e
  | .seq, _ => getWide s .seq 0 sp e
  | .oct, 5 => if (owner s n).isSome then getWide s .oct n 5 e else 0
  | _, _ => getWide s p n sp e

/-- R261: the configuration of stream `k` commits. -/
def commitStream (s : State) (k : Nat) (v : BitVec 192) : State :=
  let r := bits v.toNat 0 18
  let why := if bits v.toNat 32 18 < r then 1 else if granules < reserveSum s k r then 2 else 0
  if why = 0 then setWide s .slu 0 2 k v
  else raise (setF (setF s F.SLU_CFGREJ_REASON 0 why) F.SLU_CFGREJ_STREAM 0 k) .slu 0 E.SLU_CFG_REJECT

/-- Entry `e` of a wide space commits with value `v`. -/
def commitWide (s : State) (p : Page) (n sp e : Nat) (v : BitVec 192) : State :=
  match p, sp with
  | .pol, 6 => commitConfig s n e v
  | .oct, 5 => commitChar s n e v
  | .seq, 1 => commitSeg s n e v
  | .mce, 1 => commitMword s n e v
  | .slu, 2 => commitStream s e v
  | _, _ => setWide s p n sp e v

def stageOf (s : State) (p : Page) (n sp : Nat) : Stage := Store.get s.stage {} (wideKey p n sp 0)
def setStage (s : State) (p : Page) (n sp : Nat) (x : Stage) : State :=
  { s with stage := Store.put s.stage {} (wideKey p n sp 0) x }

/-- The staging register is loaded with entry `e`. -/
def loadStage (s : State) (p : Page) (n sp e : Nat) : State :=
  setStage s p n sp { entry := some e, val := entryVal s p n sp e, accepted := false }

/-- ADDR has come to `a` in space `sp`: another entry than the one staged is loaded. -/
def track (s : State) (p : Page) (n sp a : Nat) : State :=
  let z := ixSize p sp
  if z.2 = 1 ∨ z.1 ≤ a ∨ (stageOf s p n sp).entry = some (a / z.2) then s else loadStage s p n sp (a / z.2)

/-! Posted writes (R49, R51). -/

def setPosted (s : State) (p : Page) (n : Nat) (l : List Posted) : State :=
  { s with posted := Store.put s.posted [] (wideKey p n 0 0) l }

/-- What the write of an indirect word does beyond storing its fields. -/
def ixEffect (s : State) (p : Page) (n sp a : Nat) (acc : List (Fld × Nat)) (old : Fld → Nat) : State :=
  let j := a / 8
  let c := 8 * n + j
  let got (f : Fld) : Nat := (took acc f).getD (old f)
  if acc.isEmpty then s
  else match p, sp, a % 8 with
  | .oct, 2, 0 => pmuCfgWrite s c (got (F.OCT_X2_PMUCFG_MODE j)) (got (F.OCT_X2_PMUCFG_IRANGE j))
      (got (F.OCT_X2_PMUCFG_PMUEN j) == 1) (got (F.OCT_X2_PMUCFG_CONNECT j) == 1)
  | .oct, 2, 1 => pmuForceSet s c (got (F.OCT_X2_FORCE_CODE j))
  | .oct, 6, w => if w = 3 then s else applyDeskew s c
  | .oct, 8, 1 =>
    let s1 := if isSet s (F.OCT_X8_LVCFG_ENH j) n then s else monOff s c true (now s)
    let s2 := if isSet s (F.OCT_X8_LVCFG_ENL j) n then s1 else monOff s1 c false (now s)
    match owner s2 n with | some q => refreshLevee s2 q | none => s2
  | .flt, 1, _ => fltDisable (parityMade s a) a
  | _, _, _ => s

/-- Fields whose store is left to `ixEffect`. -/
def ixCustom (p : Page) (sp a : Nat) : Bool := p == .oct && sp == 2 && decide (a % 8 < 2)

/-- The reason that refuses a word that is held whole. -/
def wordReason (s : State) (ini : Initiator) (p : Page) (n sp a : Nat) : Option Reason :=
  if observer s ini then some .priv
  else if isSet s F.FLT_STATE_EMBANK 0 then some .locked
  else if runlockedIx s p n sp a then some .runlock
  else none

/-- A word of the staging register is written; the highest word commits the entry (R50). -/
def writeStaged (s : State) (ini : Initiator) (p : Page) (n sp a v : Nat) : State :=
  let w := (ixSize p sp).2
  let i := a % w
  let e := a / w
  let s0 := if (stageOf s p n sp).entry = some e then s else loadStage s p n sp e
  let x := stageOf s0 p n sp
  let why := wordReason s0 ini p n sp a
  let x1 := if why.isSome then x
    else { x with val := BitVec.ofNat 192 (setBits x.val.toNat (32 * i) 32 (v &&& wideMask p sp i)), accepted := true }
  let s1 := refuse s0 ini p n true a why.toList
  if i + 1 = w ∧ x1.accepted then commitWide (setStage s1 p n sp { x1 with accepted := false }) p n sp e x1.val
  else setStage s1 p n sp x1

/-- A word of one-word entries with fields is written; parametric orders that are due act before a word of theirs is (R112). -/
def writeFields (s0 : State) (ini : Initiator) (p : Page) (n sp a v : Nat) : State :=
  let s := if p = .oct ∧ sp = 2 then pmuNowDue s0 else s0
  let fs := ixFields p sp a
  let js := fs.map (fun f => (f, judge s ini f n (runlockedIx s p n sp a) (fs.any (!·.priv)) (bits v f.lo f.w.val)))
  let acc := js.filterMap (fun x => x.2.ok.map (fun y => (x.1, y)))
  let old (f : Fld) : Nat := getF s f n
  let s1 := if ixCustom p sp a then s else acc.foldl (fun s x => setF s x.1 n x.2) s
  let s2 := refuse s1 ini p n true a (js.flatMap (fun x => x.2.why))
  ixEffect s2 p n sp a acc old

/-- An indirect word is written (R48, R51). -/
def writeIx (s : State) (ini : Initiator) (p : Page) (n sp a v : Nat) : State :=
  let z := ixSize p sp
  if z.1 ≤ a then raise s p n 28
  else if ixReadOnly p sp then s
  else if p = .oct ∧ sp = 5 ∧ (owner s n).isNone then s
  else if 1 < z.2 then writeStaged s ini p n sp a v
  else match rawBits p sp with
    | some b =>
      match wordReason s ini p n sp a with
      | some r => refuse s ini p n true a [r]
      | none => setWide s p n sp a (BitVec.ofNat 192 (v % 2 ^ b))
    | none => writeFields s ini p n sp a v

/-- The oldest posted write of a page completes; then ADDR stands after it. -/
def completeOne (s : State) (p : Page) (n : Nat) : State :=
  match postedOf s p n with
  | [] => s
  | x :: l =>
    let s1 := setPosted s p n l
    if servedPage s p n 0x034 = .yes then
      track (writeIx s1 x.ini p n x.space x.addr x.val.toNat) p n x.space x.next
    else s1

/-- Posted writes complete in hub cycles of their own (R25, R34). -/
def completeN : Nat → State → Page → Nat → State
  | 0, s, _, _ => s
  | k + 1, s, p, n => completeN k (cycle (completeOne s p n)) p n

/-- Every posted write of a page completes. -/
def completeAll (s : State) (p : Page) (n : Nat) : State := completeN (postedOf s p n).length s p n

/-- The address after an access: STRIDE on, at most 0xFFFFFF (R48). -/
def nextAddr (s : State) (p : Page) (n a : Nat) : Nat := Nat.min 0xFFFFFF (a + getF s (F.IX_CTRL_STRIDE p) n)

/-- A write of IX_DATA is posted; with the buffer full it waits for the oldest (R49). -/
def postIx (s : State) (ini : Initiator) (p : Page) (n v : Nat) : State :=
  let s1 := if 16 ≤ (postedOf s p n).length then cycle (completeOne s p n) else s
  let a := getF s1 (F.IX_ADDR_ADDR p) n
  let x : Posted := { ini := ini, space := getF s1 (F.IX_ADDR_SPACE p) n, addr := a, val := BitVec.ofNat 32 v,
                      next := nextAddr s1 p n a }
  setF (setPosted s1 p n (postedOf s1 p n ++ [x])) (F.IX_ADDR_ADDR p) n x.next

/-- What a read of a word finds, with the fields that the initiator may not see as zero (R44). -/
def fieldsWord (s : State) (ini : Initiator) (n : Nat) (fs : List Fld) : Nat :=
  (fs.map (fun f => if f.priv && !privileged s ini then 0 else 2 ^ f.lo * liveF s f n)).sum

/-- Word `a` of a space, staging apart. -/
def wordIx (s : State) (ini : Initiator) (p : Page) (n sp a : Nat) : Nat :=
  if p = .evr ∧ sp = 2 then bits (getWide s .evr 0 2 (a / 4)).toNat (32 * (a % 4)) 32
  else match rawBits p sp with
    | some b => (getWide s p n sp a).toNat % 2 ^ b
    | none => fieldsWord s ini n (ixFields p sp a)

/-- A read of IX_DATA: the posted writes complete first, ADDR advances after (R48 to R50). -/
def readIx (s : State) (ini : Initiator) (p : Page) (n : Nat) : Nat × State :=
  let s1 := completeAll s p n
  let sp := getF s1 (F.IX_ADDR_SPACE p) n
  let a := getF s1 (F.IX_ADDR_ADDR p) n
  let z := ixSize p sp
  let r : Nat × State :=
    if z.1 ≤ a then (0, raise s1 p n 28)
    else if z.2 = 1 then (wordIx s1 ini p n sp a, s1)
    else
      let s2 := if (stageOf s1 p n sp).entry = some (a / z.2) ∧ a % z.2 ≠ 0 then s1 else loadStage s1 p n sp (a / z.2)
      (bits (stageOf s2 p n sp).val.toNat (32 * (a % z.2)) 32, s2)
  let b := nextAddr r.2 p n a
  (r.1, track (setF r.2 (F.IX_ADDR_ADDR p) n b) p n sp b)

/-! Accesses (R29, R30). -/

/-- The registers of R119 and R120, which parametric orders that are due reach before a write (R112). -/
def pmuReg (p : Page) (off : Nat) : Bool :=
  p == .pol && decide (0x0C0 ≤ off) && decide (off < 0x0D0) || p == .cdi && off == 0x084

/-- A write to the register at `off` of a page that is served. -/
def writeReg (s : State) (ini : Initiator) (p : Page) (n off v : Nat) : State :=
  if off = 0x034 then postIx s ini p n v
  else
    let fs := pageFields p n off
    let s0 := if off = 0x030 && !observer s ini then completeAll s p n else if pmuReg p off then pmuNowDue s else s
    let js := fs.map (fun f => (f, judge s0 ini f n (runlockedF s0 f n) (fs.any (!·.priv)) (bits v f.lo f.w.val)))
    let acc := js.filterMap (fun x => x.2.ok.map (fun y => (x.1, y)))
    let old (f : Fld) : Nat := getF s0 f n
    let s1 := acc.foldl (fun s x => storeF s n x) s0
    let s2 := refuse s1 ini p n false off (js.flatMap (fun x => x.2.why))
    let s3 := headWrite s2 p n off (old (F.EVT_MASK p)) (old (F.FORCE p)) acc
    let s4 := if off = 0x030 ∧ !acc.isEmpty then track s3 p n (getF s3 (F.IX_ADDR_SPACE p) n) (getF s3 (F.IX_ADDR_ADDR p) n) else s3
    if off < 0x040 then s4 else pageWrite s4 ini p n off v acc old

/-- A read of the register at `off` of a page that is served. -/
def readReg (s : State) (ini : Initiator) (p : Page) (n off : Nat) : Nat × State :=
  if off = 0x034 then readIx s ini p n
  else
    let s1 := if p = .evr ∧ off = 0x040 then bdnCapture s else s
    (fieldsWord s1 ini n (pageFields p n off), s1)

/-- A write of a page that may not be served; false: it completes with UR. -/
def pageWriteReq (s : State) (ini : Initiator) (p : Page) (n off v : Nat) : Bool × State :=
  match servedPage s p n off with
  | .yes => (true, writeReg s ini p n off v)
  | .quiet => (true, s)
  | .no => (false, s)

def pageReadReq (s : State) (ini : Initiator) (p : Page) (n off : Nat) : Option Nat × State :=
  match servedPage s p n off with
  | .yes => let r := readReg s ini p n off; (some r.1, r.2)
  | .quiet => (some 0, s)
  | .no => (none, s)

/-- A register write by address: aligned words of mapped pages only (R30, R393, R397). -/
def busWrite (s : State) (ini : Initiator) (a v : Nat) : Bool × State :=
  if a % 4 ≠ 0 then (false, s)
  else match locate a with
    | some x => pageWriteReq s ini x.page x.inst (pageOff a) v
    | none => (false, s)

def busRead (s : State) (ini : Initiator) (a : Nat) : Option Nat × State :=
  if a % 4 ≠ 0 then (none, s)
  else match locate a with
    | some x => pageReadReq s ini x.page x.inst (pageOff a)
    | none => (none, s)

/-- A write to a page, whether served or not. -/
def hostWrite (s : State) (ini : Initiator) (p : Page) (n off v : Nat) : State := (pageWriteReq s ini p n off v).2

/-- A write that changes field `f` alone: the other fields of its register are written with what the initiator reads. -/
def hostModify (s : State) (ini : Initiator) (f : Fld) (n v : Nat) : State :=
  let w := fieldsWord s ini n ((pageFields f.page n f.off).filter (fun g => g.ty == .rw))
  hostWrite s ini f.page n f.off (setBits w f.lo f.w.val v)

/-- An indirect write of one word, as software makes it through IX_ADDR and IX_DATA. -/
def hostIx (s : State) (ini : Initiator) (p : Page) (n sp a v : Nat) : State :=
  let s1 := cycle (hostWrite s ini p n 0x030 (2 ^ 24 * sp + a))
  completeAll (hostWrite s1 ini p n 0x034 v) p n

end Sys2Proof.Machine
end

