-- ==== Sys2Proof/Machine/HostCmds.lean ====
section
/-! DEFINITION. The commands that software gives by register accesses: each is the access the manual names for it, with the checks
of the fabric. -/

namespace Sys2Proof.Machine

/-- A page that exists (R396); an access to any other changes nothing (R397). -/
def onPage (s : State) (pg : PageRef) (s' : State) : State := if pg.inst < pg.page.count then s' else s

/-- The word that a read returned is kept. -/
def keepRead (r : Option Nat × State) : State := { r.2 with ret := r.1.map (BitVec.ofNat 32) }

/-- Field `f` of the parametric unit of a channel is written; the other fields of its word are written with what they read. -/
def pmuWrite (s : State) (i : Initiator) (c : Nat) (f : Fld) (v : Nat) : State :=
  let w := fieldsWord s i (c / 8) (ixFields .oct 2 f.off)
  hostIx s i .oct (c / 8) 2 f.off (setBits w f.lo f.w.val v)

/-- MBCTLp.GO is written while the request area holds operation `op` (R465). -/
def mailbox (s : State) (i : Initiator) (p op : Nat) : State :=
  if mbOp s p = op then hostWrite s i .sec 0 (0x088 + 0x40 * p) 1 else s

/-- REGISTER_WRITE (R30, R42): aligned 32-bit words only; any other access completes with an error and changes nothing. -/
def execRegisterWrite (i : Initiator) (addr : LinkAddr) (size : Nat) (v : Word) (s : State) : Host.Outcome State Fault Refusal :=
  let s := cycle s
  .next (if size = 4 then (busWrite s i addr.toNat v.toNat).2 else s)

/-- EVT_ACK_WRITE (R35). -/
def execEvtAckWrite (i : Initiator) (pg : PageRef) (v : Word) (s : State) : Host.Outcome State Fault Refusal :=
  let s := cycle s
  .next (onPage s pg (hostWrite s i pg.page pg.inst 0x018 v.toNat))

/-- LOCK_WRITE (R41). -/
def execLockWrite (i : Initiator) (pg : PageRef) (v : Word) (s : State) : Host.Outcome State Fault Refusal :=
  let s := cycle s
  .next (onPage s pg (hostWrite s i pg.page pg.inst 0x028 v.toNat))

/-- FORCE_WRITE (R39). -/
def execForceWrite (i : Initiator) (pg : PageRef) (v : Word) (s : State) : Host.Outcome State Fault Refusal :=
  let s := cycle s
  .next (onPage s pg (hostWrite s i pg.page pg.inst 0x024 v.toNat))

/-- IX_ADDR_WRITE (R47, R50). -/
def execIxAddrWrite (i : Initiator) (pg : PageRef) (v : Word) (s : State) : Host.Outcome State Fault Refusal :=
  let s := cycle s
  .next (onPage s pg (hostWrite s i pg.page pg.inst 0x030 v.toNat))

/-- IX_DATA_READ (R48 to R50): the word read stands in `ret`. -/
def execIxDataRead (i : Initiator) (pg : PageRef) (s : State) : Host.Outcome State Fault Refusal :=
  let s := cycle s
  .next (onPage s pg (keepRead (pageReadReq s i pg.page pg.inst 0x034)))

/-- IX_DATA_WRITE (R48, R49). -/
def execIxDataWrite (i : Initiator) (pg : PageRef) (v : Word) (s : State) : Host.Outcome State Fault Refusal :=
  let s := cycle s
  .next (onPage s pg (hostWrite s i pg.page pg.inst 0x034 v.toNat))

/-- IX_POSTED_WRITE_COMPLETE (R49 to R51). -/
def execIxPostedWriteComplete (pg : PageRef) (s : State) : Host.Outcome State Fault Refusal :=
  let s := cycle s
  .next (onPage s pg (completeOne s pg.page pg.inst))

/-- OCTMAP_WRITE (R54, R57). -/
def execOctmapWrite (i : Initiator) (p : Fin 64) (hi : Bool) (v : Word) (s : State) : Host.Outcome State Fault Refusal :=
  let s := cycle s
  .next (hostWrite s i .pol p.val (if hi then 0x048 else 0x044) v.toNat)

/-- DSMAP_WRITE (R56, R57). -/
def execDsmapWrite (i : Initiator) (p : Fin 64) (v : Word) (s : State) : Host.Outcome State Fault Refusal :=
  let s := cycle s
  .next (hostWrite s i .pol p.val 0x04C v.toNat)

/-- RUN: a write of RUNCTL (R62, R64, R67). -/
def execRun (i : Initiator) (p : Fin 64) (scope : Bool) (s : State) : Host.Outcome State Fault Refusal :=
  let s := cycle s
  .next (hostWrite s i .pol p.val 0x040 (1 + 256 * b2n scope))

/-- STOP: a write of RUNCTL (R60, R61). -/
def execStop (i : Initiator) (p : Fin 64) (scope : Bool) (s : State) : Host.Outcome State Fault Refusal :=
  let s := cycle s
  .next (hostWrite s i .pol p.val 0x040 (2 + 256 * b2n scope))

/-- ABORT: a write of RUNCTL (R60, R61). -/
def execAbort (i : Initiator) (p : Fin 64) (scope : Bool) (s : State) : Host.Outcome State Fault Refusal :=
  let s := cycle s
  .next (hostWrite s i .pol p.val 0x040 (4 + 256 * b2n scope))

/-- PAUSE: a write of RUNCTL (R60, R67). -/
def execPause (i : Initiator) (p : Fin 64) (scope : Bool) (s : State) : Host.Outcome State Fault Refusal :=
  let s := cycle s
  .next (hostWrite s i .pol p.val 0x040 (8 + 256 * b2n scope))

/-- RESUME: a write of RUNCTL (R60, R67). -/
def execResume (i : Initiator) (p : Fin 64) (scope : Bool) (s : State) : Host.Outcome State Fault Refusal :=
  let s := cycle s
  .next (hostWrite s i .pol p.val 0x040 (16 + 256 * b2n scope))

/-- DIKE: a write of RUNCTL (R60, R73). -/
def execDike (i : Initiator) (p : Fin 64) (scope : Bool) (s : State) : Host.Outcome State Fault Refusal :=
  let s := cycle s
  .next (hostWrite s i .pol p.val 0x040 (32 + 256 * b2n scope))

/-- RELEASE: a write of RUNCTL (R60, R72). -/
def execRelease (i : Initiator) (p : Fin 64) (scope : Bool) (s : State) : Host.Outcome State Fault Refusal :=
  let s := cycle s
  .next (hostWrite s i .pol p.val 0x040 (64 + 256 * b2n scope))

/-- CONV: a write of PMUCTL (R112). -/
def execConv (i : Initiator) (p : Fin 64) (s : State) : Host.Outcome State Fault Refusal :=
  let s := cycle s
  .next (hostWrite s i .pol p.val 0x0C0 1)

/-- BURST: a write of PMUCTL (R112). -/
def execBurst (i : Initiator) (p : Fin 64) (s : State) : Host.Outcome State Fault Refusal :=
  let s := cycle s
  .next (hostWrite s i .pol p.val 0x0C0 2)

/-- BURST_STOP: a write of PMUCTL (R112). -/
def execBurstStop (i : Initiator) (p : Fin 64) (s : State) : Host.Outcome State Fault Refusal :=
  let s := cycle s
  .next (hostWrite s i .pol p.val 0x0C0 4)

/-- FORCE_ON: a write of PMUCTL (R112). -/
def execForceOn (i : Initiator) (p : Fin 64) (s : State) : Host.Outcome State Fault Refusal :=
  let s := cycle s
  .next (hostWrite s i .pol p.val 0x0C0 8)

/-- FORCE_OFF: a write of PMUCTL (R112). -/
def execForceOff (i : Initiator) (p : Fin 64) (s : State) : Host.Outcome State Fault Refusal :=
  let s := cycle s
  .next (hostWrite s i .pol p.val 0x0C0 16)

/-- APPLY: a write of PMUCTL (R112). -/
def execApply (i : Initiator) (p : Fin 64) (s : State) : Host.Outcome State Fault Refusal :=
  let s := cycle s
  .next (hostWrite s i .pol p.val 0x0C0 32)

/-- PMU_MODE_WRITE (R105). -/
def execPmuModeWrite (i : Initiator) (ch : Fin 512) (mode : BitVec 2) (s : State) : Host.Outcome State Fault Refusal :=
  let s := cycle s
  .next (pmuWrite s i ch.val (F.OCT_X2_PMUCFG_MODE (ch.val % 8)) mode.toNat)

/-- RANGE_CHANGE (R110). -/
def execRangeChange (i : Initiator) (ch : Fin 512) (r : BitVec 3) (s : State) : Host.Outcome State Fault Refusal :=
  let s := cycle s
  .next (pmuWrite s i ch.val (F.OCT_X2_PMUCFG_IRANGE (ch.val % 8)) r.toNat)

/-- PMU_FORCE_WRITE (R115). -/
def execPmuForceWrite (i : Initiator) (ch : Fin 512) (code : BitVec 18) (s : State) : Host.Outcome State Fault Refusal :=
  let s := cycle s
  .next (pmuWrite s i ch.val (F.OCT_X2_FORCE_CODE (ch.val % 8)) code.toNat)

/-- QUEUE_PUSH (R131): the write of the high word pushes. -/
def execQueuePush (i : Initiator) (q : QId) (hi : Word) (s : State) : Host.Outcome State Fault Refusal :=
  let s := cycle s
  .next (match q with
    | .lvl p => hostWrite s i .pol p.val 0x0E8 hi.toNat
    | .ds d => hostWrite s i .dsc (d.val / 8) (0x048 + 0x40 * (d.val % 8)) hi.toNat)

/-- QUEUE_DIV_WRITE (R128): the divider restarts, so the next DAC_QUEUE_TICK is a whole period later. -/
def execQueueDivWrite (i : Initiator) (q : QId) (v : BitVec 16) (s : State) : Host.Outcome State Fault Refusal :=
  let s := cycle s
  .next (match q with
    | .lvl p => hostModify s i F.POL_LQCFG_DIV p.val v.toNat
    | .ds d => hostModify s i (F.DSC_DSCFG_DIV (d.val % 8)) (d.val / 8) v.toNat)

/-- TSET_CLEAR (R152). -/
def execTsetClear (i : Initiator) (p : Fin 64) (set : BitVec 6) (s : State) : Host.Outcome State Fault Refusal :=
  let s := cycle s
  .next (hostWrite s i .pol p.val 0x110 (set.toNat + 256))

/-- SELFCAL (R160). -/
def execSelfcal (i : Initiator) (d : Fin 8) (s : State) : Host.Outcome State Fault Refusal :=
  let s := cycle s
  .next (hostWrite s i .cdi d.val 0x090 1)

/-- PRELOAD (R176): a write of PRE_VA_HI with GO. -/
def execPreload (i : Initiator) (b : Bind) (va : BitVec 8) (compact : Bool) (s : State) : Host.Outcome State Fault Refusal :=
  let s := cycle s
  .next (hostWrite s i .mem 0 (0x134 + 0x40 * b.val) (va.toNat + 256 * b2n compact + 2 ^ 31))

/-- LCLR (R202, R218). -/
def execLclr (i : Initiator) (b : Bind) (s : State) : Host.Outcome State Fault Refusal :=
  let s := cycle s
  .next (if b.val < 16 then hostModify s i F.SEQ_SEQCTL_LCLR b.val 1 else hostModify s i F.MCE_ENGCTL_LCLR (b.val - 16) 1)

/-- CHECK (R232). -/
def execCheck (i : Initiator) (m : Fin 4) (s : State) : Host.Outcome State Fault Refusal :=
  let s := cycle s
  .next (hostModify s i F.MCE_ENGCTL_CHECK m.val 1)

/-- STREAM_ENABLE (R246): ACQCTL is written with MODE 3 and EN. -/
def execStreamEnable (i : Initiator) (p : Fin 64) (en : Bool) (s : State) : Host.Outcome State Fault Refusal :=
  let s := cycle s
  .next (hostWrite s i .acq p.val 0x040 (setBits (setBits (fieldsWord s i p.val (pageFields .acq p.val 0x040)) 0 1 (b2n en)) 1 2 3))

/-- SPILLRD_WRITE (R267). -/
def execSpillrdWrite (i : Initiator) (hi : Bool) (v : Word) (s : State) : Host.Outcome State Fault Refusal :=
  let s := cycle s
  .next (hostWrite s i .slu 0 (if hi then 0x068 else 0x064) v.toNat)

/-- HOST_EVENT_PULSE (R320). -/
def execHostEventPulse (i : Initiator) (k : BitVec 8) (code : BitVec 4) (s : State) : Host.Outcome State Fault Refusal :=
  let s := cycle s
  .next (hostWrite s i .evr 0 0x060 (k.toNat + 1 * 256 + 1024 * code.toNat + 2 ^ 31))

/-- HOST_EVENT_ASSERT (R320). -/
def execHostEventAssert (i : Initiator) (k : BitVec 8) (code : BitVec 4) (s : State) : Host.Outcome State Fault Refusal :=
  let s := cycle s
  .next (hostWrite s i .evr 0 0x060 (k.toNat + 2 * 256 + 1024 * code.toNat + 2 ^ 31))

/-- HOST_EVENT_DEASSERT (R320). -/
def execHostEventDeassert (i : Initiator) (k : BitVec 8) (code : BitVec 4) (s : State) : Host.Outcome State Fault Refusal :=
  let s := cycle s
  .next (hostWrite s i .evr 0 0x060 (k.toNat + 3 * 256 + 1024 * code.toNat + 2 ^ 31))

/-- RELOCK (R333). -/
def execRelock (i : Initiator) (s : State) : Host.Outcome State Fault Refusal :=
  let s := cycle s
  .next (hostModify s i F.CLK_REFCFG_RELOCK 0 1)

/-- REFSEL_WRITE (R329, R343). -/
def execRefselWrite (i : Initiator) (v : BitVec 2) (s : State) : Host.Outcome State Fault Refusal :=
  let s := cycle s
  .next (hostModify s i F.CLK_REFCFG_REFSEL 0 v.toNat)

/-- PHSTEP (R339). -/
def execPhstep (i : Initiator) (n : BitVec 16) (s : State) : Host.Outcome State Fault Refusal :=
  let s := cycle s
  .next (hostWrite s i .clk 0 0x058 (n.toNat + 2 ^ 31))

/-- OUTDIV_WRITE (R337). -/
def execOutdivWrite (i : Initiator) (k : Fin 12) (n : BitVec 12) (p q : BitVec 10) (s : State) : Host.Outcome State Fault Refusal :=
  let s := cycle s
  .next (hostWrite s i .clk 0 (0x070 + 8 * k.val) (n.toNat + 2 ^ 12 * p.toNat + 2 ^ 22 * q.toNat))

/-- BDN_LO_READ (R341): the word read stands in `ret`. -/
def execBdnLoRead (i : Initiator) (s : State) : Host.Outcome State Fault Refusal :=
  let s := cycle s
  .next (keepRead (pageReadReq s i .evr 0 0x040))

/-- REALIGN (R340). -/
def execRealign (i : Initiator) (s : State) : Host.Outcome State Fault Refusal :=
  let s := cycle s
  .next (hostWrite s i .bgl 0 0x044 1)

/-- XCAL (R360). -/
def execXcal (i : Initiator) (s : State) : Host.Outcome State Fault Refusal :=
  let s := cycle s
  .next (hostModify s i F.BGL_XCALCTL_GO 0 1)

/-- RETRAIN (R378): by PHCFG.RETRAIN, or by the port itself. -/
def execRetrain (i : Option Initiator) (port : Fin 2) (s : State) : Host.Outcome State Fault Refusal :=
  let s := cycle s
  .next (match i with
    | some j => hostModify s j F.PHL_PHCFG_RETRAIN port.val 1
    | none => startRetrain s port.val)

/-- SESSCTL_GO (R391). -/
def execSessctlGo (i : Initiator) (port : Fin 2) (req : BitVec 2) (s : State) : Host.Outcome State Fault Refusal :=
  let s := cycle s
  .next (hostWrite s i .phl port.val 0x044 (req.toNat + 4))

/-- DEVICE_RESET (R404): steps 1 and 2; any other KEY does nothing. -/
def execDeviceReset (i : Initiator) (key : BitVec 8) (s : State) : Host.Outcome State Fault Refusal :=
  let s := cycle s
  .next (hostWrite s i .dev 0 0x064 (key.toNat + 256))

/-- FAULT_CLEAR (R415, R417). -/
def execFaultClear (i : Initiator) (src : BitVec 8) (all self : Bool) (s : State) : Host.Outcome State Fault Refusal :=
  let s := cycle s
  .next (hostWrite s i .flt 0 0x050 (src.toNat + 2 ^ 8 * b2n all + 2 ^ 9 * b2n self + 2 ^ 10))

/-- EXIT (R423). -/
def execExit (i : Initiator) (s : State) : Host.Outcome State Fault Refusal :=
  let s := cycle s
  .next (hostWrite s i .flt 0 0x040 1)

/-- THACK (R437). -/
def execThack (i : Initiator) (s : State) : Host.Outcome State Fault Refusal :=
  let s := cycle s
  .next (hostModify s i F.HKP_THCTL_THACK 0 1)

/-- SENSCLR (R430). -/
def execSensclr (i : Initiator) (sens : BitVec 6) (all : Bool) (s : State) : Host.Outcome State Fault Refusal :=
  let s := cycle s
  .next (hostWrite s i .hkp 0 0x050 (2 + 2 ^ 8 * sens.toNat + 2 ^ 14 * b2n all))

/-- THRESHOLD_WRITE (R438). -/
def execThresholdWrite (i : Initiator) (b : Bool) (v : Word) (s : State) : Host.Outcome State Fault Refusal :=
  let s := cycle s
  .next (hostWrite s i .hkp 0 (if b then 0x048 else 0x044) v.toNat)

/-- NVM_RECORD_WRITE (R455). -/
def execNvmRecordWrite (i : Initiator) (typ : BitVec 16) (s : State) : Host.Outcome State Fault Refusal :=
  let s := cycle s
  .next (hostWrite s i .nvm 0 0x040 (typ.toNat + 2 ^ 16))

/-- REFRESH (R456). -/
def execRefresh (i : Initiator) (s : State) : Host.Outcome State Fault Refusal :=
  let s := cycle s
  .next (hostWrite s i .nvm 0 0x04C 1)

/-- CALSAVE (R455). -/
def execCalsave (i : Initiator) (s : State) : Host.Outcome State Fault Refusal :=
  let s := cycle s
  .next (hostWrite s i .nvm 0 0x050 1)

/-- ADV (R449). -/
def execAdv (i : Initiator) (s : State) : Host.Outcome State Fault Refusal :=
  let s := cycle s
  .next (hostWrite s i .sec 0 0x044 (2 ^ 16))

/-- PROG (R458). -/
def execProg (i : Initiator) (slot : Fin 4) (s : State) : Host.Outcome State Fault Refusal :=
  let s := cycle s
  .next (hostWrite s i .sec 0 0x04C (slot.val + 4))

/-- REVOKE (R458). -/
def execRevoke (i : Initiator) (slot : Fin 4) (s : State) : Host.Outcome State Fault Refusal :=
  let s := cycle s
  .next (hostWrite s i .sec 0 0x04C (slot.val + 8))

/-- LIFECYCLE_ADVANCE (R460). -/
def execLifecycleAdvance (i : Initiator) (key : BitVec 8) (target : BitVec 2) (s : State) : Host.Outcome State Fault Refusal :=
  let s := cycle s
  .next (hostWrite s i .sec 0 0x040 (target.toNat + 2 ^ 8 * key.toNat + 2 ^ 16))

/-- CHREQ (R463). -/
def execChreq (i : Initiator) (port : Fin 2) (s : State) : Host.Outcome State Fault Refusal :=
  let s := cycle s
  .next (hostModify s i (F.SEC_AUTHCTL_CHREQ port.val) 0 1)

/-- AUTH_GO (R463, R464). -/
def execAuthGo (i : Initiator) (port : Fin 2) (slot : BitVec 2) (s : State) : Host.Outcome State Fault Refusal :=
  let s := cycle s
  .next (hostWrite s i .sec 0 (0x060 + 0x40 * port.val) (2 + slot.toNat * 4))

/-- GET_CERT: MBCTLp.GO with this operation in the request area (R461, R465). -/
def execGetCert (i : Initiator) (port : Fin 2) (s : State) : Host.Outcome State Fault Refusal :=
  let s := cycle s
  .next (mailbox s i port.val 1)

/-- ATTEST: MBCTLp.GO with this operation in the request area (R462, R465). -/
def execAttest (i : Initiator) (port : Fin 2) (s : State) : Host.Outcome State Fault Refusal :=
  let s := cycle s
  .next (mailbox s i port.val 2)

/-- FW_UPDATE: MBCTLp.GO with this operation in the request area (R465). -/
def execFwUpdate (i : Initiator) (port : Fin 2) (s : State) : Host.Outcome State Fault Refusal :=
  let s := cycle s
  .next (mailbox s i port.val 3)

/-- NVM_READ: MBCTLp.GO with this operation in the request area (R465). -/
def execNvmRead (i : Initiator) (port : Fin 2) (s : State) : Host.Outcome State Fault Refusal :=
  let s := cycle s
  .next (mailbox s i port.val 4)

end Sys2Proof.Machine
end

