-- ==== Sys2Proof/Machine/Link.lean ====
section
/-! DEFINITION. The packets of the host link: reception, requests and their answers, acknowledgment and replay, credits, the capture
and event streams (R265 to R267, R370 to R383, R385, R392 to R394, R420, R421, R444, R446). -/

namespace Sys2Proof.Machine

/-! Regions of the link address space (R392, R393). -/

/-- The regions that answer; what lies in none is unmapped. -/
inductive Region where
  | fabric | sluice | mailbox | dram | firmware
deriving DecidableEq, Repr

def Region.lo : Region → Nat
  | .fabric => 0 | .sluice => 0x0100000000 | .mailbox => 0x0108000000 | .dram => dramLo | .firmware => fwLo

def Region.hi : Region → Nat
  | .fabric => 0x0000700000 | .sluice => 0x0104000000 | .mailbox => 0x0108040000 | .dram => fwLo | .firmware => dramHi

/-- The region that holds a span of `n` words from `a` on; a span that crosses a boundary is unmapped as a whole. -/
def regionOf (a n : Nat) : Option Region :=
  [Region.fabric, .sluice, .mailbox, .dram, .firmware].find? (fun r => decide (r.lo ≤ a) && decide (a + 4 * n ≤ r.hi))

/-- DRAM answers requests (R404, R444, R446). -/
def dramUp (s : State) : Bool :=
  !romrec s && (isSet s F.DEV_STATE_RSTBUSY 0 || decide (4 ≤ getF s F.DEV_STATE_BOOT 0))

/-- LEN that the negotiated version allows in one DMA packet (R370). -/
def dmaLen (s : State) (p n : Nat) : Bool := decide (n ≤ 1024) && (decide (n ≤ 64) || decide (2 ≤ getF s F.PHL_STATE_VER p))

/-! Reads and writes of memory. -/

/-- The words of a span of bytes. -/
def memWords (m : Memory) (a n : Nat) : List Word :=
  (List.range n).map (fun i => BitVec.ofNat 32 (ofBytes (Memory.readN m (a + 4 * i) 4)))

/-- The bytes of words, lowest first. -/
def lePayload (ws : List Word) : List Byte := ws.flatMap (fun w => toBytes 4 w.toNat)

/-- The span touches a 64-bit word with an uncorrectable error. -/
def spanBad (s : State) (a n : Nat) : Bool := s.dramBad.any (fun w => decide (w < a + 4 * n) && decide (a < w + 8))

/-- A host read of `n` words of DRAM counts the errors it meets (R171, R172, R190). Which it finds beside the words known to be bad is a
free value (log entry 69). -/
def hostErrs (s : State) (a n : Nat) : State :=
  let e := Config.loadErrs s.free
  let own (l : List EccErr) : List EccErr :=
    l.filter (fun x => !x.cache && decide (a ≤ x.addr.toNat) && decide (x.addr.toNat < a + 4 * n))
  eccErrs { s with free := s.free + 1 } (own e.1) (readUe s a (a + 4 * n) (own e.2))

/-- The 64-bit words of granule `g` of the Sluice pool (R394, R397). -/
def windowGran (s : State) (g : Nat) : List (BitVec 64) :=
  match (List.range 256).findSome? (fun k => ((Strm.all (strmOf s k)).find? (fun x => x.idx == g)).map (fun x => granWords x k)) with
  | some ws => ws
  | none => Store.get s.pool (List.replicate 64 0) g

/-- The 32-bit word at address `a` of the Sluice window. -/
def windowWord (s : State) (a : Nat) : Word :=
  let o := a - Region.sluice.lo
  BitVec.ofNat 32 (((windowGran s (o / 512)).getD (o % 512 / 8) 0).toNat / 2 ^ (o % 8 * 8))

/-- Bytes are written to DRAM: the caches hear of it, and 64-bit words written whole get fresh check bits (R177, R393). -/
def dramWrite (s : State) (a : Nat) (bs : List Byte) : State :=
  let s1 := invalidate s a bs.length
  { s1 with dram := Memory.writeN s1.dram a bs
            dramBad := s1.dramBad.filter (fun w => !(decide (a ≤ w) && decide (w + 8 ≤ a + bs.length))) }

/-! Requests (R372, R373, R392). -/

/-- What a request is answered with. -/
structure Answer where
  status : Nat
  data : List Word := []
  s : State

def unsupported (s : State) : Answer := { status := 1, s := s }

/-- Every address of the span lies in a page that is there (R397, R446). -/
def pagesThere (s : State) (a n : Nat) : Bool :=
  (List.range n).all (fun i => match locate (a + 4 * i) with
    | some x => servedPage s x.page x.inst 0 != .no
    | none => false)

def portIni (p : Nat) : Initiator := if p = 0 then .ph0 else .ph1

/-- Words of registers are read one after the other. -/
def regReads : Nat → State → Initiator → Nat → List Word × State
  | 0, s, _, _ => ([], s)
  | n + 1, s, ini, a =>
    let r := busRead (cycle s) ini a
    let t := regReads n r.2 ini (a + 4)
    (BitVec.ofNat 32 (r.1.getD 0) :: t.1, t.2)

def regWrites : List Word → State → Initiator → Nat → State
  | [], s, _, _ => s
  | w :: ws, s, ini, a => regWrites ws (busWrite (cycle s) ini a w.toNat).2 ini (a + 4)

/-- A read of `n` words at `a` through port `p`. -/
def readSpan (s : State) (p a n : Nat) : Answer :=
  if n = 0 ∨ a % 4 ≠ 0 then unsupported s
  else match regionOf a n with
    | none => unsupported s
    | some .fabric =>
      if n ≤ 16 ∧ pagesThere s a n then
        let r := regReads n s (portIni p) a
        { status := 0, data := r.1, s := r.2 }
      else unsupported s
    | some .mailbox => if dmaLen s p n then { status := 0, data := memWords s.mbox a n, s := s } else unsupported s
    | some .sluice =>
      if !dramUp s || !dmaLen s p n then unsupported s
      else if isSet s F.DEV_STATE_RSTBUSY 0 then { status := 0, data := List.replicate n 0, s := s }
      else { status := 0, data := (List.range n).map (fun i => windowWord s (a + 4 * i)), s := s }
    | some .dram =>
      if !dramUp s || !dmaLen s p n then unsupported s
      else
        let s1 := hostErrs s a n
        if spanBad s1 a n then { status := 4, data := List.replicate n 0, s := s1 }
        else { status := 0, data := memWords s.dram a n, s := s1 }
    | some .firmware =>
      if !dramUp s || !dmaLen s p n then unsupported s else { status := 0, data := List.replicate n 0, s := s }

/-- A register write of words at `a` through port `p`. -/
def writeSpan (s : State) (p a n : Nat) (ws : List Word) : Answer :=
  if n = 0 ∨ 16 < n ∨ ws.length ≠ n ∨ a % 4 ≠ 0 ∨ regionOf a n ≠ some .fabric ∨ !pagesThere s a n then unsupported s
  else { status := 0, s := regWrites ws s (portIni p) a }

/-- A packet was NAKed or discarded. -/
def crcErr (s : State) (p : Nat) : State := raise (addCt s F.PHL_CRCERR_N p 1) .phl p E.PHL_CRCERR

/-- A posted write of words at `a`: executed, or discarded and counted (R370, R393, R421). -/
def dmaSpan (s : State) (p a n : Nat) (ws : List Word) : State :=
  if isSet s F.FLT_STATE_EMBANK 0 || !dmaLen s p n || ws.length != n || a % 4 != 0 then crcErr s p
  else match regionOf a n with
    | some .mailbox => { s with mbox := Memory.writeN s.mbox a (lePayload ws) }
    | some .dram => if dramUp s then dramWrite s a (lePayload ws) else crcErr s p
    | _ => crcErr s p

/-! Completions and the cache (R379 to R381). -/

/-- A completion leaves on port `p`. -/
def complete (s : State) (p : Nat) (k : Packet) (st : Nat) (data : List Word) : State :=
  sendPkt s p { seq := 0, typ := if data.isEmpty then 5 else 6, tag := k.tag, epoch := k.epoch, status := st, len := data.length,
                payload := data }

/-- The session's cache takes an answer under the request's epoch and tag. -/
def remember (s : State) (p : Nat) (k : Packet) (st : Nat) (data : List Word) : State :=
  let q := sessPort s p
  let x := portOf s q
  let e : CacheE := { epoch := k.epoch, tag := k.tag, status := st, data := if data.length ≤ 16 then data else [] }
  setPort s q { x with cache := e :: x.cache.filter (fun c => !(c.epoch == k.epoch && c.tag == k.tag)) }

def cached (s : State) (p : Nat) (k : Packet) : Option CacheE :=
  (portOf s (sessPort s p)).cache.find? (fun c => c.epoch == k.epoch && c.tag == k.tag)

/-- What a non-posted request does. -/
def perform (s : State) (p : Nat) (k : Packet) : Answer :=
  if k.ptype = 1 then readSpan s p k.addr.toNat k.len else writeSpan s p k.addr.toNat k.len k.payload

/-- A request is executed, remembered and answered. -/
def serve (s : State) (p : Nat) (k : Packet) : State :=
  let r := perform s p k
  complete (remember r.s p k r.status r.data) p k r.status r.data

/-- STALE_EPOCH: not executed and not remembered. -/
def stale (s : State) (p : Nat) (k : Packet) : State :=
  complete (raise (addCt s F.PHL_STALECNT_N p 1) .phl p E.PHL_STALE) p k 2 []

/-- A retry of a request that the cache holds; a read of more than 16 words reads again. -/
def again (s : State) (p : Nat) (k : Packet) (c : CacheE) : State :=
  let s1 := addCt s F.PHL_DUPCNT_N p 1
  if k.ptype = 1 ∧ 16 < k.len then
    let r := perform s1 p k
    complete r.s p k r.status r.data
  else complete s1 p k c.status c.data

/-- A SEQ below the resume point of the last fast retrain (R379). -/
def belowResume (x : Port) (seq : BitVec 12) : Bool :=
  x.resume.any (fun r => decide (1 ≤ (r - seq).toNat) && decide ((r - seq).toNat ≤ 2048))

/-- A non-posted request for this module is judged (R379, R380): under the previous epoch it is accepted while `resume` stands, which it
does for a packet below the resume point only. -/
def judgeReq (s : State) (p : Nat) (k : Packet) : State :=
  let current := k.epoch.toNat == epochOf s p
  let previous := (k.epoch.toNat + 1) % 256 == epochOf s p
  match k.retry, cached s p k with
  | true, some c => again s p k c
  | true, none => if current then serve s p k else stale s p k
  | false, _ => if current || (previous && belowResume (portOf s p) k.seq) then serve s p k else stale s p k

/-! The chain (R385). -/

/-- A packet of the host for a module behind this one goes out on PH1. -/
def toTx (k : Packet) (hop : BitVec 3) : TxPkt :=
  { seq := 0, typ := k.ptype.toNat, tag := k.tag, epoch := k.epoch, retry := k.retry, hop := hop, len := k.len, addr := k.addr,
    payload := k.payload, status := k.status.toNat, stream := k.stream.toNat }

/-- RD or WR. -/
def nonPosted (k : Packet) : Bool := k.ptype == 1 || k.ptype == 2

/-- A host packet that this module does not take: UR, or discarded and counted. -/
def turnAway (s : State) (p : Nat) (k : Packet) : State := if nonPosted k then complete s p k 1 [] else crcErr s p

/-- The next module lies behind this one on PH1 (R384). -/
def passThrough (s : State) : Bool := getF s F.PHL_STATE_ROLE 1 == 2

/-- The credits that a received packet took. -/
def rxCost (k : Packet) : List (CreditClass × Nat) := costOf k.ptype.toNat k.len

/-- A packet with HOP > 0 is decremented and forwarded; one that cannot be is answered here (R385). -/
def forward (s : State) (p : Nat) (k : Packet) : State :=
  if p = 0 ∧ passThrough s = true then
    if portUp s 1 then passOn 1 s (toTx k (k.hop - 1))
    else giveCredit (if nonPosted k then raise (complete s 0 k 3 []) .phl 1 E.PHL_FWD_EXH else crcErr s p) p (rxCost k)
  else giveCredit (turnAway s p k) p (rxCost k)

/-- A packet that the link layer has accepted; what it took is given back as it leaves the receive buffer (R374). -/
def accepted (s : State) (p : Nat) (k : Packet) : State :=
  if p = 1 ∧ passThrough s = true then
    (if portUp s 0 then passOn 0 s (toTx k k.hop) else giveCredit s 1 (rxCost k))
  else if k.hop ≠ 0 then forward s p k
  else giveCredit (if nonPosted k then judgeReq s p k
    else if k.ptype = 3 then dmaSpan s p k.addr.toNat k.len k.payload
    else crcErr s p) p (rxCost k)

/-- R376, R379: SEQ `s` of an intact packet was the one expected. The packet is acknowledged; one that is not below the resume point
ends the replay across a fast retrain. -/
def takePkt (s : State) (p : Nat) (k : Packet) : State :=
  let x := portOf s p
  setPort s p { x with rxSeq := x.rxSeq + 1, lctl := [.ack k.seq], resume := if belowResume x k.seq then x.resume else none
                       given := (rxCost k).foldl (fun c y => c.upd y.1 (· - y.2)) x.given }

/-- R376: the receiver judges the CRC and the SEQ of a packet. -/
def receive (s : State) (p : Nat) (k : Packet) : State :=
  let x := portOf s p
  let d := (x.rxSeq - k.seq).toNat
  if !portActive s p then s
  else if !intact k then tell (crcErr s p) p [.nak x.rxSeq]
  else if d = 0 then accepted (takePkt s p k) p k
  else if d ≤ 2048 then tell s p [.ack (x.rxSeq - 1)]
  else tell (crcErr s p) p [.nak x.rxSeq]

/-- RD (R372). A packet is judged by its own TYPE. -/
def execRd (port : Fin 2) (pk : Packet) (s : State) : Host.Outcome State Fault Refusal :=
  let s := cycle s
  .next (receive s port pk)

/-- WR (R372). -/
def execWr (port : Fin 2) (pk : Packet) (s : State) : Host.Outcome State Fault Refusal :=
  let s := cycle s
  .next (receive s port.val pk)

/-- DMAWR (R372). -/
def execDmawr (port : Fin 2) (pk : Packet) (s : State) : Host.Outcome State Fault Refusal :=
  let s := cycle s
  .next (receive s port.val pk)

/-! Acknowledgment and replay (R376, R377). -/

/-- An acknowledgment of `a` reaches the packet. -/
def ackHits (a : BitVec 12) (k : TxPkt) : Bool := decide ((a - k.seq).toNat < 2048)

/-- How many packets at the front of a buffer fit `n` packets and `b` bytes: those are on their way. -/
def onWay : List TxPkt → Nat → Nat → Nat
  | [], _, _ => 0
  | k :: l, n, b => if 0 < n ∧ pktBytes k ≤ b then onWay l (n - 1) (b - pktBytes k) + 1 else 0

/-- A cumulative ACK of SEQ `a`: of the packets sent, those up to `a` leave the replay buffer. -/
def ackUpTo (s : State) (p : Nat) (a : BitVec 12) : State :=
  let x := portOf s p
  let m := onWay x.replay 2048 65536
  let sent := x.replay.take m
  let done := sent.filter (ackHits a)
  let keep := sent.filter (fun k => !ackHits a k) ++ x.replay.drop m
  if done.isEmpty then s else done.foldl ackedPkt (setPort s p { x with replay := keep, tries := 0 })

/-- ACK (R376). -/
def execAck (port : Fin 2) (seq : BitVec 12) (s : State) : Host.Outcome State Fault Refusal :=
  let s := cycle s
  .next (if portActive s port then ackUpTo s port seq else s)

/-- NAK (R376): whatever SEQ it carries, the replay starts at the oldest. -/
def execNak (port : Fin 2) (_seq : BitVec 12) (s : State) : Host.Outcome State Fault Refusal :=
  let s := cycle s
  .next (replay s port)

/-- REPLAY_TIMEOUT (R376): 1 µs after the last transmission of the oldest packet. -/
def execReplayTimeout (port : Fin 2) (s : State) : Host.Outcome State Fault Refusal :=
  let s := cycle s
  .next (replay s port.val)

/-! Credits (R374, R375). -/

/-- CREDIT_UPDATE: the far end grants credit, the host for captures and events, the next module for requests. -/
def execCreditUpdate (port : Fin 2) (cls : CreditClass) (n : BitVec 16) (s : State) : Host.Outcome State Fault Refusal :=
  let s := cycle s
  let p := port.val
  .next (if !portActive s p then s
    else drainWait (match cls with
      | .evs => addCt s F.PHL_CREDITS_EVS p n.toNat
      | .cap => if n = 0 then s else setF (addCt s F.PHL_CREDITS_CAP p n.toNat) F.PHL_COND_CAPHELD p 0
      | c => setPort s p { portOf s p with granted := (portOf s p).granted.upd c (· + n.toNat) }) p)

/-- The first granule of a stream that waits to be drained. -/
def waitingGran (s : State) (k : Nat) : Option Gran := (strmOf s k).queue.find? (fun g => g.gst == .queued)

/-- CAPWITHHELD (R375): the capture credit has stood at 0 for 10 µs while granules wait for it. -/
def execCapwithheld (port : Fin 2) (s : State) : Host.Outcome State Fault Refusal :=
  let s := cycle s
  let p := port.val
  let waits := (List.range 256).any (fun k => drainDest s k && (waitingGran s k).isSome)
  .next (if portActive s p && carriesCap s p && getF s F.PHL_CREDITS_CAP p == 0 && !isSet s F.PHL_COND_CAPHELD p && waits then
      raise (setF s F.PHL_COND_CAPHELD p 1) .phl p E.PHL_CAPWITHHELD
    else s)

/-! Drain (R265 to R267, R382). -/

/-- The words of a granule as a payload. -/
def granPayload (g : Gran) (k : Nat) : List Word :=
  (granWords g k).flatMap (fun w => [BitVec.ofNat 32 w.toNat, BitVec.ofNat 32 (w.toNat / 2 ^ 32)])

/-- The granule is DRAINING. -/
def markDraining (s : State) (k idx : Nat) : State :=
  let x := strmOf s k
  setStrm s k { x with queue := x.queue.map (fun (g : Gran) => if g.idx = idx then { g with gst := .draining } else g) }

/-- A CAP packet with the whole granule leaves on port `p`. -/
def sendCap (s : State) (p k : Nat) (g : Gran) : State :=
  let s1 := setF s F.PHL_CREDITS_CAP p (getF s F.PHL_CREDITS_CAP p - 1)
  sendPkt (markDraining s1 k g.idx) p { seq := 0, typ := 7, len := 128, stream := k, gran := some g.idx, payload := granPayload g k }

/-- The port that takes the next granule: of two that qualify the one with more credit. Without credit or room on it the granule waits
(R374, R376, R382). -/
def capPort (s : State) : Option Nat :=
  let p := match (capPorts s).filter (portActive s) with
    | [p, q] => if getF s F.PHL_CREDITS_CAP p < getF s F.PHL_CREDITS_CAP q then some q else some p
    | l => l.head?
  p.filter (fun p => decide (0 < getF s F.PHL_CREDITS_CAP p) && !txFull s p 528)

/-- A granule is copied to the spill ring and leaves the pool; with the ring full it waits. -/
def spill (s : State) (k : Nat) (g : Gran) : State :=
  let a := spillWr s
  if spillFull s then s
  else
    let bs := lePayload (granPayload g k)
    let s1 := if dramLo ≤ a ∧ a + 512 ≤ dramHi then dramWrite s a bs else s
    let b := spillNext s a
    freeGran (becameFull s (setF (setF s1 F.SLU_SPILLWR_LO_A 0 (b % 2 ^ 32)) F.SLU_SPILLWR_HI_A 0 (b / 2 ^ 32))) k g.idx

/-- The streams with waiting granules that share the destination of stream `k`. -/
def rivals (s : State) (k : Nat) : List Nat :=
  (List.range 256).filter (fun j => (waitingGran s j).isSome && toHost s j == toHost s k)

/-- It is the turn of stream `k` in the weighted round-robin: it may still send in this round, or the round is over (R266). -/
def itsTurn (s : State) (k : Nat) : Bool :=
  decide (0 < (strmOf s k).credit) || (rivals s k).all (fun j => (strmOf s j).credit == 0)

/-- Stream `k` sends one granule of its WEIGHT in the round; a new round gives every waiting stream its WEIGHT (R266). The order within
a round is that of the commands (DESIGN CHOICE, log entry 68). -/
def takeTurn (s : State) (k : Nat) : State :=
  let s1 := if 0 < (strmOf s k).credit then s
    else forAll (rivals s k) s (fun s j => setStrm s j { strmOf s j with credit := cfgWeight s j })
  setStrm s1 k { strmOf s1 k with credit := (strmOf s1 k).credit - 1 }

/-- The link acknowledges the packet that carries the oldest DRAINING granule of a stream. -/
def ackDraining (s : State) (k : Nat) : State :=
  match (strmOf s k).queue.find? (fun g => g.gst == .draining) with
  | none => s
  | some g => forAll [0, 1] s (fun s p =>
      match (portOf s p).replay.find? (fun x => x.stream == k && x.gran == some g.idx) with
      | some x => if portActive s p then ackUpTo s p x.seq else s
      | none => s)

/-- GRANULE_DRAINED (R266): the oldest waiting granule of stream `k`, in its turn, goes to the spill ring or out on the link; with
none waiting, the granule on its way is acknowledged. -/
def execGranuleDrained (k : Fin 256) (s : State) : Host.Outcome State Fault Refusal :=
  let s := cycle s
  .next (if isSet s F.FLT_STATE_EMBANK 0 then s
    else match waitingGran s k with
      | none => ackDraining s k
      | some g =>
        if !itsTurn s k then s
        else if !toHost s k then (if spillFull s then s else spill (takeTurn s k) k g)
        else match capPort s with
          | some p => sendCap (takeTurn s k) p k g
          | none => s)

/-! The event stream (R383). -/

/-- The port that sends events. -/
def evsPort (s : State) : Option Nat :=
  [0, 1].find? (fun p => portActive s p && getF s F.PHL_STATE_VER p == 3 && isSet s F.PHL_PHCFG_EVSEN p && hostPort s p)

/-- Ring records that packets on their way carry. -/
def evsInFlight (s : State) : Nat := (([0, 1] : List Nat).map (fun p => ((portOf s p).replay.map (·.recs)).sum)).sum

/-- The four words of ring record `r` (R321). -/
def ringWords (s : State) (r : Nat) : List Word :=
  (List.range 4).map (fun i => BitVec.ofNat 32 (bits (getWide s .evr 0 2 (r % 4096)).toNat (32 * i) 32))

/-- EVS_SEND (R383). -/
def execEvsSend (port : Fin 2) (s : State) : Host.Outcome State Fault Refusal :=
  let s := cycle s
  let p := port.val
  let first := getF s F.EVR_HSRD_IDX 0 + evsInFlight s
  let n := Nat.min 16 ((getF s F.EVR_HSWR_IDX 0 + 8192 - first) % 4096)
  .next (if evsPort s = some p ∧ n ≠ 0 ∧ 0 < getF s F.PHL_CREDITS_EVS p ∧ !txFull s p (16 + 16 * n) then
      sendPkt (setF s F.PHL_CREDITS_EVS p (getF s F.PHL_CREDITS_EVS p - 1)) p
        { seq := 0, typ := 8, len := 4 * n, recs := n, payload := (List.range n).flatMap (fun i => ringWords s (first + i)) }
    else s)

end Sys2Proof.Machine
end

