-- ==== Sys2Proof/WellFormed.lean ====
section
/-! DEFINITION. What a command must satisfy beyond its types: a page instance that exists (R396), a packet whose payload is LEN words
(R371), scans as long as the chain (R389), readings for every sensor (R427). -/

namespace Sys2Proof

/-- The instance exists (R396). -/
def PageRef.ok (pg : PageRef) : Bool := decide (pg.inst < pg.page.count)

/-- R371: LEN is at most 1,024 words, and a payload has LEN words; a read carries none. -/
def Packet.ok (k : Packet) : Bool :=
  decide (k.len ≤ 1024) && (if k.ptype = 1 then k.payload.isEmpty else k.payload.length == k.len)

/-- The cells of the boundary chain (R389): the digital balls other than the TAP's (CLKOUT, SMBCLK, SMBDAT, SMBALERT_N, SMBA0, SMBA1,
PWRGD_AUX, PWRGD_MAIN, PRSNT_N) and the 32 lane balls (R488). -/
def chainCells : Nat := 9 + 32

/-- A scan of the chain captures and shifts one bit per cell. -/
def scanOk (pins shift : List Bool) : Bool := pins.length == chainCells && shift.length == chainCells

/-- No channel is named twice. -/
def convOk (rs : List ConvResult) : Bool := decide ((rs.map (·.tch)).Nodup)

/-- No channel is named twice. -/
def calOk (rs : List CalResult) : Bool := decide ((rs.map (·.ch)).Nodup)

/-- The command is one that the module can meet. -/
def Instr.wf : Instr → Bool
  | .evtAckWrite _ pg _ => pg.ok
  | .lockWrite _ pg _ => pg.ok
  | .forceWrite _ pg _ => pg.ok
  | .ixAddrWrite _ pg _ => pg.ok
  | .ixDataRead _ pg => pg.ok
  | .ixDataWrite _ pg _ => pg.ok
  | .ixPostedWriteComplete pg => pg.ok
  | .conversionLatch _ _ rs => convOk rs
  | .selfcalDone _ _ rs => calOk rs
  | .rd _ pk => pk.ok && pk.ptype == 1
  | .wr _ pk => pk.ok && pk.ptype == 2
  | .dmawr _ pk => pk.ok && pk.ptype == 3
  | .samplePreload pins shift => scanOk pins shift
  | .extest pins shift => scanOk pins shift
  | .extestPulse pins shift => scanOk pins shift
  | .extestTrain pins shift => scanOk pins shift
  | .housekeepingRound smp _ _ => smp.length == 128
  | _ => true

end Sys2Proof
end

