-- ==== Sys2Proof/Machine/Ports.lean ====
section
/-! DEFINITION. The SMBus port and JTAG (R388, R389). -/

namespace Sys2Proof.Machine

/-! SMBus (R388): every command answers at the module's address once the OTP has been read; before that it is not acknowledged and
returns no bytes. -/

/-- The 7-bit address: 0x2C plus the straps. -/
def smbAddr : Nat := 0x2C + Config.smbaStraps.toNat

/-- The packet error code of SMBus: CRC-8 with x⁸ + x² + x + 1, the highest bit first, from 0. -/
def pecBit (c : Byte) : Byte := if c.msb then (c <<< 1) ^^^ 0x07 else c <<< 1

def pecByte (c b : Byte) : Byte := (List.range 8).foldl (fun c _ => pecBit c) (c ^^^ b)

def pecOf (bs : List Byte) : Byte := bs.foldl pecByte 0

/-- What stands before the data of a read on the bus: the address with W, the command code, the address with R; a block read has its
byte count there too. -/
def smbHead (code : Byte) (count : List Byte) : List Byte :=
  [BitVec.ofNat 8 (2 * smbAddr), code, BitVec.ofNat 8 (2 * smbAddr + 1)] ++ count

/-- A read of command `code` answers with `bs` and their PEC. -/
def smbAnswer (s : State) (code : Byte) (count bs : List Byte) : State :=
  { s with smb := { s.smb with
      out := if s.pwr.aux && s.pwr.otp then bs else []
      pec := if s.pwr.aux && s.pwr.otp then some (pecOf (smbHead code count ++ bs)) else none } }

/-- The status byte. -/
def smbStatus (s : State) : Nat :=
  b2n s.pwr.aux + b2n (isSet s F.DEV_STATE_MAINPWR 0) * 2 + b2n (getF s F.DEV_STATE_BOOT 0 != 0) * 4
    + b2n (isSet s F.DEV_STATE_EMBANK 0) * 8 + b2n (isSet s F.DEV_STATE_THERMREC 0) * 16 + b2n (portActive s 0) * 32
    + b2n (portActive s 1) * 64 + 128 * b2n s.smb.alert

/-- SMBUS_STATUS_READ: command 0x00. -/
def execSmbusStatusRead (s : State) : Host.Outcome State Fault Refusal :=
  let s := cycle s
  .next (smbAnswer s 0x00 [] [BitVec.ofNat 8 (smbStatus s)])

/-- SMBUS_TEMP_READ: command 0x01, the maximum temperature, low byte first. -/
def execSmbusTempRead (s : State) : Host.Outcome State Fault Refusal :=
  let s := cycle s
  .next (smbAnswer s 0x01 [] (toBytes 2 (getF s F.HKP_TMAX_T 0)))

/-- SMBUS_THERMAL_READ: command 0x02. -/
def execSmbusThermalRead (s : State) : Host.Outcome State Fault Refusal :=
  let s := cycle s
  .next (smbAnswer s 0x02 [] [BitVec.ofNat 8 (getF s F.HKP_TMAX_SUBSTITUTED 0 + getF s F.HKP_STATE_THROTTLING 0 * 2
    + b2n (causeNow s 188) * 4)])

/-- SMBUS_LIFECYCLE_READ: command 0x03. -/
def execSmbusLifecycleRead (s : State) : Host.Outcome State Fault Refusal :=
  let s := cycle s
  .next (smbAnswer s 0x03 [] [BitVec.ofNat 8 s.otp.lc])

/-- DEVID, REVID, SERIAL_LO and SERIAL_HI, each little-endian (R401). -/
def identity (s : State) : List Byte :=
  toBytes 4 (getF s F.DEV_DEVID_PART 0 + 2 ^ 16 * getF s F.DEV_DEVID_VENDOR 0)
    ++ toBytes 4 (getF s F.DEV_REVID_SIL_MINOR 0 + 2 ^ 8 * getF s F.DEV_REVID_SIL_MAJOR 0 + 2 ^ 16 * getF s F.DEV_REVID_ORDSFX 0)
    ++ toBytes 4 (getF s F.DEV_SERIAL_LO_SN 0) ++ toBytes 4 (getF s F.DEV_SERIAL_HI_SN 0)

/-- SMBUS_IDENTITY_READ: command 0x04, a block of 16 bytes (R401). -/
def execSmbusIdentityRead (s : State) : Host.Outcome State Fault Refusal :=
  let s := cycle s
  .next (smbAnswer s 0x04 [16] (identity s))

/-- SMBUS_CLEAR_ALERT: command 0x10, which the sender has completed with a PEC that agrees or with none. -/
def execSmbusClearAlert (s : State) : Host.Outcome State Fault Refusal :=
  let s := cycle s
  let s1 := { s with smb := { s.smb with out := [], pec := none } }
  .next (if s.pwr.aux && s.pwr.otp then { s1 with smb := { s1.smb with alert := false } } else s1)

/-! JTAG (R389). A command loads the instruction and makes one scan of its data register: `pins` is what the balls of the chain
show, `shift` what is shifted in, and `out` what is shifted out. -/

/-- The next state of the controller at a rising TCK, by TMS (IEEE 1149.1). TRST_N takes it to Test-Logic-Reset. -/
def tapNext : TapState → Bool → TapState
  | .testLogicReset, t => if t then .testLogicReset else .runTestIdle
  | .runTestIdle, t => if t then .selectDr else .runTestIdle
  | .selectDr, t => if t then .selectIr else .captureDr
  | .captureDr, t => if t then .exit1Dr else .shiftDr
  | .shiftDr, t => if t then .exit1Dr else .shiftDr
  | .exit1Dr, t => if t then .updateDr else .pauseDr
  | .pauseDr, t => if t then .exit2Dr else .pauseDr
  | .exit2Dr, t => if t then .updateDr else .shiftDr
  | .updateDr, t => if t then .selectDr else .runTestIdle
  | .selectIr, t => if t then .testLogicReset else .captureIr
  | .captureIr, t => if t then .exit1Ir else .shiftIr
  | .shiftIr, t => if t then .exit1Ir else .shiftIr
  | .exit1Ir, t => if t then .updateIr else .pauseIr
  | .pauseIr, t => if t then .exit2Ir else .pauseIr
  | .exit2Ir, t => if t then .updateIr else .shiftIr
  | .updateIr, t => if t then .selectDr else .runTestIdle

/-- The walk of one command, the repeats of a shift state left out: from Run-Test/Idle through the instruction scan and the data scan
back to it. -/
def scanTms : List Bool := [false, true, true, false, false, true, true, true, false, false, true, true, false]

/-- The controller has made the scans of a command and holds its instruction. -/
def loadIr (s : State) (ir : TapIr) : State :=
  { s with jtag := { s.jtag with tap := scanTms.foldl tapNext s.jtag.tap, ir := ir } }

/-- One bit for each cell of the chain. -/
def fitChain (l : List Bool) : List Bool := (List.range chainCells).map (fun i => l.getD i false)

/-- An instruction on the boundary register: it captures the balls, then updates to what was shifted in. -/
def boundary (s : State) (ir : TapIr) (pins shift : List Bool) : State :=
  let s1 := loadIr s ir
  { s1 with jtag := { s1.jtag with out := fitChain pins, bsr := fitChain shift } }

/-- BYPASS: one stage that captures 0. -/
def execBypass (s : State) : Host.Outcome State Fault Refusal :=
  let s := cycle s
  let s1 := loadIr s .bypass
  .next { s1 with jtag := { s1.jtag with out := [false] } }

/-- SAMPLE_PRELOAD: the balls keep their functions. -/
def execSamplePreload (pins shift : List Bool) (s : State) : Host.Outcome State Fault Refusal :=
  let s := cycle s
  .next (boundary s .sample pins shift)

/-- EXTEST: the boundary register drives the balls. -/
def execExtest (pins shift : List Bool) (s : State) : Host.Outcome State Fault Refusal :=
  let s := cycle s
  .next (boundary s .extest pins shift)

/-- IDCODE: DEV.JTAGID, bit 0 first. -/
def execIdcode (s : State) : Host.Outcome State Fault Refusal :=
  let s := cycle s
  let s1 := loadIr s .idcode
  .next { s1 with jtag := { s1.jtag with
            out := (List.range 32).map (fun i => (getF s F.DEV_JTAGID_ID 0).testBit i) } }

/-- EXTEST_PULSE (IEEE 1149.6): the lane balls pulse their data. -/
def execExtestPulse (pins shift : List Bool) (s : State) : Host.Outcome State Fault Refusal :=
  let s := cycle s
  .next (boundary s .pulse pins shift)

/-- EXTEST_TRAIN (IEEE 1149.6): the lane balls send a train of their data. -/
def execExtestTrain (pins shift : List Bool) (s : State) : Host.Outcome State Fault Refusal :=
  let s := cycle s
  .next (boundary s .train pins shift)

/-- REGACC: a register access with JTAG's rights; the word read stands in the TAP and in `ret`. -/
def execRegacc (write : Bool) (addr : LinkAddr) (v : Word) (s : State) : Host.Outcome State Fault Refusal :=
  let s := cycle s
  let s1 := loadIr s .regacc
  .next (if write then (busWrite s1 .jtag addr.toNat v.toNat).2
    else
      let r := busRead s1 .jtag addr.toNat
      let w := r.1.map (BitVec.ofNat 32)
      { r.2 with ret := w, jtag := { r.2.jtag with word := w.getD r.2.jtag.word } })

end Sys2Proof.Machine
end

