-- ==== Sys2Proof/Machine/Queues.lean ====
section
/-! DEFINITION. The consumption of the DAC queues (R127, R129, R130, R133, R135), with the compares that a change of levels decides
(R88). -/

namespace Sys2Proof.Machine

/-- The windows of a polder's channels as its levels change at `t` by `f`: a mid-band expectation without a mid-band before or after
fails (R88, R90). -/
def midSwitch (s : State) (q : Nat) (t : Stamp) (f : State → State) : State :=
  let mids := (chansOf s q).filter (fun c => match (chanOf s c).win with | some w => w.exp == .mid | none => false)
  let s1 := f (forAll mids s (fun s c => if noMid s c then settleViol s c t else s))
  forAll mids s1 (fun s c => midBroken s c t)

/-- A queue consumes an entry (R127): it is applied and stamped, and its CONT stands for the next tick (R133). -/
def consumeEntry (s : State) (q : Nat) (e : BitVec 64) : State :=
  let t := now s
  let s1 := putQueue s q { queueOf s q with cont := qeCont e }
  stampQueue (if isLvl q then midSwitch s1 q t (fun s => applyEntry s q e t) else applyEntry s1 q e t) q t

/-- An entry whose tick has come, unless consumption is suspended or waits for a gain switch, or the queue is one that holds no
entries (R135, R139). -/
def consumeNow (s : State) (q : Nat) (e : BitVec 64) : State :=
  if !queueLive s q || (queueOf s q).susp || (queueOf s q).gain then s else consumeEntry s q e

/-- A tick of the queue's sample clock (R127, R133, R135, R139). -/
def queueTick (s : State) (q : Nat) : State :=
  let x := queueOf s q
  if x.susp then s
  else match x.entries with
    | [] =>
      if x.cont then
        let s1 := putQueue s q { x with cont := false }
        if isLvl q then raise (addCt s1 F.POL_LQUNDER_N q 1) .pol q E.POL_LQ_UNDERRUN
        else raise (addCt s1 (F.DSC_QUNDER_N ((q - 64) % 8)) ((q - 64) / 8) 1) .dsc ((q - 64) / 8) (E.DSC_UNDERRUN ((q - 64) % 8))
      else s
    | e :: es =>
      if x.gain then
        if isLvl q then addCt s F.POL_LQSTALL_N q 1 else addCt s (F.DSC_QSTALL_N ((q - 64) % 8)) ((q - 64) / 8) 1
      else consumeEntry (putQueue s q { x with entries := es }) q e

/-! The commands. -/

def execNop (q : QId) (cont : Bool) (s : State) : Host.Outcome State Fault Refusal :=
  .next (consumeNow (cycle s) (QId.code q) (qeMake 0 cont false 0 0 0 0))

def execSet (q : QId) (cont : Bool) (tch : BitVec 9) (dac : BitVec 3) (g : Bool) (code : BitVec 16) (s : State) :
    Host.Outcome State Fault Refusal :=
  .next (consumeNow (cycle s) (QId.code q) (qeMake 1 cont g dac.toNat tch.toNat 0 code.toNat))

def execSetall (q : QId) (cont : Bool) (dac : BitVec 3) (g : Bool) (code : BitVec 16) (s : State) :
    Host.Outcome State Fault Refusal :=
  .next (consumeNow (cycle s) (QId.code q) (qeMake 2 cont g dac.toNat 0 0 code.toNat))

def execLswitch (q : QId) (cont : Bool) (lset : BitVec 4) (s : State) : Host.Outcome State Fault Refusal :=
  .next (consumeNow (cycle s) (QId.code q) (qeMake 3 cont false 0 0 lset.toNat 0))

def execDsset (q : QId) (cont : Bool) (g : Bool) (code : BitVec 16) (s : State) : Host.Outcome State Fault Refusal :=
  .next (consumeNow (cycle s) (QId.code q) (qeMake 4 cont g 0 0 0 code.toNat))

def execDson (q : QId) (cont : Bool) (s : State) : Host.Outcome State Fault Refusal :=
  .next (consumeNow (cycle s) (QId.code q) (qeMake 5 cont false 0 0 0 0))

def execDsoff (q : QId) (cont : Bool) (s : State) : Host.Outcome State Fault Refusal :=
  .next (consumeNow (cycle s) (QId.code q) (qeMake 6 cont false 0 0 0 0))

def execDacQueueTick (q : QId) (s : State) : Host.Outcome State Fault Refusal :=
  .next (queueTick (cycle s) (QId.code q))

end Sys2Proof.Machine
end

