-- ==== Sys2Proof/Machine/Dispatch.lean ====
section
/-! DEFINITION. `exec`: one arm per command, each a direct call of its meaning. -/

namespace Sys2Proof.Machine

def exec (i : Instr) (s : State) : Host.Outcome State Fault Refusal :=
  match i with
  | .registerWrite ini addr size v => Sys2Proof.Machine.execRegisterWrite ini addr size v s
  | .evtAckWrite ini pg v => Sys2Proof.Machine.execEvtAckWrite ini pg v s
  | .lockWrite ini pg v => Sys2Proof.Machine.execLockWrite ini pg v s
  | .forceWrite ini pg v => Sys2Proof.Machine.execForceWrite ini pg v s
  | .ixAddrWrite ini pg v => Sys2Proof.Machine.execIxAddrWrite ini pg v s
  | .ixDataRead ini pg => Sys2Proof.Machine.execIxDataRead ini pg s
  | .ixDataWrite ini pg v => Sys2Proof.Machine.execIxDataWrite ini pg v s
  | .ixPostedWriteComplete pg => Sys2Proof.Machine.execIxPostedWriteComplete pg s
  | .octmapWrite ini p hi v => Sys2Proof.Machine.execOctmapWrite ini p hi v s
  | .dsmapWrite ini p v => Sys2Proof.Machine.execDsmapWrite ini p v s
  | .run ini p scope => Sys2Proof.Machine.execRun ini p scope s
  | .stop ini p scope => Sys2Proof.Machine.execStop ini p scope s
  | .abort ini p scope => Sys2Proof.Machine.execAbort ini p scope s
  | .pause ini p scope => Sys2Proof.Machine.execPause ini p scope s
  | .resume ini p scope => Sys2Proof.Machine.execResume ini p scope s
  | .dike ini p scope => Sys2Proof.Machine.execDike ini p scope s
  | .release ini p scope => Sys2Proof.Machine.execRelease ini p scope s
  | .releaseComplete p => Sys2Proof.Machine.execReleaseComplete p s
  | .startConditionMet b => Sys2Proof.Machine.execStartConditionMet b s
  | .pauseTaken b => Sys2Proof.Machine.execPauseTaken b s
  | .stoppingComplete p => Sys2Proof.Machine.execStoppingComplete p s
  | .pinEdge ch => Sys2Proof.Machine.execPinEdge ch s
  | .comparatorTransition ch high rising t sub det => Sys2Proof.Machine.execComparatorTransition ch high rising t sub det s
  | .stopOnFail p => Sys2Proof.Machine.execStopOnFail p s
  | .driverOvercurrent ch t => Sys2Proof.Machine.execDriverOvercurrent ch t s
  | .clampOvercurrent ch t => Sys2Proof.Machine.execClampOvercurrent ch t s
  | .channelDieInit d => Sys2Proof.Machine.execChannelDieInit d s
  | .conv ini p => Sys2Proof.Machine.execConv ini p s
  | .burst ini p => Sys2Proof.Machine.execBurst ini p s
  | .burstStop ini p => Sys2Proof.Machine.execBurstStop ini p s
  | .forceOn ini p => Sys2Proof.Machine.execForceOn ini p s
  | .forceOff ini p => Sys2Proof.Machine.execForceOff ini p s
  | .apply ini p => Sys2Proof.Machine.execApply ini p s
  | .pmuModeWrite ini ch mode => Sys2Proof.Machine.execPmuModeWrite ini ch mode s
  | .modeReconnect ch => Sys2Proof.Machine.execModeReconnect ch s
  | .rangeChange ini ch r => Sys2Proof.Machine.execRangeChange ini ch r s
  | .rangeChangeComplete ch t => Sys2Proof.Machine.execRangeChangeComplete ch t s
  | .pmuForceWrite ini ch code => Sys2Proof.Machine.execPmuForceWrite ini ch code s
  | .conversionLatch p t0 rs => Sys2Proof.Machine.execConversionLatch p t0 rs s
  | .arrayReturn p t0 => Sys2Proof.Machine.execArrayReturn p t0 s
  | .nop q cont => Sys2Proof.Machine.execNop q cont s
  | .set q cont tch dac g code => Sys2Proof.Machine.execSet q cont tch dac g code s
  | .setall q cont dac g code => Sys2Proof.Machine.execSetall q cont dac g code s
  | .lswitch q cont lset => Sys2Proof.Machine.execLswitch q cont lset s
  | .dsset q cont g code => Sys2Proof.Machine.execDsset q cont g code s
  | .dson q cont => Sys2Proof.Machine.execDson q cont s
  | .dsoff q cont => Sys2Proof.Machine.execDsoff q cont s
  | .dacQueueTick q => Sys2Proof.Machine.execDacQueueTick q s
  | .gainSwitchEnd q => Sys2Proof.Machine.execGainSwitchEnd q s
  | .queuePush ini q hi => Sys2Proof.Machine.execQueuePush ini q hi s
  | .queueDivWrite ini q v => Sys2Proof.Machine.execQueueDivWrite ini q v s
  | .dsOvercurrent d t => Sys2Proof.Machine.execDsOvercurrent d t s
  | .dsSenseOpen d t => Sys2Proof.Machine.execDsSenseOpen d t s
  | .dsRampEnd d => Sys2Proof.Machine.execDsRampEnd d s
  | .tsetClear ini p set => Sys2Proof.Machine.execTsetClear ini p set s
  | .selfcal ini d => Sys2Proof.Machine.execSelfcal ini d s
  | .selfcalDone d t0 rs => Sys2Proof.Machine.execSelfcalDone d t0 rs s
  | .patternRefill b n ce ue => Sys2Proof.Machine.execPatternRefill b n ce ue s
  | .patrolScrub ce ue => Sys2Proof.Machine.execPatrolScrub ce ue s
  | .preload ini b va compact => Sys2Proof.Machine.execPreload ini b va compact s
  | .preloadDone b => Sys2Proof.Machine.execPreloadDone b s
  | .autoResume b => Sys2Proof.Machine.execAutoResume b s
  | .segmentFetch q entry => Sys2Proof.Machine.execSegmentFetch q entry s
  | .segmentWordIssue q => Sys2Proof.Machine.execSegmentWordIssue q s
  | .lclr ini b => Sys2Proof.Machine.execLclr ini b s
  | .microwordIssue m => Sys2Proof.Machine.execMicrowordIssue m s
  | .wait m wsel wpol => Sys2Proof.Machine.execWait m wsel wpol s
  | .waitTimeout m nxt => Sys2Proof.Machine.execWaitTimeout m nxt s
  | .branchNone m nxt => Sys2Proof.Machine.execBranchNone m nxt s
  | .branch2Way m nxt bc0 => Sys2Proof.Machine.execBranch2Way m nxt bc0 s
  | .branch4Way m nxt bc0 bc1 => Sys2Proof.Machine.execBranch4Way m nxt bc0 bc1 s
  | .branch8Way m nxt bc0 bc1 bc2 => Sys2Proof.Machine.execBranch8Way m nxt bc0 bc1 bc2 s
  | .branch16Way m nxt bc0 bc1 bc2 bc3 => Sys2Proof.Machine.execBranch16Way m nxt bc0 bc1 bc2 bc3 s
  | .ret m retva => Sys2Proof.Machine.execRet m retva s
  | .call m nxt => Sys2Proof.Machine.execCall m nxt s
  | .loopTest m nxt => Sys2Proof.Machine.execLoopTest m nxt s
  | .begin m lsel imm nxt => Sys2Proof.Machine.execBegin m lsel imm nxt s
  | .beginW m lsel imm nxt => Sys2Proof.Machine.execBeginW m lsel imm nxt s
  | .beginR m lsel nxt => Sys2Proof.Machine.execBeginR m lsel nxt s
  | .beginRw m lsel nxt => Sys2Proof.Machine.execBeginRw m lsel nxt s
  | .load m lsel imm => Sys2Proof.Machine.execLoad m lsel imm s
  | .loadr m lsel => Sys2Proof.Machine.execLoadr m lsel s
  | .loopDec m lsel => Sys2Proof.Machine.execLoopDec m lsel s
  | .loopInc m lsel => Sys2Proof.Machine.execLoopInc m lsel s
  | .breakLoop m => Sys2Proof.Machine.execBreakLoop m s
  | .vaInc m tset => Sys2Proof.Machine.execVaInc m tset s
  | .hold m tset => Sys2Proof.Machine.execHold m tset s
  | .jmp m tset imm => Sys2Proof.Machine.execJmp m tset imm s
  | .jmph m tset imm => Sys2Proof.Machine.execJmph m tset imm s
  | .retva m tset => Sys2Proof.Machine.execRetva m tset s
  | .rel m tset imm => Sys2Proof.Machine.execRel m tset imm s
  | .idx m tset imm lsel => Sys2Proof.Machine.execIdx m tset imm lsel s
  | .gateOn m t => Sys2Proof.Machine.execGateOn m t s
  | .gateOff m t => Sys2Proof.Machine.execGateOff m t s
  | .gateWord m t te => Sys2Proof.Machine.execGateWord m t te s
  | .trig m t => Sys2Proof.Machine.execTrig m t s
  | .mark m t => Sys2Proof.Machine.execMark m t s
  | .flagSet m k t => Sys2Proof.Machine.execFlagSet m k t s
  | .flagClear m k t => Sys2Proof.Machine.execFlagClear m k t s
  | .flagToggle m k t => Sys2Proof.Machine.execFlagToggle m k t s
  | .endTest m => Sys2Proof.Machine.execEndTest m s
  | .engineEventPulse m line code t => Sys2Proof.Machine.execEngineEventPulse m line code t s
  | .engineEventAssert m line code t => Sys2Proof.Machine.execEngineEventAssert m line code t s
  | .engineEventDeassert m line code t => Sys2Proof.Machine.execEngineEventDeassert m line code t s
  | .check ini m => Sys2Proof.Machine.execCheck ini m s
  | .crcDone m => Sys2Proof.Machine.execCrcDone m s
  | .autoTimeout p => Sys2Proof.Machine.execAutoTimeout p s
  | .recordComplete p => Sys2Proof.Machine.execRecordComplete p s
  | .retentionExpiry p src t => Sys2Proof.Machine.execRetentionExpiry p src t s
  | .maskAction p => Sys2Proof.Machine.execMaskAction p s
  | .streamEnable ini p en => Sys2Proof.Machine.execStreamEnable ini p en s
  | .scopeSample o t lost => Sys2Proof.Machine.execScopeSample o t lost s
  | .granuleFlushTimeout k => Sys2Proof.Machine.execGranuleFlushTimeout k s
  | .granuleDrained k => Sys2Proof.Machine.execGranuleDrained k s
  | .spillrdWrite ini hi v => Sys2Proof.Machine.execSpillrdWrite ini hi v s
  | .spillwayEvaluation => Sys2Proof.Machine.execSpillwayEvaluation s
  | .reclaimDone p => Sys2Proof.Machine.execReclaimDone p s
  | .tdcCalibrationDone ch m1 m2 => Sys2Proof.Machine.execTdcCalibrationDone ch m1 m2 s
  | .tdcWindowClose ch => Sys2Proof.Machine.execTdcWindowClose ch s
  | .tdcRecordTimeout ch => Sys2Proof.Machine.execTdcRecordTimeout ch s
  | .freqGateClose ch => Sys2Proof.Machine.execFreqGateClose ch s
  | .pairWindowExpire p tch => Sys2Proof.Machine.execPairWindowExpire p tch s
  | .routerEventArrival k => Sys2Proof.Machine.execRouterEventArrival k s
  | .eventDelivery => Sys2Proof.Machine.execEventDelivery s
  | .leveeCrossing ch high assert t => Sys2Proof.Machine.execLeveeCrossing ch high assert t s
  | .dsLeveeCrossing d assert t => Sys2Proof.Machine.execDsLeveeCrossing d assert t s
  | .subscriptionChange src t => Sys2Proof.Machine.execSubscriptionChange src t s
  | .muteWindowClose p k => Sys2Proof.Machine.execMuteWindowClose p k s
  | .hostEventPulse ini k code => Sys2Proof.Machine.execHostEventPulse ini k code s
  | .hostEventAssert ini k code => Sys2Proof.Machine.execHostEventAssert ini k code s
  | .hostEventDeassert ini k code => Sys2Proof.Machine.execHostEventDeassert ini k code s
  | .xoFail => Sys2Proof.Machine.execXoFail s
  | .mpllLock diff => Sys2Proof.Machine.execMpllLock diff s
  | .mpllUnlock diff => Sys2Proof.Machine.execMpllUnlock diff s
  | .relock ini => Sys2Proof.Machine.execRelock ini s
  | .refselWrite ini v => Sys2Proof.Machine.execRefselWrite ini v s
  | .bclkLoss => Sys2Proof.Machine.execBclkLoss s
  | .bclkQualified bofs pherr => Sys2Proof.Machine.execBclkQualified bofs pherr s
  | .smallStep => Sys2Proof.Machine.execSmallStep s
  | .phaseSlewStep => Sys2Proof.Machine.execPhaseSlewStep s
  | .phstep ini n => Sys2Proof.Machine.execPhstep ini n s
  | .outdivWrite ini k n p q => Sys2Proof.Machine.execOutdivWrite ini k n p q s
  | .outdivChangeDone k => Sys2Proof.Machine.execOutdivChangeDone k s
  | .epochWrap => Sys2Proof.Machine.execEpochWrap s
  | .bdnLoRead ini => Sys2Proof.Machine.execBdnLoRead ini s
  | .xoAgeUpdate v => Sys2Proof.Machine.execXoAgeUpdate v s
  | .epochFrame bits tm resid pherr => Sys2Proof.Machine.execEpochFrame bits tm resid pherr s
  | .echoReceive te => Sys2Proof.Machine.execEchoReceive te s
  | .btrigInTransition k level rx => Sys2Proof.Machine.execBtrigInTransition k level rx s
  | .timedLaunch k => Sys2Proof.Machine.execTimedLaunch k s
  | .syncLost => Sys2Proof.Machine.execSyncLost s
  | .realign ini => Sys2Proof.Machine.execRealign ini s
  | .xcal ini => Sys2Proof.Machine.execXcal ini s
  | .xcalDone => Sys2Proof.Machine.execXcalDone s
  | .mofsApply => Sys2Proof.Machine.execMofsApply s
  | .laneBlockLock port lane => Sys2Proof.Machine.execLaneBlockLock port lane s
  | .laneFail port lane => Sys2Proof.Machine.execLaneFail port lane s
  | .degradeDone port => Sys2Proof.Machine.execDegradeDone port s
  | .tsBlock port ts => Sys2Proof.Machine.execTsBlock port ts s
  | .trainingStateTimeout port => Sys2Proof.Machine.execTrainingStateTimeout port s
  | .linkActive port => Sys2Proof.Machine.execLinkActive port s
  | .retrain ini port => Sys2Proof.Machine.execRetrain ini port s
  | .retrainDone port ok => Sys2Proof.Machine.execRetrainDone port ok s
  | .rd port pk => Sys2Proof.Machine.execRd port pk s
  | .wr port pk => Sys2Proof.Machine.execWr port pk s
  | .dmawr port pk => Sys2Proof.Machine.execDmawr port pk s
  | .ack port seq => Sys2Proof.Machine.execAck port seq s
  | .nak port seq => Sys2Proof.Machine.execNak port seq s
  | .creditUpdate port cls n => Sys2Proof.Machine.execCreditUpdate port cls n s
  | .degradeCommand port lanes => Sys2Proof.Machine.execDegradeCommand port lanes s
  | .replayTimeout port => Sys2Proof.Machine.execReplayTimeout port s
  | .capwithheld port => Sys2Proof.Machine.execCapwithheld port s
  | .evsSend port => Sys2Proof.Machine.execEvsSend port s
  | .portDown port => Sys2Proof.Machine.execPortDown port s
  | .linkLossHold => Sys2Proof.Machine.execLinkLossHold s
  | .sessctlGo ini port req => Sys2Proof.Machine.execSessctlGo ini port req s
  | .smbusStatusRead => Sys2Proof.Machine.execSmbusStatusRead s
  | .smbusTempRead => Sys2Proof.Machine.execSmbusTempRead s
  | .smbusThermalRead => Sys2Proof.Machine.execSmbusThermalRead s
  | .smbusLifecycleRead => Sys2Proof.Machine.execSmbusLifecycleRead s
  | .smbusIdentityRead => Sys2Proof.Machine.execSmbusIdentityRead s
  | .smbusClearAlert => Sys2Proof.Machine.execSmbusClearAlert s
  | .bypass => Sys2Proof.Machine.execBypass s
  | .samplePreload pins shift => Sys2Proof.Machine.execSamplePreload pins shift s
  | .extest pins shift => Sys2Proof.Machine.execExtest pins shift s
  | .idcode => Sys2Proof.Machine.execIdcode s
  | .extestPulse pins shift => Sys2Proof.Machine.execExtestPulse pins shift s
  | .extestTrain pins shift => Sys2Proof.Machine.execExtestTrain pins shift s
  | .regacc write addr v => Sys2Proof.Machine.execRegacc write addr v s
  | .deviceReset ini key => Sys2Proof.Machine.execDeviceReset ini key s
  | .deviceResetDone => Sys2Proof.Machine.execDeviceResetDone s
  | .faultOccurrence k t => Sys2Proof.Machine.execFaultOccurrence k t s
  | .faultCauseGone k => Sys2Proof.Machine.execFaultCauseGone k s
  | .quietExpiry k => Sys2Proof.Machine.execQuietExpiry k s
  | .faultClear ini src all self => Sys2Proof.Machine.execFaultClear ini src all self s
  | .selferr t => Sys2Proof.Machine.execSelferr t s
  | .fltParityScan bad t => Sys2Proof.Machine.execFltParityScan bad t s
  | .keepaliveTimeout d => Sys2Proof.Machine.execKeepaliveTimeout d s
  | .exit ini => Sys2Proof.Machine.execExit ini s
  | .pwrgdMainDeassert t => Sys2Proof.Machine.execPwrgdMainDeassert t s
  | .pwrgdMainAssert => Sys2Proof.Machine.execPwrgdMainAssert s
  | .surprisePowerLoss => Sys2Proof.Machine.execSurprisePowerLoss s
  | .housekeepingRound smp railOut t => Sys2Proof.Machine.execHousekeepingRound smp railOut t s
  | .earlyThrottleExpiry => Sys2Proof.Machine.execEarlyThrottleExpiry s
  | .substitutionHoldEnd => Sys2Proof.Machine.execSubstitutionHoldEnd s
  | .thack ini => Sys2Proof.Machine.execThack ini s
  | .thackDone => Sys2Proof.Machine.execThackDone s
  | .sensclr ini sens all => Sys2Proof.Machine.execSensclr ini sens all s
  | .thresholdWrite ini b v => Sys2Proof.Machine.execThresholdWrite ini b v s
  | .pwrgdAuxAssert => Sys2Proof.Machine.execPwrgdAuxAssert s
  | .pwrgdAuxDeassert => Sys2Proof.Machine.execPwrgdAuxDeassert s
  | .otpRead => Sys2Proof.Machine.execOtpRead s
  | .imageVerify => Sys2Proof.Machine.execImageVerify s
  | .nvmLoad => Sys2Proof.Machine.execNvmLoad s
  | .bootReady => Sys2Proof.Machine.execBootReady s
  | .watchdogExpiry => Sys2Proof.Machine.execWatchdogExpiry s
  | .nvmRecordWrite ini typ => Sys2Proof.Machine.execNvmRecordWrite ini typ s
  | .wrDone ok => Sys2Proof.Machine.execWrDone ok s
  | .refresh ini => Sys2Proof.Machine.execRefresh ini s
  | .dailyRefresh old slotA slotB => Sys2Proof.Machine.execDailyRefresh old slotA slotB s
  | .hoursRecord => Sys2Proof.Machine.execHoursRecord s
  | .calsave ini => Sys2Proof.Machine.execCalsave ini s
  | .adv ini => Sys2Proof.Machine.execAdv ini s
  | .prog ini slot => Sys2Proof.Machine.execProg ini slot s
  | .revoke ini slot => Sys2Proof.Machine.execRevoke ini slot s
  | .lifecycleAdvance ini key target => Sys2Proof.Machine.execLifecycleAdvance ini key target s
  | .lcDone => Sys2Proof.Machine.execLcDone s
  | .chreq ini port => Sys2Proof.Machine.execChreq ini port s
  | .authGo ini port slot => Sys2Proof.Machine.execAuthGo ini port slot s
  | .authResult port => Sys2Proof.Machine.execAuthResult port s
  | .getCert ini port => Sys2Proof.Machine.execGetCert ini port s
  | .attest ini port => Sys2Proof.Machine.execAttest ini port s
  | .attestDone port => Sys2Proof.Machine.execAttestDone port s
  | .fwUpdate ini port => Sys2Proof.Machine.execFwUpdate ini port s
  | .nvmRead ini port => Sys2Proof.Machine.execNvmRead ini port s
  | .mbDone port ok => Sys2Proof.Machine.execMbDone port ok s
  | .phyReady => Sys2Proof.Machine.execPhyReady s
  | .alignBlock port ok => Sys2Proof.Machine.execAlignBlock port ok s
  | .realigned pherr => Sys2Proof.Machine.execRealigned pherr s
  | .outputDelayStep k => Sys2Proof.Machine.execOutputDelayStep k s
  | .refreshDone => Sys2Proof.Machine.execRefreshDone s
  | .withoutHostAlert => Sys2Proof.Machine.execWithoutHostAlert s
  | .preTriggerFillEnd p => Sys2Proof.Machine.execPreTriggerFillEnd p s

end Sys2Proof.Machine
end

