-- ==== Sys2Proof/Machine/Step.lean ====
section
/-! DEFINITION. One step: the command at the front of the queue, or one tick of the Bourdon count on an empty queue. -/

namespace Sys2Proof.Machine

/-- An empty queue: the Bourdon count advances by one tick, and the modulator of the synthesizer with it (R330), where the hub main
island runs (R341; assumption log, entry 3). -/
def idle (s : State) : State :=
  if isSet s F.DEV_STATE_MAINPWR 0 then modTick { s with bdn := s.bdn + 1 } else s

/-- The command at the front of the queue is executed with the queue's rest; an empty queue idles. -/
def step (s : State) : Host.Outcome State Fault Refusal :=
  match s.pending with
  | [] => .next (idle s)
  | c :: cs => exec c { s with pending := cs }

/-- `s` with the command that a word spells at the front of the queue; no word spells one. -/
def State.withFetchWord (s : State) (nbits w : Nat) : State :=
  match decodeTableWord nbits w with
  | none => s
  | some c => { s with pending := c :: s.pending }

end Sys2Proof.Machine
end

