-- ==== Sys2Proof/Safety.lean ====
section
/-! DEFINITION. What claims say of states: the invariant of every step, fuses that are never taken back, frames, the register
pages that a command may write. -/

namespace Sys2Proof.Machine

/-- Both memories list rising addresses and no byte that an unlisted address reads as (assumption log, entry 7). -/
def memOk (s : State) : Bool := Memory.wf s.dram && Memory.wf s.mbox

/-- A lifecycle advance in progress goes where R460 lets it go from the present lifecycle. -/
def lcOk (s : State) : Bool := match s.sec.lcTo with | none => true | some t => lcLater s.otp.lc t

/-- The invariant of every step. -/
def StateOk (s : State) : Prop := memOk s = true ∧ lcOk s = true

/-- What was blown in the OTP stays blown (R457 to R460): hashes once programmed, revocations, the anti-rollback count, the
lifecycle and the zeroised seeds are never taken back; the vendor key hash and the serial number never change. -/
structure OtpKept (a b : Otp) : Prop where
  vkh : b.vkh = a.vkh
  serial : b.serial = a.serial
  okh : ∀ k, Store.get a.okh [] k ≠ [] → Store.get b.okh [] k = Store.get a.okh [] k
  revoked : ∀ k, k ∈ a.revoked → k ∈ b.revoked
  arb : a.arb ≤ b.arb
  lc : a.lc ≤ b.lc
  seeds : b.seeds = true → a.seeds = true

/-- The outcome is a next state that satisfies `P`. -/
def Completes (o : Host.Outcome State Fault Refusal) (P : State → Prop) : Prop := ∃ t, o = .next t ∧ P t

/-! Frames. -/

/-- Only the fields listed, each of the instance beside it, may differ. -/
def SameBut (l : List (Fld × Nat)) (s t : State) : Prop :=
  ∀ f n, (∀ x ∈ l, f.key n ≠ x.1.key x.2) → getF t f n = getF s f n

/-- Outside the register fields the state is as it was (but for the note of the pages that counted an event in this command). -/
def RegsOnly (s t : State) : Prop := t = { s with regs := t.regs, cyc := t.cyc }

/-- The queue, the OTP, the TAP, the mailboxes and DRAM are as they were. -/
structure Apart (s t : State) : Prop where
  pending : t.pending = s.pending
  otp : t.otp = s.otp
  jtag : t.jtag = s.jtag
  mbox : t.mbox = s.mbox
  dram : t.dram = s.dram

/-- The word at vector address `a`, to which VOP code `vop` of engine `m` goes, issues: it lies where the binding may fetch, it is
not poisoned, and it is resident or prefetched (R169 to R185, R228). -/
def wordIssues (s : State) (m vop a tset : Nat) : Bool :=
  (issueStop (if a = engVa s m then s else jumpLead (setVa s m a) (16 + m) (vop == 2 || vop == 3)) (16 + m) a
    (compact s (bndAnchor s (16 + m)) tset)).isNone

/-! Which commands may write the memories, the OTP and the TAP. -/

/-- Commands that may blow a fuse of the OTP: register writes by address, packets, and those of the security page. -/
def mayBlow : Instr → Bool
  | .registerWrite .. | .rd .. | .wr .. | .dmawr .. | .regacc .. | .adv .. | .prog .. | .revoke .. | .lcDone => true
  | _ => false

/-- Commands that may write DRAM: packets, a granule that spills, the power of the main domain. -/
def mayDram : Instr → Bool
  | .rd .. | .wr .. | .dmawr .. | .granuleDrained .. | .pwrgdMainDeassert .. | .pwrgdMainAssert | .surprisePowerLoss
    | .pwrgdAuxAssert | .pwrgdAuxDeassert => true
  | _ => false

/-- Commands that may write the mailbox memories: packets, the ends of mailbox operations, auxiliary power. -/
def mayMbox : Instr → Bool
  | .rd .. | .wr .. | .dmawr .. | .mbDone .. | .attestDone .. | .surprisePowerLoss | .pwrgdAuxAssert
    | .pwrgdAuxDeassert => true
  | _ => false

/-- Commands that may change the TAP: its own scans and auxiliary power. -/
def mayTap : Instr → Bool
  | .bypass | .samplePreload .. | .extest .. | .idcode | .extestPulse .. | .extestTrain .. | .regacc .. | .surprisePowerLoss
    | .pwrgdAuxAssert | .pwrgdAuxDeassert => true
  | _ => false

/-! Register accesses. -/

/-- The register at `off` of a page takes a write of initiator `i`: no check of session, privilege, Embankment mode or run refuses a
field of it (R42 to R46, R63, R421). -/
def mayWrite (s : State) (i : Initiator) (p : Page) (n off : Nat) : Bool :=
  decide (servedPage s p n off = .yes) && !observer s i &&
    (pageFields p n off).all (fun f => (!f.priv || privileged s i) && (!isSet s F.FLT_STATE_EMBANK 0 || embankOk f)
      && !runlockedF s f n)

/-- The state in which the write of a run command has set SCOPE. -/
def scopeSet (s : State) (p : Nat) (scope : Bool) : State := setF (cycle s) F.POL_RUNCTL_SCOPE p (b2n scope)

/-! Parametric conversions. -/

/-- No parametric order of any polder is stamped before `t` (R112). -/
def noneDue (s : State) (t : Stamp) : Prop := ∀ p < 64, ∀ y ∈ (polOf s p).trigs, earlier y.t0 t = false

/-! Run states. -/

/-- The run state of polder `q` after polder `k` has been benched (R68): ARMED it goes to the state that BENCH_TO selects, the last
member of its binding stops, any other plays its words out. -/
def afterBench (s : State) (k q : Nat) : RS :=
  match (polOf s k).bind with
  | none => rsOf s q
  | some b =>
    if q ≠ k then rsOf s q
    else if rsOf s k = .armed then (if isSet s F.POL_CSRT_BENCH_TO k then .dike else .idle)
    else if bndMem s b = [k] then .stopping else rsOf s k

/-- The run state of polder `q` after a stop of the binding that plays to polder `k` (R60, R61): members that are all ARMED return to
IDLE, any others enter STOPPING. -/
def afterStop (s : State) (k q : Nat) : RS :=
  match bindOf s k with
  | none => rsOf s q
  | some b =>
    if q ∉ bndMem s b then rsOf s q else if ∀ r ∈ bndMem s b, rsOf s r = .armed then .idle else .stopping

/-- The run state of polder `q` after the action of R96 or R249 on polder `k`: with `one` in a consort of two or more the member is
benched, otherwise its binding stops; members that do not run, or stop already, stay as they are. -/
def afterAction (s : State) (k : Nat) (one : Bool) (q : Nat) : RS :=
  let who := if one && multi s k then [k].filter (fun r => !isSet s F.POL_STATE_BENCHED r) else active s k
  if ∀ r ∈ who, (rsOf s r).busy = true → rsOf s r = .stopping then rsOf s q
  else if one && multi s k then afterBench s k q else afterStop s k q

/-! The register pages that each command may write. -/

/-- The register pages that an indirect write of page `p` may write. -/
def ixPages (p : Page) : List Page :=
  match p with
  | .oct => [.evr, .pol, .oct, .cdi]
  | .flt => [.flt, .oct]
  | p => [p]

/-- The register pages that stopping or starting runs may write. -/
def runPages : List Page := [.evr, .slu, .mem, .dsc, .pol, .acq, .oct, .seq, .mce, .cdi]

/-- The register pages that issuing vector words and ending runs may write. -/
def issuePages : List Page := [.slu, .mem, .dsc, .pol, .acq, .oct, .seq, .mce, .cdi]

/-- The register pages that a write of the register at `off` of page `p` may write. -/
def writePages (p : Page) (off : Nat) : List Page :=
  if off = 0x030 ∨ off = 0x034 then ixPages p
  else if off < 0x040 then [p]
  else match p with
    | .dev => .dev :: runPages
    | .flt => .dev :: .flt :: .nvm :: runPages
    | .clk => [.clk, .bgl]
    | .dsc => [.evr, .dsc, .pol]
    | .pol =>
      if off = 0x040 then .hkp :: runPages
      else if off = 0x044 ∨ off = 0x048 then [.evr, .slu, .dsc, .pol, .acq, .oct, .cdi]
      else if off = 0x04C then [.evr, .dsc, .pol]
      else if pmuReg .pol off then [.pol, .oct, .cdi]
      else if off = 0x0E8 then [.dsc, .pol]
      else [.pol]
    | .acq => [.acq, .slu]
    | .seq | .mce => [.seq, .mce]
    | .cdi => if pmuReg .cdi off then [.pol, .oct, .cdi] else [.cdi]
    | p => [p]

/-- The register pages that a command may write; a link packet, a register access by address, a reset and the power rows reach
every page. -/
def pagesOf : Instr → List Page
  | .registerWrite .. | .rd .. | .wr .. | .dmawr .. | .regacc .. | .deviceResetDone | .pwrgdMainDeassert ..
    | .pwrgdMainAssert | .surprisePowerLoss | .pwrgdAuxAssert | .pwrgdAuxDeassert | .nvmLoad => allPages
  | .evtAckWrite _ pg _ | .lockWrite _ pg _ | .forceWrite _ pg _ => [pg.page]
  | .ixAddrWrite _ pg _ | .ixDataRead _ pg | .ixDataWrite _ pg _ | .ixPostedWriteComplete pg => ixPages pg.page
  | .octmapWrite .. => writePages .pol 0x044
  | .dsmapWrite .. => writePages .pol 0x04C
  | .run .. | .stop .. | .abort .. | .pause .. | .resume .. | .dike .. | .release .. => writePages .pol 0x040
  | .releaseComplete .. => [.evr, .slu, .dsc, .pol, .oct, .cdi]
  | .startConditionMet .. | .ret .. | .call .. | .loopTest .. | .begin .. | .beginW .. | .beginR .. | .beginRw ..
    | .load .. | .loadr .. | .loopDec .. | .loopInc .. | .breakLoop .. | .endTest .. | .branchNone .. | .branch2Way ..
    | .branch4Way .. | .branch8Way .. | .branch16Way .. | .gateOn .. | .gateOff .. | .gateWord .. | .trig .. | .mark ..
    | .flagSet .. | .flagClear .. | .flagToggle .. | .engineEventPulse .. | .engineEventAssert ..
    | .engineEventDeassert .. => issuePages
  | .pauseTaken .. => [.evr, .slu, .mem, .pol, .oct, .seq, .mce]
  | .stoppingComplete .. => .hkp :: runPages
  | .pinEdge .. => [.evr, .slu, .pol, .oct, .seq, .mce, .cdi]
  | .comparatorTransition .. => [.evr, .slu, .pol, .oct, .seq, .mce]
  | .stopOnFail .. | .maskAction .. => runPages
  | .driverOvercurrent .. | .clampOvercurrent .. | .tdcCalibrationDone .. => [.oct]
  | .channelDieInit .. => [.dev, .evr, .slu, .dsc, .pol, .oct, .cdi]
  | .conv .. | .burst .. | .burstStop .. | .forceOn .. | .forceOff .. | .apply .. => writePages .pol 0x0C0
  | .pmuModeWrite .. | .rangeChange .. | .pmuForceWrite .. => ixPages .oct
  | .modeReconnect .. | .arrayReturn .. | .rangeChangeComplete .. => [.pol, .oct, .cdi]
  | .selfcalDone .. => [.oct, .cdi]
  | .conversionLatch .. => [.slu, .pol, .acq, .oct, .cdi]
  | .nop .. | .set .. | .setall .. | .lswitch .. | .dsset .. | .dson .. | .dsoff .. | .dacQueueTick .. =>
    [.evr, .dsc, .pol, .oct, .seq, .mce]
  | .gainSwitchEnd .. => [.dsc, .pol]
  | .queuePush .. | .queueDivWrite .. => [.evr, .dsc, .pol]
  | .dsOvercurrent .. | .dsSenseOpen .. => [.dsc]
  | .dsRampEnd .. => [.evr, .dsc]
  | .tsetClear .. | .pairWindowExpire .. => [.pol]
  | .selfcal .. => [.cdi]
  | .patternRefill .. | .patrolScrub .. | .preload .. | .preloadDone .. => [.mem]
  | .autoResume .. => [.hkp, .slu, .mem, .pol, .oct, .seq, .mce]
  | .segmentFetch .. | .retentionExpiry .. | .granuleFlushTimeout .. | .muteWindowClose .. | .epochWrap | .timedLaunch ..
    | .smbusStatusRead | .smbusTempRead | .smbusThermalRead | .smbusLifecycleRead | .smbusIdentityRead | .smbusClearAlert | .bypass |
      .samplePreload ..
    | .extest .. | .idcode | .extestPulse .. | .extestTrain .. | .earlyThrottleExpiry | .outputDelayStep ..
    | .withoutHostAlert => []
  | .segmentWordIssue .. | .microwordIssue .. | .wait .. | .waitTimeout .. | .vaInc .. | .hold .. | .jmp ..
    | .jmph .. | .retva .. | .rel .. | .idx .. => .hkp :: issuePages
  | .lclr .. | .check .. => [.seq, .mce]
  | .crcDone .. => [.mce]
  | .autoTimeout .. => [.slu, .pol, .acq]
  | .spillrdWrite .. | .spillwayEvaluation | .tdcWindowClose .. | .tdcRecordTimeout .. => [.slu]
  | .recordComplete .. | .reclaimDone .. => [.slu, .acq]
  | .streamEnable .. => [.acq, .slu]
  | .scopeSample .. => [.slu, .oct]
  | .granuleDrained .. => [.evr, .phl, .slu, .mem]
  | .freqGateClose .. => [.slu, .pol, .oct]
  | .routerEventArrival .. | .eventDelivery => [.evr, .bgl, .slu, .pol, .acq, .seq, .mce]
  | .leveeCrossing .. | .dsLeveeCrossing .. | .hostEventPulse .. | .hostEventAssert .. | .hostEventDeassert ..
    | .bdnLoRead .. | .btrigInTransition .. | .subscriptionChange .. => [.evr]
  | .xoFail | .mpllUnlock .. | .relock .. | .refselWrite .. | .bclkLoss | .phstep .. | .outdivWrite ..
    | .bclkQualified .. | .mpllLock .. | .syncLost | .echoReceive .. => [.clk, .bgl]
  | .phaseSlewStep | .outdivChangeDone .. | .xoAgeUpdate .. | .smallStep => [.clk]
  | .epochFrame .. => [.clk, .evr, .bgl, .pol]
  | .realign .. | .xcal .. | .xcalDone => [.bgl]
  | .mofsApply => [.bgl, .oct]
  | .laneBlockLock .. | .laneFail .. | .tsBlock .. | .trainingStateTimeout .. | .retrain .. | .nak ..
    | .creditUpdate .. | .replayTimeout .. | .capwithheld .. | .evsSend .. | .sessctlGo .. | .phyReady
    | .alignBlock .. | .degradeDone .. | .degradeCommand .. | .portDown .. => [.phl]
  | .linkActive .. => [.dev, .phl]
  | .retrainDone .. => [.evr, .phl, .slu]
  | .ack .. => [.evr, .slu]
  | .linkLossHold => .phl :: runPages
  | .deviceReset .. => writePages .dev 0x064
  | .faultOccurrence .. | .selferr .. | .fltParityScan .. => .dev :: .flt :: .nvm :: runPages
  | .faultCauseGone .. => [.flt, .clk, .dsc]
  | .quietExpiry .. => [.flt, .nvm, .oct]
  | .faultClear .. | .exit .. => writePages .flt 0x040
  | .keepaliveTimeout .. => [.evr, .slu, .dsc, .pol, .oct, .cdi]
  | .housekeepingRound .. => [.dev, .hkp, .clk, .evr, .nvm, .slu, .dsc, .pol, .oct, .cdi]
  | .substitutionHoldEnd | .thack .. | .sensclr .. | .thresholdWrite .. => [.hkp]
  | .thackDone => [.dev, .hkp, .nvm]
  | .otpRead => [.dev, .sec]
  | .imageVerify => [.dev, .clk, .sec]
  | .bootReady => [.dev]
  | .watchdogExpiry => .dev :: runPages
  | .nvmRecordWrite .. | .wrDone .. | .refresh .. | .dailyRefresh .. | .hoursRecord | .calsave .. | .refreshDone => [.nvm]
  | .adv .. | .prog .. | .revoke .. | .lifecycleAdvance .. | .chreq .. | .authGo .. | .getCert .. | .attest ..
    | .attestDone .. | .fwUpdate .. | .nvmRead .. => [.sec]
  | .lcDone => [.dev, .phl, .sec]
  | .authResult .. => [.phl, .sec]
  | .mbDone .. => [.nvm, .sec]
  | .realigned .. => [.clk, .bgl, .pol]
  | .preTriggerFillEnd .. => [.acq]

end Sys2Proof.Machine
end

