-- ==== Sys2Proof/Certificates/Slice0/Obligations.lean ====
section
/-! DEFINITION. The statements for the provers, by the numbered rules of spec/. -/

open Sys2Proof Sys2Proof.Machine

/-! The machine. -/

/-- A step takes the command at the front of the queue and is exec of it on the state with the queue's rest. The model's choice
(assumption log, entry 3): on an empty queue it is one tick of the Bourdon count, and of the synthesizer's modulator, while the main
supply is on, else nothing. -/
def Obligations.StepRunsFrontCommand : Prop :=
  (∀ (c : Instr) (cs : List Instr) (s : State), step { s with pending := c :: cs } = exec c { s with pending := cs }) ∧
  ∀ s : State, s.pending = [] →
    step s = .next (if getF s F.DEV_STATE_MAINPWR 0 = 0 then s else modTick { s with bdn := s.bdn + 1 })

/-- R32, R33: after power-on reset every field of the map reads the value of its Reset column; the memories, the queue and the fuses of
the model's reset meet the invariant, no polder is formed. A field that the manual loads from NVM, OTP or calibration is 0 until then,
the model's choice (assumption log, entry 4). -/
def Obligations.ResetState : Prop :=
  (∀ (f : Fld) (n : Nat), getF State.reset f n = f.rst % 2 ^ f.w.val) ∧ StateOk State.reset ∧ State.reset.pending = [] ∧
    ∀ p, rsOf State.reset p = .off ∧ octsOf State.reset p = []

/-- R397, R460: whatever command a step takes, the memories keep their canonical form and an advance of the lifecycle under way stays
one that the present lifecycle allows. -/
def Obligations.StepKeepsStateOk : Prop :=
  ∀ s t : State, StateOk s → step s = .next t → StateOk t

/-- R457 to R460: no step takes back what the OTP holds. -/
def Obligations.StepsKeepFuses : Prop :=
  ∀ s t : State, StateOk s → step s = .next t → OtpKept s.otp t.otp

/-- Every command runs to its end in every state, and leaves the queue alone. A command writes register fields only on the pages that
`pagesOf` gives it. DRAM, the mailbox memories, the OTP and the TAP change only by the commands that reach them. -/
def Obligations.CommandFrames : Prop :=
  (∀ (c : Instr) (s : State), Completes (exec c s) fun t => t.pending = s.pending) ∧
  (∀ (c : Instr) (s t : State), exec c s = .next t → ∀ (f : Fld) (n : Nat), f.page ∉ pagesOf c → getF t f n = getF s f n) ∧
  ∀ (c : Instr) (s t : State), exec c s = .next t →
    (mayBlow c = false → t.otp = s.otp) ∧
    (mayDram c = false → ∀ a, Memory.read t.dram a = Memory.read s.dram a) ∧
    (mayMbox c = false → ∀ a, Memory.read t.mbox a = Memory.read s.mbox a) ∧
    (mayTap c = false → t.jtag = s.jtag)

/-! Register accesses. -/

/-- R30, R397: an access that is not an aligned 32-bit word, or to no page, changes nothing. R32, R37: a write of EVT_MASK sets it.
R42, R43, R44: an Observer session writes no field: a register with an unprivileged writable field keeps every field, LOCKVIO records
PRIV with the initiator and the offset, and EVT.WRVIO is set. R41: a LOCK bit written 1 sets and stays; a 1 to a set bit is refused
with WO_USED, a 0 does nothing. R39, R408, R413: a FORCE register takes the bits that stand for fault sources; a source whose bit
rises owes its occurrence where it is enabled and not active; only on the housekeeping page may a source of the event router launch
(0x802 of R439); nothing else changes. -/
def Obligations.RegisterAccesses : Prop :=
  (∀ (i : Initiator) (a : LinkAddr) (size : Nat) (v : Word) (s : State),
    (size ≠ 4 ∨ a.toNat % 4 ≠ 0 ∨ locate a.toNat = none → Completes (exec (.registerWrite i a size v) s) fun t => t = cycle s) ∧
    (∀ (p : Page) (n : Nat), size = 4 → n < p.count → a.toNat = p.base + 4096 * n + 0x01C → mayWrite s i p n 0x01C = true →
      Completes (exec (.registerWrite i a size v) s) fun t =>
        getF t (F.EVT_MASK p) n = v.toNat ∧ SameBut [(F.EVT_MASK p, n)] s t)) ∧
  (∀ (i : Initiator) (a : LinkAddr) (v : Word) (p : Page) (n off : Nat) (f : Fld) (s : State), n < p.count → off < 4096 →
    off % 4 = 0 → off ≠ 0x034 → a.toNat = p.base + 4096 * n + off → f ∈ pageFields p n off → f.ty = .rw → f.priv = false →
    anySession f = false → servedPage s p n off = .yes → observer s i = true →
    Completes (exec (.registerWrite i a 4 v) s) fun t =>
      getF t (F.LOCKVIO_REASON p) n = 4 ∧ getF t (F.LOCKVIO_INIT p) n = Initiator.code i ∧ getF t (F.LOCKVIO_IX p) n = 0 ∧
      getF t (F.LOCKVIO_ADDR p) n = off ∧ (getF t (F.EVT p) n).testBit 30 = true ∧
      getF t (F.EVT_SEQ p) n = (getF s (F.EVT_SEQ p) n + 1) % 65536 ∧
      SameBut [(F.LOCKVIO_REASON p, n), (F.LOCKVIO_INIT p, n), (F.LOCKVIO_IX p, n), (F.LOCKVIO_ADDR p, n), (F.EVT p, n),
        (F.EVT_SEQ p, n)] s t) ∧
  ∀ (i : Initiator) (pg : PageRef) (v : Word) (s : State), pg.inst < pg.page.count →
    let p := pg.page
    let n := pg.inst
    let old := getF s (F.LOCK p) n
    let w := v.toNat &&& lockMask' p
    (mayWrite s i p n 0x028 = true → Completes (exec (.lockWrite i pg v) s) fun t =>
      getF t (F.LOCK p) n = old ||| w ∧
      (w &&& old = 0 → SameBut [(F.LOCK p, n)] s t) ∧
      (w &&& old ≠ 0 → getF t (F.LOCKVIO_REASON p) n = 2 ∧ getF t (F.LOCKVIO_ADDR p) n = 0x028 ∧
        (getF t (F.EVT p) n).testBit 30 = true ∧
        SameBut [(F.LOCK p, n), (F.LOCKVIO_REASON p, n), (F.LOCKVIO_INIT p, n), (F.LOCKVIO_IX p, n), (F.LOCKVIO_ADDR p, n),
          (F.EVT p, n), (F.EVT_SEQ p, n)] s t)) ∧
    (mayWrite s i p n 0x024 = true → Completes (exec (.forceWrite i pg v) s) fun t =>
      getF t (F.FORCE p) n = v.toNat &&& forceMask p n ∧ SameBut [(F.FORCE p, n)] s t ∧
      t = { s with regs := t.regs, cyc := t.cyc, flts := t.flts, rtr := t.rtr } ∧ (p ≠ .hkp → t.rtr = s.rtr) ∧
      ∀ f < 192,
        let owed := (forceHome f).1 == p && (forceHome f).2.1 == n && forced t f && !forced s f && owes s f
        fltOf t f = { fltOf s f with due := (fltOf s f).due || owed, asked := (fltOf s f).asked || owed })

/-- R35: a write of EVT_ACK that equals EVT_SEQ clears every EVT bit; any other sets ACK_STALE, clears none, and EVT_SEQ counts. A
write of EVT itself changes nothing, so software clears no single bit. -/
def Obligations.EventAcknowledge : Prop :=
  ∀ (i : Initiator) (pg : PageRef) (v : Word) (s : State), pg.inst < pg.page.count →
    servedPage s pg.page pg.inst 0x018 = .yes → observer s i = false →
    let p := pg.page
    let n := pg.inst
    let q := getF s (F.EVT_SEQ p) n
    Completes (exec (.evtAckWrite i pg v) s) fun t =>
      (v.toNat % 65536 = q → getF t (F.EVT p) n = 0 ∧ getF t (F.EVT_SEQ p) n = q) ∧
      (v.toNat % 65536 ≠ q → getF t (F.EVT p) n = getF s (F.EVT p) n ||| 2 ^ 31 ∧ getF t (F.EVT_SEQ p) n = (q + 1) % 65536) ∧
      getF t (F.EVT_ACK p) n = v.toNat % 65536 ∧ SameBut [(F.EVT p, n), (F.EVT_SEQ p, n), (F.EVT_ACK p, n)] s t ∧
      ∀ a : LinkAddr, a.toNat = p.base + 4096 * n + 0x010 → Completes (exec (.registerWrite i a 4 v) s) fun u => u = cycle s

/-- R47 to R49: IX_ADDR takes SPACE and ADDR; a write of IX_DATA is posted behind the writes that wait, after the oldest of sixteen has
completed, and ADDR advances by STRIDE but not beyond 0xFFFFFF; a read of a one-word entry returns the word, one beyond the space
returns 0 and sets IX_OOR. -/
def Obligations.IndirectAccess : Prop :=
  ∀ (i : Initiator) (pg : PageRef) (v : Word) (s : State), pg.inst < pg.page.count →
    let p := pg.page
    let n := pg.inst
    let sp := getF s (F.IX_ADDR_SPACE p) n
    let a := getF s (F.IX_ADDR_ADDR p) n
    let next (a : Nat) : Nat := min 0xFFFFFF (a + getF s (F.IX_CTRL_STRIDE p) n)
    (mayWrite s i p n 0x030 = true → Completes (exec (.ixAddrWrite i pg v) s) fun t => postedOf t p n = [] ∧
      (postedOf s p n = [] → getF t (F.IX_ADDR_SPACE p) n = v.toNat / 2 ^ 24 % 16 ∧ getF t (F.IX_ADDR_ADDR p) n = v.toNat % 2 ^ 24 ∧
        SameBut [(F.IX_ADDR_SPACE p, n), (F.IX_ADDR_ADDR p, n)] s t)) ∧
    (servedPage s p n 0x034 = .yes → (postedOf s p n).length < 16 → Completes (exec (.ixDataWrite i pg v) s) fun t =>
      postedOf t p n = postedOf s p n ++ [{ ini := i, space := sp, addr := a, val := v, next := next a }] ∧
      getF t (F.IX_ADDR_ADDR p) n = next a ∧ SameBut [(F.IX_ADDR_ADDR p, n)] s t) ∧
    (servedPage s p n 0x034 = .yes → 16 ≤ (postedOf s p n).length → Completes (exec (.ixDataWrite i pg v) s) fun t =>
      ∃ u x, u = completeOne (cycle s) p n ∧ postedOf t p n = postedOf u p n ++ [x] ∧ x.val = v) ∧
    (servedPage s p n 0x034 = .yes → postedOf s p n = [] → Completes (exec (.ixDataRead i pg) s) fun t =>
      getF t (F.IX_ADDR_ADDR p) n = next a ∧
      ((ixSize p sp).1 ≤ a → t.ret = some 0 ∧ (getF t (F.EVT p) n).testBit 28 = true ∧
        SameBut [(F.IX_ADDR_ADDR p, n), (F.EVT p, n), (F.EVT_SEQ p, n)] s t) ∧
      (a < (ixSize p sp).1 → SameBut [(F.IX_ADDR_ADDR p, n)] s t ∧
        ((ixSize p sp).2 = 1 → t.ret = some (BitVec.ofNat 32 (wordIx (cycle s) i p n sp a)))))

/-- R48, R51, R257: a posted write completes in the order of the buffer: beyond its space it writes nothing and sets IX_OOR; a word of
an acquisition mask space takes the 18 bits of the value, and a run-locked one is refused with RUNLOCK and its word address. -/
def Obligations.PostedWrites : Prop :=
  ∀ (pg : PageRef) (x : Posted) (l : List Posted) (s : State), pg.inst < pg.page.count →
    let p := pg.page
    let n := pg.inst
    postedOf s p n = x :: l → servedPage s p n 0x034 = .yes →
    ((ixSize p x.space).1 ≤ x.addr → Completes (exec (.ixPostedWriteComplete pg) s) fun t =>
      postedOf t p n = l ∧ (getF t (F.EVT p) n).testBit 28 = true ∧ SameBut [(F.EVT p, n), (F.EVT_SEQ p, n)] s t ∧ t.wide = s.wide) ∧
    (p = .acq → x.space = 1 ∨ x.space = 2 → x.addr < 1024 → observer s x.ini = false → isSet s F.FLT_STATE_EMBANK 0 = false →
      Completes (exec (.ixPostedWriteComplete pg) s) fun t => postedOf t p n = l ∧
        (polBusy s n = false → getWide t .acq n x.space x.addr = BitVec.ofNat 192 (x.val.toNat % 2 ^ 18) ∧ SameBut [] s t) ∧
        (polBusy s n = true → t.wide = s.wide ∧ getF t (F.LOCKVIO_REASON p) n = 3 ∧ getF t (F.LOCKVIO_IX p) n = 1 ∧
          getF t (F.LOCKVIO_ADDR p) n = x.addr))

/-! Polders and runs. Every command judged below has the state in which SCOPE has taken its value (`scopeSet`). -/

/-- R64, R67, R60: RUN in IDLE or DIKE, on a consort of one or with SCOPE = 1: with the checks of R64 passed and no member running
every IDLE member enters ARMED and the binding is reserved; a check that fails is recorded and no member arms. While a member runs a
RUN that passes arms nobody and is ignored, the model's choice (assumption log, entry 24). R62: in STOPPING the restart is pending. R59:
in any other state RUN is ignored, as without SCOPE on a member of a larger consort (R67). -/
def Obligations.RunCommand : Prop :=
  ∀ (i : Initiator) (p : Fin 64) (scope : Bool) (s : State), mayWrite s i .pol p.val 0x040 = true →
    getF s F.POL_RUNCTL_RUN p.val = 0 →
    let z := scopeSet s p.val scope
    let k := p.val
    let mem := consort z k
    let b := getF z F.POL_BIND_SEQSEL (anchor z k)
    let ignored (t : State) : Prop := (getF t (F.EVT .pol) k).testBit E.POL_CMD_IGNORED = true
    (2 ≤ mem.length → scope = false → Completes (exec (.run i p scope) s) fun t =>
      ignored t ∧ SameBut [(F.EVT .pol, k), (F.EVT_SEQ .pol, k)] z t) ∧
    ((2 ≤ mem.length → scope = true) →
      (rsOf z k = .idle ∨ rsOf z k = .dike →
        (armErr z k = 0 → (∀ q ∈ mem, (rsOf z q).busy = false) → Completes (exec (.run i p scope) s) fun t =>
          (∀ q, rsOf t q = if q ∈ mem ∧ rsOf z q = .idle then .armed else rsOf z q) ∧ reserved t b = true) ∧
        (armErr z k = 0 → (∃ q ∈ mem, (rsOf z q).busy = true) → Completes (exec (.run i p scope) s) fun t =>
          ignored t ∧ getF t F.POL_RUNINFO_ARMERR k = 0 ∧
          SameBut [(F.POL_RUNINFO_ARMERR, k), (F.EVT .pol, k), (F.EVT_SEQ .pol, k)] z t) ∧
        (armErr z k ≠ 0 → Completes (exec (.run i p scope) s) fun t =>
          getF t F.POL_RUNINFO_ARMERR k = armErr z k ∧ (getF t (F.EVT .pol) k).testBit E.POL_ARM_FAIL = true ∧
          SameBut [(F.POL_RUNINFO_ARMERR, k), (F.EVT .pol, k), (F.EVT_SEQ .pol, k)] z t)) ∧
      (rsOf z k = .stopping → Completes (exec (.run i p scope) s) fun t =>
        getF t F.POL_STATE_RESTART_PENDING k = 1 ∧ getF t F.POL_RUNCTL_RUN k = 1 ∧ ∀ q, rsOf t q = rsOf s q) ∧
      (rsOf z k ∈ [.off, .armed, .running, .paused] → Completes (exec (.run i p scope) s) fun t =>
        ignored t ∧ SameBut [(F.EVT .pol, k), (F.EVT_SEQ .pol, k)] z t))

/-- R60, R61, R67: STOP or ABORT for a consort of one, or with SCOPE = 1: while every member of the binding is ARMED they return to
IDLE; otherwise they enter STOPPING. The stop cause of the sequencer is 2. Members that stop already leave it ignored, but a restart
still pending is given up (R62). R67, R68: STOP or ABORT with SCOPE = 0 on a member of a consort of two or more benches that member:
ARMED it goes to the state that BENCH_TO selects, the last member of its binding stops, any other plays its words out; the run states
of all other polders stay. -/
def Obligations.StopAndBench : Prop :=
  (∀ (i : Initiator) (p : Fin 64) (scope : Bool) (s : State), mayWrite s i .pol p.val 0x040 = true →
    let z := scopeSet s p.val scope
    let k := p.val
    let act := (active z k).filter (fun q => (rsOf z q).busy)
    (2 ≤ (consort z k).length → scope = true) →
    ∀ x ∈ [(Instr.stop i p scope, F.POL_RUNCTL_STOP), (.abort i p scope, F.POL_RUNCTL_ABORT)], getF s x.2 k = 0 →
      (∀ b, bindOf z k = some b → (∃ q ∈ act, rsOf z q ≠ .stopping) →
        ((∀ q ∈ bndMem z b, rsOf z q = .armed) → Completes (exec x.1 s) fun t =>
          ∀ q, rsOf t q = if q ∈ bndMem z b then .idle else rsOf z q) ∧
        ((∃ q ∈ bndMem z b, rsOf z q ≠ .armed) → Completes (exec x.1 s) fun t =>
          getB t b F.SEQ_STATE_STOPCAUSE F.MCE_STOPINFO_STOPCAUSE = 2 ∧
          ∀ q, rsOf t q = if q ∈ bndMem z b then .stopping else rsOf z q)) ∧
      ((∀ q ∈ act, rsOf z q = .stopping ∧ isSet z F.POL_STATE_RESTART_PENDING q = false) → Completes (exec x.1 s) fun t =>
        (getF t (F.EVT .pol) k).testBit E.POL_CMD_IGNORED = true ∧ SameBut [(F.EVT .pol, k), (F.EVT_SEQ .pol, k)] z t) ∧
      ((∀ q ∈ act, rsOf z q = .stopping) → (∃ q ∈ act, isSet z F.POL_STATE_RESTART_PENDING q = true) →
        Completes (exec x.1 s) fun t => ∀ q, rsOf t q = rsOf z q ∧
          (q ∈ act → getF t F.POL_STATE_RESTART_PENDING q = 0 ∧ (isSet z F.POL_STATE_RESTART_PENDING q = true →
            (getF t (F.EVT .pol) q).testBit E.POL_RESTART_CANCELLED = true)))) ∧
  ∀ (i : Initiator) (p : Fin 64) (s : State), mayWrite s i .pol p.val 0x040 = true →
    let z := scopeSet s p.val false
    let k := p.val
    2 ≤ (consort z k).length → isSet z F.POL_STATE_BENCHED k = false → (rsOf z k).busy = true → rsOf z k ≠ .stopping →
    ∀ x ∈ [(Instr.stop i p false, F.POL_RUNCTL_STOP), (.abort i p false, F.POL_RUNCTL_ABORT)], getF s x.2 k = 0 →
      Completes (exec x.1 s) fun t => ∀ q, rsOf t q = afterBench z k q

/-- R60, R67, R183, R186: PAUSE asks for a pause of the binding while every member runs; RESUME returns the members to RUNNING from
PAUSED where the lead has reached the guard, and is else ignored with PAUSE_CAUSE 2; neither acts on one member of a larger consort. -/
def Obligations.PauseAndResume : Prop :=
  ∀ (i : Initiator) (p : Fin 64) (scope : Bool) (s : State), mayWrite s i .pol p.val 0x040 = true →
    getF s F.POL_RUNCTL_PAUSE p.val = 0 → getF s F.POL_RUNCTL_RESUME p.val = 0 →
    let z := scopeSet s p.val scope
    let k := p.val
    let ignored (t : State) : Prop := (getF t (F.EVT .pol) k).testBit E.POL_CMD_IGNORED = true
    (2 ≤ (consort z k).length → scope = false →
      Completes (exec (.pause i p scope) s) ignored ∧ Completes (exec (.resume i p scope) s) ignored) ∧
    ((2 ≤ (consort z k).length → scope = true) → ∀ b, bindOf z k = some b →
      ((∀ q ∈ bndMem z b, rsOf z q = .running) → Completes (exec (.pause i p scope) s) fun t =>
        (bndOf t b).pauseReq = true ∧ SameBut [(F.POL_RUNCTL_PAUSE, k)] z t) ∧
      ((∃ q ∈ bndMem z b, rsOf z q ≠ .running) → Completes (exec (.pause i p scope) s) ignored) ∧
      ((∀ q ∈ bndMem z b, rsOf z q = .paused) →
        (guardWords z b ≤ leadOf z b → Completes (exec (.resume i p scope) s) fun t =>
          ∀ q, rsOf t q = if q ∈ bndMem z b then .running else rsOf z q) ∧
        (leadOf z b < guardWords z b → Completes (exec (.resume i p scope) s) fun t =>
          ignored t ∧ ∀ q ∈ bndMem z b, getF t F.POL_STATE_PAUSE_CAUSE q = 2)) ∧
      ((∃ q ∈ bndMem z b, rsOf z q ≠ .paused) → Completes (exec (.resume i p scope) s) ignored))

/-- R60, R67, R72: DIKE takes the polder, or every member with SCOPE = 1, to DIKE from any state but OFF; RELEASE begins the release of
those in DIKE that meet R72; the release takes a polder from DIKE to IDLE. -/
def Obligations.DikeAndRelease : Prop :=
  ∀ (i : Initiator) (p : Fin 64) (scope : Bool) (s : State), mayWrite s i .pol p.val 0x040 = true →
    getF s F.POL_RUNCTL_DIKE p.val = 0 → getF s F.POL_RUNCTL_RELEASE p.val = 0 →
    let z := scopeSet s p.val scope
    let k := p.val
    let reach := if scope then consort z k else [k]
    let dk := reach.filter (dikeable z)
    let rl := reach.filter (fun q => rsOf z q == .dike)
    (dk ≠ [] → Completes (exec (.dike i p scope) s) fun t => ∀ q, rsOf t q = if q ∈ dk then .dike else rsOf z q) ∧
    (dk = [] → Completes (exec (.dike i p scope) s) fun t =>
      (getF t (F.EVT .pol) k).testBit E.POL_CMD_IGNORED = true ∧ SameBut [(F.EVT .pol, k), (F.EVT_SEQ .pol, k)] z t) ∧
    (rl ≠ [] → Completes (exec (.release i p scope) s) fun t => (∀ q, rsOf t q = rsOf z q) ∧
      ∀ q ∈ rl, (releasable z q = true → (polOf t q).releasing = true) ∧
        (releasable z q = false → (getF t (F.EVT .pol) q).testBit E.POL_CMD_IGNORED = true)) ∧
    (rsOf s k = .dike → (polOf s k).releasing = true → Completes (exec (.releaseComplete p) s) fun t =>
      (∀ q, rsOf t q = if q = k ∧ releasable s k = true then .idle else rsOf s q) ∧ (polOf t k).releasing = false ∧
      (getF t (F.EVT .pol) k).testBit (if releasable s k then E.POL_DIKE_LEFT else E.POL_CMD_IGNORED) = true)

/-- R60, R65, R186, R205: the start of an ARMED binding whose condition is met, the pause at its stall-safe point, the automatic
resumption: every member changes its state together, and no other polder. R60 to R62, R68: the members that stop together and have
played out go to IDLE, or to DIKE where they were benched to it (which gives its pending restart up), and with a restart still pending
the IDLE members of the consort arm; a benched member that has played out goes to its bench state. -/
def Obligations.BindingStartsAndEnds : Prop :=
  (∀ (b : Bind) (s : State),
    let k := b.val
    let mem := bndMem s k
    let all (r : RS) (t : State) : Prop := ∀ q, rsOf t q = if q ∈ mem then r else rsOf s q
    (reserved s k = true → mem ≠ [] → (∀ q ∈ mem, rsOf s q = .armed) → startMet s k = true →
      let stop : Option Nat := if k < 16 then entryStop s k ((bndOf s k).goto.getD (0, 0)).1 else none
      (stop = none → Completes (exec (.startConditionMet b) s) fun t =>
        all .running t ∧ (bndOf t k).vstart = startStamp s k ∧
        (∀ q ∈ mem, getF t F.POL_RUNCNT_RUNS q = min (getF s F.POL_RUNCNT_RUNS q + 1) (2 ^ F.POL_RUNCNT_RUNS.w.val - 1)) ∧
        SameBut (mem.flatMap (fun q => [(F.POL_STATE_RSTATE, q), (F.POL_RUNCNT_RUNS, q)])) s t) ∧
      (stop ≠ none → Completes (exec (.startConditionMet b) s) fun t => all .stopping t)) ∧
    (∀ thr, (bndOf s k).due = some thr → (∀ q ∈ mem, rsOf s q = .running ∧ played s q (bndOf s k).vstart = true) →
      Completes (exec (.pauseTaken b) s) fun t => all .paused t ∧ (bndOf t k).due = none ∧ (bndOf t k).pauseReq = false) ∧
    (bndPaused s k = true → (∀ q ∈ mem, getF s F.POL_STATE_PAUSE_CAUSE q = 2) → isSet s (F.MEM_PFCFG_AUTORES k) 0 = true →
      leadFull s k = true → Completes (exec (.autoResume b) s) fun t => all .running t)) ∧
  ∀ (p : Fin 64) (s : State),
    let k := p.val
    let g := stopGroup s k
    let out (q : Nat) : RS := if q ∈ g then (if (polOf s q).benchDike then .dike else .idle) else rsOf s q
    (rsOf s k = .stopping → (∀ q ∈ g, settled s q = true) → Completes (exec (.stoppingComplete p) s) fun t =>
      ∀ q, rsOf t q = if (∃ r ∈ g, isSet s F.POL_STATE_RESTART_PENDING r = true ∧ (polOf s r).benchDike = false) ∧
        q ∈ consort s k ∧ out q = .idle then .armed else out q) ∧
    (isSet s F.POL_STATE_BENCHED k = true → rsOf s k = .running ∨ rsOf s k = .paused → settled s k = true →
      Completes (exec (.stoppingComplete p) s) fun t =>
        ∀ q, rsOf t q = if q = k then (if (polOf s k).benchDike then .dike else .idle) else rsOf s q)

/-- R96: when the count of failing vectors has reached its limit STOP_ON_FAIL completes in every state with SOF_TAKEN set: with
SOF_MODE 2 in a consort of two or more the polder is benched, else the members of its binding stop (`afterAction`); with no decision
due it does nothing. R249: when the first violation of a run has an action due MASK_ACTION completes with MASK_ACT set and nothing due
any more; with MASKACT 2 the consort stops, with 3 the polder is benched, else no polder changes its run state. R271: when a reclaim is
under way RECLAIM_DONE completes with RECLAIM_DONE set and RECLAIMCNT counted; with the unit disabled nothing else of the registers
changes and no granule of the polder is FILLING. -/
def Obligations.FailAndMaskActions : Prop :=
  ∀ (p : Fin 64) (s : State),
    let k := p.val
    ((polOf s k).sof = true → ∃ t, exec (.stopOnFail p) s = .next t ∧ (getF t (F.EVT .pol) k).testBit E.POL_SOF_TAKEN = true ∧
      ∀ q, rsOf t q = afterAction s k (getF s F.POL_FAILCFG_SOF_MODE k == 2) q) ∧
    ((polOf s k).sof = false → exec (.stopOnFail p) s = .next (cycle s)) ∧
    ((acqOf s k).maskPend ≠ none → ∃ t, exec (.maskAction p) s = .next t ∧ (getF t (F.EVT .acq) k).testBit E.ACQ_MASK_ACT = true ∧
      (acqOf t k).maskPend = none ∧
      ∀ q, rsOf t q = if getF s F.ACQ_MASKCFG_MASKACT k < 2 then rsOf s q
        else afterAction s k (getF s F.ACQ_MASKCFG_MASKACT k == 3) q) ∧
    ((acqOf s k).maskPend = none → exec (.maskAction p) s = .next (cycle s)) ∧
    ((polOf s k).reclaim = true → ∃ t, exec (.reclaimDone p) s = .next t ∧ (polOf t k).reclaim = false ∧
      getF t F.SLU_RECLAIMCNT_N 0 = min (getF s F.SLU_RECLAIMCNT_N 0 + 1) 0xFFFFFFFF ∧
      (getF t (F.EVT .slu) 0).testBit E.SLU_RECLAIM_DONE = true ∧
      (acqEn s k = false → (∀ j < 4, (strmOf t (4 * k + j)).fill = none) ∧
        SameBut [(F.SLU_RECLAIMCNT_N, 0), (F.EVT .slu, 0), (F.EVT_SEQ .slu, 0)] s t)) ∧
    ((polOf s k).reclaim = false → exec (.reclaimDone p) s = .next (cycle s))

/-! Sequencers. -/

/-- R197 to R200: a wanted entry that is fetched becomes ready; a word of the entry in play issues and the offset goes on, or the pass
counts at its last word; at an entry boundary the following entry is entered, and one that may not be played stops the run. -/
def Obligations.SegmentIssue : Prop :=
  ∀ (q : Fin 16) (entry : BitVec 15) (s : State),
    let k := q.val
    let y := bndOf s k
    let e := getF s F.SEQ_STATE_CURENT k
    let v := seg s e
    (reserved s k = true → inRange s k entry.toNat = true → entry.toNat ∈ wanted s (entryOf s k) → entry.toNat ∉ y.ready →
      Completes (exec (.segmentFetch q entry) s) fun t => (bndOf t k).ready = entry.toNat :: y.ready ∧ SameBut [] s t) ∧
    (mayIssue s k = true → y.goto = none → y.since = none →
      issueStop s k (sgVaddr v + y.off) (compact s (bndAnchor s k) (sgTset v)) = none →
      Completes (exec (.segmentWordIssue q) s) fun t => (bndOf t k).vwi = y.vwi + 1 ∧
        (bndOf t k).off = (if y.off + 1 < sgLen v then y.off + 1 else 0) ∧ getF t F.SEQ_STATE_CURENT k = e ∧
        getF t F.SEQ_CURPASS_PASS k = (if y.off + 1 < sgLen v then getF s F.SEQ_CURPASS_PASS k
          else min (getF s F.SEQ_CURPASS_PASS k + 1) 0xFFFFF)) ∧
    (mayIssue s k = true → ∀ n jc, y.goto = some (n, jc) →
      (∀ c, entryStop s k n = some c → Completes (exec (.segmentWordIssue q) s) fun t =>
        getF t F.SEQ_STATE_STOPCAUSE k = c ∧ ∀ p, rsOf t p = if p ∈ bndMem s k then .stopping else rsOf s p) ∧
      (entryStop s k n = none → n < 2 ^ 15 → Completes (exec (.segmentWordIssue q) s) fun t => getF t F.SEQ_STATE_CURENT k = n ∧
        getF t F.SEQ_ENTCNT_N k = min (getF s F.SEQ_ENTCNT_N k + 1) 0xFFFFFFFF))

/-- R202, R218: LCLR, where it reads 0, clears every latch of a binding, FAIL_ANY and FAIL_ALL. R232: CHECK begins the CRC check of a
control store, and at its end CRC_OK says whether the CRC of the words below CSLEN is CSCRC. -/
def Obligations.LatchesAndCrc : Prop :=
  ∀ (i : Initiator) (b : Bind) (m : Fin 4) (s : State),
    (mayWrite s i (if b.val < 16 then .seq else .mce) (if b.val < 16 then b.val else b.val - 16) 0x040 = true →
      getB s b.val F.SEQ_SEQCTL_LCLR F.MCE_ENGCTL_LCLR = 0 → Completes (exec (.lclr i b) s) fun t =>
        getB t b.val F.SEQ_COND_LATCH F.MCE_COND_LATCH = 0 ∧ getB t b.val F.SEQ_COND_FAIL_ANY F.MCE_COND_FAIL_ANY = 0 ∧
        getB t b.val F.SEQ_COND_FAIL_ALL F.MCE_COND_FAIL_ALL = 0 ∧ (bndOf t b.val).failedM = [] ∧
        SameBut (if b.val < 16 then [(F.SEQ_COND_LATCH, b.val), (F.SEQ_COND_FAIL_ANY, b.val), (F.SEQ_COND_FAIL_ALL, b.val)]
          else [(F.MCE_COND_LATCH, b.val - 16), (F.MCE_COND_FAIL_ANY, b.val - 16), (F.MCE_COND_FAIL_ALL, b.val - 16)]) s t) ∧
    (mayWrite s i .mce m.val 0x040 = true → getF s F.MCE_ENGCTL_CHECK m.val = 0 → Completes (exec (.check i m) s) fun t =>
      getF t F.MCE_ENGCTL_CHECK m.val = 1 ∧ SameBut [(F.MCE_ENGCTL_CHECK, m.val)] s t) ∧
    (getF s F.MCE_ENGCTL_CHECK m.val = 1 →
      let ok := (csCrc s m.val).toNat = getF s F.MCE_CSCRC_CRC m.val
      Completes (exec (.crcDone m) s) fun t =>
        getF t F.MCE_ENGCTL_CHECK m.val = 0 ∧ (getF t (F.EVT .mce) m.val).testBit E.MCE_CRC_DONE = true ∧
        (ok → getF t F.MCE_COND_CRC_OK m.val = 1) ∧
        (¬ ok → getF t F.MCE_COND_CRC_OK m.val = getF s F.MCE_COND_CRC_OK m.val ∧
          (getF t (F.EVT .mce) m.val).testBit E.MCE_CRC_FAIL = true) ∧
        SameBut [(F.MCE_ENGCTL_CHECK, m.val), (F.MCE_COND_CRC_OK, m.val), (F.EVT .mce, m.val), (F.EVT_SEQ .mce, m.val)] s t)

/-! Engines. `s` is the state in which the engine goes on: the word that has issued takes its end first (R212, step 3). -/

/-- R224: LOAD, LOADR, DEC and INC act on counter C(LSEL) alone; DEC stays at 0 and INC at 0xFFFF_FFFF. R223, R224: a BEGIN with fewer
than eight levels loads counter C(LSEL) and pushes a level with the start NXT, the vector address, the counter and the restore bit;
BEGIN_R and BEGIN_RW take the count from LREG. -/
def Obligations.EngineCountersAndBegins : Prop :=
  (∀ (m : Fin 4) (lsel : BitVec 3) (imm : BitVec 18) (s0 s : State), engReady (cycle s0) m.val = some s →
    let k := lsel.toNat
    let c := getF s (F.MCE_CNT_C k) m
    ∀ x ∈ [(Instr.load m lsel imm, imm.toNat), (.loadr m lsel, getF s (F.MCE_LREG_N k) m), (.loopDec m lsel, c - 1),
           (.loopInc m lsel, min (c + 1) 0xFFFFFFFF)],
      Completes (exec x.1 s0) fun t =>
        getF t (F.MCE_CNT_C k) m = x.2 ∧ SameBut [(F.MCE_CNT_C k, m.val)] s t ∧ RegsOnly s t) ∧
  ∀ (m : Fin 4) (lsel : BitVec 3) (imm : BitVec 18) (nxt : BitVec 14) (s0 s : State), engReady (cycle s0) m.val = some s →
    (bndOf s (16 + m.val)).loops.length < 8 →
    let k := lsel.toNat
    let old := (bndOf s (16 + m.val)).loops
    let r := getF s (F.MCE_LREG_N k) m
    ∀ x ∈ [(Instr.begin m lsel imm nxt, imm.toNat, true), (.beginW m lsel imm nxt, imm.toNat, false),
           (.beginR m lsel nxt, r, true), (.beginRw m lsel nxt, r, false)],
      Completes (exec x.1 s0) fun t =>
        getF t (F.MCE_CNT_C k) m = x.2.1 ∧
        (bndOf t (16 + m.val)).loops = old ++ [{ start := nxt, cnt := lsel, va := BitVec.ofNat 40 (engVa s m), restore := x.2.2 }] ∧
        getF t F.MCE_STATE_LSP m = old.length + 1 ∧
        SameBut [(F.MCE_CNT_C k, m.val), (F.MCE_STATE_LSP, m.val), (F.MEM_LOCKMISS_N (16 + m.val), 0)] s t

/-- R225: LOOP_TEST on the counter of the top level: 0 goes back with the count unchanged, 1 pops the level and goes to NXT, any other
count decrements and goes back; a jump back with restore = 1 sets VA to the level's vector address. -/
def Obligations.EngineLoopTest : Prop :=
  ∀ (m : Fin 4) (nxt : BitVec 14) (s0 s : State) (below : List LoopLv) (l : LoopLv),
    engReady (cycle s0) m.val = some s →
    (bndOf s (16 + m.val)).loops = below ++ [l] →
    let k := l.cnt.toNat
    let c := getF s (F.MCE_CNT_C k) m
    Completes (exec (.loopTest m nxt) s0) fun t =>
      (c = 1 → (bndOf t (16 + m.val)).loops = below ∧ engUpc t m = nxt.toNat ∧ engVa t m = engVa s m) ∧
      (c ≠ 1 → (bndOf t (16 + m.val)).loops = below ++ [l] ∧ engUpc t m = l.start.toNat ∧
        engVa t m = if l.restore then l.va.toNat else engVa s m) ∧
      getF t (F.MCE_CNT_C k) m = (if c = 0 ∨ c = 1 then c else c - 1) ∧
      SameBut [(F.MCE_CNT_C k, m.val), (F.MCE_STATE_LSP, m.val), (F.MCE_STATE_UPC, m.val), (F.MCE_VA_LO_VA, m.val),
        (F.MCE_VA_HI_VA, m.val)] s t

/-- R224, R226, R228: BREAK pops the top loop level without branching; CALL pushes the address of the calling word plus 1 with VA and
goes to NXT; RETURN pops the return stack and goes to the address it held, with RETVA also to the VA it held. R226, R229: a BEGIN or
CALL with the stack full, a LOOP_TEST or BREAK with the loop stack empty and a RETURN with the return stack empty are engine faults:
STOPINFO takes the microaddress and the cause, EVT.STOPFLT is set and the engine stops issuing. R229: before a word executes, a
microaddress at or beyond CSLEN (cause 7) comes before a parity error (cause 4, counted in CSPARERR); both stop the engine at that
microaddress. R216: FLG 13 ends the test of every member. -/
def Obligations.EngineStacksAndStops : Prop :=
  (∀ (m : Fin 4) (s0 s : State), engReady (cycle s0) m.val = some s →
    let y := bndOf s (16 + m.val)
    (∀ below l, y.loops = below ++ [l] → Completes (exec (.breakLoop m) s0) fun t =>
      (bndOf t (16 + m.val)).loops = below ∧ SameBut [(F.MCE_STATE_LSP, m.val)] s t) ∧
    (∀ nxt : BitVec 14, y.calls.length < 16 → Completes (exec (.call m nxt) s0) fun t =>
      (bndOf t (16 + m.val)).calls = y.calls ++ [(BitVec.ofNat 14 (engUpc s m + 1), BitVec.ofNat 40 (engVa s m))] ∧
      engUpc t m = nxt.toNat ∧ SameBut [(F.MCE_STATE_RSP, m.val), (F.MCE_STATE_UPC, m.val)] s t) ∧
    (∀ below a va retva, y.calls = below ++ [(a, va)] → Completes (exec (.ret m retva) s0) fun t =>
      (bndOf t (16 + m.val)).calls = below ∧ engUpc t m = a.toNat ∧
      engVa t m = (if retva then va.toNat else engVa s m) ∧
      SameBut [(F.MCE_STATE_RSP, m.val), (F.MCE_STATE_UPC, m.val), (F.MCE_VA_LO_VA, m.val), (F.MCE_VA_HI_VA, m.val)] s t)) ∧
  (∀ (m : Fin 4) (lsel : BitVec 3) (imm : BitVec 18) (nxt : BitVec 14) (retva : Bool) (s0 s : State),
    engReady (cycle s0) m.val = some s →
    let y := bndOf s (16 + m.val)
    let stops (i : Instr) (c : Nat) : Prop := Completes (exec i s0) fun t =>
      getF t F.MCE_STOPINFO_STOPCAUSE m = c ∧ getF t F.MCE_STOPINFO_FADDR m = engUpc s m ∧
      (getF t (F.EVT .mce) m).testBit E.MCE_STOPFLT = true ∧ getF t F.MCE_STATE_ISSUING m = 0
    (y.loops.length = 8 → stops (.begin m lsel imm nxt) 5 ∧ stops (.beginW m lsel imm nxt) 5 ∧
      stops (.beginR m lsel nxt) 5 ∧ stops (.beginRw m lsel nxt) 5) ∧
    (y.loops = [] → stops (.loopTest m nxt) 5 ∧ stops (.breakLoop m) 5) ∧
    (y.calls.length = 16 → stops (.call m nxt) 6) ∧ (y.calls = [] → stops (.ret m retva) 6)) ∧
  ∀ (m : Fin 4) (s0 s : State), engReady (cycle s0) m.val = some s →
    let u := engUpc s m
    let fault (c : Nat) (t : State) : Prop := getF t F.MCE_STOPINFO_STOPCAUSE m = c ∧ getF t F.MCE_STATE_ISSUING m = 0
    ((bndOf s (16 + m.val)).first = true → csLen s m ≤ u → Completes (exec (.microwordIssue m) s0) fun t =>
      fault 7 t ∧ getF t F.MCE_STOPINFO_FADDR m = u ∧ getF t F.MCE_CSPARERR_N m = getF s F.MCE_CSPARERR_N m) ∧
    ((bndOf s (16 + m.val)).first = true → u < csLen s m → mwParityOk (mword s m u) = false →
      Completes (exec (.microwordIssue m) s0) fun t =>
        fault 4 t ∧ getF t F.MCE_STOPINFO_FADDR m = u ∧
        getF t F.MCE_CSPARERR_N m = min (getF s F.MCE_CSPARERR_N m + 1) 0xFFFFFFFF) ∧
    Completes (exec (.endTest m) s0) fun t => fault 1 t ∧ ∀ p ∈ bndMem s (16 + m.val), rsOf t p = .stopping

/-- R221, R222, R218: a branch goes to NXT with bit j OR-ed with the condition that the condition map gives to BCj, and a latch that
supplied a 1 is consumed. -/
def Obligations.EngineBranches : Prop :=
  ∀ (m : Fin 4) (nxt : BitVec 14) (b0 b1 b2 b3 : BitVec 4) (s0 s : State), engReady (cycle s0) m.val = some s →
    let code (b : BitVec 4) : Nat := cdm s m b.toNat
    let c (b : BitVec 4) (j : Nat) : Nat := if engCond s m (code b) then 2 ^ j else 0
    ∀ x ∈ [(Instr.branchNone m nxt, 0, []), (.branch2Way m nxt b0, c b0 0, [b0]),
           (.branch4Way m nxt b0 b1, c b0 0 ||| c b1 1, [b0, b1]),
           (.branch8Way m nxt b0 b1 b2, c b0 0 ||| c b1 1 ||| c b2 2, [b0, b1, b2]),
           (.branch16Way m nxt b0 b1 b2 b3, c b0 0 ||| c b1 1 ||| c b2 2 ||| c b3 3, [b0, b1, b2, b3])],
      Completes (exec x.1 s0) fun t =>
        engUpc t m = nxt.toNat ||| x.2.1 ∧
        (∀ b ∈ x.2.2, engCond s m (code b) = true → isLatch s m (code b) = true → engCond t m (code b) = false) ∧
        SameBut [(F.MCE_STATE_UPC, m.val), (F.MCE_COND_LATCH, m.val), (F.MCE_COND_FAIL_ANY, m.val),
          (F.MCE_COND_FAIL_ALL, m.val)] s t

/-- R216: FLG sets, clears or toggles one flag of the engine; a change of F0 goes to the router as source 0x640 + p of every member p
that is not benched. R215: an event of line i of engine m is router source 0x6C0 + 4m + i with the code of the word: a pulse, an
assertion, a deassertion; nothing else changes. R214: GATE_ON opens the capture gate of every member that is not benched, GATE_OFF
closes it, GATE_WORD opens a closed gate for the word only; a gate that stands so stays, and the units of other polders and every
register are as they were. -/
def Obligations.EngineFlagsEventsGates : Prop :=
  (∀ (m k : Fin 4) (st : Stamp) (s0 s : State), engReady (cycle s0) m.val = some s →
    let old := getFlag s m k
    ∀ x ∈ [(Instr.flagSet m k st, true), (.flagClear m k st, false), (.flagToggle m k st, !old)],
      Completes (exec x.1 s0) fun t =>
        getFlag t m k = x.2 ∧ (∀ j : Fin 4, j ≠ k → getFlag t m j = getFlag s m j) ∧
        t.rtr.flight = s.rtr.flight ++ (if k = 0 ∧ x.2 ≠ old then
          (bndMem s (16 + m.val)).map (fun p => { src := BitVec.ofNat 12 (0x640 + p), pol := x.2, stamp := st }) else []) ∧
        SameBut [(F.MCE_COND_FLAGS, m.val)] s t) ∧
  (∀ (m i : Fin 4) (code : BitVec 4) (st : Stamp) (s0 s : State), engReady (cycle s0) m.val = some s →
    let ev (pol pulse : Bool) : Ev :=
      { src := BitVec.ofNat 12 (0x6C0 + 4 * m.val + i.val), pol := pol, pulse := pulse, stamp := st, code := code }
    ∀ x ∈ [(Instr.engineEventPulse m i code st, ev true true), (.engineEventAssert m i code st, ev true false),
           (.engineEventDeassert m i code st, ev false false)],
      Completes (exec x.1 s0) fun t => t = { s with rtr := { s.rtr with flight := s.rtr.flight ++ [x.2] }, cyc := t.cyc }) ∧
  ∀ (m : Fin 4) (st te : Stamp) (s0 s : State), engReady (cycle s0) m.val = some s →
    let mem := bndMem s (16 + m.val)
    let frame (t : State) : Prop := (∀ p, p ∉ mem → acqOf t p = acqOf s p) ∧ t = { s with acqs := t.acqs, cyc := t.cyc }
    Completes (exec (.gateOn m st) s0) (fun t => frame t ∧ ∀ p ∈ mem,
      acqOf t p = { acqOf s p with gate := some ((acqOf s p).gate.getD st) }) ∧
    Completes (exec (.gateOff m st) s0) (fun t => frame t ∧ ∀ p ∈ mem, acqOf t p = { acqOf s p with
      gate := none, gates := (acqOf s p).gates ++ ((acqOf s p).gate.map (fun o => (o, st))).toList }) ∧
    Completes (exec (.gateWord m st te) s0) (fun t => frame t ∧ ∀ p ∈ mem, acqOf t p = (match (acqOf s p).gate with
      | some _ => acqOf s p
      | none => { acqOf s p with gates := (acqOf s p).gates ++ [(st, te)] }))

/-- R214, R239, R241: TRIG offers a sequencer trigger to the unit of each member that admits one: a unit that waits beyond its
pre-trigger fill, and whose run does not end earlier, accepts it and opens a record, any other enabled unit ignores it. R253: MARK forms
one record in every stream of each member's enabled unit whose source is not OFF. -/
def Obligations.EngineTrigMark : Prop :=
  ∀ (m : Fin 4) (p : Nat) (st : Stamp) (s0 s : State), engReady (cycle s0) m.val = some s → bndMem s (16 + m.val) = [p] →
    getF s F.ACQ_ACQCTL_EN p = 1 →
    (getF s F.ACQ_ACQCTL_STRIG p = 1 → getF s F.ACQ_ACQCTL_MODE p ∈ [0, 2] → Completes (exec (.trig m st) s0) fun t =>
      if waiting s p = true ∧ earlier st (fillEnd s p) = false ∧ beforeEnd (acqOf s p) st = true then
        getF t F.ACQ_STATE_ASTATE p = 4 ∧ ((acqOf t p).rcd.map (·.t)) = some st ∧
        getF t F.ACQ_RECCNT_N p = min (getF s F.ACQ_RECCNT_N p + 1) 0xFFFFFFFF ∧
        get64 t F.ACQ_LASTT_LO_T F.ACQ_LASTT_HI_T p = st ∧ (getF t (F.EVT .acq) p).testBit E.ACQ_TRIG_ACC = true
      else
        getF t F.ACQ_TRIGIGN_N p = min (getF s F.ACQ_TRIGIGN_N p + 1) 0xFFFFFFFF ∧
        (getF t (F.EVT .acq) p).testBit E.ACQ_TRIG_IGN = true ∧ t.acqs = s.acqs ∧ t.strms = s.strms) ∧
    Completes (exec (.mark m st) s0) fun t =>
      ∀ k, (strmOf t k).rseq = if k / 4 = p ∧ frameOf s p (k % 4) ≠ 0 then (strmOf s k).rseq + 1 else (strmOf s k).rseq

/-- R228: the word that each VOP issues and the vector address afterwards, where the word issues and no underrun is counted. -/
def Obligations.EngineVectorAddress : Prop :=
  ∀ (m : Fin 4) (tset : BitVec 6) (imm : BitVec 18) (lsel : BitVec 3) (s0 s : State), engReady (cycle s0) m.val = some s →
    (bndOf s (16 + m.val)).since = none →
    let va := engVa s m
    let w (x : Nat) : Nat := x % 2 ^ 40
    let tgt := vtt s m (imm.toNat % 4096)
    let rel := unsign ((va : Int) + signed imm.toNat 18) 40
    let ix := w (tgt + getF s (F.MCE_CNT_C lsel.toNat) m)
    ∀ x ∈ [(Instr.vaInc m tset, 0, va, w (va + 1)), (.hold m tset, 1, va, va), (.jmp m tset imm, 2, tgt, w (tgt + 1)),
           (.jmph m tset imm, 3, tgt, tgt), (.retva m tset, 4, va, va), (.rel m tset imm, 5, rel, w (rel + 1)),
           (.idx m tset imm lsel, 6, ix, w (ix + 1))],
      wordIssues s m x.2.1 x.2.2.1 tset.toNat = true →
      Completes (exec x.1 s0) fun t =>
        engVa t m = x.2.2.2 ∧ (bndOf t (16 + m.val)).vwi = (bndOf s (16 + m.val)).vwi + 1 ∧ engUpc t m = engUpc s m

/-- R212, R219, R220, R221: an issue of a word with BMODE NONE and no LOP: while its wait goes on, UPC stands and STATE.WAITING is 1;
when it ends by its condition, or the word does not wait, the engine goes on from NXT; when it times out, it goes on from NXT with bit
0 at 1, WAITTO counts and EVT.WAIT_TO is set. R229, R233: a parity error of a word that a stop keeps from executing is only counted. -/
def Obligations.EngineMicroword : Prop :=
  (∀ (m : Fin 4) (s0 s : State), engReady (cycle s0) m.val = some s → (bndOf s (16 + m.val)).since = none →
    let v := mword s m (engUpc s m)
    let w := vopDo s m (mwVop v) (mwImm v) (mwLsel v)
    let goesOn (t : State) (a : Nat) : Prop := engUpc (resolveWord t m.val) m = a
    ((bndOf s (16 + m.val)).first = true → wordFault s m = none) → mwLop v = 0 → mwBmode v = 0 → mwFlg v ≠ 13 →
    wordIssues s m (mwVop v) w.1 (mwTset v) = true →
    (waitEnd s m v = .more → Completes (exec (.microwordIssue m) s0) fun t =>
      engUpc t m = engUpc s m ∧ getF t F.MCE_STATE_WAITING m = 1 ∧ engVa t m = w.2) ∧
    (waitEnd s m v = .done →
      ∀ i ∈ Instr.microwordIssue m :: (if mwWsel v = 0 then [] else [.wait m (BitVec.ofNat 5 (mwWsel v)) (mwWpol v)]),
        Completes (exec i s0) fun t => goesOn t (mwNxt v) ∧ getF t F.MCE_STATE_WAITING m = 0 ∧ engVa t m = w.2) ∧
    (waitEnd s m v = .timeout →
      ∀ i ∈ [Instr.microwordIssue m, .waitTimeout m (BitVec.ofNat 14 (mwNxt v))],
        Completes (exec i s0) fun t => goesOn t (mwNxt v ||| 1) ∧ getF t F.MCE_STATE_WAITING m = 0 ∧
          getF t F.MCE_WAITTO_N m = min (getF s F.MCE_WAITTO_N m + 1) 0xFFFFFFFF ∧
          (getF t (F.EVT .mce) m).testBit E.MCE_WAIT_TO = true)) ∧
  ∀ (m : Fin 4) (s : State), engReady (cycle s) m.val = none → reserved s (16 + m.val) = true → bndMem s (16 + m.val) ≠ [] →
    (∀ p ∈ bndMem s (16 + m.val), rsOf s p = .stopping) → (bndOf s (16 + m.val)).first = true → wordFault s m = some 4 →
    Completes (exec (.microwordIssue m) s) fun t => engUpc t m = engUpc s m ∧ (∀ p, rsOf t p = rsOf s p) ∧
      getF t F.MCE_CSPARERR_N m = min (getF s F.MCE_CSPARERR_N m + 1) 0xFFFFFFFF ∧ SameBut [(F.MCE_CSPARERR_N, m.val)] s t

/-! Pins. -/

/-- R82, R153, R154: the next edge of a channel that does not park leaves the queue. One that follows an edge of its kind from another
character too soon is dropped and counted; a drive edge of another kind that comes before the minimum pulse of the last drive is
delayed and counted, and later actions are judged against the delayed time; a held-off driver keeps still. R88, R89: a strobe that its
comparators or its levels break counts a fail. R83, R85, R86, R78, R79: a comparator takes the state it changes to, and no other
comparator of the octet does; an over-current sets its event and raises its fault cause, a clamp only where the octet is not HIZ; a
channel die that is initialised, from BOOT 1 and after the first lock of the MPLL (R341, R443), puts its octets into SAFE, or leaves
them in HIZ where their rails are out of range; before, nothing happens. -/
def Obligations.Pins : Prop :=
  (∀ (ch : Fin 512) (e : Edge) (es : List Edge) (s : State),
    let c := ch.val
    let x := chanOf s c
    x.park = none → x.edges = e :: es →
    (dropped x e = true → Completes (exec (.pinEdge ch) s) fun t => chanOf t c = { x with edges := es } ∧
      getF t F.OCT_EDGEDROP_N (c / 8) = min (getF s F.OCT_EDGEDROP_N (c / 8) + 1) (2 ^ F.OCT_EDGEDROP_N.w.val - 1) ∧
      (getF t (F.EVT .oct) (c / 8)).testBit E.OCT_EDGE_DROP = true) ∧
    (∀ d, e.act = .drive d → dropped x e = false →
      let soon (k : Drv) (l : Stamp) : Bool := k != d && earlier e.t (l + BitVec.ofNat 64 (minPulse s c))
      let late : Option Stamp := match x.lastDrive with
        | some (k, l) => if soon k l then some (l + BitVec.ofNat 64 (minPulse s c)) else none
        | none => none
      Completes (exec (.pinEdge ch) s) fun t =>
        (chanOf t c).edges = es ∧ (chanOf t c).drv = (if heldOff s c then x.drv else d) ∧
        (chanOf t c).lastDrive = some (d, match late, x.lastDrive with
          | some m, _ => m
          | none, some (_, l) => if earlier e.t l then l else e.t
          | none, none => e.t) ∧
        getF t F.OCT_STRETCHCNT_N (c / 8) =
          if late.isSome then min (getF s F.OCT_STRETCHCNT_N (c / 8) + 1) (2 ^ F.OCT_STRETCHCNT_N.w.val - 1)
          else getF s F.OCT_STRETCHCNT_N (c / 8)) ∧
    (∀ (ex : Expect) (p : Nat), e.act = .strobe ex → dropped x e = false → owner s (c / 8) = some p → (polOf s p).fails = [] →
      let bad := judged s c && fails s c ex
      Completes (exec (.pinEdge ch) s) fun t => (chanOf t c).edges = es ∧
        getF t (F.OCT_CHFAIL_N (c % 8)) (c / 8) = if bad then min (getF s (F.OCT_CHFAIL_N (c % 8)) (c / 8) + 1) 0xFFFFFFFF
          else getF s (F.OCT_CHFAIL_N (c % 8)) (c / 8))) ∧
  ∀ (ch : Fin 512) (high rising det : Bool) (st : Stamp) (sub : BitVec 4) (d : Fin 8) (s : State),
    let c := ch.val
    let f := if high then F.OCT_COND_CMPH else F.OCT_COND_CMPL
    let k (j : Nat) : Nat := 96 + 4 * (c / 64) + j
    Completes (exec (.comparatorTransition ch high rising st sub det) s) (fun t => ∀ j < 8,
      (getF t f (c / 8)).testBit j = if j = c % 8 then rising else (getF s f (c / 8)).testBit j) ∧
    (isoDie s (c / 64) = false →
      Completes (exec (.driverOvercurrent ch st) s) (fun t => (getF t (F.EVT .oct) (c / 8)).testBit E.OCT_DRV_OVC = true ∧
        causeNow t (k 0) = true ∧ SameBut [(F.EVT .oct, c / 8), (F.EVT_SEQ .oct, c / 8)] s t) ∧
      (pstate s c ≠ 0 → Completes (exec (.clampOvercurrent ch st) s) fun t =>
        (getF t (F.EVT .oct) (c / 8)).testBit E.OCT_CLAMP = true ∧ causeNow t (k 1) = true ∧
        (pstate t c ≠ 0 → (clampBits t (c / 8)).testBit (c % 8) = true) ∧
        (chanOf t c).clampT = some (reach (cycle s) st).bdn ∧
        (∀ k < 512, k ≠ c → (chanOf t k).clampT = (chanOf s k).clampT) ∧
        SameBut [(F.EVT .oct, c / 8), (F.EVT_SEQ .oct, c / 8)] s t)) ∧
    (getF s F.DEV_STATE_BOOT 0 = 0 ∨ s.clk.first = false → Completes (exec (.channelDieInit d) s) fun t => t = cycle s) ∧
    (getF s F.DEV_STATE_BOOT 0 ≠ 0 → s.clk.first = true → Completes (exec (.channelDieInit d) s) fun t =>
      (dieOf t d.val).inited = true ∧ ∀ o, o / 8 = d.val → getF t F.OCT_STATE_PSTATE o = (if railsBad s o then 0 else 1) ∧
      getF t F.OCT_COND_CMPH o = 0 ∧ getF t F.OCT_COND_CMPL o = 0)

/-! The parametric unit. -/

/-- R112, R113, R119: CONV starts one conversion, and BURST the first of its conversions, with hold start at the present tick on every
enabled connected channel that is free and at rest; busy channels are counted in PMUMISS; CONV and BURST read 1. BURST_STOP ends the
burst of a channel that converts nothing at once, of any other after its current conversion, drops the bursts ordered before it, and
reads 1 until then. R103, R106, R108:
at the latch of a conversion on one channel RESULT takes its code, saturated to 18 bits with OVR, with COMPL and DEFER, PMUCNT counts,
and in FNMV the conversion is over; any other ends when the array returns to force, where the next of its burst begins. -/
def Obligations.PmuConversionsAndResults : Prop :=
  (∀ (i : Initiator) (p : Fin 64) (s : State), mayWrite s i .pol p.val 0x0C0 = true → noneDue s (now s + 1) →
    let k := p.val
    let on := (pmuChans s k).filter (canConvert s)
    let conv (b : Bool) (t : State) : Prop := ∀ c ∈ on, (chanOf t c).conv = some { t0 := now s, burst := b }
    let ends (c : Nat) : Bool := (chanOf s c).burst.isSome && busyConv s c
    (getF s F.POL_PMUCTL_CONV k = 0 → on ≠ [] →
      ((∀ c ∈ on, busyConv s c = false ∧ (chanOf s c).rangeOld = none) →
        Completes (exec (.conv i p) s) fun t => conv false t ∧ SameBut [(F.POL_PMUCTL_CONV, k)] s t ∧
          getF t F.POL_PMUCTL_CONV k = 1) ∧
      ((∀ c ∈ on, busyConv s c = true) → Completes (exec (.conv i p) s) fun t =>
        getF t F.POL_PMUMISS_N k = min (getF s F.POL_PMUMISS_N k + on.length) 0xFFFFFFFF ∧
        (getF t (F.EVT .pol) k).testBit E.POL_PMU_MISSED = true ∧ t.chans = s.chans)) ∧
    (getF s F.POL_PMUCTL_BURST k = 0 → on ≠ [] → (∀ c ∈ on, busyConv s c = false ∧ (chanOf s c).rangeOld = none) →
      Completes (exec (.burst i p) s) fun t => conv true t ∧ getF t F.POL_PMUCTL_BURST k = 1 ∧
        ∀ c ∈ on, (chanOf t c).burst =
          some (if getF s F.POL_PMUCFG_BURSTN k = 0 then none else some (getF s F.POL_PMUCFG_BURSTN k - 1))) ∧
    (getF s F.POL_PMUCTL_BURST_STOP k = 0 → Completes (exec (.burstStop i p) s) fun t =>
      (∀ c ∈ chansOf s k, (chanOf t c).burst = if ends c then some (some 0) else none) ∧
      (∀ y ∈ (polOf t k).trigs, y.isBurst = true → (polOf s k).opN ≤ y.n) ∧
      getF t F.POL_PMUCTL_BURST_STOP k = (if (chansOf s k).any ends then 1 else 0) ∧
      ((chansOf s k).any ends = false → getF t F.POL_PMUCTL_BURST k = 0))) ∧
  (∀ (p : Fin 64) (t0 : Stamp) (r : ConvResult) (c : Nat) (v : Conv) (s : State), noneDue s (t0 + ticks 3200) →
    latching s p.val t0 false = [(r.tch.val, c)] → latching s p.val t0 true = [] → (chanOf s c).conv = some v →
    (chanOf s c).burst = none →
    Completes (exec (.conversionLatch p t0 [r]) s) fun t =>
      getF t (F.OCT_X2_RESULT_CODE (c % 8)) (c / 8) = (max 0 (min r.code 262143)).toNat ∧
      getF t (F.OCT_X2_RESULT_OVR (c % 8)) (c / 8) = b2n (decide (r.code < 0 ∨ 262143 < r.code)) ∧
      getF t (F.OCT_X2_RESULT_COMPL (c % 8)) (c / 8) = b2n r.limited ∧
      getF t (F.OCT_X2_RESULT_DEFER (c % 8)) (c / 8) = b2n v.defer ∧ getF t (F.OCT_X2_RESULT_VALID (c % 8)) (c / 8) = 1 ∧
      getF t F.POL_PMUCNT_N p.val = min (getF s F.POL_PMUCNT_N p.val + 1) 0xFFFFFFFF ∧
      (chanOf t c).conv = if pmuMode s c = 3 then none else some { v with latched := true }) ∧
  ∀ (p : Fin 64) (t0 : Stamp) (s : State), noneDue s (t0 + ticks 4000) →
    Completes (exec (.arrayReturn p t0) s) fun t => (∀ k, k ∉ chansOf s p.val → chanOf t k = chanOf s k) ∧
      ∀ k ∈ chansOf s p.val, ((chanOf s k).conv = none → (chanOf t k).conv = none) ∧
        ∀ w, (chanOf s k).conv = some w →
          (¬ (w.t0 = t0 ∧ w.latched = true) → (chanOf t k).conv = some w) ∧
          (w.t0 = t0 → w.latched = true →
            ((chanOf s k).burst = none ∨ (chanOf s k).burst = some (some 0) → (chanOf t k).conv = none) ∧
            ((chanOf s k).ops = [] → (chanOf s k).rangeOld = none → pmuEn s k = true → canConvert s k = true →
              ∀ n, (chanOf s k).burst = some (some (n + 1)) →
                (chanOf t k).conv = some { t0 := t0 + ticks 4000, burst := true, k := w.k + 1 } ∧
                (chanOf t k).burst = some (some n)))

/-- R104, R111, R112, R114, R115, R119: on a polder that has one enabled channel FORCE_ON connects, FORCE_OFF disconnects and APPLY
takes NEXT.CODE and NEXT.IRANGE, where the sum of the claims of the die stays within 400 mA; beyond it nothing changes and the refusal
is counted; while the channel converts an operation that is not refused waits, and its command reads 1 (that its claim is kept from
then on is the model's choice, log entry 66). -/
def Obligations.PmuOperations : Prop :=
  ∀ (i : Initiator) (p : Fin 64) (c : Nat) (s : State), mayWrite s i .pol p.val 0x0C0 = true → c < 512 →
    getF s F.POL_PMUCTL_FORCE_ON p.val = 0 → getF s F.POL_PMUCTL_FORCE_OFF p.val = 0 → getF s F.POL_PMUCTL_APPLY p.val = 0 →
    pmuChans s p.val = [c] → noneDue s (now s + 1) →
    ∀ x ∈ [(Instr.forceOn i p, PmuOp.on, F.POL_PMUCTL_FORCE_ON), (.forceOff i p, .off, F.POL_PMUCTL_FORCE_OFF),
           (.apply i p, .apply, F.POL_PMUCTL_APPLY)],
      let z := opNew s c x.2.1
      let sum := dieClaims s (c / 64) - getClaim s c + newClaim s z
      let same (t : State) : Prop := ∀ k, k < 512 → pmuNow t k = pmuNow s k
      (newClaim s z ≤ getClaim s c ∨ sum ≤ 400000 →
        ((chanOf s c).conv = none → Completes (exec x.1 s) fun t =>
          pmuNow t c = z ∧ getClaim t c = newClaim s z % 2 ^ 19 ∧ (∀ k, k ≠ c → k < 512 → pmuNow t k = pmuNow s k)) ∧
        ((chanOf s c).conv ≠ none → Completes (exec x.1 s) fun t =>
          (chanOf t c).ops = (chanOf s c).ops ++ [((polOf s p.val).opN + 1, x.2.1)] ∧ getF t x.2.2 p.val = 1 ∧ same t ∧
          getClaim t c = max (getClaim s c) (newClaim s z) % 2 ^ 19)) ∧
      (getClaim s c < newClaim s z → 400000 < sum → Completes (exec x.1 s) fun t =>
        same t ∧ (getF t (F.EVT .pol) p.val).testBit E.POL_PMU_REFUSED = true ∧
        getF t F.CDI_PREFUSE_N (c / 64) = min (getF s F.CDI_PREFUSE_N (c / 64) + 1) (2 ^ F.CDI_PREFUSE_N.w.val - 1))

/-- R105, R110, R115: with CONNECT = 0 a write of MODE, IRANGE or FORCE.CODE takes effect at once. While connected, a change of MODE
within the budget disconnects the unit until MODE_RECONNECT, and one of IRANGE goes on until RANGE_CHANGE_COMPLETE, where a deferred
conversion is made. -/
def Obligations.PmuSettings : Prop :=
  ∀ (i : Initiator) (ch : Fin 512) (mode : BitVec 2) (r : BitVec 3) (code : BitVec 18) (st : Stamp) (s : State),
    let c := ch.val
    let x := chanOf s c
    let z := pmuNow s c
    (mayWrite s i .oct (c / 8) 0x030 = true → mayWrite s i .oct (c / 8) 0x034 = true → postedOf s .oct (c / 8) = [] →
      x.rangeOld = none → x.ops = [] → noneDue s (now s + 1) →
      (pmuConn s c = false →
        Completes (exec (.pmuModeWrite i ch mode) s) (fun t => pmuNow t c = { z with mode := mode.toNat }) ∧
        Completes (exec (.rangeChange i ch r) s) (fun t => pmuNow t c = { z with range := r.toNat }) ∧
        Completes (exec (.pmuForceWrite i ch code) s) (fun t => pmuNow t c = { z with code := code.toNat })) ∧
      (pmuConn s c = true →
        (mode.toNat ≠ z.mode → newClaim s { z with mode := mode.toNat } ≤ getClaim s c →
          Completes (exec (.pmuModeWrite i ch mode) s) fun t =>
            pmuNow t c = { z with mode := mode.toNat } ∧ (chanOf t c).reconnect = true) ∧
        (r.toNat ≠ z.range → x.conv = none → newClaim s { z with range := r.toNat } ≤ getClaim s c →
          Completes (exec (.rangeChange i ch r) s) fun t =>
            pmuNow t c = { z with range := r.toNat } ∧ (chanOf t c).rangeOld = some (z.range, getClaim s c)) ∧
        (newClaim s { z with code := code.toNat } ≤ getClaim s c → Completes (exec (.pmuForceWrite i ch code) s) fun t =>
          pmuNow t c = { z with code := code.toNat }))) ∧
    (x.reconnect = true → pmuConn s c = true → newClaim s z ≤ getClaim s c → noneDue s (now s + 1) →
      Completes (exec (.modeReconnect ch) s) fun t => (chanOf t c).reconnect = false ∧ pmuNow t c = z) ∧
    (∀ old, x.rangeOld = some old → noneDue s st →
      Completes (exec (.rangeChangeComplete ch st) s) fun t =>
        (chanOf t c).rangeOld = none ∧ (chanOf t c).waitConv = none ∧
        (x.waitConv = none → (chanOf t c).conv = x.conv) ∧ (∀ v, x.waitConv = some v → (chanOf t c).conv = some { v with t0 := st }) ∧
        getClaim t c = claimOf z.mode z.range z.code z.conn % 2 ^ 19)

/-! Levels, supplies and their queues. -/

/-- R122, R130, R412: the operation of a level-queue entry at its tick: SET on a channel, SETALL on all, LSWITCH from a level set, NOP
on none, but on no channel of an isolated die; an entry with a DAC of 7, a channel that the template does not have or an operation of
the supplies is an operation error and changes no DAC. The stamp of the last entry and CONT follow. -/
def Obligations.LevelEntries : Prop :=
  ∀ (p : Fin 64) (cont g : Bool) (tch : BitVec 9) (dac : BitVec 3) (code : BitVec 16) (lset : BitVec 4) (s : State),
    let q := QId.lvl p
    let cs := chansOf s p.val
    let applied (c d : Nat) (u : State) : Nat × Bool :=
      (getF u (F.OCT_X4_APPLIED_CODE (c % 8) d) (c / 8), isSet u (F.OCT_X4_APPLIED_G (c % 8) d) (c / 8))
    let others (l : List (Nat × Nat)) (t : State) : Prop := ∀ c < 512, ∀ d < 7, (c, d) ∉ l → applied c d t = applied c d s
    let reached (c : Nat) : Bool := !isoDie s (c / 64)
    let done (t : State) : Prop := get64 t F.POL_LQTICK_LO_T F.POL_LQTICK_HI_T p.val = now s ∧ (queueOf t p.val).cont = cont
    rsOf s p.val ≠ .off → (queueOf s p.val).susp = false → (queueOf s p.val).gain = false →
    Completes (exec (.nop q cont) s) (fun t => done t ∧ others [] t) ∧
    (dac ≠ 7 →
      (∀ c, cs[tch.toNat]? = some c → Completes (exec (.set q cont tch dac g code) s) fun t =>
        done t ∧ (reached c = true → applied c dac.toNat t = (code.toNat, g)) ∧
        others (if reached c then [(c, dac.toNat)] else []) t) ∧
      (cs[tch.toNat]? = none → Completes (exec (.set q cont tch dac g code) s) fun t =>
        done t ∧ (getF t (F.EVT .pol) p.val).testBit E.POL_LQ_OPERR = true ∧ others [] t) ∧
      Completes (exec (.setall q cont dac g code) s) fun t =>
        done t ∧ (∀ c ∈ cs.filter reached, applied c dac.toNat t = (code.toNat, g)) ∧
        others ((cs.filter reached).map (fun c => (c, dac.toNat))) t) ∧
    (dac = 7 → ∀ x ∈ [Instr.set q cont tch dac g code, .setall q cont dac g code], Completes (exec x s) fun t =>
      done t ∧ (getF t (F.EVT .pol) p.val).testBit E.POL_LQ_OPERR = true ∧ others [] t) ∧
    Completes (exec (.lswitch q cont lset) s) (fun t => done t ∧ getF t F.POL_LQSTAT_LSAPPLIED p.val = lset.toNat ∧
      (∀ c, c ∉ cs.filter reached → c < 512 → ∀ d < 7, applied c d t = applied c d s) ∧
      (∀ c ∈ cs.filter reached, ∀ d < 7, applied c d t = (getF s (F.OCT_X3_LSET_CODE (c % 8) lset.toNat d) (c / 8),
        isSet s (F.OCT_X3_LSET_G (c % 8) lset.toNat d) (c / 8)))) ∧
    ∀ x ∈ [Instr.dsset q cont g code, .dson q cont, .dsoff q cont], Completes (exec x s) fun t =>
      done t ∧ (getF t (F.EVT .pol) p.val).testBit E.POL_LQ_OPERR = true ∧ others [] t

/-- R124, R126, R130: the operation of an entry of an owned controller's queue: DSSET applies the set point, at VMAX where it lies
above, with VCLIP and, as the clipping begins, LIMIT and its cause; DSON turns the controller on unless Embankment mode holds it, DSOFF
off; a level operation is an operation error. R126: an over-current and an open sense line of a controller that is ON are LIMIT events
with their cause and raise the fault cause of the controller, which stays ON. R137, R138: the ramp to FAULT that begins is under way
with the gain of its end; where it ends it leaves the FAULT value, and OFF a controller whose FAULT value is OFF or that Embankment
mode holds. -/
def Obligations.SupplyEntriesAndEvents : Prop :=
  (∀ (d : Fin 32) (cont g : Bool) (code : BitVec 16) (tch : BitVec 9) (dac : BitVec 3) (lset : BitVec 4) (s : State),
    let q := QId.ds d
    let k := 64 + d.val
    let i := d.val % 8
    let n := d.val / 8
    let sp := if g then 2 * code.toNat else code.toNat
    let vmax := 2 * getF s (F.DSC_VMAX_CODE i) n
    let done (t : State) : Prop := (queueOf t k).cont = cont ∧ getF t (F.DSC_QTICK_T i) n = (now s).toNat / 1024 % 2 ^ 32
    (dsOwner s d.val).isSome = true → isoDie s (d.val / 4) = false → (queueOf s k).susp = false → (queueOf s k).gain = false →
    Completes (exec (.nop q cont) s) done ∧
    Completes (exec (.dsset q cont g code) s) (fun t => done t ∧ isSet t (F.DSC_APPLIED_G i) n = g ∧
      (sp ≤ vmax → getF t (F.DSC_APPLIED_CODE i) n = code.toNat ∧ getF t (F.DSC_COND_VCLIP i) n = 0) ∧
      (vmax < sp → getF t (F.DSC_APPLIED_CODE i) n = (if g then vmax / 2 else vmax) % 2 ^ 16 ∧
        getF t (F.DSC_COND_VCLIP i) n = 1 ∧
        (getF s (F.DSC_COND_VCLIP i) n = 0 → getF t (F.DSC_QSTAT_LCAUSE i) n = 3 ∧
          (getF t (F.EVT .dsc) n).testBit (E.DSC_LIMIT i) = true))) ∧
    Completes (exec (.dson q cont) s) (fun t => done t ∧
      getF t (F.DSC_QSTAT_ON i) n = if (dsOf s d.val).held then getF s (F.DSC_QSTAT_ON i) n else 1) ∧
    Completes (exec (.dsoff q cont) s) (fun t => done t ∧ getF t (F.DSC_QSTAT_ON i) n = 0) ∧
    ∀ x ∈ [Instr.set q cont tch dac g code, .setall q cont dac g code, .lswitch q cont lset], Completes (exec x s) fun t =>
      done t ∧ (getF t (F.EVT .dsc) n).testBit E.DSC_OPERR = true ∧
      getF t (F.DSC_QOPERR_N i) n = min (getF s (F.DSC_QOPERR_N i) n + 1) (2 ^ (F.DSC_QOPERR_N i).w.val - 1)) ∧
  ∀ (d : Fin 32) (st : Stamp) (s : State),
    let i := d.val % 8
    let n := d.val / 8
    (isSet s (F.DSC_QSTAT_ON i) n = true →
      ∀ x ∈ [(Instr.dsOvercurrent d st, 1), (.dsSenseOpen d st, 2)], Completes (exec x.1 s) fun t =>
        getF t (F.DSC_QSTAT_LCAUSE i) n = x.2 ∧ (getF t (F.EVT .dsc) n).testBit (E.DSC_LIMIT i) = true ∧
        causeNow t (64 + d.val) = true ∧ (x.2 = 1 → getF t (F.DSC_COND_ILIM i) n = 1) ∧
        SameBut [(F.DSC_QSTAT_LCAUSE i, n), (F.DSC_COND_ILIM i, n), (F.EVT .dsc, n), (F.EVT_SEQ .dsc, n)] s t) ∧
    ((dsOf s d.val).ramp = true → Completes (exec (.dsRampEnd d) s) fun t => (dsOf t d.val).ramp = false ∧
      getF t (F.DSC_COND_RAMPING i) n = 0 ∧ getF t (F.DSC_QSTAT_ON i) n = b2n (!(dsOf s d.val).toOff) ∧
      isSet t (F.DSC_APPLIED_G i) n = (faultSp s d.val).2 ∧
      ((if (faultSp s d.val).2 then 2 else 1) * (faultSp s d.val).1 ≤ 2 * getF s (F.DSC_VMAX_CODE i) n →
        getF t (F.DSC_APPLIED_CODE i) n = (faultSp s d.val).1 ∧ getF t (F.DSC_COND_VCLIP i) n = 0)) ∧
    (getF s (F.DSC_DSCFG_FRAMP i) n ≠ 0 →
      let t := faultRamp s d.val
      (dsOf t d.val).ramp = true ∧ getF t (F.DSC_COND_RAMPING i) n = 1 ∧ getF t (F.DSC_COND_VCLIP i) n = b2n (rampClips t d.val) ∧
      isSet t (F.DSC_APPLIED_G i) n = (faultV s d.val).testBit 16 ∧
      (queueOf t (64 + d.val)).gain = ((queueOf s (64 + d.val)).gain || dsG s d.val != (faultV s d.val).testBit 16) ∧
      (dsOf t d.val).toOff = ((dsOf s d.val).held || isSet s F.FLT_STATE_EMBANK 0 || !(faultV s d.val).testBit 17))

/-- R127, R128, R131, R133, R135: a tick of a queue consumes its oldest entry; with the queue empty after an entry with CONT it counts
an underrun, while a gain switch holds it counts a stall; a suspended queue does nothing; the gain switch ends; DIV takes the value
written; a push joins the end of a live queue. -/
def Obligations.QueueTicksAndPushes : Prop :=
  ∀ (i : Initiator) (q : QId) (hi : Word) (v : BitVec 16) (s : State),
    let k := QId.code q
    let x := queueOf s k
    let by' (lvl : Fld) (ds : Nat → Fld) : Fld × Nat := match q with
      | .lvl p => (lvl, p.val) | .ds d => (ds (d.val % 8), d.val / 8)
    let under := by' F.POL_LQUNDER_N F.DSC_QUNDER_N
    let stall := by' F.POL_LQSTALL_N F.DSC_QSTALL_N
    let div := by' F.POL_LQCFG_DIV F.DSC_DSCFG_DIV
    let lo := by' F.POL_LQPUSH_LO_E F.DSC_QPUSH_LO_E
    let push := by' F.POL_LQPUSH_HI_E F.DSC_QPUSH_HI_E
    let count (f : Fld × Nat) (t : State) : Prop := getF t f.1 f.2 = min (getF s f.1 f.2 + 1) (2 ^ f.1.w.val - 1)
    (x.susp = true → Completes (exec (.dacQueueTick q) s) fun t => t = cycle s) ∧
    (x.susp = false → x.entries = [] → Completes (exec (.dacQueueTick q) s) fun t => (queueOf t k).cont = false ∧
      (x.cont = true → count under t) ∧ (x.cont = false → t = cycle s)) ∧
    (∀ h es, x.susp = false → x.entries = h :: es →
      (x.gain = true → Completes (exec (.dacQueueTick q) s) fun t => queueOf t k = x ∧ count stall t ∧ SameBut [stall] s t) ∧
      (x.gain = false → Completes (exec (.dacQueueTick q) s) fun t => (queueOf t k).entries = es ∧
        (queueOf t k).cont = qeCont h)) ∧
    Completes (exec (.gainSwitchEnd q) s) (fun t => queueOf t k = { x with gain := false }) ∧
    (mayWrite s i div.1.page div.2 div.1.off = true → Completes (exec (.queueDivWrite i q v) s) fun t =>
      getF t div.1 div.2 = v.toNat ∧ SameBut [div] s t) ∧
    (mayWrite s i push.1.page push.2 push.1.off = true → queueLive s k = true → x.entries.length < 256 →
      Completes (exec (.queuePush i q hi) s) fun t =>
        (queueOf t k).entries = x.entries ++ [BitVec.ofNat 64 (getF s lo.1 lo.2 + 2 ^ 32 * hi.toNat)])

/-- R134: a push to a full queue, level or supply, by the host or by a sequencer, discards the entry; the overflow counter counts, the
OVF event is set and nothing else changes, so no LOCKVIO record is made. -/
def Obligations.FullQueueDiscards : Prop :=
  ∀ (i : Initiator) (q : QId) (e : BitVec 64) (hi : Word) (s : State),
    let k := QId.code q
    let ovf : Fld × Nat := match q with
      | .lvl p => (F.POL_LQOVF_N, p.val) | .ds d => (F.DSC_QOVF_N (d.val % 8), d.val / 8)
    let push : Fld × Nat := match q with
      | .lvl p => (F.POL_LQPUSH_HI_E, p.val) | .ds d => (F.DSC_QPUSH_HI_E (d.val % 8), d.val / 8)
    let bit : Nat := match q with
      | .lvl _ => E.POL_LQ_OVF | .ds d => E.DSC_OVF (d.val % 8)
    let pg := ovf.1.page
    let discards (extra : List (Fld × Nat)) (t : State) : Prop :=
      queueOf t k = queueOf s k ∧ getF t ovf.1 ovf.2 = min (getF s ovf.1 ovf.2 + 1) (2 ^ ovf.1.w.val - 1) ∧
      (getF t (F.EVT pg) ovf.2).testBit bit = true ∧ SameBut (extra ++ [ovf, (F.EVT pg, ovf.2), (F.EVT_SEQ pg, ovf.2)]) s t
    queueLive s k = true → 256 ≤ (queueOf s k).entries.length →
    discards [] (pushEntry (cycle s) k e) ∧
    (mayWrite s i push.1.page push.2 push.1.off = true → Completes (exec (.queuePush i q hi) s) (discards [push]))

/-! Timing. -/

/-- R152, R160: TSET_CLEAR empties every character of the set on the polder's channels and restores its configuration to the default;
SELFCAL takes the octets in SAFE and names the others in CALSKIP, and its end loads the measured values and T0, the die temperature,
on them, whose temperature terms follow as one step. -/
def Obligations.TimingCommands : Prop :=
  ∀ (i : Initiator) (p : Fin 64) (set : BitVec 6) (d : Fin 8) (t0 : BitVec 8) (r : CalResult) (s : State),
    (mayWrite s i .pol p.val 0x110 = true → polBusy s p.val = false → getF s F.POL_TSCTL_CLR p.val = 0 →
      Completes (exec (.tsetClear i p set) s) fun t => getWide t .pol p.val 6 set.toNat = wideDefault .pol 6 ∧
        (∀ c ∈ chansOf s p.val, ∀ k < 16, getWide t .oct (c / 8) 5 (charEntry (c % 8) set.toNat k) = 0) ∧
        getF t F.POL_TSCTL_SET p.val = set.toNat ∧ SameBut [(F.POL_TSCTL_SET, p.val)] s t) ∧
    (mayWrite s i .cdi d.val 0x090 = true → getF s F.CDI_CALCTL_SELFCAL d.val = 0 → Completes (exec (.selfcal i d) s) fun t =>
      getF t F.CDI_CALCTL_SELFCAL d.val = 1 ∧ (dieOf t d.val).selfcal = true ∧
      (∀ o, o ∈ (dieOf t d.val).calOcts ↔ o / 8 = d.val ∧ getF s F.OCT_STATE_PSTATE o = 1) ∧
      (∀ k < 8, (getF t F.CDI_CALSKIP_OCT d.val).testBit k = decide (getF s F.OCT_STATE_PSTATE (8 * d.val + k) ≠ 1)) ∧
      SameBut [(F.CDI_CALCTL_SELFCAL, d.val), (F.CDI_CALSKIP_OCT, d.val)] s t) ∧
    ((dieOf s d.val).selfcal = true → r.ch.val / 8 ∈ (dieOf s d.val).calOcts →
      Completes (exec (.selfcalDone d t0 [r]) s) fun t =>
        let j := r.ch.val % 8
        let o := r.ch.val / 8
        getF t (F.OCT_X6_DSKD_DDSK j) o = r.ddsk.toNat ∧ getF t (F.OCT_X6_DSKC_CDSK j) o = r.cdsk.toNat ∧
        ((8 * t0.toInt - signed (getF s F.CDI_DIETEMP_T d.val) 16).natAbs < 8 → getF t (F.OCT_X6_CALINFO_T0 j) o = t0.toNat) ∧
        (chanOf t r.ch.val).tempD = tempTarget t r.ch.val true ∧ (chanOf t r.ch.val).tempC = tempTarget t r.ch.val false ∧
        getF t (F.OCT_X6_CALINFO_SCVALID j) o = 1 ∧
        getF t F.CDI_CALCTL_SELFCAL d.val = 0 ∧ (dieOf t d.val).selfcal = false ∧
        (getF t (F.EVT .cdi) d.val).testBit (if getF s F.CDI_CALSKIP_OCT d.val = 0 then E.CDI_SELFCAL_DONE else E.CDI_SELFCAL_SKIP)
          = true)

/-! Maps and vector memory. -/

/-- R54, R56, R57: a write of OCTMAP takes the unowned octets of its ones, gives back the polder's octets of its zeros and leaves what
another polder owns, with OWN_CONFLICT; the polder is OFF with no octet and leaves OFF for DIKE. DSMAP does the same with the
controllers, and is only stored in OFF. -/
def Obligations.PolderMaps : Prop :=
  ∀ (i : Initiator) (p : Fin 64) (v : Word) (s : State), polBusy s p.val = false → lockBit s .pol p.val 0 = false →
    let q := p.val
    let conflict (t : State) : Prop := (getF t (F.EVT .pol) q).testBit E.POL_OWN_CONFLICT = true
    let kept (old new : Option Nat) (bit : Bool) (t : State) : Prop := match old with
      | none => new = if bit then some q else none
      | some r => if r = q then new = (if bit then some q else none) else new = old ∧ (bit = true → conflict t)
    (∀ hi : Bool, s.otp.lc ≠ 3 → mayWrite s i .pol q (if hi then 0x048 else 0x044) = true →
      Completes (exec (.octmapWrite i p hi v) s) fun t =>
        (∀ o < 64, if o / 32 = b2n hi then kept (owner s o) (owner t o) (v.getLsbD (o % 32)) t else owner t o = owner s o) ∧
        rsOf t q = (if octsOf t q = [] then .off else if rsOf s q = .off then .dike else rsOf s q) ∧
        ∀ r, r ≠ q → rsOf t r = rsOf s r) ∧
    (mayWrite s i .pol q 0x04C = true →
      (rsOf s q = .off → Completes (exec (.dsmapWrite i p v) s) fun t =>
        getF t F.POL_DSMAP_DS q = v.toNat ∧ SameBut [(F.POL_DSMAP_DS, q)] s t) ∧
      (rsOf s q ≠ .off → Completes (exec (.dsmapWrite i p v) s) fun t =>
        (∀ d < 32, kept (dsOwner s d) (dsOwner t d) (v.getLsbD d) t) ∧ ∀ r, rsOf t r = rsOf s r))

/-- R171, R172, R176, R178: the words that a reserved binding prefetches are ahead of it up to PFDEPTH; corrected and uncorrectable
errors count, those of the words known to be bad among them, and the latter poison their 64-bit words; the patrol scrub counts both.
PRELOAD takes a span that fits the window, or unpins all with PRE_LEN 0; its end pins the span, poisoned where the load met
uncorrectable errors (which it finds beside the words known to be bad is a free value, log entry 69). -/
def Obligations.VectorMemoryCommands : Prop :=
  ∀ (i : Initiator) (b : Bind) (n : Nat) (ce ue : List EccErr) (cp up : List LinkAddr) (va : BitVec 8) (compact : Bool) (s : State),
    let k := b.val
    let y := bndOf s k
    let errors (ce ue : List EccErr) (t : State) : Prop :=
      getF t F.MEM_ECCCE_N 0 = min (getF s F.MEM_ECCCE_N 0 + ce.length) 0xFFFFFFFF ∧
      getF t F.MEM_ECCUE_N 0 = min (getF s F.MEM_ECCUE_N 0 + ue.length) 0xFFFFFFFF ∧
      (ce ≠ [] → (getF t (F.EVT .mem) 0).testBit E.MEM_ECC_CE = true) ∧
      (ue ≠ [] → (getF t (F.EVT .mem) 0).testBit E.MEM_ECC_UE = true) ∧ ∀ e ∈ ue, e.cache = false → e.addr.toNat / 8 * 8 ∈ t.dramBad
    let eccF : List (Fld × Nat) := [(F.MEM_ECCCE_N, 0), (F.MEM_ECCUE_N, 0), (F.MEM_ECCADDR_LO_A, 0), (F.MEM_ECCADDR_HI_A, 0),
      (F.MEM_ECCADDR_HI_UE, 0), (F.MEM_ECCADDR_HI_CACHE, 0), (F.EVT .mem, 0), (F.EVT_SEQ .mem, 0)]
    (reserved s k = true → isSet s F.FLT_STATE_EMBANK 0 = false → Completes (exec (.patternRefill b n ce ue) s) fun t =>
      let u := setBnd (eccErrs (cycle s) ce []) k { y with lead := max y.lead (min (y.lead + n) (pfDepth s k)) }
      let bad := fetchUe u k ((streamedAhead u k).drop y.lead) ue
      (bndOf t k).lead = max y.lead (min (y.lead + n) (pfDepth s k)) ∧
      (bndOf t k).poison = y.poison ++ poisonOf bad ∧ errors ce bad t ∧ SameBut eccF s t) ∧
    Completes (exec (.patrolScrub cp up) s) (fun t => errors (cp.map (fun a => { addr := a })) (up.map (fun a => { addr := a })) t ∧
      SameBut eccF s t ∧ t.bnds = s.bnds) ∧
    (mayWrite s i .mem 0 (0x134 + 0x40 * k) = true → reserved s k = false → getF s (F.MEM_PRE_VA_HI_GO k) 0 = 0 →
      let noct := match (List.range 64).find? (fun p => getF s F.POL_BIND_SEQSEL p == k && rsOf s p != .off) with
        | some p => (octsOf s (anchor s p)).length
        | none => y.noct
      let u := setBnd s k { y with noct := noct }
      let had := getF s (F.MEM_ALLOC_WIN k) 0
      let win := if had ≠ 0 then had else min (cwin s k) (spareUnits u k / 64)
      let x := spanAt u k (getF s (F.MEM_PRE_VA_LO_VA k) 0 + 2 ^ 32 * va.toNat) (getF s (F.MEM_PRE_LEN_N k) 0) compact
      let free := 4096 * win - ((spans s k).map Span.lines).sum
      (x.len = 0 → Completes (exec (.preload i b va compact) s) fun t => (bndOf t k).pins = [] ∧ (bndOf t k).preload = none ∧
        getF t (F.MEM_ALLOC_WIN k) 0 = 0 ∧ getF t (F.MEM_PRE_VA_HI_GO k) 0 = 0) ∧
      (x.len ≠ 0 → x.lines ≤ free →
        Completes (exec (.preload i b va compact) s) fun t => (bndOf t k).preload = some x ∧ (bndOf t k).pins = y.pins ∧
          getF t (F.MEM_ALLOC_WIN k) 0 = win ∧ getF t (F.MEM_PRE_VA_HI_GO k) 0 = 1) ∧
      (x.len ≠ 0 → free < x.lines →
        Completes (exec (.preload i b va compact) s) fun t => (bndOf t k).preload = y.preload ∧
          (getF t (F.EVT .mem) 0).testBit E.MEM_CWIN_SHORT = true)) ∧
    (∀ x, y.preload = some x → Completes (exec (.preloadDone b) s) fun t =>
      let bad := readUe s x.addr x.stop ((Config.loadErrs s.free).2.filter (fun e => x.line e.addr.toNat))
      bndOf t k = { y with pins := y.pins ++ [x], preload := none, poison := y.poison ++ poisonOf bad } ∧
      getF t (F.MEM_PRE_VA_HI_GO k) 0 = 0 ∧
      (getF t (F.EVT .mem) 0).testBit E.MEM_PRELOAD_DONE = true ∧
      errors ((Config.loadErrs s.free).1.filter (fun e => x.line e.addr.toNat)) bad t ∧
      SameBut (eccF ++ [(F.MEM_PRE_VA_HI_GO k, 0)]) s t)

/-! Acquisition and the pool. -/

/-- R241, R242, R245, R246, R254: the unit goes from FILL to READY; the wait of AUTO ends with a forced record at F + ATO, if the run
has not ended there, and the unit's source asserts at F + ATO and deasserts at the close of the window or the earlier end of the run;
the record ends with its window, unless the run ends before it does; STREAM turns streaming on and off; a sample joins the record being
gathered, or is counted lost. -/
def Obligations.AcquisitionTimers : Prop :=
  ∀ (i : Initiator) (p : Fin 64) (en : Bool) (o : Fin 64) (t0 : Stamp) (s : State),
    let k := p.val
    let u := acqOf s k
    (getF s F.ACQ_STATE_ASTATE k = 2 → Completes (exec (.preTriggerFillEnd p) s) fun t =>
      getF t F.ACQ_STATE_ASTATE k = 3 ∧ SameBut [(F.ACQ_STATE_ASTATE, k)] s t) ∧
    (let f := fillEnd s k + ticks (atoTicks s k)
     let c := f + ticks (max 1 (getF s F.ACQ_POST_T k))
     waiting s k = true → getF s F.ACQ_ACQCTL_MODE k = 1 → beforeEnd u f = true → Completes (exec (.autoTimeout p) s) fun t =>
      t.rtr.flight = s.rtr.flight ++ [{ src := BitVec.ofNat 12 (0x680 + k), pol := true, stamp := f },
        { src := BitVec.ofNat 12 (0x680 + k), pol := false, stamp := if beforeEnd u c then c else u.endS.getD c }] ∧
      (acqOf t k).rcd.map (·.t) = some f ∧ getF t F.ACQ_STATE_ASTATE k = 4 ∧
      get64 t F.ACQ_LASTT_LO_T F.ACQ_LASTT_HI_T k = f ∧
      getF t F.ACQ_FORCEDCNT_N k = min (getF s F.ACQ_FORCEDCNT_N k + 1) 0xFFFFFFFF ∧
      getF t F.ACQ_RECCNT_N k = min (getF s F.ACQ_RECCNT_N k + 1) 0xFFFFFFFF ∧
      (getF t (F.EVT .acq) k).testBit E.ACQ_FORCED = true) ∧
    (∀ w, u.rcd = some w → beforeEnd u w.closeS = false → u.endS ≠ some w.closeS → Completes (exec (.recordComplete p) s) fun t =>
      t = cycle s) ∧
    (∀ w, u.rcd = some w → beforeEnd u w.closeS = true ∨ u.endS = some w.closeS → Completes (exec (.recordComplete p) s) fun t =>
      (acqOf t k).rcd = none ∧ (getF t (F.EVT .acq) k).testBit E.ACQ_REC_DONE = true ∧
      ((∀ e ∈ s.rtr.flight, e.src.toNat = 0x680 + k → e.pol = false → earlier w.closeS e.stamp = false) →
        t.rtr.flight = s.rtr.flight) ∧
      getF t F.ACQ_STATE_ASTATE k =
        (if getF s F.ACQ_ACQCTL_MODE k = 2 then 5 else if getF s F.ACQ_PRE_T k = 0 then 3 else 2) ∧
      (acqOf t k).arm = if getF s F.ACQ_ACQCTL_MODE k = 2 then u.arm else w.closeS) ∧
    (mayWrite s i .acq k 0x040 = true → polBusy s k = false → Completes (exec (.streamEnable i p en) s) fun t =>
      getF t F.ACQ_ACQCTL_EN k = b2n en ∧ getF t F.ACQ_ACQCTL_MODE k = 3 ∧
      getF t F.ACQ_STATE_ASTATE k = (if en then 7 else 0) ∧
      getF t F.ACQ_ACQCTL_STRIG k = getF s F.ACQ_ACQCTL_STRIG k ∧ getF t F.ACQ_ACQCTL_RTRIG k = getF s F.ACQ_ACQCTL_RTRIG k ∧
      (en = true → getF s F.ACQ_ACQCTL_EN k = 0 → ∀ j < 4, (strmOf t (4 * k + j)).rseq = 0 ∧ dflog t (4 * k + j) = 0)) ∧
    (∀ q, owner s o.val = some q → 2 ≤ pstate s (8 * o.val) → admits s q 3 t0 = true →
      t0.toNat % (1024 * 2 ^ scopeIv s q) = 0 →
      let h := (octsOf s q).idxOf o.val
      let a := Store.get (acqOf s q).scope {} h
      let v := if isSet s F.ACQ_SRCCFG_SCOPESEL q then getF s F.OCT_COND_CMPL o.val else getF s F.OCT_COND_CMPH o.val
      Completes (exec (.scopeSample o t0 true) s) (fun t =>
        getF t F.OCT_SCOPELOST_N o.val = min (getF s F.OCT_SCOPELOST_N o.val + 1) 0xFFFFFFFF ∧
        (getF t (F.EVT .oct) o.val).testBit E.OCT_SCOPE_LOST = true ∧ t.acqs = s.acqs ∧
        SameBut [(F.OCT_SCOPELOST_N, o.val), (F.EVT .oct, o.val), (F.EVT_SEQ .oct, o.val)] s t) ∧
      ((acqOf s q).rcd = none → a.samples.length < 383 →
        a.samples = [] ∨ t0 = a.start + ticks (a.samples.length * 2 ^ a.iv) →
        Completes (exec (.scopeSample o t0 false) s) fun t =>
          Store.get (acqOf t q).scope {} h =
            (if a.samples = [] then { start := t0, iv := scopeIv s q, samples := [BitVec.ofNat 8 v] }
              else { a with samples := a.samples ++ [BitVec.ofNat 8 v] }) ∧ SameBut [] s t))

/-- R244, R264, R267, R269, R273: retained granules without an item at or after the expiry are retained no more; a granule that has
filled for FLUSHT, and holds nothing retained, is queued with FLUSH; at an evaluation DFLOG of each stream with SPW_EN rises, falls or
stays, and a step counts; SPILLRD is taken inside the ring, with SPILL_FULL where the ring becomes full. -/
def Obligations.PoolCommands : Prop :=
  ∀ (i : Initiator) (p : Fin 64) (src : Fin 4) (t0 : Stamp) (k : Fin 256) (hi : Bool) (v : Word) (s : State),
    (let j := 4 * p.val + src.val
     retaining s j = true → Completes (exec (.retentionExpiry p src t0) s) fun t =>
      let live (g : Gran) : Bool := (splitRecs 62 g.words).any (fun r => itemRec r && !earlier (recLast r) t0)
      (strmOf t j).retained = (strmOf s j).retained.filter live ∧ (strmOf t j).fill = (strmOf s j).fill ∧ SameBut [] s t ∧
      (strmOf t j).queue = (strmOf s j).queue) ∧
    (∀ g, (strmOf s k.val).fill = some g → (retaining s k.val && g.hasItem) = false →
      Completes (exec (.granuleFlushTimeout k) s) fun t =>
        (strmOf t k.val).fill = none ∧ (strmOf t k.val).gseq = (strmOf s k.val).gseq + 1 ∧
        (strmOf t k.val).queue =
          (strmOf s k.val).queue ++ [{ g with gst := .queued, flush := true, gseq := (strmOf s k.val).gseq }] ∧
        SameBut [] s t) ∧
    Completes (exec .spillwayEvaluation s) (fun t =>
      let x := strmOf s k.val
      let df := dflog s k.val
      let high := shareTimesW s k.val < sumWeights s k.val * x.closed * 10 ∧ cfgHwm s k.val * cfgCap s k.val < held s k.val * 16
      let low := if held s k.val * 16 < cfgLwm s k.val * cfgCap s k.val then x.low + 1 else 0
      (dflog t k.val =
        if cfgSpwEn s k.val = false then df
        else if high ∧ df < cfgDfmax s k.val then df + 1
        else if max 1 (getF s F.SLU_SLUCTL_RLXN 0) ≤ low then df - 1 else df) ∧
      (dflog t k.val ≠ df → (getF t (F.EVT .slu) 0).testBit E.SLU_SPW_STEP = true ∧ getF t (F.SLU_X3_SPWSTEPS k.val) 0 =
        min (getF s (F.SLU_X3_SPWSTEPS k.val) 0 + 1) (2 ^ (F.SLU_X3_SPWSTEPS k.val).w.val - 1))) ∧
    (mayWrite s i .slu 0 (if hi then 0x068 else 0x064) = true →
      let a := if hi then 512 * getF s F.SLU_SPILLRD_LO_A 0 + 2 ^ 32 * (v.toNat % 256)
        else 512 * (v.toNat / 512) + 2 ^ 32 * getF s F.SLU_SPILLRD_HI_A 0
      (spillBase s ≤ a ∧ a < spillLim s → Completes (exec (.spillrdWrite i hi v) s) fun t =>
        let full := spillFull s = false ∧ spillNext s (spillWr s) = a
        spillRd t = a ∧ (full → (getF t (F.EVT .slu) 0).testBit E.SLU_SPILL_FULL = true) ∧
        SameBut ([(F.SLU_SPILLRD_LO_A, 0), (F.SLU_SPILLRD_HI_A, 0), (F.EVT .slu, 0), (F.EVT_SEQ .slu, 0)]) s t ∧
        (¬ full → SameBut [(F.SLU_SPILLRD_LO_A, 0), (F.SLU_SPILLRD_HI_A, 0)] s t)) ∧
      (¬ (spillBase s ≤ a ∧ a < spillLim s) → Completes (exec (.spillrdWrite i hi v) s) fun t =>
        (getF t (F.EVT .slu) 0).testBit E.SLU_SPILLRD_ERR = true ∧ SameBut [(F.EVT .slu, 0), (F.EVT_SEQ .slu, 0)] s t))

/-! Time measurement. -/

/-- R276, R280, R286 to R290: the calibration opens the arming with its marks, or ends it with CAL_ERR where g is more than 25 % off;
the window's end ends the arming; a record that has waited 1 µs is formed; a gate's end leaves its result in the channel's registers and
counts in TMEASCNT (the roundings that R288 leaves open are free, log entry 70); at the end of its window the pair of a START channel
that waits is unpaired. -/
def Obligations.TimeMeasurement : Prop :=
  ∀ (ch : Fin 512) (m1 m2 : BitVec 16) (p : Fin 64) (tch : Fin 512) (s : State),
    let c := ch.val
    let x := (chanOf s c).tdc
    let d : Int := (m2.toNat : Int) - m1.toNat
    let j := c % 8
    let o := c / 8
    (x.phase = .cal →
      (4 * 16384 ≤ 5 * d ∧ 3 * d ≤ 4 * 16384 → Completes (exec (.tdcCalibrationDone ch m1 m2) s) fun t =>
        (chanOf t c).tdc = { x with
          phase := .armed, m1 := m1.toNat, m2 := m2.toNat, steps := s.clkSteps, holds := s.holds, relock := relocking s
          hold := isSet s F.CLK_COND_HOLDOVER 0 } ∧ SameBut [] s t) ∧
      (¬ (4 * 16384 ≤ 5 * d ∧ 3 * d ≤ 4 * 16384) → Completes (exec (.tdcCalibrationDone ch m1 m2) s) fun t =>
        (chanOf t c).tdc = { x with phase := .off } ∧ (getF t (F.EVT .oct) o).testBit E.OCT_CAL_ERR = true ∧
        SameBut [(F.EVT .oct, o), (F.EVT_SEQ .oct, o)] s t)) ∧
    (x.phase = .armed → x.cls ≠ 2 → x.closeS.isSome = true → Completes (exec (.tdcWindowClose ch) s) fun t =>
      (chanOf t c).tdc.phase = .off ∧ (x.fifo = [] → (chanOf t c).tdc.gather = [])) ∧
    (∀ g gs q, (∀ k < 64, (chanOf s (64 * (c / 64) + k)).tdc.fifo = []) → x.gather = g :: gs → owner s o = some q →
      (acqOf s q).rcd = none →
      Completes (exec (.tdcRecordTimeout ch) s) fun t => (chanOf t c).tdc = { x with gather := [] } ∧
        (strmOf t (4 * q + 2)).rseq = (strmOf s (4 * q + 2)).rseq + (if admits s q 2 g.1 then 1 else 0)) ∧
    (x.phase = .armed → x.cls = 2 → Completes (exec (.freqGateClose ch) s) fun t => (chanOf t c).tdc.phase = .off ∧
      (∃ b, getF t (F.OCT_X7_FREQ_LO_F j) o = freqMilli x b % 2 ^ 32 ∧
        getF t (F.OCT_X7_FREQRES_F j) o = freqMilli x b / 2 ^ 32 % 2 ^ (F.OCT_X7_FREQRES_F j).w.val ∧
        getF t (F.OCT_X7_FREQRES_RESID j) o = residOf x b % 2 ^ (F.OCT_X7_FREQRES_RESID j).w.val) ∧
      getF t (F.OCT_X7_FREQRES_FEW j) o = b2n (decide (x.n < 3)) ∧ getF t (F.OCT_X7_FREQRES_CAPPED j) o = b2n x.capped ∧
      getF t (F.OCT_X7_FREQRES_CLKSTEP j) o = b2n (x.relock || x.steps != s.clkSteps) ∧
      getF t (F.OCT_X7_FREQRES_HOLDOVER j) o = b2n (x.hold || x.holds != s.holds || isSet s F.CLK_COND_HOLDOVER 0) ∧
      getF t (F.OCT_X7_FREQN_NSTAMP j) o = x.n % 2 ^ (F.OCT_X7_FREQN_NSTAMP j).w.val ∧ getF t (F.OCT_X7_FREQN_VALID j) o = 1 ∧
      (x.n < 3 → getF t (F.OCT_X7_FREQRES_RESID j) o = 0) ∧
      ∀ q, owner s o = some q → getF t F.POL_TMEASCNT_N q = min (getF s F.POL_TMEASCNT_N q + 1) 0xFFFFFFFF) ∧
    (∀ a, chanOfT s p.val tch.val = some a →
      let ws := waitsOf s p.val a
      (ws = [] → Completes (exec (.pairWindowExpire p tch) s) fun t => t = cycle s) ∧
      (∀ b w, (b, w) ∈ ws → (∀ y ∈ ws, earlier y.2.stop w.stop = false) →
        Completes (exec (.pairWindowExpire p tch) s) fun t => w ∉ (chanOf t b).tdc.pairs) ∧
      (∀ b w, ws = [(b, w)] → Completes (exec (.pairWindowExpire p tch) s) fun t =>
        let y := (chanOf s b).tdc
        (chanOf t b).tdc = { y with pairs := y.pairs.filter (· != w), pairDone := y.donePair w } ∧
        (∀ k, k ≠ b → chanOf t k = chanOf s k) ∧
        getF t F.POL_UNPAIREDCNT_N p.val = min (getF s F.POL_UNPAIREDCNT_N p.val + 1) 0xFFFFFFFF ∧
        (getF t (F.EVT .pol) p.val).testBit E.POL_UNPAIRED = true ∧
        SameBut [(F.POL_UNPAIREDCNT_N, p.val), (F.EVT .pol, p.val), (F.EVT_SEQ .pol, p.val)] s t))

/-! The router. -/

/-- R296, R307, R309 to R312, R317, R318, R403: an event that arrives in time reaches the prompt destinations at once and waits for the
ordered ones (a Levee transition waits for both); one beyond the hold counts in LATECNT. The earliest held event or page event is
released, a selected one into the host ring, with LOSS after a drop; a muted transition is counted and frozen. -/
def Obligations.RouterDelivery : Prop :=
  ∀ (k : Nat) (e : Ev) (h : Held) (s : State),
    let src := e.src.toNat
    (s.rtr.flight[k]? = some e →
      let late := earlier (tickOf (e.stamp + holdH + 1023)) (now (reach s e.stamp))
      (late = false → Completes (exec (.routerEventArrival k) s) fun t => t.rtr.flight = s.rtr.flight.eraseIdx k ∧
        .ev e ∈ t.rtr.held ∧ (∀ x, orderedOf t x = orderedOf s x) ∧
        (isMon src = true → ∀ x, promptOf t x = promptOf s x) ∧
        (isMon src = false → ∀ x, promptOf t x = if x = src ∧ e.pulse = false then e.pol else promptOf s x)) ∧
      (late = true → Completes (exec (.routerEventArrival k) s) fun t =>
        getF t F.EVR_LATECNT_N 0 = min (getF s F.EVR_LATECNT_N 0 + 1) 0xFFFFFFFF ∧
        (getF t (F.EVT .evr) 0).testBit E.EVR_LATE = true)) ∧
    (nextHeld s.rtr.held = some h → closeOwed s (heldT h) = false →
      let wr := getF s F.EVR_HSWR_IDX 0
      let full := (wr + 1) % 4096 = getF s F.EVR_HSRD_IDX 0
      let ring (t : State) (w0 : Stamp) (w1 : Nat) : Prop := getF t F.EVR_HSWR_IDX 0 = (wr + 1) % 4096 ∧ t.rtr.lossNext = false ∧
        getWide t .evr 0 2 wr = BitVec.ofNat 192 (w0.toNat + 2 ^ 64 * (w1 + 2 ^ 23 * b2n s.rtr.lossNext))
      let dropped (t : State) : Prop := getF t F.EVR_HSDROP_N 0 = min (getF s F.EVR_HSDROP_N 0 + 1) 0xFFFFFFFF ∧
        getF t F.EVR_HSWR_IDX 0 = wr ∧ t.rtr.lossNext = true
      (∀ t1 i b q, h = .page t1 i b q → isSet s F.EVR_HSCTL_EN 0 = true → Completes (exec .eventDelivery s) fun t =>
        (¬ full → t.rtr.held = s.rtr.held.erase h ∧ ring t t1 (pageWord i b q)) ∧ (full → dropped t)) ∧
      (h = .ev e → isMon src = false → e.pulse = false → Completes (exec .eventDelivery s) fun t =>
        (∀ x, orderedOf t x = if x = src then e.pol else orderedOf s x) ∧
        (orderedOf s src ≠ e.pol → hostSelected s src = true → isSet s F.EVR_HSCTL_EN 0 = true →
          (¬ full → ring t e.stamp (evWord e false)) ∧ (full → dropped t))) ∧
      (∀ p, h = .ev e → isMon src = true → e.muted = false → mutedBy s src e.stamp = some p →
        Completes (exec .eventDelivery s) fun t =>
          getF t F.POL_MUTECNT_N p = min (getF s F.POL_MUTECNT_N p + 1) (2 ^ F.POL_MUTECNT_N.w.val - 1) ∧
          Store.get (polOf t p).frozen none src = some e.pol ∧
          (∀ x, promptOf t x = promptOf s x ∧ orderedOf t x = orderedOf s x)))

/-- R302, R307, R313, R320: a crossing changes the state of its monitor, and one that is subscribed and not isolated sets out; a source
that becomes subscribed sends its live state; a Mute window that closes sends the transitions that its frozen monitors owe, but for one
whose own transition is stamped there; a host event sets out with the present tick as its stamp. -/
def Obligations.RouterSources : Prop :=
  ∀ (ch : Fin 512) (d : Fin 32) (high assert : Bool) (t0 : Stamp) (src : BitVec 12) (p : Fin 64) (k : Fin 4) (i : Initiator)
    (kk : BitVec 8) (code : BitVec 4) (s : State),
    let c := ch.val
    let sends (e : Ev) (t : State) : Prop := subscribed s e.src.toNat = true → lastOf s e.src.toNat = none →
      fwdOf s e.src.toNat ≠ e.pol → (∀ die, srcDie e.src.toNat = some die → isoDie s die = false ∧ dieQueueLen s die < 1024) →
      t.rtr.flight = s.rtr.flight ++ [e] ∧ fwdOf t e.src.toNat = e.pol
    ((if high then (chanOf s c).levH else (chanOf s c).levL) ≠ assert → (assert = true → 2 ≤ pstate s c ∧
        isSet s (if high then F.OCT_X8_LVCFG_ENH (c % 8) else F.OCT_X8_LVCFG_ENL (c % 8)) (c / 8) = true) →
      Completes (exec (.leveeCrossing ch high assert t0) s) fun t =>
        chanOf t c = (if high then { chanOf s c with levH := assert } else { chanOf s c with levL := assert }) ∧
        sends { src := BitVec.ofNat 12 ((if high then 0x200 else 0x201) + 2 * c), pol := assert, stamp := tickOf t0 } t) ∧
    ((dsOf s d.val).lev ≠ assert → (assert = true → isSet s (F.DSC_QSTAT_ON (d.val % 8)) (d.val / 8) = true ∧
        isSet s (F.DSC_QSTAT_OWNED (d.val % 8)) (d.val / 8) = true ∧ isSet s (F.DSC_LVDS_EN (d.val % 8)) (d.val / 8) = true) →
      Completes (exec (.dsLeveeCrossing d assert t0) s) fun t => dsOf t d.val = { dsOf s d.val with lev := assert } ∧
        sends { src := BitVec.ofNat 12 (0x600 + d.val), pol := assert, stamp := tickOf t0 } t) ∧
    (∀ die, srcDie src.toNat = some die → isoDie s die = false → subscribed s src.toNat = true →
      liveOf s src.toNat ≠ fwdOf s src.toNat → Completes (exec (.subscriptionChange src t0) s) fun t =>
        let e : Ev := { src := src, pol := liveOf s src.toNat, stamp := t0 }
        sends e t ∧ (lastOf s src.toNat = none → 1024 ≤ dieQueueLen s die → t.rtr.flight = s.rtr.flight ∧
          getF t F.EVR_EVDROP_N 0 = min (getF s F.EVR_EVDROP_N 0 + 1) 0xFFFFFFFF)) ∧
    (∀ cl, firstClose s p.val k.val = some cl →
      (∀ e, .ev e ∈ s.rtr.held ∨ e ∈ s.rtr.flight → isMon e.src.toNat = true → earlier e.stamp cl = false) →
      (∀ e ∈ (polOf s p.val).frozen, e.1 < 2 ^ 12) →
      let x := polOf s p.val
      let mute := x.mute.filter (fun e => !(e.1 == k.val && e.2.closeS == cl))
      Completes (exec (.muteWindowClose p k) s) fun t => (polOf t p.val).mute = mute ∧ t.regs = s.regs ∧
        ∀ n v, (n, some v) ∈ x.frozen → stillMuted (setPol s p.val { x with mute := mute }) p.val n cl = false →
          Store.get (polOf t p.val).frozen none n = none ∧
          (promptOf s n ≠ v → s.rtr.held.any (ownAt n cl) = false →
            .ev { src := BitVec.ofNat 12 n, pol := v, stamp := cl, muted := true } ∈ t.rtr.held)) ∧
    (mayWrite s i .evr 0 0x060 = true → getF s F.EVR_HOSTEVT_GO 0 = 0 →
      let ev (pol pulse : Bool) : Ev :=
        { src := BitVec.ofNat 12 (0xF00 + kk.toNat), pol := pol, pulse := pulse, stamp := now s, code := code }
      ∀ y ∈ [(Instr.hostEventPulse i kk code, ev true true), (.hostEventAssert i kk code, ev true false),
             (.hostEventDeassert i kk code, ev false false)],
        Completes (exec y.1 s) fun t => t.rtr.flight = s.rtr.flight ++ [y.2] ∧
          SameBut [(F.EVR_HOSTEVT_K, 0), (F.EVR_HOSTEVT_ACT, 0), (F.EVR_HOSTEVT_CODE, 0)] s t)

/-! Clocks. -/

/-- R327, R329, R332 to R335, R343: what the count windows, the crystal and BCLK do to the lock, the reference and holdover, and what
RELOCK and a write of REFSEL order. A long window beyond 8 and a short one beyond 16 lose lock, four long ones within 2 end an
acquisition. MSTATE is 0 off, 1 acquiring, 2 locked, 3 holdover; REFACT is 1 on BCLK, and 0 in holdover, where the crystal is the
reference of the phase detector; a locked MPLL leaves its reference through holdover, with the ratio to reach waiting as a small
step. What is measured of BCLK and of a phase without frames is a free value (the model's, log entry 78). -/
def Obligations.ClockLock : Prop :=
  ∀ (i : Initiator) (d : BitVec 16) (ws : LockWindows) (v : BitVec 2) (bofs pherr : Int) (s : State),
    let m := mstate s
    let lock : Bool := locked s
    let valid : Bool := isSet s F.CLK_STATE_BCLK_VALID 0
    let xoBad : Bool := isSet s F.CLK_COND_XO_FAIL 0
    let wants (v : Nat) : Bool := v == 1 || (v == 2 && valid)
    let acquires (bclk : Bool) (t : State) : Prop := getF t F.CLK_COND_LOCKED 0 = 0 ∧ mstate t = 1 ∧
      getF t F.CLK_COND_HOLDOVER 0 = 0 ∧ onBclk t = bclk ∧ getF t F.CLK_PHREM_N 0 = 0 ∧ getF t F.CLK_STATE_SLEWING 0 = 0 ∧
      t.clk.fb = some (if bclk then bclkRatio else xoRatio s)
    let loses (t : State) : Prop := getF t F.CLK_COND_LOCKED 0 = 0 ∧ mstate t = 1 ∧ causeNow t 185 = true ∧
      getF t F.CLK_UNLOCKCNT_N 0 = min (getF s F.CLK_UNLOCKCNT_N 0 + 1) 0xFFFFFFFF ∧
      (getF t (F.EVT .clk) 0).testBit E.CLK_UNLOCK = true
    let same (t : State) : Prop := mstate t = m ∧ onBclk t = onBclk s ∧ locked t = lock
    let coasts (t : State) : Prop := mstate t = 3 ∧ onBclk t = false ∧ getF t F.CLK_COND_HOLDOVER 0 = 1 ∧ locked t = lock ∧
      (onBclk s = false → t.clk.fb = s.clk.fb) ∧
      (onBclk s = true → t.clk.fb = some (holdRatio t) ∧ t.clk.beta.natAbs ≤ 49478023)
    let l := [ws.d0, ws.d1, ws.d2, ws.d3].map BitVec.toNat
    (xoBad = false → Completes (exec .xoFail s) fun t =>
      getF t F.CLK_COND_XO_FAIL 0 = 1 ∧ getF t F.CLK_STATE_XO_RC 0 = 1 ∧ causeNow t 184 = true ∧ t.clk.apll = false ∧
      (getF t (F.EVT .clk) 0).testBit E.CLK_XO_FAIL = true ∧
      (if lock = true ∧ (onBclk s = false ∨ m = 3) then loses t else same t)) ∧
    (m ≠ 0 → Completes (exec (.mpllUnlock (.long d)) s) (fun t => getF t F.CLK_LKDIFF_D 0 = d.toNat ∧
      (8 < d.toNat → lock = true → loses t) ∧ (d.toNat ≤ 8 → SameBut [(F.CLK_LKDIFF_D, 0)] s t)) ∧
      Completes (exec (.mpllUnlock (.short d)) s) (fun t => getF t F.CLK_LKDIFF_D 0 = getF s F.CLK_LKDIFF_D 0 ∧
      (16 < d.toNat → lock = true → loses t) ∧ (d.toNat ≤ 16 → SameBut [] s t))) ∧
    (m ≠ 0 → Completes (exec (.mpllLock ws) s) fun t => getF t F.CLK_LKDIFF_D 0 = ws.d3.toNat ∧
      let dead : Bool := !onBclk s && xoBad
      let counted : List (Fld × Nat) := [(F.CLK_LKDIFF_D, 0), (F.CLK_LOCKCNT_N, 0), (F.EVT .clk, 0), (F.EVT_SEQ .clk, 0)]
      let locks : Prop := getF t F.CLK_LOCKCNT_N 0 = min (getF s F.CLK_LOCKCNT_N 0 + 1) 0xFFFFFFFF ∧
        (getF t (F.EVT .clk) 0).testBit E.CLK_LOCK = true
      ((∃ x ∈ l, 8 < x) → lock = true → m ≠ 1 → loses t) ∧
      ((∀ x ∈ l, x ≤ 8) → (∃ x ∈ l, 2 < x) ∨ m = 3 ∨ dead = true → SameBut [(F.CLK_LKDIFF_D, 0)] s t) ∧
      ((∀ x ∈ l, x ≤ 2) → m = 2 → dead = false → locks ∧ SameBut counted s t) ∧
      ((∀ x ∈ l, x ≤ 2) → m = 1 → dead = false → locks ∧ locked t = true ∧ t.clk.first = true ∧
        getF t F.CLK_REFCFG_RELOCK 0 = 0 ∧ (fltOf t 185).hw = false ∧
        mstate t = if getF s F.CLK_REFCFG_REFSEL 0 = 1 ∧ onBclk s = false then 3 else 2)) ∧
    (mayWrite s i .clk 0 0x040 = true → getF s F.CLK_REFCFG_RELOCK 0 = 0 → Completes (exec (.relock i) s) fun t =>
      (m = 0 → SameBut [] s t) ∧
      (m ≠ 0 → acquires (wants (getF s F.CLK_REFCFG_REFSEL 0) && valid) t ∧ getF t F.CLK_REFCFG_RELOCK 0 = 1)) ∧
    (mayWrite s i .clk 0 0x040 = true → Completes (exec (.refselWrite i v) s) fun t =>
      let w := wants v.toNat
      let goal := if w && valid then some bclkRatio else if w then none else some (xoRatio s)
      getF t F.CLK_REFCFG_REFSEL 0 = v.toNat ∧
      (v.toNat = getF s F.CLK_REFCFG_REFSEL 0 ∨ m = 0 → SameBut [(F.CLK_REFCFG_REFSEL, 0)] s t) ∧
      (v.toNat ≠ getF s F.CLK_REFCFG_REFSEL 0 →
        (m = 1 → acquires (w && valid) t) ∧
        (m = 2 → w = onBclk s → same t) ∧
        (m = 2 → w ≠ onBclk s → (xoBad = false → coasts t ∧ t.clk.want = goal) ∧ (xoBad = true → lock = true → loses t)) ∧
        (m = 3 → same t ∧ t.clk.want = goal))) ∧
    (isSet s F.CLK_COND_BCLK_PRESENT 0 = true → Completes (exec .bclkLoss s) fun t =>
      getF t F.CLK_COND_BCLK_PRESENT 0 = 0 ∧ getF t F.CLK_STATE_BCLK_VALID 0 = 0 ∧ liveOf t 0x706 = true ∧ t.clk.lost = true ∧
      (getF t (F.EVT .clk) 0).testBit E.CLK_REFLOST = true ∧
      (onBclk s = false ∨ (m ≠ 1 ∧ m ≠ 2) → same t) ∧ (onBclk s = true → m = 1 → acquires false t) ∧
      (onBclk s = true → m = 2 → (xoBad = true → lock = true → loses t) ∧
        (xoBad = false → coasts t ∧
          t.clk.want = if getF s F.CLK_REFCFG_REFSEL 0 = 1 then none else some (xoRatio s)))) ∧
    Completes (exec (.bclkQualified bofs pherr) s) (fun t => getF t F.CLK_COND_BCLK_PRESENT 0 = 1 ∧ liveOf t 0x706 = false ∧
      getF t F.CLK_LKDIFF_BOFS 0 = unsign bofs 16 ∧ t.clk.lost = false ∧
      (900 < bofs.natAbs → getF t F.CLK_STATE_BCLK_VALID 0 = 0 ∧ (getF t (F.EVT .clk) 0).testBit E.CLK_REF_BAD = true ∧
        (onBclk s = false → same t)) ∧
      (bofs.natAbs ≤ 900 → getF t F.CLK_STATE_BCLK_VALID 0 = 1 ∧ (getF t (F.EVT .clk) 0).testBit E.CLK_REFBACK = true ∧
        (getF s F.CLK_REFCFG_REFSEL 0 ∉ [1, 2] ∨ m = 0 → same t) ∧
        (getF s F.CLK_REFCFG_REFSEL 0 ∈ [1, 2] →
          (m = 1 → onBclk s = false → acquires true t) ∧
          (2 ≤ m → onBclk s = false ∨ m ≠ 2 → mstate t = 2 ∧ onBclk t = true ∧ getF t F.CLK_COND_HOLDOVER 0 = 0 ∧
            getF t F.CLK_PHERR_E 0 = unsign (if framed s then pherr else wrapPhase pherr) 32 ∧ t.clk.want = some bclkRatio))))

/-- R326, R329, R331, R335, R337 to R341: a small step applies the ratio that waits, 10 µs after the last one or later, and ends a
holdover whose reference may be used; one step of a slew and of PHSTEP; dividers and delays of the outputs; the end of a BSYNC reset;
the Bourdon count wraps at a multiple of 2^54 and a read of BDN_LO captures it. That the modulator starts anew at the end of the
reset is the model's choice (log entry 78). -/
def Obligations.ClockSteps : Prop :=
  ∀ (i : Initiator) (n16 : BitVec 16) (k : Fin 12) (n : BitVec 12) (p q : BitVec 10) (v pherr : Int) (s : State),
    let rem := signed (getF s F.CLK_PHREM_N 0) 16
    let x := s.clk
    let at' (l : Store (Nat × Nat × Nat)) : Nat × Nat × Nat := Store.get l (0, 0, 0) k.val
    (∀ r, x.want = some r → Completes (exec .smallStep s) fun t =>
      t.clk.fb = some r ∧ t.clk.want = none ∧ t.clk.stepT = some (now t) ∧ t.clkSteps = s.clkSteps + 1 ∧
      (mstate s ≠ 3 ∨ wantsBclk s = true ∧ takesBclk s = false → t.regs = s.regs ∧
        t.clk = { x with fb := some r, want := none, stepT := some (now t) }) ∧
      (mstate s = 3 → wantsBclk s = false ∨ takesBclk s = true → mstate t = 2 ∧ onBclk t = takesBclk s ∧
        getF t F.CLK_COND_HOLDOVER 0 = 0) ∧
      ∀ t0, x.stepT = some t0 → earlier (now t) (tickOf (t0 + ticks 16000)) = false) ∧
    (x.slew ≠ 0 ∨ rem ≠ 0 → Completes (exec .phaseSlewStep s) fun t =>
      getF t F.CLK_PHREM_N 0 = unsign (towards rem) 16 ∧ t.clk.slew = towards x.slew ∧ t.clkSteps = s.clkSteps + 1 ∧
      (x.slew ≠ 0 → towards x.slew = 0 →
        getF t F.CLK_STATE_SLEWING 0 = 0 ∧ (getF t (F.EVT .clk) 0).testBit E.CLK_SLEW_DONE = true)) ∧
    (mayWrite s i .clk 0 0x058 = true → getF s F.CLK_PHSTEP_GO 0 = 0 → Completes (exec (.phstep i n16) s) fun t =>
      getF t F.CLK_PHREM_N 0 = unsign (rem + signed n16.toNat 16) 16 ∧ getF t F.CLK_PHSTEP_N 0 = n16.toNat ∧
      SameBut [(F.CLK_PHREM_N, 0), (F.CLK_PHSTEP_N, 0)] s t) ∧
    (mayWrite s i .clk 0 (0x070 + 8 * k.val) = true →
      let refused := divRefused k.val n.toNat p.toNat q.toNat
      (k.val ≠ 4 → k.val ≠ 9 → Completes (exec (.outdivWrite i k n p q) s) (SameBut [] s)) ∧
      (k.val ∈ [4, 9] → refused = true → Completes (exec (.outdivWrite i k n p q) s) fun t =>
        (getF t (F.EVT .clk) 0).testBit E.CLK_DIV_REJECT = true ∧ t.clk = x ∧
        SameBut [(F.EVT .clk, 0), (F.EVT_SEQ .clk, 0)] s t) ∧
      (k.val ∈ [4, 9] → refused = false → Completes (exec (.outdivWrite i k n p q) s) fun t =>
        getF t (F.CLK_OUTDIV_N k) 0 = n.toNat ∧ getF t (F.CLK_OUTDIV_P k) 0 = p.toNat ∧ getF t (F.CLK_OUTDIV_Q k) 0 = q.toNat ∧
        (if dividing s k then at' t.clk.divWait = (n.toNat, p.toNat, q.toNat) ∧ at' t.clk.divNow = at' x.divNow
          else at' t.clk.divNow = (n.toNat, p.toNat, q.toNat) ∧ getF t (F.CLK_OUTCTL_ONHOLD k) 0 = getF s (F.CLK_OUTCTL_EN k) 0))) ∧
    (dividing s k = true → Completes (exec (.outdivChangeDone k) s) fun t =>
      effDiv t k.val = at' x.divNow ∧
      (at' x.divWait = (0, 0, 0) → getF t (F.CLK_OUTCTL_ONHOLD k) 0 = if drives s then 0 else getF s (F.CLK_OUTCTL_EN k) 0) ∧
      at' t.clk.divNow = at' x.divWait ∧ at' t.clk.divWait = (0, 0, 0)) ∧
    Completes (exec (.outputDelayStep k) s) (fun t =>
      let d := getF s (F.CLK_OUTCTL_DLY k) 0
      let y := Store.get x.dly 0 k.val
      Store.get t.clk.dly 0 k.val = (if y < d then y + 1 else if d < y then y - 1 else y) ∧ t.regs = s.regs) ∧
    (∀ t0, x.reset = some t0 → pherr.natAbs ≤ 1 → Completes (exec (.realigned pherr) s) fun t => t.clk.reset = none ∧
      t.bdn = (reach s (t0 + ticks 1600)).bdn ∧ getF t F.CLK_PHERR_E 0 = unsign pherr 32 ∧ getF t F.CLK_STATE_REALIGN_WAIT 0 = 0 ∧
      getF t F.BGL_SYNCCTL_REALIGN 0 = 0 ∧ (getF t (F.EVT .clk) 0).testBit E.CLK_REALIGNED = true) ∧
    (nvmReady s = true → ageFits s v = true → 10 ≤ (v - signed (getF s F.CLK_XO_AGE_F 0) 20).natAbs →
      Completes (exec (.xoAgeUpdate v) s) fun t =>
      getF t F.CLK_XO_AGE_F 0 = unsign (max (-524288) (min 524287 v)) 20 ∧ SameBut [(F.CLK_XO_AGE_F, 0)] s t) ∧
    Completes (exec .epochWrap s) (fun t =>
      t = { s with bdn := BitVec.ofNat 64 (2 ^ 54 * (s.bdn.toNat / 2 ^ 54 + 1)), cyc := t.cyc }) ∧
    (servedPage s .evr 0 0x040 = .yes → Completes (exec (.bdnLoRead i) s) fun t =>
      t.ret = some (BitVec.ofNat 32 s.bdn.toNat) ∧ getF t F.EVR_BDN_LO_T 0 = s.bdn.toNat % 2 ^ 32 ∧
      getF t F.EVR_BDN_HI_T 0 = s.bdn.toNat / 2 ^ 32 ∧ SameBut [(F.EVR_BDN_LO_T, 0), (F.EVR_BDN_HI_T, 0)] s t)

/-! The Bugle bus. -/

/-- R335, R342, R346, R348 to R354, R358: while BCLK is present a good frame counts, gives its loop delay, its version and its Bourdon
count, ends a loss of sync and measures a phase error that waits; a bad one counts in FRAMEERR; where BCLK is lost a frame is dropped.
An echo in its band counts towards ECHO_VALID, one outside or missing in ECHOBAD; RTT shows every one in the window. A timeout loses
sync. R340, R355, R356, R360, R362: REALIGN waits for a reset; a transition of BTRIG_IN is router source 0x700 + k with the stamp that
the delays give; the first change held on a timed line is launched; XCAL starts only in sync, its result is a candidate offset or a
failure; the candidate is taken when no polder runs. Where B is not valid the phase error is taken from the nearest tick (the
model's reading, log entry 78). -/
def Obligations.BugleBus : Prop :=
  (∀ (bs : BitVec 160) (tm : Stamp) (resid : BitVec 4) (pherr : Bool) (te : Option Stamp) (s : State),
    let v := bs.toNat
    let v2 := decide (frameVer s v = 2) && crcbOk v
    let echo : Bool := isSet s F.BGL_BGLCFG_ECHO_EN 0
    (s.clk.lost = true → Completes (exec (.epochFrame bs tm resid pherr) s) fun t => t = reach (cycle s) tm) ∧
    (s.clk.lost = false → frameOk v = false → Completes (exec (.epochFrame bs tm resid pherr) s) fun t =>
      getF t F.BGL_FRAMEERR_N 0 = min (getF s F.BGL_FRAMEERR_N 0 + 1) 0xFFFFFFFF ∧
      (getF t (F.EVT .bgl) 0).testBit E.BGL_FRAME_ERR = true ∧
      t.bgl.echoT = (if echo then some (tm + BitVec.ofNat 64 (getF s F.BGL_ETURN_T 0)) else s.bgl.echoT) ∧
      SameBut [(F.BGL_FRAMEERR_N, 0), (F.EVT .bgl, 0), (F.EVT_SEQ .bgl, 0)] s t) ∧
    (s.clk.lost = false → frameOk v = true → Completes (exec (.epochFrame bs tm resid pherr) s) fun t =>
      getF t F.BGL_FRAMECNT_N 0 = min (getF s F.BGL_FRAMECNT_N 0 + 1) 0xFFFFFFFF ∧
      getF t F.BGL_HLOOP_D 0 = frameF v 104 16 ∧ getF t F.BGL_STATE_VER 0 = (if v2 then 2 else 1) ∧
      get64 t F.BGL_LASTB_LO_B F.BGL_LASTB_HI_B 0 = BitVec.ofNat 64 (frameF v 40 64) ∧
      getF t F.BGL_STATE_SYNC 0 = 1 ∧ getF t F.BGL_COND_SYNC_LOST 0 = 0 ∧
      (v2 = true → getF t F.BGL_HUBDLY_D 0 = frameF v 136 16) ∧
      (getF s F.BGL_COND_SYNC_LOST 0 = 1 → (getF t (F.EVT .bgl) 0).testBit E.BGL_SYNC_BACK = true) ∧
      t.bgl.marker = (if echo then some tm else none) ∧
      (isSet s F.BGL_STATE_ECHO_VALID 0 = true → s.clk.meas = true → onBclk s = true → mstate s = 2 → frameF v 39 1 = 0 →
        getF t F.CLK_PHERR_E 0 = unsign (phaseError (alignedEdge s tm) 0 pherr) 32)) ∧
    (∀ t0, s.bgl.marker = some t0 →
      let good (t1 : Stamp) : Bool := within (t0 + ticks 160) (t0 + ticks 256) t1 && nearMean s.bgl.rtts (rttOf s t0 t1)
      (∀ t1, te = some t1 → good t1 = true → Completes (exec (.echoReceive te) s) fun t => t.bgl.marker = none ∧
        getF t F.BGL_RTT_T 0 = unsign (rttOf s t0 t1) 18 ∧ t.bgl.good = s.bgl.good + 1 ∧ t.bgl.bad = 0 ∧
        t.bgl.rtts = (rttOf s t0 t1 :: s.bgl.rtts).take 16 ∧
        (16 ≤ s.bgl.good + 1 → getF t F.BGL_STATE_ECHO_VALID 0 = 1)) ∧
      (∀ t1, te = some t1 → within (t0 + ticks 160) (t0 + ticks 256) t1 = true → Completes (exec (.echoReceive te) s) fun t =>
        getF t F.BGL_RTT_T 0 = unsign (rttOf s t0 t1) 18) ∧
      ((∀ t1, te = some t1 → good t1 = false) → Completes (exec (.echoReceive te) s) fun t => t.bgl.marker = none ∧
        getF t F.BGL_ECHOBAD_N 0 = min (getF s F.BGL_ECHOBAD_N 0 + 1) 0xFFFFFFFF ∧ t.bgl.bad = s.bgl.bad + 1 ∧
        getF t F.BGL_STATE_ECHO_VALID 0 = (if s.bgl.bad + 1 < 4 then getF s F.BGL_STATE_ECHO_VALID 0 else 0))) ∧
    (getF s F.BGL_COND_SYNC_LOST 0 = 0 → Completes (exec .syncLost s) fun t =>
      getF t F.BGL_COND_SYNC_LOST 0 = 1 ∧ getF t F.BGL_STATE_SYNC 0 = 0 ∧ liveOf t 0x705 = true ∧
      getF t F.BGL_STATE_XCAL_BUSY 0 = 0 ∧ (getF t (F.EVT .bgl) 0).testBit E.BGL_SYNC_LOST = true)) ∧
  ∀ (i : Initiator) (k : Fin 4) (level : Bool) (rx : Stamp) (s : State),
    let src := 0x700 + k.val
    (mayWrite s i .bgl 0 0x044 = true → getF s F.BGL_SYNCCTL_REALIGN 0 = 0 → Completes (exec (.realign i) s) fun t =>
      getF t F.BGL_SYNCCTL_REALIGN 0 = 1 ∧ SameBut [(F.BGL_SYNCCTL_REALIGN, 0)] s t) ∧
    (liveOf s src ≠ level → fwdOf s src ≠ level → lastOf s src = none → Completes (exec (.btrigInTransition k level rx) s) fun t =>
      liveOf t src = level ∧ fwdOf t src = level ∧ t.regs = s.regs ∧
      t.rtr.flight = s.rtr.flight ++ [{ src := BitVec.ofNat 12 src, pol := level, stamp := btrigStamp s k.val rx }]) ∧
    (∀ h, s.bgl.held.find? (·.line == k.val) = some h → Completes (exec (.timedLaunch k) s) fun t =>
      lineOf t k.val = h.level ∧ t.bgl.held = s.bgl.held.erase h ∧ t.regs = s.regs) ∧
    (mayWrite s i .bgl 0 0x060 = true → getF s F.BGL_XCALCTL_GO 0 = 0 →
      let ready := isSet s F.BGL_STATE_SYNC 0 && isSet s F.BGL_STATE_ECHO_VALID 0 && locked s
      Completes (exec (.xcal i) s) fun t =>
        (ready = true → getF t F.BGL_STATE_XCAL_BUSY 0 = 1 ∧ getF t F.BGL_XCALCTL_GO 0 = 1 ∧ t.bgl.xn = 0) ∧
        (ready = false → (getF t (F.EVT .bgl) 0).testBit E.BGL_XCAL_FAIL = true ∧ getF t F.BGL_STATE_XCAL_BUSY 0 = 0 ∧
          getF t F.BGL_XCALCTL_GO 0 = 0)) ∧
    (isSet s F.BGL_STATE_XCAL_BUSY 0 = true → max 1 (getF s F.BGL_XCALCTL_XCALN 0) ≤ s.bgl.xn →
      let mean := roundDiv s.bgl.xsum (16 * s.bgl.xn)
      Completes (exec .xcalDone s) fun t => getF t F.BGL_XRES_MEAN 0 = unsign mean 16 ∧
        getF t F.BGL_STATE_XCAL_BUSY 0 = 0 ∧ getF t F.BGL_XCALCTL_GO 0 = 0 ∧
        (16384 * s.bgl.xn < s.bgl.xsq → (getF t (F.EVT .bgl) 0).testBit E.BGL_XCAL_FAIL = true ∧
          getF t F.BGL_MOFS_MOFSC 0 = getF s F.BGL_MOFS_MOFSC 0) ∧
        (s.bgl.xsq ≤ 16384 * s.bgl.xn → (getF t (F.EVT .bgl) 0).testBit E.BGL_XCAL_DONE = true ∧
          getF t F.BGL_MOFS_MOFSC 0 = unsign (-mean + signed (getF s F.BGL_XTRIM_T 0) 16) 16 ∧
          getF t F.BGL_STATE_MOFS_PEND 0 = 1)) ∧
    (isSet s F.BGL_STATE_MOFS_PEND 0 = true → anyRunning s = false → Completes (exec .mofsApply s) fun t =>
      getF t F.BGL_MOFS 0 = getF s F.BGL_MOFS_MOFSC 0 ∧ getF t F.BGL_STATE_MOFS_PEND 0 = 0)

/-! The host link. -/

/-- R365 to R369, R374, R379, R386, R387, R391: a port that may train enters DETECT; 64 valid headers lock a lane; a lane's lock, the
end of a state's time, the alignment and the activation move its training state (0 DOWN, 1 DETECT, 2 RATE, 3 LOCK, 4 ALIGN, 5 TRAIN, 6
ACTIVE, 7 RETRAIN), with the rate, the lanes, the width, the version and the session that the blocks of the far end give, and a host
port grants its credits; a port goes down, and without a host the polders go to Dike. SESSCTL lowers the session. The bits of a TS block
are its fields. VDD_LINK is in range where the last round found it so (the model's, log entry 81). -/
def Obligations.LinkTraining : Prop :=
  (∀ t : TsFields, tsOf (tsWord t) = t ∧ (tsWord t).toNat < 2 ^ 36) ∧
  ∀ (port : Fin 2) (lane : LaneSync) (ts : BitVec 56) (rx : List AlignRx) (i : Initiator) (req : BitVec 2) (s : State),
    let p := port.val
    let l := lstate s p
    let x := portOf s p
    let j := lane.lane
    let n := (lanesOf (commonLanes s p)).length
    let rom := isSet s F.SEC_STATE_ROMREC 0
    let low := isSet s F.PHL_STATE_RATE p
    (isSet s F.DEV_STATE_MAINPWR 0 = true → 2 ≤ getF s F.DEV_STATE_BOOT 0 ∨ rom = true → Completes (exec .phyReady s) fun t =>
      t.pwr.phy = true ∧ lstate t 0 = (if lstate s 0 = 0 ∧ railOk s 0 = true then 1 else lstate s 0) ∧
      lstate t 1 = if lstate s 1 = 0 ∧ railOk s 1 = true ∧ rom = false then 1 else lstate s 1) ∧
    (locksOn lane.hdrs = false → Completes (exec (.laneBlockLock port lane) s) fun t => t = cycle s) ∧
    (locksOn lane.hdrs = true → x.cfgLanes.testBit j = true → Completes (exec (.laneBlockLock port lane) s) fun t =>
      (l = 1 ∧ x.cfgLow = false ∨ l = 2 ∨ l = 3 ∨ l = 7 ∧ (relocks s p).testBit j = true → getF t (F.PHL_LANE_LOCK j) p = 1) ∧
      (l = 1 → x.cfgLow = false → lstate t p = 3 ∧ getF t F.PHL_STATE_RATE p = 0) ∧
      (l = 2 → lstate t p = 3 ∧ getF t F.PHL_STATE_RATE p = 1) ∧ (l = 3 ∨ l = 7 → lstate t p = l) ∧
      SameBut [(F.PHL_LANE_LOCK j, p), (F.PHL_STATE_LSTATE, p), (F.PHL_STATE_RATE, p)] s t) ∧
    Completes (exec (.tsBlock port ts) s) (fun t =>
      (l ∉ [0, 6] → (portOf t p).peer = some (tsOf ts) ∧ SameBut [] s t) ∧
      (l = 6 → if (tsOf ts).rt then lstate t p = 7 ∧ (portOf t p).peer = some (tsOf ts)
        else SameBut [] s t ∧ t.ports = s.ports)) ∧
    (p = 0 ∨ rom = false → Completes (exec (.trainingStateTimeout port) s) fun t => lstate t p = match l with
      | 0 => if s.pwr.phy && railOk s p then 1 else 0
      | 1 => 2
      | 2 => if onTrial x then 3 else 1
      | 3 => if low then (if onTrial x then (if n = 4 then 4 else 3) else if 1 ≤ n then 4 else 1)
             else if 2 ≤ n then 4 else if n = 1 then (if x.tried then 4 else 2) else 1
      | 4 => 1
      | 5 => 1
      | l => l) ∧
    (l = 4 → p = 0 ∨ rom = false → Completes (exec (.alignBlock port rx) s) fun t => lstate t p = if deskews s p rx then 5 else 1) ∧
    (l = 5 → x.peer = some (tsOf ts) → commonLanes s p ≠ 0 → Completes (exec (.linkActive port) s) fun t =>
      let m := lowLanes (commonLanes s p)
      lstate t p = 6 ∧ getF t F.PHL_STATE_WIDTH p = (lanesOf m).length ∧ getF t F.PHL_STATE_LANEMAP p = m ∧
      getF t F.PHL_STATE_VER p = min x.cfgVer (max 1 (tsOf ts).maxver.toNat) % 4 ∧ (portOf t p).txSeq = (tsOf ts).nrxseq ∧
      (hostPort t p = true → (portOf t p).given = { np := 256, ph := 128, pd := 1024, cap := 0, evs := 0 } ∧
        (portOf t p).lctl = [.credit .np 256, .credit .ph 128, .credit .pd 1024]) ∧
      getF t F.PHL_TRAINCNT_N p = min (getF s F.PHL_TRAINCNT_N p + 1) 0xFFFFFFFF ∧
      (getF t (F.EVT .phl) p).testBit E.PHL_UP = true ∧
      getF t F.DEV_STATE_BOOT 0 = (if getF s F.DEV_STATE_BOOT 0 = 2 then 3 else getF s F.DEV_STATE_BOOT 0) ∧
      (sharedSess t = false →
        getF t F.PHL_STATE_EPOCH p = (getF s F.PHL_STATE_EPOCH p + (if x.trained = 0 then 0 else 1)) % 256 ∧
        (hostPort t p = true → getF t F.PHL_STATE_SESS p = 1 ∧ getF t F.PHL_COND_LLPEND 0 = 0))) ∧
    (l = 6 ∨ l = 7 → Completes (exec (.portDown port) s) fun t => lstate t p = 0 ∧
      getF t F.PHL_STATE_WIDTH p = getF s F.PHL_STATE_WIDTH p ∧ getF t F.PHL_STATE_LANEMAP p = getF s F.PHL_STATE_LANEMAP p ∧
      getF t F.PHL_CREDITS_CAP p = 0 ∧ getF t F.PHL_CREDITS_EVS p = 0 ∧
      (portOf t p).replay = [] ∧ (getF t (F.EVT .phl) p).testBit E.PHL_DOWN = true ∧
      (hostPort s p = true → hostPort s (1 - p) = false ∨ lstate s (1 - p) ∉ [6, 7] → getF t F.PHL_COND_LLPEND 0 = 1)) ∧
    (getF s F.PHL_COND_LLPEND 0 = 1 → hostless s = true → Completes (exec .linkLossHold s) fun t =>
      getF t F.PHL_COND_LLPEND 0 = 0 ∧ ∀ q < 64, rsOf t q = if rsOf s q = .off then .off else .dike) ∧
    (servedPage s .phl p 0x044 = .yes → getF s F.PHL_SESSCTL_GO p = 0 → Completes (exec (.sessctlGo i port req) s) fun t =>
      let own := ∃ q, Initiator.port i = some q ∧ sessPort s q = sessPort s p
      let fits := req.toNat ≤ getF s F.PHL_STATE_SESS (sessPort s p)
      (own ∧ fits → getF t F.PHL_SESSCTL_REQ p = req.toNat ∧ ∀ q ∈ sessPages s p, getF t F.PHL_STATE_SESS q = req.toNat) ∧
      (¬ (own ∧ fits) → SameBut [] s t))

/-- R365, R378, R379, R390: a lane fails; the port degrades to the lanes that survive at either end, which it tells the far end, or
retrains when none does; in training the lane loses its lock. A fast retrain is started by RETRAIN, keeps rate, width and version, and
once its lanes are locked again ends ACTIVE with the next epoch and the resume point of the far end, or it ends DOWN. When a retrain
completes, and which lanes may serve after a degrade, is the model's reading (log entries 50 and 83). -/
def Obligations.LinkRetrain : Prop :=
  ∀ (port : Fin 2) (lane : LaneLoss) (lanes : BitVec 4) (r : BitVec 12) (i : Initiator) (s : State),
    let p := port.val
    let l := lstate s p
    let x := portOf s p
    let m := getF s F.PHL_STATE_LANEMAP p
    let j := lane.lane
    let left := x.lanes &&& maskOf (fun k => k != j.val)
    let kept := x.lanes &&& lanes.toNat
    let narrowed (k : Nat) (t : State) : Prop := getF t F.PHL_STATE_LANEMAP p = lowLanes k ∧
      getF t F.PHL_STATE_WIDTH p = (lanesOf (lowLanes k)).length ∧ (portOf t p).surv = 0 ∧
      getF t F.PHL_DEGRADECNT_N p = min (getF s F.PHL_DEGRADECNT_N p + 1) 0xFFFFFFFF ∧
      (getF t (F.EVT .phl) p).testBit E.PHL_DEGRADE = true
    let retrains (t : State) : Prop := lstate t p = 7 ∧ (∀ j < 4, getF t (F.PHL_LANE_LOCK j) p = 0) ∧
      ∀ f ∈ [F.PHL_STATE_RATE, F.PHL_STATE_WIDTH, F.PHL_STATE_VER], getF t f p = getF s f p
    (lossFails lane.why = false → Completes (exec (.laneFail port lane) s) fun t => t = cycle s) ∧
    (lossFails lane.why = true → l = 6 ∨ l = 7 → Completes (exec (.laneFail port lane) s) fun t =>
      getF t (F.PHL_LANE_FAILED j) p = 1 ∧ getF t (F.PHL_LANE_LOCK j) p = 0 ∧ (portOf t p).lanes = left ∧
      (left ≠ 0 → (portOf t p).surv = if m.testBit j = true ∨ x.surv ≠ 0 then left else 0) ∧
      (left ≠ 0 → m.testBit j = true → l = 6 → (portOf t p).lctl = [.degrade left]) ∧ (left = 0 → l = 6 → retrains t)) ∧
    (∀ w, losesLock w = true → l ≠ 6 → l ≠ 7 → Completes (exec (.laneFail port { lane := j, why := .headers w }) s) fun t =>
      getF t (F.PHL_LANE_LOCK j) p = 0 ∧ SameBut [(F.PHL_LANE_LOCK j, p)] s t ∧ t.ports = s.ports) ∧
    (l = 6 → x.surv ≠ 0 → Completes (exec (.degradeDone port) s) (narrowed x.surv)) ∧
    (l = 6 → m &&& lanes.toNat ≠ m → Completes (exec (.degradeCommand port lanes) s) fun t =>
      (∀ j < 4, m.testBit j = true → lanes.toNat.testBit j = false → getF t (F.PHL_LANE_FAILED j) p = 1) ∧
      (portOf t p).lanes = kept ∧ (if kept = 0 then retrains t else narrowed kept t)) ∧
    (l = 6 → Completes (exec (.retrain none port) s) retrains) ∧
    (l = 6 → mayWrite s i .phl p 0x040 = true → getF s F.PHL_PHCFG_RETRAIN p = 0 →
      Completes (exec (.retrain (some i) port) s) fun t => retrains t ∧ getF t F.PHL_PHCFG_RETRAIN p = 1) ∧
    (l = 7 → Completes (exec (.retrainDone port none) s) (fun t =>
        lstate t p = 0 ∧ (getF t (F.EVT .phl) p).testBit E.PHL_DOWN = true) ∧
      (relocked s p = false → Completes (exec (.retrainDone port (some r)) s) fun t => t = cycle s) ∧
      (relocked s p = true → Completes (exec (.retrainDone port (some r)) s) fun t =>
        (x.tries < 4 → lstate t p = 6) ∧ getF t F.PHL_PHCFG_RETRAIN p = 0 ∧ (portOf t p).resume = some r ∧
        (x.surv ≠ 0 → narrowed x.surv t) ∧ getF t F.PHL_RETRAINCNT_N p = min (getF s F.PHL_RETRAINCNT_N p + 1) 0xFFFFFFFF ∧
        (getF t (F.EVT .phl) p).testBit E.PHL_RETRAIN = true ∧
        (sharedSess s = false → getF t F.PHL_STATE_EPOCH p = (getF s F.PHL_STATE_EPOCH p + 1) % 256)))

/-- R371 to R374, R376, R379, R380, R385, R392, R393: a packet with a bad CRC or a SEQ beyond the next is refused, counted and NAKed,
one that was received before is acknowledged again and dropped. The next packet is acknowledged and judged by its own TYPE: a read of
the mailboxes or DRAM is answered with the words, one of registers, and a write of registers, with the effect of each access (which
errors a read of DRAM finds beside the words known to be bad is a free value, log entry 69); a posted write changes its bytes; a request
of another epoch that is not below the resume point is answered STALE_EPOCH. A packet of the chain leaves on the other port with credit,
and waits without it. What SEQ a NAK and a second acknowledgment carry is the model's reading (log entry 83). -/
def Obligations.LinkRequests : Prop :=
  ∀ (port : Fin 2) (k : Packet) (s : State),
    let p := port.val
    let x := portOf s p
    let d := (x.rxSeq - k.seq).toNat
    let a := k.addr.toNat
    let old := k.epoch.toNat ≠ epochOf s p
    let resumed : Prop := (k.epoch.toNat + 1) % 256 = epochOf s p ∧ belowResume x k.seq = true
    let refused (t : State) : Prop := getF t F.PHL_CRCERR_N p = min (getF s F.PHL_CRCERR_N p + 1) 0xFFFFFFFF ∧
      (getF t (F.EVT .phl) p).testBit E.PHL_CRCERR = true ∧
      SameBut [(F.PHL_CRCERR_N, p), (F.EVT .phl, p), (F.EVT_SEQ .phl, p)] s t
    let answers (st : Nat) (data : List Word) (r t : State) : Prop := (portOf t p).replay = (portOf r p).replay ++
      [{ seq := (portOf r p).txSeq, typ := if data.isEmpty then 5 else 6, tag := k.tag, epoch := k.epoch, status := st,
         len := data.length, payload := data }]
    portActive s p = true → ∀ c ∈ [Instr.rd port k, .wr port k, .dmawr port k],
      (intact k = false ∨ 2048 < d → Completes (exec c s) fun t => refused t ∧ (portOf t p).rxSeq = x.rxSeq ∧
        (portOf t p).lctl = [.nak x.rxSeq]) ∧
      (intact k = true → 0 < d → d ≤ 2048 → Completes (exec c s) fun t => t = tell (cycle s) p [.ack (x.rxSeq - 1)]) ∧
      (intact k = true → d = 0 → k.hop = 0 → ¬ (p = 1 ∧ passThrough s = true) →
        (k.ptype = 1 → k.retry = false → (old → resumed) → a % 4 = 0 → k.len ≠ 0 →
          (regionOf a k.len = some .mailbox → dmaLen s p k.len = true → Completes (exec c s) fun t =>
            (portOf t p).rxSeq = x.rxSeq + 1 ∧ (portOf t p).lctl = [.ack k.seq, .credit .np 1] ∧
            answers 0 (memWords s.mbox a k.len) s t ∧ SameBut [] s t) ∧
          (regionOf a k.len = some .dram → dmaLen s p k.len = true → dramUp s = true → Completes (exec c s) fun t =>
            let found := (Config.loadErrs s.free).2.filter (fun e =>
              !e.cache && decide (a ≤ e.addr.toNat) && decide (e.addr.toNat < a + 4 * k.len))
            let bad := readUe s a (a + 4 * k.len) found
            (bad = [] → answers 0 (memWords s.dram a k.len) s t ∧ getF t F.MEM_ECCUE_N 0 = getF s F.MEM_ECCUE_N 0) ∧
            (bad ≠ [] → answers 4 (List.replicate k.len 0) s t ∧ (getF t (F.EVT .mem) 0).testBit E.MEM_ECC_UE = true ∧
              getF t F.MEM_ECCUE_N 0 = min (getF s F.MEM_ECCUE_N 0 + bad.length) 0xFFFFFFFF)) ∧
          (regionOf a k.len = none → Completes (exec c s) fun t => answers 1 [] s t ∧ SameBut [] s t) ∧
          (regionOf a k.len = some .fabric → k.len ≤ 16 → pagesThere s a k.len = true →
            let r := regReads k.len (takePkt (cycle s) p k) (portIni p) a
            Completes (exec c s) fun t => answers 0 r.1 r.2 t ∧ t = { r.2 with ports := t.ports })) ∧
        (k.ptype = 2 → k.retry = false → (old → resumed) → a % 4 = 0 → k.len ≠ 0 → k.len ≤ 16 →
          k.payload.length = k.len → regionOf a k.len = some .fabric → pagesThere s a k.len = true →
          let r := regWrites k.payload (takePkt (cycle s) p k) (portIni p) a
          Completes (exec c s) fun t => answers 0 [] r t ∧ t = { r with ports := t.ports }) ∧
        (k.ptype = 1 ∨ k.ptype = 2 → k.retry = false → old → ¬ resumed → Completes (exec c s) fun t => answers 2 [] s t ∧
            getF t F.PHL_STALECNT_N p = min (getF s F.PHL_STALECNT_N p + 1) 0xFFFFFFFF ∧
            (getF t (F.EVT .phl) p).testBit E.PHL_STALE = true) ∧
        (k.ptype = 3 → isSet s F.FLT_STATE_EMBANK 0 = false → dmaLen s p k.len = true → k.payload.length = k.len → a % 4 = 0 →
          (regionOf a k.len = some .mailbox → Completes (exec c s) fun t =>
            t.mbox = Memory.writeN s.mbox a (lePayload k.payload) ∧ t.dram = s.dram ∧ SameBut [] s t) ∧
          (regionOf a k.len = some .dram → dramUp s = true → Completes (exec c s) fun t =>
            t.dram = Memory.writeN s.dram a (lePayload k.payload) ∧ t.mbox = s.mbox) ∧
          (regionOf a k.len ≠ some .mailbox → regionOf a k.len ≠ some .dram ∨ dramUp s = false → Completes (exec c s) refused))) ∧
      (intact k = true → d = 0 → k.hop ≠ 0 → ¬ (passThrough s = true) → k.ptype = 1 ∨ k.ptype = 2 → Completes (exec c s) fun t =>
        answers 1 [] s t ∧ SameBut [] s t) ∧
      (intact k = true → d = 0 → passThrough s = true → p = 1 ∨ k.hop ≠ 0 → portUp s (1 - p) = true →
        let y := portOf s (1 - p)
        let f := toTx k (if p = 0 then k.hop - 1 else k.hop)
        (y.wait = [] → (∀ c ∈ rxCost k, c.2 ≤ holdsCredit s (1 - p) c.1) → Completes (exec c s) fun t =>
          (portOf t (1 - p)).replay = y.replay ++ [{ f with seq := y.txSeq }] ∧ (portOf t (1 - p)).wait = []) ∧
        ((∃ c ∈ rxCost k, holdsCredit s (1 - p) c.1 < c.2) → Completes (exec c s) fun t =>
          (portOf t (1 - p)).replay = y.replay ∧ (portOf t (1 - p)).wait = y.wait ++ [f]))

/-- R266, R267, R366, R371, R374 to R376, R382, R383: a packet goes onto the link with its fields in its header and its CRC. An ACK
takes the packets on their way up to it off the buffer and frees their granules; a NAK or a timeout replays; credits add up, and let a
packet go that waits for them; CAPWITHHELD shows; events leave as one packet with credit; in the turn of its stream the oldest waiting
granule leaves in one packet with capture credit, or is copied to the spill ring, which waits when full. The bit order under the CRC
is the model's reading (log entry 83). -/
def Obligations.LinkFlow : Prop :=
  (∀ k : TxPkt, let l := onLink k
    intact l = true ∧ l.seq = k.seq ∧ l.payload = k.payload ∧ l.ptype.toNat = k.typ % 16 ∧ l.retry = k.retry ∧ l.hop = k.hop ∧
    l.tag = k.tag ∧ l.epoch = k.epoch ∧ l.status.toNat = k.status % 16 ∧ l.len = k.len % 2048 ∧ l.addr = k.addr ∧
    l.stream.toNat = k.stream % 256) ∧
  ∀ (port : Fin 2) (seq : BitVec 12) (cls : CreditClass) (n : BitVec 16) (k : Fin 256) (g : Gran) (s : State),
    let p := port.val
    let x := portOf s p
    let cap := getF s F.PHL_CREDITS_CAP p
    let evs := getF s F.PHL_CREDITS_EVS p
    let m := onWay x.replay 2048 65536
    let sent := x.replay.take m
    let capPkt : TxPkt := { seq := x.txSeq, typ := 7, len := 128, stream := k.val, gran := some g.idx, payload := granPayload g k.val }
    (portActive s p = true →
      (Completes (exec (.ack port seq) s) fun t =>
        (portOf t p).replay = sent.filter (fun y => !ackHits seq y) ++ x.replay.drop m ∧
        ∀ y ∈ sent, ackHits seq y = true → ∀ idx, y.gran = some idx → ∀ z ∈ (strmOf t y.stream).queue, z.idx ≠ idx) ∧
      (x.replay ≠ [] → x.tries < 4 → ∀ c ∈ [Instr.nak port seq, .replayTimeout port], Completes (exec c s) fun t =>
        (portOf t p).tries = x.tries + 1 ∧ (portOf t p).replay = x.replay ∧
        getF t F.PHL_REPLAYCNT_N p = min (getF s F.PHL_REPLAYCNT_N p + 1) 0xFFFFFFFF ∧ SameBut [(F.PHL_REPLAYCNT_N, p)] s t) ∧
      (∀ w, x.wait = [w] → (∀ c ∈ costOf w.typ w.len, c.2 ≤ holdsCredit s p c.1 + if c.1 = cls then n.toNat else 0) →
        Completes (exec (.creditUpdate port cls n) s) fun t =>
          (portOf t p).wait = [] ∧ (portOf t p).replay = x.replay ++ [{ w with seq := x.txSeq }]) ∧
      (x.wait = [] → Completes (exec (.creditUpdate port cls n) s) fun t => match cls with
        | .np => (portOf t p).granted = { x.granted with np := x.granted.np + n.toNat } ∧ SameBut [] s t
        | .ph => (portOf t p).granted = { x.granted with ph := x.granted.ph + n.toNat } ∧ SameBut [] s t
        | .pd => (portOf t p).granted = { x.granted with pd := x.granted.pd + n.toNat } ∧ SameBut [] s t
        | .evs => getF t F.PHL_CREDITS_EVS p = min (evs + n.toNat) 65535 ∧ SameBut [(F.PHL_CREDITS_EVS, p)] s t
        | .cap => getF t F.PHL_CREDITS_CAP p = min (cap + n.toNat) 65535 ∧ (n ≠ 0 → getF t F.PHL_COND_CAPHELD p = 0) ∧
            SameBut [(F.PHL_CREDITS_CAP, p), (F.PHL_COND_CAPHELD, p)] s t) ∧
      (carriesCap s p = true → cap = 0 → isSet s F.PHL_COND_CAPHELD p = false →
        (∃ j < 256, drainDest s j = true ∧ (waitingGran s j).isSome = true) → Completes (exec (.capwithheld port) s) fun t =>
          getF t F.PHL_COND_CAPHELD p = 1 ∧ (getF t (F.EVT .phl) p).testBit E.PHL_CAPWITHHELD = true ∧
          SameBut [(F.PHL_COND_CAPHELD, p), (F.EVT .phl, p), (F.EVT_SEQ .phl, p)] s t)) ∧
    (let first := getF s F.EVR_HSRD_IDX 0 + evsInFlight s
     let r := min 16 ((getF s F.EVR_HSWR_IDX 0 + 8192 - first) % 4096)
     let words := (List.range r).flatMap (fun j => ringWords s (first + j))
     evsPort s = some p → r ≠ 0 → 0 < evs → txFull s p (16 + 16 * r) = false → Completes (exec (.evsSend port) s) fun t =>
      getF t F.PHL_CREDITS_EVS p = evs - 1 ∧ SameBut [(F.PHL_CREDITS_EVS, p)] s t ∧
      (portOf t p).replay = x.replay ++ [{ seq := x.txSeq, typ := 8, len := 4 * r, recs := r, payload := words }]) ∧
    (isSet s F.FLT_STATE_EMBANK 0 = false → waitingGran s k.val = some g → itsTurn s k.val = true →
      (toHost s k.val = true → capPort s = some p → Completes (exec (.granuleDrained k) s) fun t =>
        getF t F.PHL_CREDITS_CAP p = cap - 1 ∧ SameBut [(F.PHL_CREDITS_CAP, p)] s t ∧
        (portOf t p).replay = x.replay ++ [capPkt]) ∧
      (toHost s k.val = true → capPort s = none → Completes (exec (.granuleDrained k) s) fun t => t = cycle s) ∧
      (toHost s k.val = false →
        (spillFull s = true → Completes (exec (.granuleDrained k) s) fun t => t = cycle s) ∧
        (spillFull s = false → Completes (exec (.granuleDrained k) s) fun t => spillWr t = spillNext s (spillWr s) ∧
          (getF t (F.EVT .slu) 0).testBit E.SLU_SPILL_FULL =
            ((getF s (F.EVT .slu) 0).testBit E.SLU_SPILL_FULL || spillFull t) ∧
          (strmOf t k.val).queue = (strmOf s k.val).queue.filter (fun z => z.idx != g.idx) ∧
          getF t (F.SLU_X3_DRAINED k.val) 0 = min (getF s (F.SLU_X3_DRAINED k.val) 0 + 1) 0xFFFFFFFF ∧
          (dramLo ≤ spillWr s → spillWr s + 512 ≤ dramHi →
            t.dram = Memory.writeN s.dram (spillWr s) (lePayload (granPayload g k.val)))))) ∧
    (itsTurn s k.val = false → (waitingGran s k.val).isSome = true →
      Completes (exec (.granuleDrained k) s) fun t => t = cycle s)

/-- R377: after four replays without progress (`tries` counts them) a further NAK or timeout of a port with unacknowledged packets
exhausts replay: REPLAYEXH counts, REPLAY_EXH is set, and the port is in a fast retrain, with its rate, width and version. -/
def Obligations.ReplayExhausted : Prop :=
  ∀ (port : Fin 2) (seq : BitVec 12) (s : State), portActive s port.val = true → (portOf s port.val).replay ≠ [] →
    4 ≤ (portOf s port.val).tries →
    ∀ c ∈ [Instr.nak port seq, .replayTimeout port], Completes (exec c s) fun t =>
      let p := port.val
      lstate t p = 7 ∧ getF t F.PHL_REPLAYEXH_N p = min (getF s F.PHL_REPLAYEXH_N p + 1) 0xFFFFFFFF ∧
      (getF t (F.EVT .phl) p).testBit E.PHL_REPLAY_EXH = true ∧ (∀ j < 4, getF t (F.PHL_LANE_LOCK j) p = 0) ∧
      ∀ f ∈ [F.PHL_STATE_RATE, F.PHL_STATE_WIDTH, F.PHL_STATE_VER], getF t f p = getF s f p

/-! Other ports, power and resets. -/

/-- R388, R389: once the OTP has been read the SMBus port answers each command with its bytes and their PEC over the command, before
that with none, and only CLEAR_ALERT writes state, the alert; without an ACTIVE host port for 1 ms the alert asserts. Five clocks with
TMS high reset the TAP; a JTAG instruction walks it through one scan of the instruction and one of the data, on the whole boundary
chain; REGACC is a register access with the rights of JTAG. The PEC polynomial, the TAP's walk and the order of the cells are the
model's (log entry 84). -/
def Obligations.SmbusAndJtag : Prop :=
  (∀ x, (List.replicate 5 true).foldl tapNext x = .testLogicReset) ∧
  (scanTms.foldl tapNext .runTestIdle = .runTestIdle) ∧
  ∀ (pins shift : List Bool) (a : LinkAddr) (v : Word) (s : State),
    let up := s.pwr.aux && s.pwr.otp
    let bit (k : Nat) (b : Bool) : Nat := if b then 2 ^ k else 0
    let status := bit 0 s.pwr.aux + bit 1 (isSet s F.DEV_STATE_MAINPWR 0) + bit 2 (getF s F.DEV_STATE_BOOT 0 != 0) +
      bit 3 (isSet s F.DEV_STATE_EMBANK 0) + bit 4 (isSet s F.DEV_STATE_THERMREC 0) + bit 5 (portActive s 0) +
      bit 6 (portActive s 1) + bit 7 s.smb.alert
    let tap (x : Jtag) (t : State) : Prop := t = { s with jtag := x, cyc := t.cyc }
    let scan := scanTms.foldl tapNext s.jtag.tap
    let u : State := { cycle s with jtag := { s.jtag with tap := scan, ir := .regacc } }
    let w := BitVec.ofNat 8 (2 * (0x2C + Config.smbaStraps.toNat))
    (∀ x ∈ [(Instr.smbusStatusRead, [w, 0x00, w + 1], [BitVec.ofNat 8 status]),
        (.smbusTempRead, [w, 0x01, w + 1], toBytes 2 (getF s F.HKP_TMAX_T 0)),
        (.smbusThermalRead, [w, 0x02, w + 1], [BitVec.ofNat 8 (bit 0 (isSet s F.HKP_TMAX_SUBSTITUTED 0) +
          bit 1 (isSet s F.HKP_STATE_THROTTLING 0) + bit 2 (causeNow s 188))]),
        (.smbusLifecycleRead, [w, 0x03, w + 1], [BitVec.ofNat 8 s.otp.lc]),
        (.smbusIdentityRead, [w, 0x04, w + 1, 16], identity s)],
      Completes (exec x.1 s) fun t => t = { s with
        smb := { s.smb with out := if up then x.2.2 else [], pec := if up then some (pecOf (x.2.1 ++ x.2.2)) else none },
          cyc := t.cyc }) ∧
    Completes (exec .smbusClearAlert s) (fun t =>
      t = { s with smb := { s.smb with out := [], pec := none, alert := s.smb.alert && !up }, cyc := t.cyc }) ∧
    (hostless s = true → Completes (exec .withoutHostAlert s) fun t =>
      t = { s with smb := { s.smb with alert := true }, bdn := t.bdn, cyc := t.cyc }) ∧
    Completes (exec .bypass s) (tap { s.jtag with tap := scan, ir := .bypass, out := [false] }) ∧
    (pins.length = 41 → shift.length = 41 → ∀ x ∈ [(Instr.samplePreload pins shift, TapIr.sample), (.extest pins shift, .extest),
      (.extestPulse pins shift, .pulse),
        (.extestTrain pins shift, .train)],
      Completes (exec x.1 s) (tap { s.jtag with tap := scan, ir := x.2, out := pins, bsr := shift })) ∧
    Completes (exec .idcode s) (fun t => t.jtag.ir = .idcode ∧ t.jtag.tap = scan ∧ t.jtag.out.length = 32 ∧
      (∀ k < 32, t.jtag.out[k]? = some ((getF s F.DEV_JTAGID_ID 0).testBit k)) ∧ tap t.jtag t) ∧
    Completes (exec (.regacc true a v) s) (fun t => t = (busWrite u .jtag a.toNat v.toNat).2) ∧
    Completes (exec (.regacc false a v) s) (fun t =>
      let r := busRead u .jtag a.toNat
      t.ret = r.1.map (BitVec.ofNat 32) ∧ (∀ w, r.1 = some w → t.jtag.word = BitVec.ofNat 32 w) ∧ t.regs = r.2.regs) ∧
    ∀ (p : Page) (n : Nat), n < p.count → a.toNat = p.base + 4096 * n + 0x01C →
      (mayWrite s .jtag p n 0x01C = true → Completes (exec (.regacc true a v) s) fun t =>
        getF t (F.EVT_MASK p) n = v.toNat ∧ SameBut [(F.EVT_MASK p, n)] s t) ∧
      (servedPage s p n 0x01C = .yes → Completes (exec (.regacc false a v) s) fun t =>
        t.jtag.word = BitVec.ofNat 32 (getF s (F.EVT_MASK p) n) ∧ SameBut [] s t)

/-- R404, R422, R443, R445, R472, R475: RSTCTL with its key, and the watchdog, begin a device reset: RSTBUSY is set and the polders
enter DIKE; at its end they are OFF, octets are unowned, and what R404 keeps is kept. Auxiliary power restarts everything but the OTP
and the firmware; the main domains lose their state with main power, a fault that enters Embankment mode as REACT says, and start from
reset values when it returns, where the ROM in recovery has the MPLL acquire lock (R446); at start-up (R490) the assertion of main power
changes no other page. What of R475 and R490 this reads stands in log entry 79. -/
def Obligations.ResetsAndPower : Prop :=
  ∀ (i : Initiator) (key : BitVec 8) (st : Stamp) (s : State),
    let diked (t : State) : Prop := ∀ p < 64, rsOf t p = if rsOf s p = .off then .off else .dike
    let begun (t : State) : Prop := getF t F.DEV_STATE_RSTBUSY 0 = 1 ∧ getF t F.DEV_RSTCTL_GO 0 = 1 ∧ diked t
    let up := isSet s F.DEV_STATE_MAINPWR 0 && s.pwr.img
    let restart (aux : Bool) (t : State) : Prop := t.pwr = { State.reset.pwr with aux := aux } ∧
      (∀ f n, getF t f n = getF State.reset f n) ∧ t.otp = s.otp ∧ t.nvm.slotA = s.nvm.slotA ∧ t.nvm.slotB = s.nvm.slotB ∧
      (∀ x ∈ s.nvm.recs, s.nvm.op = none → x ∈ t.nvm.recs) ∧ t.dram = [] ∧ t.mbox = [] ∧ t.bdn = 0
    (mayWrite s i .dev 0 0x064 = true → lockBit s .dev 0 0 = false → getF s F.DEV_RSTCTL_GO 0 = 0 →
      Completes (exec (.deviceReset i key) s) fun t => if key = 0xA5 then begun t else t = cycle s) ∧
    (s.pwr.img = true → getF s F.DEV_STATE_RSTBUSY 0 = 0 → Completes (exec .watchdogExpiry s) fun t => begun t ∧ t.pwr.wdt = true) ∧
    (getF s F.DEV_STATE_RSTBUSY 0 = 1 → Completes (exec .deviceResetDone s) fun t =>
      getF t F.DEV_STATE_RSTBUSY 0 = 0 ∧ getF t F.DEV_RSTCTL_GO 0 = 0 ∧ (getF t (F.EVT .dev) 0).testBit E.DEV_RST_DONE = true ∧
      getF t F.DEV_RSTCNT_N 0 = min (getF s F.DEV_RSTCNT_N 0 + 1) 0xFFFFFFFF ∧ getF t F.DEV_RSTCAUSE_DEVRST 0 = 1 ∧
      getF t F.DEV_RSTCAUSE_FWWDT 0 = b2n s.pwr.wdt ∧
      (∀ p, rsOf t p = .off ∧ octsOf t p = [] ∧ (queueOf t p).entries = []) ∧ t.pool = [] ∧
      (∀ p < 2, lstate t p = lstate s p ∧ getF t F.PHL_STATE_EPOCH p = getF s F.PHL_STATE_EPOCH p ∧ getF t F.PHL_STATE_SESS p ≤ 1) ∧
      (getF t F.CLK_REFCFG_REFSEL 0 ≠ getF s F.CLK_REFCFG_REFSEL 0 ∨
        mstate t = mstate s ∧ getF t F.FLT_STATE_EMBANK 0 = getF s F.FLT_STATE_EMBANK 0) ∧ t.bdn = s.bdn ∧ t.otp = s.otp ∧ t.dram = s.dram ∧ t.mbox = s.mbox ∧
      (∀ f < 192, getF s (F.FLT_X2_FSTATE f) 0 = 3 → getF t (F.FLT_X2_FSTATE f) 0 = if getF t (F.FLT_X1_EN f) 0 = 0 ∧
        up = true then 0 else 3) ∧
      (up = true → getF t F.DEV_STATE_BOOT 0 = 4 ∧ (getF t (F.EVT .dev) 0).testBit E.DEV_READY = true)) ∧
    (s.pwr.aux = false → Completes (exec .pwrgdAuxAssert s) (restart true)) ∧
    Completes (exec .pwrgdAuxDeassert s) (restart false) ∧ Completes (exec .surprisePowerLoss s) (restart false) ∧
    (s.pwr.aux = true → getF s F.DEV_STATE_MAINPWR 0 = 0 → Completes (exec .pwrgdMainAssert s) fun t =>
      let rom : Prop := getF s F.SEC_STATE_ROMREC 0 = 1
      getF t F.DEV_STATE_MAINPWR 0 = 1 ∧ t.pwr.ran = true ∧ t.bdn = 0 ∧ t.otp = s.otp ∧
      getF t F.FLT_STATE_EMBANK 0 = getF s F.FLT_STATE_EMBANK 0 ∧
      (rom → mstate t = if s.pwr.ran = true ∨ mstate s = 0 then 1 else mstate s) ∧
      (s.pwr.ran = true → getF t F.DEV_STATE_BOOT 0 = 0 ∧ t.dram = [] ∧ (∀ p, rsOf t p = .off) ∧
        ∀ f n, f.page ∉ [Page.dev, .flt, .hkp, .nvm, .sec] → f.page ∉ [Page.clk, .bgl] ∨ ¬ rom → getF t f n = f.rst % 2 ^ f.w.val) ∧
      (s.pwr.ran = false → t.dram = s.dram ∧ ∀ f n, f.page ∉ [Page.dev, .evr] → f.page ∉ [Page.clk, .bgl] ∨ ¬ rom →
        getF t f n = getF s f n)) ∧
    (getF s F.DEV_STATE_MAINPWR 0 = 1 → Completes (exec (.pwrgdMainDeassert st) s) fun t =>
      getF t F.DEV_STATE_MAINPWR 0 = 0 ∧ getF t F.DEV_STATE_BOOT 0 = 0 ∧ diked t ∧ causeNow t 189 = true ∧
      (∀ d < 32, getF t (F.DSC_QSTAT_ON (d % 8)) (d / 8) = 0) ∧ (∀ p < 2, lstate t p = 0) ∧ t.dram = [] ∧ t.pool = [] ∧
      (getF s F.FLT_STATE_SELFERR 0 = 0 → getF s (F.FLT_X1_EN 189) 0 = 1 → getF s (F.FLT_X1_REACT 189) 0 = 3 →
        getF s (F.FLT_X2_FSTATE 189) 0 = 0 → getF t F.FLT_STATE_EMBANK 0 = 1 ∧ getF t (F.FLT_X2_FSTATE 189) 0 = 1))

/-! Faults. -/

/-- R409, R410, R413, R420: a CLEAR, enabled source whose cause is present becomes ACTIVE: OCC counts, LASTSRC and LASTT take the
source and the stamp, FAULT_NEW is set and the reaction is taken: LOG none, DIKE_POLDER the named polders that do not override it,
DIKE_DIE the die and its polders, EMBANK every polder. A QUIET source becomes ACTIVE again and counts no occurrence. The loss of the
keepalive puts the octets of a die whose rails are in range to SAFE. -/
def Obligations.FaultOccurrences : Prop :=
  ∀ (f : Fin 192) (d : Fin 8) (st : Stamp) (s : State),
    let k := f.val
    let r := getF s (F.FLT_X1_REACT k) 0
    let notice : Prop := 96 ≤ k ∧ k < 128 ∧ k % 4 = 2
    let diked (l : List Nat) (t : State) : Prop := ∀ p ∈ l, p < 64 → rsOf s p ≠ .off → rsOf t p = .dike
    let named := (namesNow s k).filter (fun p => !isSet s F.POL_DIKECFG_DIKE_OVR p)
    let present : Prop := causeNow s k = true ∨ (fltOf s k).due = true ∨ reported k = true
    (isSet s (F.FLT_X1_EN k) 0 = true → isSet s F.FLT_STATE_SELFERR 0 = false → getF s (F.FLT_X2_FSTATE k) 0 = 2 → present →
      Completes (exec (.faultOccurrence f st) s) fun t => getF t (F.FLT_X2_FSTATE k) 0 = 1 ∧
        getF t (F.FLT_X3_OCC k) 0 = getF s (F.FLT_X3_OCC k) 0) ∧
    (isSet s (F.FLT_X1_EN k) 0 = true → isSet s F.FLT_STATE_SELFERR 0 = false → getF s (F.FLT_X2_FSTATE k) 0 = 0 →
      present → Completes (exec (.faultOccurrence f st) s) fun t =>
        getF t (F.FLT_X2_FSTATE k) 0 = 1 ∧ getF t (F.FLT_X3_OCC k) 0 = min (getF s (F.FLT_X3_OCC k) 0 + 1) 0xFFFFFFFF ∧
        getF t F.FLT_LASTSRC_SRC 0 = k ∧ getF t F.FLT_LASTSRC_VALID 0 = 1 ∧
        get64 t F.FLT_LASTT_LO_T F.FLT_LASTT_HI_T 0 = st ∧ (getF t (F.EVT .flt) 0).testBit E.FLT_FAULT_NEW = true ∧
        (fltOf t k).occNames = namesNow s k ∧ (fltOf t k).occT = st ∧ (fltOf t k).due = false ∧
        (r = 0 ∨ notice ∧ r ≠ 3 → (∀ p, rsOf t p = rsOf s p) ∧ getF t F.FLT_STATE_EMBANK 0 = getF s F.FLT_STATE_EMBANK 0) ∧
        (¬ notice → r = 1 ∨ r = 2 ∧ srcFltDie k = none → diked named t) ∧
        (∀ y, ¬ notice → r = 2 → srcFltDie k = some y → isoDie t y = true ∧ diked (polsOfDie s y) t) ∧
        (r = 3 → getF s F.FLT_STATE_EMBANK 0 = 0 → diked (List.range 64) t ∧ getF t F.FLT_STATE_EMBANK 0 = 1 ∧
          getF t F.DEV_STATE_EMBANK 0 = 1 ∧ getF t F.FLT_EMBINFO_CAUSE 0 = 1 ∧ getF t F.FLT_EMBINFO_SRC 0 = k ∧
          get64 t F.FLT_EMB_T_LO_T F.FLT_EMB_T_HI_T 0 = st ∧ (getF t (F.EVT .flt) 0).testBit E.FLT_EMBANK_IN = true ∧
          (getF t (F.EVT .dev) 0).testBit E.DEV_EMBANK_IN = true ∧ t.smb.alert = true)) ∧
    Completes (exec (.keepaliveTimeout d) s) (fun t =>
      (∀ o, o / 8 = d.val → getF t F.OCT_STATE_PSTATE o =
          (if (dieOf s d.val).inited then (if railsBad s o then 0 else 1) else getF s F.OCT_STATE_PSTATE o) ∧
        ∀ j < 8, (chanOf t (8 * o + j)).drv = .off) ∧
      (∀ x, x / 4 = d.val → (dsOf t x).ramp = true ∨ getF s (F.DSC_DSCFG_FRAMP (x % 8)) (x / 8) = 0) ∧ ∀ p, rsOf t p = rsOf s p)

/-- R413 to R415, R417, R423: an ACTIVE source whose cause ends becomes QUIET; at the end of the quiet period it becomes CLEAR, or
LATCHED without AUTOREC, after EMBANK, or with RLIM recoveries in the window; CLRCTL clears QUIET and LATCHED sources, and SELFERR with
SELF. A self-check error enters Embankment mode; EXIT leaves it when the conditions of R423 hold. -/
def Obligations.FaultRecovery : Prop :=
  ∀ (f : Fin 192) (i : Initiator) (src : BitVec 8) (all self : Bool) (bad : List (Fin 192)) (st : Stamp) (s : State),
    let k := f.val
    let fs (s : State) (j : Nat) : Nat := getF s (F.FLT_X2_FSTATE j) 0
    let selfErr (t : State) : Prop := getF t F.FLT_STATE_SELFERR 0 = 1 ∧ getF t F.FLT_COND_SELFERR 0 = 1 ∧
      getF t F.FLT_STATE_EMBANK 0 = 1 ∧ getF t F.FLT_EMBINFO_CAUSE 0 = 2 ∧ (∀ j < 192, fs t j = fs s j) ∧
      (getF t (F.EVT .flt) 0).testBit E.FLT_SELFERR = true ∧
      (getF s F.FLT_STATE_EMBANK 0 = 0 → ∀ p < 64, rsOf t p = if rsOf s p = .off then .off else .dike)
    (isSet s F.FLT_STATE_SELFERR 0 = false →
      (fs s k = 1 → (fltOf s k).hw = false → forced s k = false → k ≠ 186 ∨ getF s F.BGL_COND_SYNC_LOST 0 = 0 → sensed k = false →
        Completes (exec (.faultCauseGone f) s) fun t => fs t k = 2 ∧ (fltOf t k).goneT = now s ∧
          SameBut [(F.FLT_X2_FSTATE k, 0)] s t) ∧
      (fs s k = 1 → sensed k = true → forced s k = false →
        (64 ≤ k → k < 96 → getF s (F.DSC_COND_VCLIP ((k - 64) % 8)) ((k - 64) / 8) = 0) →
        Completes (exec (.faultCauseGone f) s) fun t => fs t k = 2 ∧ causeNow t k = false ∧
          (k = 184 → getF t F.CLK_COND_XO_FAIL 0 = 0 ∧ getF t F.CLK_STATE_XO_RC 0 = 0)) ∧
      (fs s k = 2 → causeNow s k = true ∨ (fltOf s k).due = true → Completes (exec (.quietExpiry f) s) fun t => t = cycle s) ∧
      (fs s k = 2 → causeNow s k = false → (fltOf s k).due = false →
        let z := reach (cycle s) ((fltOf s k).goneT + msTicks (max 1 (min 10000 (getF s (F.FLT_X1_QUIET k) 0))))
        let clear : Prop := getF s (F.FLT_X1_AUTOREC k) 0 = 1 ∧ getF s (F.FLT_X1_REACT k) 0 ≠ 3 ∧
          (recent z k).length < max 1 (getF s F.FLT_RECLIM_RLIM 0)
        Completes (exec (.quietExpiry f) s) fun t =>
          (clear → fs t k = 0 ∧ (fltOf t k).recs = recent z k ++ [now z]) ∧
          (¬ clear → fs t k = 3 ∧ (getF t (F.EVT .flt) 0).testBit E.FLT_LATCHED = true)) ∧
      (mayWrite s i .flt 0 0x050 = true → getF s F.FLT_CLRCTL_GO 0 = 0 →
        let acted (j : Nat) : Prop := j < 192 ∧ (all = true ∨ src.toNat = j)
        ((∀ j, acted j → fs s j = 3 → causeNow s j = false) → Completes (exec (.faultClear i src all self) s) fun t =>
          (∀ j, acted j → fs t j = (if fs s j = 2 ∨ fs s j = 3 then 0 else fs s j) ∧ (fltOf t j).recs = []) ∧
          (∀ j < 192, ¬ acted j → fs t j = fs s j) ∧ ∀ p, rsOf t p = rsOf s p) ∧
        (all = false → self = false → src.toNat = k → fs s k = 3 → causeNow s k = true → isSet s (F.FLT_X1_EN k) 0 = true →
          Completes (exec (.faultClear i src all self) s) fun t => fs t k = 1 ∧
            getF t (F.FLT_X3_OCC k) 0 = min (getF s (F.FLT_X3_OCC k) 0 + 1) 0xFFFFFFFF))) ∧
    (mayWrite s i .flt 0 0x050 = true → getF s F.FLT_CLRCTL_GO 0 = 0 → isSet s F.FLT_STATE_SELFERR 0 = true →
      (self = true → Completes (exec (.faultClear i src all self) s) fun t => getF t F.FLT_STATE_SELFERR 0 = 0 ∧
        getF t F.FLT_COND_SELFERR 0 = 0 ∧ t.fltBad = []) ∧
      (self = false → Completes (exec (.faultClear i src all self) s) fun t => (∀ j < 192, fs t j = fs s j) ∧ t.flts = s.flts)) ∧
    Completes (exec (.selferr st) s) selfErr ∧
    Completes (exec (.fltParityScan bad st) s) (fun t =>
      (bad = [] → SameBut [] s t ∧ t.fltBad = s.fltBad) ∧ (bad ≠ [] → selfErr t ∧ ∀ x ∈ bad, x.val ∈ t.fltBad)) ∧
    (mayWrite s i .flt 0 0x040 = true → getF s F.FLT_EMBCTL_EXIT 0 = 0 →
      let err : Nat := if (List.range 192).any (fun j => fs s j != 0 && (fltOf s j).react == 3) then 1
        else if getF s F.FLT_STATE_SELFERR 0 = 1 then 2
        else if getF s F.DEV_STATE_MAINPWR 0 = 0 ∨ getF s F.DEV_STATE_BOOT 0 ≠ 4 then 3
        else if getF s F.DEV_STATE_THERMREC 0 = 1 then 4 else 0
      (getF s F.FLT_STATE_EMBANK 0 = 0 → Completes (exec (.exit i) s) fun t => t = cycle s) ∧
      (getF s F.FLT_STATE_EMBANK 0 = 1 → err = 0 → Completes (exec (.exit i) s) fun t =>
        getF t F.FLT_STATE_EMBANK 0 = 0 ∧ getF t F.DEV_STATE_EMBANK 0 = 0 ∧ (∀ p, rsOf t p = rsOf s p) ∧
        (getF t (F.EVT .flt) 0).testBit E.FLT_EMBANK_OUT = true ∧ (getF t (F.EVT .dev) 0).testBit E.DEV_EMBANK_OUT = true) ∧
      (getF s F.FLT_STATE_EMBANK 0 = 1 → err ≠ 0 → Completes (exec (.exit i) s) fun t =>
        getF t F.FLT_EMBINFO_EXITERR 0 = err ∧ (getF t (F.EVT .flt) 0).testBit E.FLT_EXIT_REFUSED = true ∧
        SameBut [(F.FLT_EMBINFO_EXITERR, 0), (F.EVT .flt, 0), (F.EVT_SEQ .flt, 0)] s t))

/-! Temperature. -/

/-- R427, R429 to R435, R439: a housekeeping round: each sensor that is sampled (without main power only those of VDD_AUX are) and not
failed takes its reading, holds its last good value when it is judged failing once, and fails at the second; TMAX is the largest value;
the activity, early throttle, shutdown with its record, the rail words and the round pulse follow. A rail is out of range at the second
round in a row whose sample lies outside its range (R470); of VPH the operand tells (the model's, log entry 81). -/
def Obligations.HousekeepingRound : Prop :=
  ∀ (smp : List (BitVec 16)) (out : List (Fin 24)) (st : Stamp) (s : State),
    s.pwr.aux = true →
    let rd (i : Nat) : Int := signed (smp.getD i 0).toNat 16
    let failed (u : State) (i : Nat) : Prop := getF u (F.HKP_X1_FAILED i) 0 = 1
    let why := whyFailing s rd
    let bad (r : Nat) : Bool := match railRange r with
      | some x => decide (rd (104 + r) < x.1 ∨ x.2 < rd (104 + r))
      | none => out.any (fun x => x.val == 8)
    Completes (exec (.housekeepingRound smp out st) s) fun t =>
      getF t F.HKP_STATE_FIRST 0 = 1 ∧ getF t F.HKP_ROUNDCNT_N 0 = min (getF s F.HKP_ROUNDCNT_N 0 + 1) 0xFFFFFFFF ∧
      (∃ e ∈ t.rtr.flight, e = { src := 0x805, pol := true, pulse := true, stamp := now t }) ∧
      (∀ r < 24, getF t (F.HKP_X2_V r) 0 = (smp.getD (104 + r) 0).toNat ∧
        (getF t (F.HKP_X2_OOR r) 0 = 1 ↔
          r ∈ s.hkp.rails ∧ (r = 17 ∨ getF s F.DEV_STATE_MAINPWR 0 = 1) ∧ bad r = true)) ∧
      (∀ i < 40, sampled s i = false → getF t (F.HKP_X1_T i) 0 = getF s (F.HKP_X1_T i) 0 ∧ sensOf t i = sensOf s i ∧
        (failed t i ↔ failed s i)) ∧
      (∀ i < 40, sampled s i = true → ¬ failed s i →
        (why i = 0 → ¬ failed t i ∧ getF t (F.HKP_X1_T i) 0 = (smp.getD i 0).toNat ∧ (sensOf t i).bad = false) ∧
        (why i ≠ 0 → (sensOf s i).bad = false → ¬ failed t i ∧ (sensOf t i).bad = true ∧
          getF t (F.HKP_X1_T i) 0 = unsign (sensOf s i).good 16) ∧
        (why i ≠ 0 → (sensOf s i).bad = true → failed t i ∧ (getF t (F.EVT .hkp) 0).testBit E.HKP_SENS_FAIL = true ∧
          getF t (F.HKP_X1_WHY i) 0 = why i)) ∧
      (∀ i < 40, failed s i → failed t i) ∧
      (∀ i < 40, sampled t i = true → sensVal t i ≤ tmax t) ∧ (∃ i < 40, sampled t i = true ∧ sensVal t i = tmax t ∧
        getF t F.HKP_TMAX_SENSOR 0 = i) ∧
      (s.hkp.cap = none → getF t F.HKP_STATE_ACT 0 = if isSet t F.HKP_STATE_EARLY 0 then 64 else activity t) ∧
      (rorExceeded s rd why = true → getF t F.HKP_STATE_EARLY 0 = 1 ∧ (getF t (F.EVT .hkp) 0).testBit E.HKP_EARLY_ON = true) ∧
      (rorExceeded s rd why = false → s.hkp.early = true → getF t F.HKP_STATE_EARLY 0 = 0 ∧ (fltOf t 187).hw = false) ∧
      (thr s F.HKP_THRB_THR_SHUT ≤ tmax t → (fltOf s 188).hw = false → liveF t F.HKP_STATE_SHUTDOWN 0 = 1 ∧
        causeNow t 188 = true ∧ getF t F.DEV_STATE_THERMREC 0 = 1 ∧ t.nvm.thermal.isSome = true) ∧
      (tmax t < thr s F.HKP_THRB_THR_RESUME → (fltOf s 188).hw = true → forced s 188 = false →
        liveF t F.HKP_STATE_SHUTDOWN 0 = 0 ∧ (fltOf t 188).hw = false)

/-- R430, R432, R434, R437, R438: the end of early throttle raises FS187; the hold ends; THACK is taken while a record is
unacknowledged and FS188 is absent, and its end commits the acknowledgment and clears THERMREC; SENSCLR has the sensors judged afresh;
a threshold write that would break the order is refused as a whole. -/
def Obligations.ThermalCommands : Prop :=
  ∀ (i : Initiator) (sens : BitVec 6) (all b : Bool) (v : Word) (s : State),
    let served := servedPage s .hkp 0 0x050 = .yes ∧ privileged s i = true
    (getF s F.HKP_STATE_EARLY 0 = 1 → s.hkp.early = false → Completes (exec .earlyThrottleExpiry s) fun t =>
      causeNow t 187 = true ∧ t.hkp.early = true ∧ SameBut [] s t) ∧
    (s.hkp.cap.isSome = true → Completes (exec .substitutionHoldEnd s) fun t =>
      getF t F.HKP_STATE_HOLD 0 = 0 ∧ t.hkp.cap = none ∧ SameBut [(F.HKP_STATE_HOLD, 0)] s t) ∧
    (s.hkp.cap = none → Completes (exec .substitutionHoldEnd s) fun t => t = cycle s) ∧
    (served → getF s F.HKP_THCTL_THACK 0 = 0 →
      (getF s F.DEV_STATE_THERMREC 0 = 1 → causeNow s 188 = false → Completes (exec (.thack i) s) fun t =>
        getF t F.HKP_THCTL_THACK 0 = 1 ∧ t.hkp.thack = true ∧ SameBut [(F.HKP_THCTL_THACK, 0)] s t) ∧
      (getF s F.DEV_STATE_THERMREC 0 = 0 ∨ causeNow s 188 = true → Completes (exec (.thack i) s) fun t =>
        SameBut [] s t ∧ t.hkp = s.hkp)) ∧
    (s.hkp.thack = true →
      (causeNow s 188 = true → Completes (exec .thackDone s) fun t => t.hkp.thack = false ∧ t.nvm = s.nvm ∧
        getF t F.HKP_THCTL_THACK 0 = 0 ∧ SameBut [(F.HKP_THCTL_THACK, 0)] s t) ∧
      (causeNow s 188 = false → Completes (exec .thackDone s) fun t => t.hkp.thack = false ∧ t.nvm.thermal = none ∧
        getF t F.HKP_THCTL_THACK 0 = 0 ∧ getF t F.DEV_STATE_THERMREC 0 = 0 ∧
        (getF t (F.EVT .hkp) 0).testBit E.HKP_THACK_DONE = true ∧
        ∀ q, unacked s = [q] → ∃ x ∈ t.nvm.recs, committed x.r = true ∧ x.r.typ = 0x21 ∧ ackedSeq x.r = q)) ∧
    (served → getF s F.FLT_STATE_EMBANK 0 = 0 → getF s F.HKP_THCTL_SENSCLR 0 = 0 → Completes (exec (.sensclr i sens all) s) fun t =>
      let acted (j : Nat) : Prop := all = true ∨ sens.toNat = j
      getF t F.HKP_THCTL_SENS 0 = sens.toNat ∧ getF t F.HKP_THCTL_SENSALL 0 = b2n all ∧
      (∀ j < 40, acted j → getF t (F.HKP_X1_FAILED j) 0 = 0 ∧ getF t (F.HKP_X1_T j) 0 = getF s (F.HKP_X1_T j) 0 ∧
        (getF s (F.HKP_X1_FAILED j) 0 = 1 → (sensOf t j).hist = [] ∧ (sensOf t j).bad = false ∧
          getF t (F.HKP_X1_SUBST j) 0 = 0)) ∧
      (∀ j < 40, ¬ acted j → getF t (F.HKP_X1_FAILED j) 0 = getF s (F.HKP_X1_FAILED j) 0 ∧ sensOf t j = sensOf s j) ∧
      ∀ j < 32, (getF t F.HKP_FAILMAP_LO_F 0).testBit j = decide (getF t (F.HKP_X1_FAILED j) 0 = 1)) ∧
    (mayWrite s i .hkp 0 (if b then 0x048 else 0x044) = true →
      let lo := signed (v.toNat % 2 ^ 16) 16
      let hi := signed (v.toNat / 2 ^ 16) 16
      let ordered (start full shut resume : Int) : Prop := resume < start ∧ start < full ∧ full < shut ∧ shut ≤ 1120
      let start := thr s F.HKP_THRA_THR_START
      let full := thr s F.HKP_THRA_THR_FULL
      let shut := thr s F.HKP_THRB_THR_SHUT
      let resume := thr s F.HKP_THRB_THR_RESUME
      let after : Prop := if b then ordered start full lo hi else ordered lo hi shut resume
      let low := if b then F.HKP_THRB_THR_SHUT else F.HKP_THRA_THR_START
      let high := if b then F.HKP_THRB_THR_RESUME else F.HKP_THRA_THR_FULL
      ordered start full shut resume →
      (after → Completes (exec (.thresholdWrite i b v) s) fun t =>
        getF t low 0 = v.toNat % 2 ^ 16 ∧ getF t high 0 = v.toNat / 2 ^ 16 ∧ SameBut [(low, 0), (high, 0)] s t ∧ RegsOnly s t) ∧
      (¬ after → Completes (exec (.thresholdWrite i b v) s) fun t =>
        (getF t (F.EVT .hkp) 0).testBit E.HKP_THR_REJECT = true ∧ SameBut [(F.EVT .hkp, 0), (F.EVT_SEQ .hkp, 0)] s t))

/-! Start-up and non-volatile records. -/

/-- R435, R436, R443, R448, R454, R459: the OTP shows its fields; the image that runs is the accepted one of the higher SVN, then
version, then slot A, and without one the ROM enters recovery, where the MPLL acquires lock (R446); at BOOT 1 the records are selected,
and an unacknowledged thermal record enters Embankment mode with FS188 LATCHED; once the PHYs are initialised (R443) BOOT reaches 4,
before nothing happens. -/
def Obligations.StartUp : Prop :=
  ∀ s : State,
    let rank (x : FwImage) : Nat := 2 ^ 32 * x.svn.toNat + 2 ^ 16 * x.major.toNat + x.minor.toNat
    let n := s.nvm
    (s.pwr.aux = true → s.pwr.otp = false → Completes (exec .otpRead s) fun t =>
      t.pwr.otp = true ∧ getF t F.SEC_STATE_LIFECYCLE 0 = s.otp.lc % 4 ∧ getF t F.DEV_STATE_LIFECYCLE 0 = s.otp.lc % 4 ∧
      get64 t F.DEV_SERIAL_LO_SN F.DEV_SERIAL_HI_SN 0 = s.otp.serial ∧ getF t F.SEC_ARB_COUNT 0 = s.otp.arb % 128 ∧
      (∀ k < 4, (getF t F.SEC_KEYSLOT_PROGD 0).testBit k = !(Store.get s.otp.okh [] k).isEmpty ∧
        (getF t F.SEC_KEYSLOT_REVOKED 0).testBit k = s.otp.revoked.contains k) ∧
      SameBut [(F.SEC_STATE_LIFECYCLE, 0), (F.DEV_STATE_LIFECYCLE, 0), (F.DEV_SERIAL_LO_SN, 0), (F.DEV_SERIAL_HI_SN, 0),
        (F.SEC_ARB_COUNT, 0), (F.SEC_KEYSLOT_PROGD, 0), (F.SEC_KEYSLOT_REVOKED, 0)] s t) ∧
    (s.pwr.otp = true → s.pwr.img = false → getF s F.SEC_STATE_ROMREC 0 = 0 →
      Completes (exec .imageVerify s) fun t =>
        ((∀ x, n.slotA = some x ∨ n.slotB = some x → imgOk s x = false) →
          getF t F.SEC_STATE_ROMREC 0 = 1 ∧ t.pwr.img = false ∧
          if getF s F.DEV_STATE_MAINPWR 0 = 1 ∧ mstate s = 0 then mstate t = 1
          else SameBut [(F.SEC_STATE_ROMREC, 0)] s t) ∧
        ∀ (x : FwImage) (b : Bool), (if b then n.slotB else n.slotA) = some x → imgOk s x = true →
          (∀ y, (if b then n.slotA else n.slotB) = some y → imgOk s y = true → if b then rank y < rank x else rank y ≤ rank x) →
          t.pwr.img = true ∧ t.sec.img = some x ∧ t.sec.slotB = b ∧ getF t F.DEV_FWVER_MINOR 0 = x.minor.toNat ∧
          getF t F.DEV_FWVER_MAJOR 0 = x.major.toNat ∧ getF t F.SEC_ARB_FWSVN 0 = x.svn.toNat % 128) ∧
    (s.pwr.img = true → isSet s F.DEV_STATE_MAINPWR 0 = true → getF s F.DEV_STATE_BOOT 0 = 0 → Completes (exec .nvmLoad s) fun t =>
      getF t F.DEV_STATE_BOOT 0 = 1 ∧ getF t F.NVM_STATE_LOADED 0 = 1 ∧ mstate t = 1 ∧
      t.nvm.loaded = storeTypes.filterMap (fun typ => (newestOf s typ).map (·.r)) ∧
      getF t F.DEV_STATE_THERMREC 0 = b2n (unackedThermal s).isSome ∧ t.nvm.thermal = unackedThermal s ∧
      ((unackedThermal s).isSome = true → getF t F.FLT_STATE_EMBANK 0 = 1 ∧
        (getF s (F.FLT_X2_FSTATE 188) 0 = 0 → getF t (F.FLT_X2_FSTATE 188) 0 = 3) ∧
        (getF s F.FLT_STATE_EMBANK 0 = 0 → getF t F.FLT_EMBINFO_CAUSE 0 = 1 ∧ getF t F.FLT_EMBINFO_SRC 0 = 188))) ∧
    (s.pwr.phy = false → Completes (exec .bootReady s) fun t => t = cycle s) ∧
    (s.pwr.phy = true → getF s F.DEV_STATE_BOOT 0 = 2 ∨ getF s F.DEV_STATE_BOOT 0 = 3 → Completes (exec .bootReady s) fun t =>
      getF t F.DEV_STATE_BOOT 0 = 4 ∧ (getF t (F.EVT .dev) 0).testBit E.DEV_READY = true ∧
      SameBut [(F.DEV_STATE_BOOT, 0), (F.EVT .dev, 0), (F.EVT_SEQ .dev, 0)] s t)

/-- R452, R453, R455, R456: a record write, CALSAVE or REFRESH that is accepted makes the NVM busy, one that is not is refused with its
reason (in ROM recovery with one that the manual does not give); at its end the record stands with the commit word and the next SEQ, or
reason 5 is shown. A refresh writes its records again and, from an image that verifies, at most one firmware slot a day; the daily one
writes what is older than 12 months (365 or 366 days of hours, log entry 56); an hour counts and is recorded. -/
def Obligations.NvmOperations : Prop :=
  ∀ (i : Initiator) (typ : BitVec 16) (ok : Bool) (old : List (BitVec 64)) (slotA slotB : Bool) (s : State),
    let len := getF s F.NVM_WRLEN_LEN 0
    let poh := getF s F.NVM_POH_H 0
    let started (op : NvmOp) (go : Fld) (t : State) : Prop := t.nvm = { s.nvm with op := some op } ∧
      getF t F.NVM_STATE_BUSY 0 = 1 ∧ getF t go 0 = 1 ∧ (go ≠ F.NVM_REFRESH_GO → getF t F.NVM_WRERR_REASON 0 = 0)
    let rejected (why : Nat) (t : State) : Prop := getF t F.NVM_WRERR_REASON 0 = why ∧ t.nvm.op = s.nvm.op ∧
      (getF t (F.EVT .nvm) 0).testBit E.NVM_WR_REJECT = true
    let idle (t : State) : Prop := t.nvm.op = none ∧
      ∀ f ∈ [F.NVM_STATE_BUSY, F.NVM_WRCTL_GO, F.NVM_CALSAVE_GO, F.NVM_REFRESH_GO], getF t f 0 = 0
    let written (ty : BitVec 16) (pay : List Byte) (t : State) : Prop := ∃ x ∈ t.nvm.recs, x.r.typ = ty ∧ x.r.payload = pay ∧
      x.r.commit = 0xC0A117ED ∧ x.r.crcOk = true ∧ x.r.ver = 1 ∧ get64 t F.NVM_SEQ_LO_S F.NVM_SEQ_HI_S 0 = x.r.seq + 1
    let badType : Prop := typ.toNat < 2 ∨ 6 < typ.toNat ∨ typ.toNat = 6 ∧ s.otp.lc ≠ 0
    let rom : Prop := getF s F.SEC_STATE_ROMREC 0 = 1
    let runs (slot : Option FwImage) : Bool := slot.any (imgOk s)
    let aged (h : Nat) (told : Bool) : Bool := decide (8784 < poh - h) || (told && decide (8760 < poh - h))
    (mayWrite s i .nvm 0 0x040 = true → getF s F.NVM_WRCTL_GO 0 = 0 → rom → Completes (exec (.nvmRecordWrite i typ) s) fun t =>
      t.nvm = s.nvm ∧ (getF t (F.EVT .nvm) 0).testBit E.NVM_WR_REJECT = true) ∧
    (mayWrite s i .nvm 0 0x040 = true → getF s F.NVM_WRCTL_GO 0 = 0 → ¬ rom →
      (badType → Completes (exec (.nvmRecordWrite i typ) s) (rejected 1)) ∧
      (¬ badType → lenFits typ.toNat len = false → Completes (exec (.nvmRecordWrite i typ) s) (rejected 2)) ∧
      (¬ badType → lenFits typ.toNat len = true → s.nvm.op.isSome = true →
        Completes (exec (.nvmRecordWrite i typ) s) (rejected 4)) ∧
      (¬ badType → lenFits typ.toNat len = true → s.nvm.op = none → Completes (exec (.nvmRecordWrite i typ) s)
        (started (.write typ (Memory.readN s.mbox (mbReq (areaPort i)) len) false) F.NVM_WRCTL_GO))) ∧
    (mayWrite s i .nvm 0 0x050 = true → getF s F.NVM_CALSAVE_GO 0 = 0 →
      (rom → Completes (exec (.calsave i) s) fun t =>
        t.nvm = s.nvm ∧ (getF t (F.EVT .nvm) 0).testBit E.NVM_WR_REJECT = true) ∧
      (¬ rom → s.nvm.op.isSome = true → Completes (exec (.calsave i) s) (rejected 4)) ∧
      (¬ rom → s.nvm.op = none → Completes (exec (.calsave i) s) (started (.write 1 (calPayload s) true) F.NVM_CALSAVE_GO))) ∧
    (mayWrite s i .nvm 0 0x04C = true → getF s F.NVM_REFRESH_GO 0 = 0 →
      (s.nvm.op.isSome = true ∨ rom → Completes (exec (.refresh i) s) fun t => SameBut [] s t ∧ t.nvm = s.nvm) ∧
      (s.nvm.op = none → ¬ rom → Completes (exec (.refresh i) s) (started .refresh F.NVM_REFRESH_GO))) ∧
    (∀ ty pay c, s.nvm.op = some (.write ty pay c) → ty ≠ 0x30 → pay.length ≤ 65520 → Completes (exec (.wrDone ok) s) fun t => idle t ∧
      (ok = true → written ty pay t ∧ (getF t (F.EVT .nvm) 0).testBit E.NVM_WR_DONE = true) ∧
      (ok = false → t.nvm.recs = s.nvm.recs ∧ getF t F.NVM_WRERR_REASON 0 = 5 ∧
        (getF t (F.EVT .nvm) 0).testBit E.NVM_WR_REJECT = true)) ∧
    (s.nvm.op = some .refresh → Completes (exec .refreshDone s) fun t => idle t ∧ t.nvm.slotA = s.nvm.slotA ∧
      t.nvm.slotB = s.nvm.slotB ∧ (getF t (F.EVT .nvm) 0).testBit E.NVM_REFRESH_DONE = true ∧
      (s.nvm.slotHr = none → t.nvm.slotHr = (if runs s.nvm.slotA || runs s.nvm.slotB then some poh else none) ∧
        t.nvm.eraseA + t.nvm.eraseB = s.nvm.eraseA + s.nvm.eraseB + b2n (runs s.nvm.slotA || runs s.nvm.slotB)) ∧
      ∀ r, refreshable s = [r] → r.typ ∉ [0x21, 0x30] → r.payload.length ≤ 65520 → written r.typ r.payload t) ∧
    (nvmReady s = true → s.nvm.op = none → Completes (exec (.dailyRefresh old slotA slotB) s) fun t =>
      (∀ r, refreshable s = [r] → r.typ ∉ [0x21, 0x30] → r.payload.length ≤ 65520 →
        aged (hourOf s r.seq) (old.contains r.seq) = true → written r.typ r.payload t) ∧
      ((∀ r ∈ refreshable s, aged (hourOf s r.seq) (old.contains r.seq) = false) → t.nvm.recs = s.nvm.recs) ∧
      let due := s.nvm.slotHr.all (fun x => decide (x + 24 ≤ poh))
      let a := due && aged s.nvm.hourA slotA && runs s.nvm.slotA
      let b := due && !a && aged s.nvm.hourB slotB && runs s.nvm.slotB
      t.nvm.hourA = (if a then poh else s.nvm.hourA) ∧ t.nvm.eraseA = s.nvm.eraseA + b2n a ∧
      t.nvm.hourB = (if b then poh else s.nvm.hourB) ∧ t.nvm.eraseB = s.nvm.eraseB + b2n b ∧
      t.nvm.slotHr = if a || b then some poh else s.nvm.slotHr) ∧
    (nvmReady s = true → Completes (exec .hoursRecord s) fun t =>
      getF t F.NVM_POH_H 0 = (poh + 1) % 2 ^ F.NVM_POH_H.w.val ∧
      written 0x30 (toBytes 8 (poh + 1) ++ toBytes 8 (get64 s F.NVM_SEQ_LO_S F.NVM_SEQ_HI_S 0).toNat) t)

/-! Security. -/

/-- R449, R458 to R460: ADV raises the anti-rollback count to the SVN of the running image; PROG programs an empty slot with 32 bytes
of the port's request area, REVOKE revokes one; LCCTL with its key begins an advance that R460 allows, which ends with the lifecycle
changed and, in Retired, the seeds, the records and the sessions gone. -/
def Obligations.FusesAndLifecycle : Prop :=
  ∀ (i : Initiator) (slot : Fin 4) (key : BitVec 8) (target : BitVec 2) (s : State),
    let evt (b : Nat) (t : State) : Prop := (getF t (F.EVT .sec) 0).testBit b = true
    let okh (u : State) (k : Nat) : List Byte := Store.get u.otp.okh [] k
    (mayWrite s i .sec 0 0x044 = true → getF s F.SEC_ARB_ADV 0 = 0 →
      (getF s F.SEC_STATE_ROMREC 0 = 1 ∨ s.otp.lc = 0 → Completes (exec (.adv i) s) fun t => evt E.SEC_ARB_REJECT t ∧
        t.otp = s.otp ∧ SameBut [(F.EVT .sec, 0), (F.EVT_SEQ .sec, 0)] s t) ∧
      (∀ x, getF s F.SEC_STATE_ROMREC 0 = 0 → s.otp.lc ≠ 0 → s.sec.img = some x → Completes (exec (.adv i) s) fun t =>
        t.otp = { s.otp with arb := max s.otp.arb x.svn.toNat } ∧ getF t F.SEC_ARB_COUNT 0 = max s.otp.arb x.svn.toNat % 128 ∧
        SameBut [(F.SEC_ARB_COUNT, 0)] s t)) ∧
    (mayWrite s i .sec 0 0x04C = true → getF s F.SEC_KEYCTL_PROG 0 = 0 → getF s F.SEC_KEYCTL_REVOKE 0 = 0 →
      (s.otp.lc = 3 ∨ okh s slot.val ≠ [] → Completes (exec (.prog i slot) s) fun t => evt E.SEC_KEY_REJECT t ∧ t.otp = s.otp) ∧
      (s.otp.lc ≠ 3 → okh s slot.val = [] → Completes (exec (.prog i slot) s) fun t =>
        okh t slot.val = Memory.readN s.mbox (mbReq (areaPort i)) 32 ∧ (∀ k, k ≠ slot.val → okh t k = okh s k) ∧
        (getF t F.SEC_KEYSLOT_PROGD 0).testBit slot.val = true ∧ getF t F.SEC_KEYCTL_SLOT 0 = slot.val) ∧
      Completes (exec (.revoke i slot) s) fun t => (∀ k, k ∈ t.otp.revoked ↔ k = slot.val ∨ k ∈ s.otp.revoked) ∧
        t.otp = { s.otp with revoked := t.otp.revoked } ∧ okhValid t slot.val = false ∧
        (getF t F.SEC_KEYSLOT_REVOKED 0).testBit slot.val = true ∧ getF t F.SEC_KEYCTL_SLOT 0 = slot.val) ∧
    (mayWrite s i .sec 0 0x040 = true → getF s F.SEC_LCCTL_GO 0 = 0 →
      let fits : Prop := (target.toNat = s.otp.lc + 1 ∨ s.otp.lc = 0 ∧ target.toNat = 2) ∧ ∀ p < 64, rsOf s p = .off ∨ rsOf s p = .dike
      (key ≠ 0x5A → Completes (exec (.lifecycleAdvance i key target) s) fun t => t = cycle s) ∧
      (key = 0x5A → fits → Completes (exec (.lifecycleAdvance i key target) s) fun t => t.sec.lcTo = some target.toNat ∧
        getF t F.SEC_LCCTL_GO 0 = 1 ∧ t.otp = s.otp) ∧
      (key = 0x5A → ¬ fits → Completes (exec (.lifecycleAdvance i key target) s) fun t => t.sec = s.sec ∧ evt E.SEC_LC_REJECT t ∧
        getF t F.SEC_LCCTL_GO 0 = 0)) ∧
    ∀ lc, s.sec.lcTo = some lc → Completes (exec .lcDone s) fun t =>
      t.otp.lc = lc ∧ t.sec.lcTo = none ∧ getF t F.SEC_STATE_LIFECYCLE 0 = lc % 4 ∧ getF t F.DEV_STATE_LIFECYCLE 0 = lc % 4 ∧
      getF t F.SEC_LCCTL_GO 0 = 0 ∧ evt E.SEC_LC_DONE t ∧
      (lc ≠ 3 → t.nvm = s.nvm ∧ t.otp.seeds = s.otp.seeds) ∧
      (lc = 3 → t.otp.seeds = false ∧ t.nvm.recs = s.nvm.recs.filter (fun x => x.ring == 3) ∧
        ∀ p < 2, getF t F.PHL_STATE_SESS p ≤ 1)

/-- R463, R464: CHREQ gives the port a fresh nonce bound to its epoch. GO uses the challenge; the first reason that applies is the
result, in the order 8, 7, 2, 3, 4, 5, 6 (the model's choice, assumption log, entry 27), else 1, which raises the session; a check
that the port retrained in ends with 6, unless it is locked out (the same entry); four failures in a row lock the port out for 10 s. -/
def Obligations.CustodianSessions : Prop :=
  ∀ (i : Initiator) (port : Fin 2) (slot : BitVec 2) (s : State),
    let p := port.val
    let x := secOf s p
    let a := mbReq p
    let epoch := getF s F.PHL_STATE_EPOCH (sessPort s p)
    let bound := getF s (F.SEC_AUTHSTAT_EPOCH p) 0
    let key := Memory.readN s.mbox a 48
    let msg := toBytes 8 s.otp.serial.toNat ++ toBytes 1 p ++ toBytes 1 bound ++ nonceBytes s p
    let verdict := if (match x.lockout with | some t0 => earlier (now s) t0 | none => false) then 8
      else if s.otp.lc = 3 then 7
      else if (match x.chal with | some t0 => earlier (t0 + tenSeconds) (now s) | none => true) then 2
      else if okhValid s slot.toNat = false then 3
      else if Config.sha256 key ≠ Store.get s.otp.okh [] slot.toNat then 4
      else if Config.slhVerify key ctxAuth msg (Memory.readN s.mbox (a + 48) 16224) = false then 5
      else if bound ≠ epoch then 6 else 1
    (servedPage s .sec 0 (0x060 + 0x40 * p) = .yes →
      (getF s (F.SEC_AUTHCTL_CHREQ p) 0 = 0 → Completes (exec (.chreq i port) s) fun t =>
        (∀ j < 8, getF t (F.SEC_NONCE_N p j) 0 = (Config.nonce s.free).toNat / 2 ^ (32 * j) % 2 ^ 32) ∧
        getF t (F.SEC_AUTHSTAT_EPOCH p) 0 = epoch ∧ (secOf t p).chal = some (now s) ∧ t.free = s.free + 1) ∧
      (getF s (F.SEC_AUTHCTL_GO p) 0 = 0 → Completes (exec (.authGo i port slot) s) fun t =>
        secOf t p = { x with chal := none, verdict := some verdict, goEpoch := epoch } ∧
        getF t (F.SEC_AUTHCTL_GO p) 0 = 1 ∧ getF t (F.SEC_AUTHCTL_SLOT p) 0 = slot.toNat ∧
        SameBut [(F.SEC_AUTHCTL_GO p, 0), (F.SEC_AUTHCTL_SLOT p, 0)] s t)) ∧
    ∀ v, x.verdict = some v → v < 16 →
      let r := if v ≠ 8 ∧ x.goEpoch ≠ epoch then 6 else v
      let sess := (sessPages s p).map (fun q => (F.PHL_STATE_SESS, q))
      Completes (exec (.authResult port) s) fun t =>
        getF t (F.SEC_AUTHSTAT_RESULT p) 0 = r ∧ getF t (F.SEC_AUTHCTL_GO p) 0 = 0 ∧ (secOf t p).verdict = none ∧
        (r = 1 → (∀ q ∈ sessPages s p, getF t F.PHL_STATE_SESS q = 2) ∧ (secOf t p).fails = 0 ∧
          (getF t (F.EVT .sec) 0).testBit E.SEC_AUTH_OK = true ∧
          SameBut (sess ++ [(F.SEC_AUTHSTAT_RESULT p, 0), (F.SEC_AUTHCTL_GO p, 0), (F.EVT .sec, 0), (F.EVT_SEQ .sec, 0)]) s t) ∧
        (r ≠ 1 → (getF t (F.EVT .sec) 0).testBit E.SEC_AUTH_FAIL = true ∧
          (r ≠ 8 → x.fails = 3 → (secOf t p).lockout = some (now s + tenSeconds) ∧ (secOf t p).fails = 0) ∧
          (r ≠ 8 → x.fails ≠ 3 → (secOf t p).lockout = x.lockout ∧ (secOf t p).fails = x.fails + 1) ∧
          SameBut [(F.SEC_AUTHSTAT_RESULT p, 0), (F.SEC_AUTHCTL_GO p, 0), (F.EVT .sec, 0), (F.EVT_SEQ .sec, 0)] s t)

/-- R461, R462, R465: MBCTL.GO hands over the operation that the request area holds, with status 1 for a bad length, 2 without the
privilege, 3 for an image that is rejected and 4 while the NVM is busy. The reply, its length and the status are written at the end; a
report is the fields of R462, over the nonce of its request, with their signature, and reports are made in the order of their requests,
from BOOT 1 on.
The ROM in recovery knows FW_UPDATE only (R455). -/
def Obligations.MailboxOperations : Prop :=
  ∀ (i : Initiator) (port : Fin 2) (ok : Bool) (s : State), memOk s = true →
    let p := port.val
    let x := secOf s p
    let len := mbLen s p
    let go := F.SEC_MBCTL_GO p
    let runs (st : Nat) (reply : List Byte) (flash : Option FwImage) (t : State) : Prop := getF t go 0 = 1 ∧
      secOf t p = { x with mbStat := some st, mbReply := reply, mbFlash := flash } ∧ SameBut [(go, 0)] s t
    let ends (st : Nat) (reply : List Byte) (t : State) : Prop := getF t go 0 = 0 ∧ getF t (F.SEC_MBSTAT_STATUS p) 0 = st % 256 ∧
      (secOf t p).mbStat = none ∧ Memory.readN t.mbox (mbRep p + 16) reply.length = reply ∧
      Memory.readN t.mbox (mbRep p + 4) 4 = toBytes 4 reply.length ∧
      (getF t (F.EVT .sec) 0).testBit (if p = 0 then E.SEC_MB_DONE0 else E.SEC_MB_DONE1) = true
    let image := Memory.readN s.dram (ofBytes (mbPay s p 8)) (ofBytes ((mbPay s p 12).drop 8))
    (mayWrite s i .sec 0 (0x088 + 0x40 * p) = true → getF s go 0 = 0 → getF s F.SEC_STATE_ROMREC 0 = 1 →
      ∀ c ∈ [(Instr.getCert i port, 1), (.attest i port, 2), (.nvmRead i port, 4)], mbOp s p = c.2 →
        Completes (exec c.1 s) (runs 1 [] none)) ∧
    (mayWrite s i .sec 0 (0x088 + 0x40 * p) = true → getF s go 0 = 0 → getF s F.SEC_STATE_ROMREC 0 = 0 →
      (mbOp s p = 1 → (len ≠ 0 → Completes (exec (.getCert i port) s) (runs 1 [] none)) ∧
        (∀ r, len = 0 → loadedOf s 6 = some r → Completes (exec (.getCert i port) s) (runs 0 r.payload none)) ∧
        (len = 0 → loadedOf s 6 = none → Completes (exec (.getCert i port) s) fun t => ∃ st < 256, runs st [] none t)) ∧
      (mbOp s p = 2 → (len ≠ 32 → Completes (exec (.attest i port) s) (runs 1 [] none)) ∧
        (len = 32 → s.otp.lc = 3 → Completes (exec (.attest i port) s) (runs 2 [] none)) ∧
        (len = 32 → s.otp.lc ≠ 3 → Completes (exec (.attest i port) s) fun t => t.sec.att = s.sec.att ++ [p] ∧
          (secOf t p).mbReply = mbPay s p 32 ∧ getF t F.SEC_STATE_ATTBUSY 0 = 1 ∧ getF t go 0 = 1 ∧
          SameBut [(go, 0), (F.SEC_STATE_ATTBUSY, 0)] s t)) ∧
      (mbOp s p = 3 → (len ≠ 12 → Completes (exec (.fwUpdate i port) s) (runs 1 [] none)) ∧
        (len = 12 → privileged s i = false → Completes (exec (.fwUpdate i port) s) (runs 2 [] none)) ∧
        (len = 12 → privileged s i = true → (s.nvm.op.isSome = true → Completes (exec (.fwUpdate i port) s) (runs 4 [] none)) ∧
          (s.nvm.op = none → Completes (exec (.fwUpdate i port) s) fun t =>
            (∀ y, parseImg image = some y → imgOk s y = true → runs 0 [] (some y) t) ∧
            ((∀ y, parseImg image = some y → imgOk s y = false) → runs 3 [] none t)))) ∧
      (mbOp s p = 4 → (len ≠ 2 → Completes (exec (.nvmRead i port) s) (runs 1 [] none)) ∧
        (∀ r, len = 2 → ofBytes (mbPay s p 2) ∈ storeTypes → loadedOf s (ofBytes (mbPay s p 2)) = some r →
          Completes (exec (.nvmRead i port) s) (runs 0 (toBytes 8 r.seq.toNat ++ r.payload) none)))) ∧
    (mayWrite s i .sec 0 (0x088 + 0x40 * p) = true → getF s go 0 = 0 → mbOp s p = 3 → getF s F.SEC_STATE_ROMREC 0 = 1 →
      privileged s i = true → s.nvm.op = none → len ≤ 65520 →
        let bs := s.sec.recov ++ mbPay s p len
        bs.length < 4 ∨ bs.length < 16384 + ofBytes (bs.take 4) → Completes (exec (.fwUpdate i port) s) fun t =>
          runs 0 [] none t ∧ t.sec.recov = bs) ∧
    (getF s F.DEV_STATE_BOOT 0 = 0 → Completes (exec (.attestDone port) s) fun t => t = cycle s) ∧
    (∀ l, s.sec.att = p :: l → getF s F.DEV_STATE_BOOT 0 ≠ 0 → Completes (exec (.attestDone port) s) fun t =>
      let body := reportBody s x.mbReply
      ends 0 (body ++ Config.slhSign ctxAtt body) t ∧ t.sec.att = l ∧ getF t F.SEC_STATE_ATTBUSY 0 = if l = [] then 0 else 1) ∧
    ∀ st, x.mbStat = some st →
      (x.mbFlash = none → Completes (exec (.mbDone port ok) s) (ends st x.mbReply)) ∧
      ∀ y, x.mbFlash = some y → Completes (exec (.mbDone port ok) s) fun t =>
        let spare := s.sec.img.isSome && !s.sec.slotB
        ends (if ok then 0 else 5) [] t ∧
        t.nvm.slotA = (if ok = true ∧ spare = false then some y else s.nvm.slotA) ∧
        t.nvm.slotB = (if ok = true ∧ spare = true then some y else s.nvm.slotB)
end

