-- ==== Sys2Proof/Laws/Store.lean ====
section
/-! SUPPORT. Sparse tables: what a key reads as after a change, and that changes keep the canonical form. -/

namespace Sys2Proof.Machine

theorem Store.get_del_ne {α : Type} (m : Store α) (d : α) {k j : Nat} (h : j ≠ k) :
    Store.get (Store.del m k) d j = Store.get m d j := by
  induction m with
  | nil => rfl
  | cons e m ih =>
    obtain ⟨a, v⟩ := e
    by_cases hk : a = k
    · subst hk; simp [Store.del, Store.get, ih, Ne.symm h]
    · simp only [Store.del, Store.get, hk, if_false]; rw [ih]

theorem Store.get_del_same {α : Type} (m : Store α) (d : α) (k : Nat) : Store.get (Store.del m k) d k = d := by
  induction m with
  | nil => rfl
  | cons e m ih =>
    obtain ⟨a, v⟩ := e
    by_cases hk : a = k <;> simp [Store.del, Store.get, hk, ih]

theorem Store.get_ins_same {α : Type} (m : Store α) (d : α) (k : Nat) (v : α) :
    (∀ e ∈ m, e.1 ≠ k) → Store.get (Store.ins m k v) d k = v := by
  induction m with
  | nil => simp [Store.ins, Store.get]
  | cons e m ih =>
    obtain ⟨a, w⟩ := e
    intro h
    have ha : a ≠ k := h (a, w) (by simp)
    by_cases hk : k < a
    · simp [Store.ins, Store.get, hk]
    · simp [Store.ins, Store.get, hk, ha, ih (fun e he => h e (by simp [he]))]

theorem Store.get_ins_ne {α : Type} (m : Store α) (d : α) {k j : Nat} (v : α) (h : j ≠ k) :
    Store.get (Store.ins m k v) d j = Store.get m d j := by
  induction m with
  | nil => simp [Store.ins, Store.get, Ne.symm h]
  | cons e m ih =>
    obtain ⟨a, w⟩ := e
    by_cases hk : k < a
    · simp [Store.ins, Store.get, hk, Ne.symm h]
    · simp [Store.ins, Store.get, hk, ih]

theorem Store.mem_del {α : Type} (m : Store α) (k : Nat) : ∀ e ∈ Store.del m k, e ∈ m ∧ e.1 ≠ k := by
  induction m with
  | nil => simp [Store.del]
  | cons e m ih =>
    obtain ⟨a, v⟩ := e
    intro e he
    by_cases hk : a = k
    · simp only [Store.del, hk, if_true] at he
      exact ⟨List.mem_cons_of_mem _ (ih e he).1, (ih e he).2⟩
    · simp only [Store.del, hk, if_false, List.mem_cons] at he
      rcases he with rfl | he
      · exact ⟨by simp, hk⟩
      · exact ⟨List.mem_cons_of_mem _ (ih e he).1, (ih e he).2⟩

/-- A table reads what was put under a key. -/
@[simp] theorem Store.get_put_same {α : Type} [DecidableEq α] (m : Store α) (d : α) (k : Nat) (v : α) :
    Store.get (Store.put m d k v) d k = v := by
  unfold Store.put
  split
  · rename_i h; rw [h, Store.get_del_same]
  · exact Store.get_ins_same _ _ _ _ (fun e he => (Store.mem_del m k e he).2)

/-- A put leaves every other key alone, whatever defaults the two keys have. -/
theorem Store.get_put_ne {α : Type} [DecidableEq α] (m : Store α) (d d' : α) {k j : Nat} (v : α) (h : j ≠ k) :
    Store.get (Store.put m d k v) d' j = Store.get m d' j := by
  unfold Store.put
  split
  · exact Store.get_del_ne m d' h
  · rw [Store.get_ins_ne _ _ _ h, Store.get_del_ne m d' h]

/-! The canonical form. -/

theorem Store.rising_cons {α : Type} (e : Nat × α) (m : Store α) :
    Store.rising (e :: m) = true ↔ (∀ x ∈ m, e.1 < x.1) ∧ Store.rising m = true := by
  induction m generalizing e with
  | nil => obtain ⟨k, v⟩ := e; simp [Store.rising]
  | cons x m ih =>
    obtain ⟨k, v⟩ := e
    obtain ⟨a, w⟩ := x
    simp only [Store.rising, Bool.and_eq_true, decide_eq_true_eq, List.mem_cons, forall_eq_or_imp]
    constructor
    · rintro ⟨h, hr⟩
      have := (ih (a, w)).1 hr
      exact ⟨⟨h, fun y hy => lt_trans h (this.1 y hy)⟩, hr⟩
    · rintro ⟨⟨h, -⟩, hr⟩
      exact ⟨h, hr⟩

theorem Store.rising_del {α : Type} (m : Store α) (k : Nat) (h : Store.rising m = true) : Store.rising (Store.del m k) = true := by
  induction m with
  | nil => rfl
  | cons e m ih =>
    have hc := (Store.rising_cons e m).1 h
    obtain ⟨a, v⟩ := e
    by_cases hk : a = k
    · simpa [Store.del, hk] using ih hc.2
    · simp only [Store.del, hk, if_false]
      exact (Store.rising_cons _ _).2 ⟨fun x hx => hc.1 x (Store.mem_del m k x hx).1, ih hc.2⟩

theorem Store.mem_ins {α : Type} (m : Store α) (k : Nat) (v : α) : ∀ e, e ∈ Store.ins m k v ↔ e = (k, v) ∨ e ∈ m := by
  induction m with
  | nil => simp [Store.ins]
  | cons x m ih =>
    obtain ⟨a, w⟩ := x
    intro e
    by_cases hk : k < a
    · simp [Store.ins, hk]
    · simp only [Store.ins, hk, if_false, List.mem_cons, ih]
      tauto

theorem Store.rising_ins {α : Type} (m : Store α) (k : Nat) (v : α) (hk : ∀ e ∈ m, e.1 ≠ k) (h : Store.rising m = true) :
    Store.rising (Store.ins m k v) = true := by
  induction m with
  | nil => rfl
  | cons x m ih =>
    have hc := (Store.rising_cons x m).1 h
    obtain ⟨a, w⟩ := x
    have ha : a ≠ k := hk (a, w) (by simp)
    by_cases hlt : k < a
    · simp only [Store.ins, hlt, if_true]
      refine (Store.rising_cons _ _).2 ⟨fun y hy => ?_, h⟩
      rcases List.mem_cons.1 hy with rfl | hy
      · exact hlt
      · exact lt_trans hlt (hc.1 y hy)
    · simp only [Store.ins, hlt, if_false]
      refine (Store.rising_cons _ _).2 ⟨fun y hy => ?_, ih (fun e he => hk e (by simp [he])) hc.2⟩
      rcases (Store.mem_ins m k v y).1 hy with rfl | hy
      · exact lt_of_le_of_ne (not_lt.1 hlt) ha
      · exact hc.1 y hy

/-- A put keeps the canonical form. -/
theorem Store.wf_put {α : Type} [DecidableEq α] (m : Store α) (d : Nat → α) (k : Nat) (v : α) (h : Store.wf m d = true) :
    Store.wf (Store.put m (d k) k v) d = true := by
  unfold Store.wf at *
  simp only [Bool.and_eq_true, List.all_eq_true, decide_eq_true_eq] at *
  unfold Store.put
  split
  · exact ⟨Store.rising_del m k h.1, fun e he => h.2 e (Store.mem_del m k e he).1⟩
  · rename_i hv
    refine ⟨Store.rising_ins _ _ _ (fun e he => (Store.mem_del m k e he).2) (Store.rising_del m k h.1), fun e he => ?_⟩
    rcases (Store.mem_ins _ k v e).1 he with rfl | he
    · exact hv
    · exact h.2 e (Store.mem_del m k e he).1

end Sys2Proof.Machine
end

