-- ==== Sys2Proof/Laws/State.lean ====
section
/-! SUPPORT. The named updates of State, field by field: an update of one field leaves every other field as it is, and what an
update wrote reads back. -/

namespace Sys2Proof.Machine

/-! setF writes regs only. -/

@[simp] theorem setF_wide (s : State) (f : Fld) (n v : Nat) : (setF s f n v).wide = s.wide := rfl
@[simp] theorem setF_stage (s : State) (f : Fld) (n v : Nat) : (setF s f n v).stage = s.stage := rfl
@[simp] theorem setF_posted (s : State) (f : Fld) (n v : Nat) : (setF s f n v).posted = s.posted := rfl
@[simp] theorem setF_strms (s : State) (f : Fld) (n v : Nat) : (setF s f n v).strms = s.strms := rfl
@[simp] theorem setF_acqs (s : State) (f : Fld) (n v : Nat) : (setF s f n v).acqs = s.acqs := rfl
@[simp] theorem setF_chans (s : State) (f : Fld) (n v : Nat) : (setF s f n v).chans = s.chans := rfl
@[simp] theorem setF_pols (s : State) (f : Fld) (n v : Nat) : (setF s f n v).pols = s.pols := rfl
@[simp] theorem setF_queues (s : State) (f : Fld) (n v : Nat) : (setF s f n v).queues = s.queues := rfl
@[simp] theorem setF_dss (s : State) (f : Fld) (n v : Nat) : (setF s f n v).dss = s.dss := rfl
@[simp] theorem setF_bnds (s : State) (f : Fld) (n v : Nat) : (setF s f n v).bnds = s.bnds := rfl
@[simp] theorem setF_dies (s : State) (f : Fld) (n v : Nat) : (setF s f n v).dies = s.dies := rfl
@[simp] theorem setF_flts (s : State) (f : Fld) (n v : Nat) : (setF s f n v).flts = s.flts := rfl
@[simp] theorem setF_fltBad (s : State) (f : Fld) (n v : Nat) : (setF s f n v).fltBad = s.fltBad := rfl
@[simp] theorem setF_dram (s : State) (f : Fld) (n v : Nat) : (setF s f n v).dram = s.dram := rfl
@[simp] theorem setF_rtr (s : State) (f : Fld) (n v : Nat) : (setF s f n v).rtr = s.rtr := rfl
@[simp] theorem setF_clk (s : State) (f : Fld) (n v : Nat) : (setF s f n v).clk = s.clk := rfl
@[simp] theorem setF_bgl (s : State) (f : Fld) (n v : Nat) : (setF s f n v).bgl = s.bgl := rfl
@[simp] theorem setF_hkp (s : State) (f : Fld) (n v : Nat) : (setF s f n v).hkp = s.hkp := rfl
@[simp] theorem setF_pwr (s : State) (f : Fld) (n v : Nat) : (setF s f n v).pwr = s.pwr := rfl
@[simp] theorem setF_nvm (s : State) (f : Fld) (n v : Nat) : (setF s f n v).nvm = s.nvm := rfl
@[simp] theorem setF_otp (s : State) (f : Fld) (n v : Nat) : (setF s f n v).otp = s.otp := rfl
@[simp] theorem setF_sec (s : State) (f : Fld) (n v : Nat) : (setF s f n v).sec = s.sec := rfl
@[simp] theorem setF_ports (s : State) (f : Fld) (n v : Nat) : (setF s f n v).ports = s.ports := rfl
@[simp] theorem setF_smb (s : State) (f : Fld) (n v : Nat) : (setF s f n v).smb = s.smb := rfl
@[simp] theorem setF_jtag (s : State) (f : Fld) (n v : Nat) : (setF s f n v).jtag = s.jtag := rfl
@[simp] theorem setF_mbox (s : State) (f : Fld) (n v : Nat) : (setF s f n v).mbox = s.mbox := rfl
@[simp] theorem setF_dramBad (s : State) (f : Fld) (n v : Nat) : (setF s f n v).dramBad = s.dramBad := rfl
@[simp] theorem setF_pool (s : State) (f : Fld) (n v : Nat) : (setF s f n v).pool = s.pool := rfl
@[simp] theorem setF_ret (s : State) (f : Fld) (n v : Nat) : (setF s f n v).ret = s.ret := rfl
@[simp] theorem setF_bdn (s : State) (f : Fld) (n v : Nat) : (setF s f n v).bdn = s.bdn := rfl
@[simp] theorem setF_clkSteps (s : State) (f : Fld) (n v : Nat) : (setF s f n v).clkSteps = s.clkSteps := rfl
@[simp] theorem setF_holds (s : State) (f : Fld) (n v : Nat) : (setF s f n v).holds = s.holds := rfl
@[simp] theorem setF_free (s : State) (f : Fld) (n v : Nat) : (setF s f n v).free = s.free := rfl
@[simp] theorem setF_cyc (s : State) (f : Fld) (n v : Nat) : (setF s f n v).cyc = s.cyc := rfl
@[simp] theorem setF_pending (s : State) (f : Fld) (n v : Nat) : (setF s f n v).pending = s.pending := rfl

/-! setWide writes wide only. -/

@[simp] theorem setWide_regs (s : State) (p : Page) (n sp e : Nat) (v : BitVec 192) : (setWide s p n sp e v).regs = s.regs := rfl
@[simp] theorem setWide_stage (s : State) (p : Page) (n sp e : Nat) (v : BitVec 192) : (setWide s p n sp e v).stage = s.stage := rfl
@[simp] theorem setWide_posted (s : State) (p : Page) (n sp e : Nat) (v : BitVec 192) : (setWide s p n sp e v).posted = s.posted := rfl
@[simp] theorem setWide_strms (s : State) (p : Page) (n sp e : Nat) (v : BitVec 192) : (setWide s p n sp e v).strms = s.strms := rfl
@[simp] theorem setWide_acqs (s : State) (p : Page) (n sp e : Nat) (v : BitVec 192) : (setWide s p n sp e v).acqs = s.acqs := rfl
@[simp] theorem setWide_chans (s : State) (p : Page) (n sp e : Nat) (v : BitVec 192) : (setWide s p n sp e v).chans = s.chans := rfl
@[simp] theorem setWide_pols (s : State) (p : Page) (n sp e : Nat) (v : BitVec 192) : (setWide s p n sp e v).pols = s.pols := rfl
@[simp] theorem setWide_queues (s : State) (p : Page) (n sp e : Nat) (v : BitVec 192) : (setWide s p n sp e v).queues = s.queues := rfl
@[simp] theorem setWide_dss (s : State) (p : Page) (n sp e : Nat) (v : BitVec 192) : (setWide s p n sp e v).dss = s.dss := rfl
@[simp] theorem setWide_bnds (s : State) (p : Page) (n sp e : Nat) (v : BitVec 192) : (setWide s p n sp e v).bnds = s.bnds := rfl
@[simp] theorem setWide_dies (s : State) (p : Page) (n sp e : Nat) (v : BitVec 192) : (setWide s p n sp e v).dies = s.dies := rfl
@[simp] theorem setWide_flts (s : State) (p : Page) (n sp e : Nat) (v : BitVec 192) : (setWide s p n sp e v).flts = s.flts := rfl
@[simp] theorem setWide_fltBad (s : State) (p : Page) (n sp e : Nat) (v : BitVec 192) : (setWide s p n sp e v).fltBad = s.fltBad := rfl
@[simp] theorem setWide_dram (s : State) (p : Page) (n sp e : Nat) (v : BitVec 192) : (setWide s p n sp e v).dram = s.dram := rfl
@[simp] theorem setWide_rtr (s : State) (p : Page) (n sp e : Nat) (v : BitVec 192) : (setWide s p n sp e v).rtr = s.rtr := rfl
@[simp] theorem setWide_clk (s : State) (p : Page) (n sp e : Nat) (v : BitVec 192) : (setWide s p n sp e v).clk = s.clk := rfl
@[simp] theorem setWide_bgl (s : State) (p : Page) (n sp e : Nat) (v : BitVec 192) : (setWide s p n sp e v).bgl = s.bgl := rfl
@[simp] theorem setWide_hkp (s : State) (p : Page) (n sp e : Nat) (v : BitVec 192) : (setWide s p n sp e v).hkp = s.hkp := rfl
@[simp] theorem setWide_pwr (s : State) (p : Page) (n sp e : Nat) (v : BitVec 192) : (setWide s p n sp e v).pwr = s.pwr := rfl
@[simp] theorem setWide_nvm (s : State) (p : Page) (n sp e : Nat) (v : BitVec 192) : (setWide s p n sp e v).nvm = s.nvm := rfl
@[simp] theorem setWide_otp (s : State) (p : Page) (n sp e : Nat) (v : BitVec 192) : (setWide s p n sp e v).otp = s.otp := rfl
@[simp] theorem setWide_sec (s : State) (p : Page) (n sp e : Nat) (v : BitVec 192) : (setWide s p n sp e v).sec = s.sec := rfl
@[simp] theorem setWide_ports (s : State) (p : Page) (n sp e : Nat) (v : BitVec 192) : (setWide s p n sp e v).ports = s.ports := rfl
@[simp] theorem setWide_smb (s : State) (p : Page) (n sp e : Nat) (v : BitVec 192) : (setWide s p n sp e v).smb = s.smb := rfl
@[simp] theorem setWide_jtag (s : State) (p : Page) (n sp e : Nat) (v : BitVec 192) : (setWide s p n sp e v).jtag = s.jtag := rfl
@[simp] theorem setWide_mbox (s : State) (p : Page) (n sp e : Nat) (v : BitVec 192) : (setWide s p n sp e v).mbox = s.mbox := rfl
@[simp] theorem setWide_dramBad (s : State) (p : Page) (n sp e : Nat) (v : BitVec 192) : (setWide s p n sp e v).dramBad = s.dramBad := rfl
@[simp] theorem setWide_pool (s : State) (p : Page) (n sp e : Nat) (v : BitVec 192) : (setWide s p n sp e v).pool = s.pool := rfl
@[simp] theorem setWide_ret (s : State) (p : Page) (n sp e : Nat) (v : BitVec 192) : (setWide s p n sp e v).ret = s.ret := rfl
@[simp] theorem setWide_bdn (s : State) (p : Page) (n sp e : Nat) (v : BitVec 192) : (setWide s p n sp e v).bdn = s.bdn := rfl
@[simp] theorem setWide_clkSteps (s : State) (p : Page) (n sp e : Nat) (v : BitVec 192) : (setWide s p n sp e v).clkSteps = s.clkSteps := rfl
@[simp] theorem setWide_holds (s : State) (p : Page) (n sp e : Nat) (v : BitVec 192) : (setWide s p n sp e v).holds = s.holds := rfl
@[simp] theorem setWide_free (s : State) (p : Page) (n sp e : Nat) (v : BitVec 192) : (setWide s p n sp e v).free = s.free := rfl
@[simp] theorem setWide_cyc (s : State) (p : Page) (n sp e : Nat) (v : BitVec 192) : (setWide s p n sp e v).cyc = s.cyc := rfl
@[simp] theorem setWide_pending (s : State) (p : Page) (n sp e : Nat) (v : BitVec 192) : (setWide s p n sp e v).pending = s.pending := rfl

/-! setStrm writes strms only. -/

@[simp] theorem setStrm_regs (s : State) (k : Nat) (x : Strm) : (setStrm s k x).regs = s.regs := rfl
@[simp] theorem setStrm_wide (s : State) (k : Nat) (x : Strm) : (setStrm s k x).wide = s.wide := rfl
@[simp] theorem setStrm_stage (s : State) (k : Nat) (x : Strm) : (setStrm s k x).stage = s.stage := rfl
@[simp] theorem setStrm_posted (s : State) (k : Nat) (x : Strm) : (setStrm s k x).posted = s.posted := rfl
@[simp] theorem setStrm_acqs (s : State) (k : Nat) (x : Strm) : (setStrm s k x).acqs = s.acqs := rfl
@[simp] theorem setStrm_chans (s : State) (k : Nat) (x : Strm) : (setStrm s k x).chans = s.chans := rfl
@[simp] theorem setStrm_pols (s : State) (k : Nat) (x : Strm) : (setStrm s k x).pols = s.pols := rfl
@[simp] theorem setStrm_queues (s : State) (k : Nat) (x : Strm) : (setStrm s k x).queues = s.queues := rfl
@[simp] theorem setStrm_dss (s : State) (k : Nat) (x : Strm) : (setStrm s k x).dss = s.dss := rfl
@[simp] theorem setStrm_bnds (s : State) (k : Nat) (x : Strm) : (setStrm s k x).bnds = s.bnds := rfl
@[simp] theorem setStrm_dies (s : State) (k : Nat) (x : Strm) : (setStrm s k x).dies = s.dies := rfl
@[simp] theorem setStrm_flts (s : State) (k : Nat) (x : Strm) : (setStrm s k x).flts = s.flts := rfl
@[simp] theorem setStrm_fltBad (s : State) (k : Nat) (x : Strm) : (setStrm s k x).fltBad = s.fltBad := rfl
@[simp] theorem setStrm_dram (s : State) (k : Nat) (x : Strm) : (setStrm s k x).dram = s.dram := rfl
@[simp] theorem setStrm_rtr (s : State) (k : Nat) (x : Strm) : (setStrm s k x).rtr = s.rtr := rfl
@[simp] theorem setStrm_clk (s : State) (k : Nat) (x : Strm) : (setStrm s k x).clk = s.clk := rfl
@[simp] theorem setStrm_bgl (s : State) (k : Nat) (x : Strm) : (setStrm s k x).bgl = s.bgl := rfl
@[simp] theorem setStrm_hkp (s : State) (k : Nat) (x : Strm) : (setStrm s k x).hkp = s.hkp := rfl
@[simp] theorem setStrm_pwr (s : State) (k : Nat) (x : Strm) : (setStrm s k x).pwr = s.pwr := rfl
@[simp] theorem setStrm_nvm (s : State) (k : Nat) (x : Strm) : (setStrm s k x).nvm = s.nvm := rfl
@[simp] theorem setStrm_otp (s : State) (k : Nat) (x : Strm) : (setStrm s k x).otp = s.otp := rfl
@[simp] theorem setStrm_sec (s : State) (k : Nat) (x : Strm) : (setStrm s k x).sec = s.sec := rfl
@[simp] theorem setStrm_ports (s : State) (k : Nat) (x : Strm) : (setStrm s k x).ports = s.ports := rfl
@[simp] theorem setStrm_smb (s : State) (k : Nat) (x : Strm) : (setStrm s k x).smb = s.smb := rfl
@[simp] theorem setStrm_jtag (s : State) (k : Nat) (x : Strm) : (setStrm s k x).jtag = s.jtag := rfl
@[simp] theorem setStrm_mbox (s : State) (k : Nat) (x : Strm) : (setStrm s k x).mbox = s.mbox := rfl
@[simp] theorem setStrm_dramBad (s : State) (k : Nat) (x : Strm) : (setStrm s k x).dramBad = s.dramBad := rfl
@[simp] theorem setStrm_pool (s : State) (k : Nat) (x : Strm) : (setStrm s k x).pool = s.pool := rfl
@[simp] theorem setStrm_ret (s : State) (k : Nat) (x : Strm) : (setStrm s k x).ret = s.ret := rfl
@[simp] theorem setStrm_bdn (s : State) (k : Nat) (x : Strm) : (setStrm s k x).bdn = s.bdn := rfl
@[simp] theorem setStrm_clkSteps (s : State) (k : Nat) (x : Strm) : (setStrm s k x).clkSteps = s.clkSteps := rfl
@[simp] theorem setStrm_holds (s : State) (k : Nat) (x : Strm) : (setStrm s k x).holds = s.holds := rfl
@[simp] theorem setStrm_free (s : State) (k : Nat) (x : Strm) : (setStrm s k x).free = s.free := rfl
@[simp] theorem setStrm_cyc (s : State) (k : Nat) (x : Strm) : (setStrm s k x).cyc = s.cyc := rfl
@[simp] theorem setStrm_pending (s : State) (k : Nat) (x : Strm) : (setStrm s k x).pending = s.pending := rfl

/-! setAcq writes acqs only. -/

@[simp] theorem setAcq_regs (s : State) (k : Nat) (x : AcqU) : (setAcq s k x).regs = s.regs := rfl
@[simp] theorem setAcq_wide (s : State) (k : Nat) (x : AcqU) : (setAcq s k x).wide = s.wide := rfl
@[simp] theorem setAcq_stage (s : State) (k : Nat) (x : AcqU) : (setAcq s k x).stage = s.stage := rfl
@[simp] theorem setAcq_posted (s : State) (k : Nat) (x : AcqU) : (setAcq s k x).posted = s.posted := rfl
@[simp] theorem setAcq_strms (s : State) (k : Nat) (x : AcqU) : (setAcq s k x).strms = s.strms := rfl
@[simp] theorem setAcq_chans (s : State) (k : Nat) (x : AcqU) : (setAcq s k x).chans = s.chans := rfl
@[simp] theorem setAcq_pols (s : State) (k : Nat) (x : AcqU) : (setAcq s k x).pols = s.pols := rfl
@[simp] theorem setAcq_queues (s : State) (k : Nat) (x : AcqU) : (setAcq s k x).queues = s.queues := rfl
@[simp] theorem setAcq_dss (s : State) (k : Nat) (x : AcqU) : (setAcq s k x).dss = s.dss := rfl
@[simp] theorem setAcq_bnds (s : State) (k : Nat) (x : AcqU) : (setAcq s k x).bnds = s.bnds := rfl
@[simp] theorem setAcq_dies (s : State) (k : Nat) (x : AcqU) : (setAcq s k x).dies = s.dies := rfl
@[simp] theorem setAcq_flts (s : State) (k : Nat) (x : AcqU) : (setAcq s k x).flts = s.flts := rfl
@[simp] theorem setAcq_fltBad (s : State) (k : Nat) (x : AcqU) : (setAcq s k x).fltBad = s.fltBad := rfl
@[simp] theorem setAcq_dram (s : State) (k : Nat) (x : AcqU) : (setAcq s k x).dram = s.dram := rfl
@[simp] theorem setAcq_rtr (s : State) (k : Nat) (x : AcqU) : (setAcq s k x).rtr = s.rtr := rfl
@[simp] theorem setAcq_clk (s : State) (k : Nat) (x : AcqU) : (setAcq s k x).clk = s.clk := rfl
@[simp] theorem setAcq_bgl (s : State) (k : Nat) (x : AcqU) : (setAcq s k x).bgl = s.bgl := rfl
@[simp] theorem setAcq_hkp (s : State) (k : Nat) (x : AcqU) : (setAcq s k x).hkp = s.hkp := rfl
@[simp] theorem setAcq_pwr (s : State) (k : Nat) (x : AcqU) : (setAcq s k x).pwr = s.pwr := rfl
@[simp] theorem setAcq_nvm (s : State) (k : Nat) (x : AcqU) : (setAcq s k x).nvm = s.nvm := rfl
@[simp] theorem setAcq_otp (s : State) (k : Nat) (x : AcqU) : (setAcq s k x).otp = s.otp := rfl
@[simp] theorem setAcq_sec (s : State) (k : Nat) (x : AcqU) : (setAcq s k x).sec = s.sec := rfl
@[simp] theorem setAcq_ports (s : State) (k : Nat) (x : AcqU) : (setAcq s k x).ports = s.ports := rfl
@[simp] theorem setAcq_smb (s : State) (k : Nat) (x : AcqU) : (setAcq s k x).smb = s.smb := rfl
@[simp] theorem setAcq_jtag (s : State) (k : Nat) (x : AcqU) : (setAcq s k x).jtag = s.jtag := rfl
@[simp] theorem setAcq_mbox (s : State) (k : Nat) (x : AcqU) : (setAcq s k x).mbox = s.mbox := rfl
@[simp] theorem setAcq_dramBad (s : State) (k : Nat) (x : AcqU) : (setAcq s k x).dramBad = s.dramBad := rfl
@[simp] theorem setAcq_pool (s : State) (k : Nat) (x : AcqU) : (setAcq s k x).pool = s.pool := rfl
@[simp] theorem setAcq_ret (s : State) (k : Nat) (x : AcqU) : (setAcq s k x).ret = s.ret := rfl
@[simp] theorem setAcq_bdn (s : State) (k : Nat) (x : AcqU) : (setAcq s k x).bdn = s.bdn := rfl
@[simp] theorem setAcq_clkSteps (s : State) (k : Nat) (x : AcqU) : (setAcq s k x).clkSteps = s.clkSteps := rfl
@[simp] theorem setAcq_holds (s : State) (k : Nat) (x : AcqU) : (setAcq s k x).holds = s.holds := rfl
@[simp] theorem setAcq_free (s : State) (k : Nat) (x : AcqU) : (setAcq s k x).free = s.free := rfl
@[simp] theorem setAcq_cyc (s : State) (k : Nat) (x : AcqU) : (setAcq s k x).cyc = s.cyc := rfl
@[simp] theorem setAcq_pending (s : State) (k : Nat) (x : AcqU) : (setAcq s k x).pending = s.pending := rfl

/-! setChan writes chans only. -/

@[simp] theorem setChan_regs (s : State) (k : Nat) (x : Chan) : (setChan s k x).regs = s.regs := rfl
@[simp] theorem setChan_wide (s : State) (k : Nat) (x : Chan) : (setChan s k x).wide = s.wide := rfl
@[simp] theorem setChan_stage (s : State) (k : Nat) (x : Chan) : (setChan s k x).stage = s.stage := rfl
@[simp] theorem setChan_posted (s : State) (k : Nat) (x : Chan) : (setChan s k x).posted = s.posted := rfl
@[simp] theorem setChan_strms (s : State) (k : Nat) (x : Chan) : (setChan s k x).strms = s.strms := rfl
@[simp] theorem setChan_acqs (s : State) (k : Nat) (x : Chan) : (setChan s k x).acqs = s.acqs := rfl
@[simp] theorem setChan_pols (s : State) (k : Nat) (x : Chan) : (setChan s k x).pols = s.pols := rfl
@[simp] theorem setChan_queues (s : State) (k : Nat) (x : Chan) : (setChan s k x).queues = s.queues := rfl
@[simp] theorem setChan_dss (s : State) (k : Nat) (x : Chan) : (setChan s k x).dss = s.dss := rfl
@[simp] theorem setChan_bnds (s : State) (k : Nat) (x : Chan) : (setChan s k x).bnds = s.bnds := rfl
@[simp] theorem setChan_dies (s : State) (k : Nat) (x : Chan) : (setChan s k x).dies = s.dies := rfl
@[simp] theorem setChan_flts (s : State) (k : Nat) (x : Chan) : (setChan s k x).flts = s.flts := rfl
@[simp] theorem setChan_fltBad (s : State) (k : Nat) (x : Chan) : (setChan s k x).fltBad = s.fltBad := rfl
@[simp] theorem setChan_dram (s : State) (k : Nat) (x : Chan) : (setChan s k x).dram = s.dram := rfl
@[simp] theorem setChan_rtr (s : State) (k : Nat) (x : Chan) : (setChan s k x).rtr = s.rtr := rfl
@[simp] theorem setChan_clk (s : State) (k : Nat) (x : Chan) : (setChan s k x).clk = s.clk := rfl
@[simp] theorem setChan_bgl (s : State) (k : Nat) (x : Chan) : (setChan s k x).bgl = s.bgl := rfl
@[simp] theorem setChan_hkp (s : State) (k : Nat) (x : Chan) : (setChan s k x).hkp = s.hkp := rfl
@[simp] theorem setChan_pwr (s : State) (k : Nat) (x : Chan) : (setChan s k x).pwr = s.pwr := rfl
@[simp] theorem setChan_nvm (s : State) (k : Nat) (x : Chan) : (setChan s k x).nvm = s.nvm := rfl
@[simp] theorem setChan_otp (s : State) (k : Nat) (x : Chan) : (setChan s k x).otp = s.otp := rfl
@[simp] theorem setChan_sec (s : State) (k : Nat) (x : Chan) : (setChan s k x).sec = s.sec := rfl
@[simp] theorem setChan_ports (s : State) (k : Nat) (x : Chan) : (setChan s k x).ports = s.ports := rfl
@[simp] theorem setChan_smb (s : State) (k : Nat) (x : Chan) : (setChan s k x).smb = s.smb := rfl
@[simp] theorem setChan_jtag (s : State) (k : Nat) (x : Chan) : (setChan s k x).jtag = s.jtag := rfl
@[simp] theorem setChan_mbox (s : State) (k : Nat) (x : Chan) : (setChan s k x).mbox = s.mbox := rfl
@[simp] theorem setChan_dramBad (s : State) (k : Nat) (x : Chan) : (setChan s k x).dramBad = s.dramBad := rfl
@[simp] theorem setChan_pool (s : State) (k : Nat) (x : Chan) : (setChan s k x).pool = s.pool := rfl
@[simp] theorem setChan_ret (s : State) (k : Nat) (x : Chan) : (setChan s k x).ret = s.ret := rfl
@[simp] theorem setChan_bdn (s : State) (k : Nat) (x : Chan) : (setChan s k x).bdn = s.bdn := rfl
@[simp] theorem setChan_clkSteps (s : State) (k : Nat) (x : Chan) : (setChan s k x).clkSteps = s.clkSteps := rfl
@[simp] theorem setChan_holds (s : State) (k : Nat) (x : Chan) : (setChan s k x).holds = s.holds := rfl
@[simp] theorem setChan_free (s : State) (k : Nat) (x : Chan) : (setChan s k x).free = s.free := rfl
@[simp] theorem setChan_cyc (s : State) (k : Nat) (x : Chan) : (setChan s k x).cyc = s.cyc := rfl
@[simp] theorem setChan_pending (s : State) (k : Nat) (x : Chan) : (setChan s k x).pending = s.pending := rfl

/-! setPol writes pols only. -/

@[simp] theorem setPol_regs (s : State) (k : Nat) (x : Pol) : (setPol s k x).regs = s.regs := rfl
@[simp] theorem setPol_wide (s : State) (k : Nat) (x : Pol) : (setPol s k x).wide = s.wide := rfl
@[simp] theorem setPol_stage (s : State) (k : Nat) (x : Pol) : (setPol s k x).stage = s.stage := rfl
@[simp] theorem setPol_posted (s : State) (k : Nat) (x : Pol) : (setPol s k x).posted = s.posted := rfl
@[simp] theorem setPol_strms (s : State) (k : Nat) (x : Pol) : (setPol s k x).strms = s.strms := rfl
@[simp] theorem setPol_acqs (s : State) (k : Nat) (x : Pol) : (setPol s k x).acqs = s.acqs := rfl
@[simp] theorem setPol_chans (s : State) (k : Nat) (x : Pol) : (setPol s k x).chans = s.chans := rfl
@[simp] theorem setPol_queues (s : State) (k : Nat) (x : Pol) : (setPol s k x).queues = s.queues := rfl
@[simp] theorem setPol_dss (s : State) (k : Nat) (x : Pol) : (setPol s k x).dss = s.dss := rfl
@[simp] theorem setPol_bnds (s : State) (k : Nat) (x : Pol) : (setPol s k x).bnds = s.bnds := rfl
@[simp] theorem setPol_dies (s : State) (k : Nat) (x : Pol) : (setPol s k x).dies = s.dies := rfl
@[simp] theorem setPol_flts (s : State) (k : Nat) (x : Pol) : (setPol s k x).flts = s.flts := rfl
@[simp] theorem setPol_fltBad (s : State) (k : Nat) (x : Pol) : (setPol s k x).fltBad = s.fltBad := rfl
@[simp] theorem setPol_dram (s : State) (k : Nat) (x : Pol) : (setPol s k x).dram = s.dram := rfl
@[simp] theorem setPol_rtr (s : State) (k : Nat) (x : Pol) : (setPol s k x).rtr = s.rtr := rfl
@[simp] theorem setPol_clk (s : State) (k : Nat) (x : Pol) : (setPol s k x).clk = s.clk := rfl
@[simp] theorem setPol_bgl (s : State) (k : Nat) (x : Pol) : (setPol s k x).bgl = s.bgl := rfl
@[simp] theorem setPol_hkp (s : State) (k : Nat) (x : Pol) : (setPol s k x).hkp = s.hkp := rfl
@[simp] theorem setPol_pwr (s : State) (k : Nat) (x : Pol) : (setPol s k x).pwr = s.pwr := rfl
@[simp] theorem setPol_nvm (s : State) (k : Nat) (x : Pol) : (setPol s k x).nvm = s.nvm := rfl
@[simp] theorem setPol_otp (s : State) (k : Nat) (x : Pol) : (setPol s k x).otp = s.otp := rfl
@[simp] theorem setPol_sec (s : State) (k : Nat) (x : Pol) : (setPol s k x).sec = s.sec := rfl
@[simp] theorem setPol_ports (s : State) (k : Nat) (x : Pol) : (setPol s k x).ports = s.ports := rfl
@[simp] theorem setPol_smb (s : State) (k : Nat) (x : Pol) : (setPol s k x).smb = s.smb := rfl
@[simp] theorem setPol_jtag (s : State) (k : Nat) (x : Pol) : (setPol s k x).jtag = s.jtag := rfl
@[simp] theorem setPol_mbox (s : State) (k : Nat) (x : Pol) : (setPol s k x).mbox = s.mbox := rfl
@[simp] theorem setPol_dramBad (s : State) (k : Nat) (x : Pol) : (setPol s k x).dramBad = s.dramBad := rfl
@[simp] theorem setPol_pool (s : State) (k : Nat) (x : Pol) : (setPol s k x).pool = s.pool := rfl
@[simp] theorem setPol_ret (s : State) (k : Nat) (x : Pol) : (setPol s k x).ret = s.ret := rfl
@[simp] theorem setPol_bdn (s : State) (k : Nat) (x : Pol) : (setPol s k x).bdn = s.bdn := rfl
@[simp] theorem setPol_clkSteps (s : State) (k : Nat) (x : Pol) : (setPol s k x).clkSteps = s.clkSteps := rfl
@[simp] theorem setPol_holds (s : State) (k : Nat) (x : Pol) : (setPol s k x).holds = s.holds := rfl
@[simp] theorem setPol_free (s : State) (k : Nat) (x : Pol) : (setPol s k x).free = s.free := rfl
@[simp] theorem setPol_cyc (s : State) (k : Nat) (x : Pol) : (setPol s k x).cyc = s.cyc := rfl
@[simp] theorem setPol_pending (s : State) (k : Nat) (x : Pol) : (setPol s k x).pending = s.pending := rfl

/-! setQueue writes queues only. -/

@[simp] theorem setQueue_regs (s : State) (k : Nat) (x : DacQ) : (setQueue s k x).regs = s.regs := rfl
@[simp] theorem setQueue_wide (s : State) (k : Nat) (x : DacQ) : (setQueue s k x).wide = s.wide := rfl
@[simp] theorem setQueue_stage (s : State) (k : Nat) (x : DacQ) : (setQueue s k x).stage = s.stage := rfl
@[simp] theorem setQueue_posted (s : State) (k : Nat) (x : DacQ) : (setQueue s k x).posted = s.posted := rfl
@[simp] theorem setQueue_strms (s : State) (k : Nat) (x : DacQ) : (setQueue s k x).strms = s.strms := rfl
@[simp] theorem setQueue_acqs (s : State) (k : Nat) (x : DacQ) : (setQueue s k x).acqs = s.acqs := rfl
@[simp] theorem setQueue_chans (s : State) (k : Nat) (x : DacQ) : (setQueue s k x).chans = s.chans := rfl
@[simp] theorem setQueue_pols (s : State) (k : Nat) (x : DacQ) : (setQueue s k x).pols = s.pols := rfl
@[simp] theorem setQueue_dss (s : State) (k : Nat) (x : DacQ) : (setQueue s k x).dss = s.dss := rfl
@[simp] theorem setQueue_bnds (s : State) (k : Nat) (x : DacQ) : (setQueue s k x).bnds = s.bnds := rfl
@[simp] theorem setQueue_dies (s : State) (k : Nat) (x : DacQ) : (setQueue s k x).dies = s.dies := rfl
@[simp] theorem setQueue_flts (s : State) (k : Nat) (x : DacQ) : (setQueue s k x).flts = s.flts := rfl
@[simp] theorem setQueue_fltBad (s : State) (k : Nat) (x : DacQ) : (setQueue s k x).fltBad = s.fltBad := rfl
@[simp] theorem setQueue_dram (s : State) (k : Nat) (x : DacQ) : (setQueue s k x).dram = s.dram := rfl
@[simp] theorem setQueue_rtr (s : State) (k : Nat) (x : DacQ) : (setQueue s k x).rtr = s.rtr := rfl
@[simp] theorem setQueue_clk (s : State) (k : Nat) (x : DacQ) : (setQueue s k x).clk = s.clk := rfl
@[simp] theorem setQueue_bgl (s : State) (k : Nat) (x : DacQ) : (setQueue s k x).bgl = s.bgl := rfl
@[simp] theorem setQueue_hkp (s : State) (k : Nat) (x : DacQ) : (setQueue s k x).hkp = s.hkp := rfl
@[simp] theorem setQueue_pwr (s : State) (k : Nat) (x : DacQ) : (setQueue s k x).pwr = s.pwr := rfl
@[simp] theorem setQueue_nvm (s : State) (k : Nat) (x : DacQ) : (setQueue s k x).nvm = s.nvm := rfl
@[simp] theorem setQueue_otp (s : State) (k : Nat) (x : DacQ) : (setQueue s k x).otp = s.otp := rfl
@[simp] theorem setQueue_sec (s : State) (k : Nat) (x : DacQ) : (setQueue s k x).sec = s.sec := rfl
@[simp] theorem setQueue_ports (s : State) (k : Nat) (x : DacQ) : (setQueue s k x).ports = s.ports := rfl
@[simp] theorem setQueue_smb (s : State) (k : Nat) (x : DacQ) : (setQueue s k x).smb = s.smb := rfl
@[simp] theorem setQueue_jtag (s : State) (k : Nat) (x : DacQ) : (setQueue s k x).jtag = s.jtag := rfl
@[simp] theorem setQueue_mbox (s : State) (k : Nat) (x : DacQ) : (setQueue s k x).mbox = s.mbox := rfl
@[simp] theorem setQueue_dramBad (s : State) (k : Nat) (x : DacQ) : (setQueue s k x).dramBad = s.dramBad := rfl
@[simp] theorem setQueue_pool (s : State) (k : Nat) (x : DacQ) : (setQueue s k x).pool = s.pool := rfl
@[simp] theorem setQueue_ret (s : State) (k : Nat) (x : DacQ) : (setQueue s k x).ret = s.ret := rfl
@[simp] theorem setQueue_bdn (s : State) (k : Nat) (x : DacQ) : (setQueue s k x).bdn = s.bdn := rfl
@[simp] theorem setQueue_clkSteps (s : State) (k : Nat) (x : DacQ) : (setQueue s k x).clkSteps = s.clkSteps := rfl
@[simp] theorem setQueue_holds (s : State) (k : Nat) (x : DacQ) : (setQueue s k x).holds = s.holds := rfl
@[simp] theorem setQueue_free (s : State) (k : Nat) (x : DacQ) : (setQueue s k x).free = s.free := rfl
@[simp] theorem setQueue_cyc (s : State) (k : Nat) (x : DacQ) : (setQueue s k x).cyc = s.cyc := rfl
@[simp] theorem setQueue_pending (s : State) (k : Nat) (x : DacQ) : (setQueue s k x).pending = s.pending := rfl

/-! setDs writes dss only. -/

@[simp] theorem setDs_regs (s : State) (k : Nat) (x : Ds) : (setDs s k x).regs = s.regs := rfl
@[simp] theorem setDs_wide (s : State) (k : Nat) (x : Ds) : (setDs s k x).wide = s.wide := rfl
@[simp] theorem setDs_stage (s : State) (k : Nat) (x : Ds) : (setDs s k x).stage = s.stage := rfl
@[simp] theorem setDs_posted (s : State) (k : Nat) (x : Ds) : (setDs s k x).posted = s.posted := rfl
@[simp] theorem setDs_strms (s : State) (k : Nat) (x : Ds) : (setDs s k x).strms = s.strms := rfl
@[simp] theorem setDs_acqs (s : State) (k : Nat) (x : Ds) : (setDs s k x).acqs = s.acqs := rfl
@[simp] theorem setDs_chans (s : State) (k : Nat) (x : Ds) : (setDs s k x).chans = s.chans := rfl
@[simp] theorem setDs_pols (s : State) (k : Nat) (x : Ds) : (setDs s k x).pols = s.pols := rfl
@[simp] theorem setDs_queues (s : State) (k : Nat) (x : Ds) : (setDs s k x).queues = s.queues := rfl
@[simp] theorem setDs_bnds (s : State) (k : Nat) (x : Ds) : (setDs s k x).bnds = s.bnds := rfl
@[simp] theorem setDs_dies (s : State) (k : Nat) (x : Ds) : (setDs s k x).dies = s.dies := rfl
@[simp] theorem setDs_flts (s : State) (k : Nat) (x : Ds) : (setDs s k x).flts = s.flts := rfl
@[simp] theorem setDs_fltBad (s : State) (k : Nat) (x : Ds) : (setDs s k x).fltBad = s.fltBad := rfl
@[simp] theorem setDs_dram (s : State) (k : Nat) (x : Ds) : (setDs s k x).dram = s.dram := rfl
@[simp] theorem setDs_rtr (s : State) (k : Nat) (x : Ds) : (setDs s k x).rtr = s.rtr := rfl
@[simp] theorem setDs_clk (s : State) (k : Nat) (x : Ds) : (setDs s k x).clk = s.clk := rfl
@[simp] theorem setDs_bgl (s : State) (k : Nat) (x : Ds) : (setDs s k x).bgl = s.bgl := rfl
@[simp] theorem setDs_hkp (s : State) (k : Nat) (x : Ds) : (setDs s k x).hkp = s.hkp := rfl
@[simp] theorem setDs_pwr (s : State) (k : Nat) (x : Ds) : (setDs s k x).pwr = s.pwr := rfl
@[simp] theorem setDs_nvm (s : State) (k : Nat) (x : Ds) : (setDs s k x).nvm = s.nvm := rfl
@[simp] theorem setDs_otp (s : State) (k : Nat) (x : Ds) : (setDs s k x).otp = s.otp := rfl
@[simp] theorem setDs_sec (s : State) (k : Nat) (x : Ds) : (setDs s k x).sec = s.sec := rfl
@[simp] theorem setDs_ports (s : State) (k : Nat) (x : Ds) : (setDs s k x).ports = s.ports := rfl
@[simp] theorem setDs_smb (s : State) (k : Nat) (x : Ds) : (setDs s k x).smb = s.smb := rfl
@[simp] theorem setDs_jtag (s : State) (k : Nat) (x : Ds) : (setDs s k x).jtag = s.jtag := rfl
@[simp] theorem setDs_mbox (s : State) (k : Nat) (x : Ds) : (setDs s k x).mbox = s.mbox := rfl
@[simp] theorem setDs_dramBad (s : State) (k : Nat) (x : Ds) : (setDs s k x).dramBad = s.dramBad := rfl
@[simp] theorem setDs_pool (s : State) (k : Nat) (x : Ds) : (setDs s k x).pool = s.pool := rfl
@[simp] theorem setDs_ret (s : State) (k : Nat) (x : Ds) : (setDs s k x).ret = s.ret := rfl
@[simp] theorem setDs_bdn (s : State) (k : Nat) (x : Ds) : (setDs s k x).bdn = s.bdn := rfl
@[simp] theorem setDs_clkSteps (s : State) (k : Nat) (x : Ds) : (setDs s k x).clkSteps = s.clkSteps := rfl
@[simp] theorem setDs_holds (s : State) (k : Nat) (x : Ds) : (setDs s k x).holds = s.holds := rfl
@[simp] theorem setDs_free (s : State) (k : Nat) (x : Ds) : (setDs s k x).free = s.free := rfl
@[simp] theorem setDs_cyc (s : State) (k : Nat) (x : Ds) : (setDs s k x).cyc = s.cyc := rfl
@[simp] theorem setDs_pending (s : State) (k : Nat) (x : Ds) : (setDs s k x).pending = s.pending := rfl

/-! setBnd writes bnds only. -/

@[simp] theorem setBnd_regs (s : State) (k : Nat) (x : Bnd) : (setBnd s k x).regs = s.regs := rfl
@[simp] theorem setBnd_wide (s : State) (k : Nat) (x : Bnd) : (setBnd s k x).wide = s.wide := rfl
@[simp] theorem setBnd_stage (s : State) (k : Nat) (x : Bnd) : (setBnd s k x).stage = s.stage := rfl
@[simp] theorem setBnd_posted (s : State) (k : Nat) (x : Bnd) : (setBnd s k x).posted = s.posted := rfl
@[simp] theorem setBnd_strms (s : State) (k : Nat) (x : Bnd) : (setBnd s k x).strms = s.strms := rfl
@[simp] theorem setBnd_acqs (s : State) (k : Nat) (x : Bnd) : (setBnd s k x).acqs = s.acqs := rfl
@[simp] theorem setBnd_chans (s : State) (k : Nat) (x : Bnd) : (setBnd s k x).chans = s.chans := rfl
@[simp] theorem setBnd_pols (s : State) (k : Nat) (x : Bnd) : (setBnd s k x).pols = s.pols := rfl
@[simp] theorem setBnd_queues (s : State) (k : Nat) (x : Bnd) : (setBnd s k x).queues = s.queues := rfl
@[simp] theorem setBnd_dss (s : State) (k : Nat) (x : Bnd) : (setBnd s k x).dss = s.dss := rfl
@[simp] theorem setBnd_dies (s : State) (k : Nat) (x : Bnd) : (setBnd s k x).dies = s.dies := rfl
@[simp] theorem setBnd_flts (s : State) (k : Nat) (x : Bnd) : (setBnd s k x).flts = s.flts := rfl
@[simp] theorem setBnd_fltBad (s : State) (k : Nat) (x : Bnd) : (setBnd s k x).fltBad = s.fltBad := rfl
@[simp] theorem setBnd_dram (s : State) (k : Nat) (x : Bnd) : (setBnd s k x).dram = s.dram := rfl
@[simp] theorem setBnd_rtr (s : State) (k : Nat) (x : Bnd) : (setBnd s k x).rtr = s.rtr := rfl
@[simp] theorem setBnd_clk (s : State) (k : Nat) (x : Bnd) : (setBnd s k x).clk = s.clk := rfl
@[simp] theorem setBnd_bgl (s : State) (k : Nat) (x : Bnd) : (setBnd s k x).bgl = s.bgl := rfl
@[simp] theorem setBnd_hkp (s : State) (k : Nat) (x : Bnd) : (setBnd s k x).hkp = s.hkp := rfl
@[simp] theorem setBnd_pwr (s : State) (k : Nat) (x : Bnd) : (setBnd s k x).pwr = s.pwr := rfl
@[simp] theorem setBnd_nvm (s : State) (k : Nat) (x : Bnd) : (setBnd s k x).nvm = s.nvm := rfl
@[simp] theorem setBnd_otp (s : State) (k : Nat) (x : Bnd) : (setBnd s k x).otp = s.otp := rfl
@[simp] theorem setBnd_sec (s : State) (k : Nat) (x : Bnd) : (setBnd s k x).sec = s.sec := rfl
@[simp] theorem setBnd_ports (s : State) (k : Nat) (x : Bnd) : (setBnd s k x).ports = s.ports := rfl
@[simp] theorem setBnd_smb (s : State) (k : Nat) (x : Bnd) : (setBnd s k x).smb = s.smb := rfl
@[simp] theorem setBnd_jtag (s : State) (k : Nat) (x : Bnd) : (setBnd s k x).jtag = s.jtag := rfl
@[simp] theorem setBnd_mbox (s : State) (k : Nat) (x : Bnd) : (setBnd s k x).mbox = s.mbox := rfl
@[simp] theorem setBnd_dramBad (s : State) (k : Nat) (x : Bnd) : (setBnd s k x).dramBad = s.dramBad := rfl
@[simp] theorem setBnd_pool (s : State) (k : Nat) (x : Bnd) : (setBnd s k x).pool = s.pool := rfl
@[simp] theorem setBnd_ret (s : State) (k : Nat) (x : Bnd) : (setBnd s k x).ret = s.ret := rfl
@[simp] theorem setBnd_bdn (s : State) (k : Nat) (x : Bnd) : (setBnd s k x).bdn = s.bdn := rfl
@[simp] theorem setBnd_clkSteps (s : State) (k : Nat) (x : Bnd) : (setBnd s k x).clkSteps = s.clkSteps := rfl
@[simp] theorem setBnd_holds (s : State) (k : Nat) (x : Bnd) : (setBnd s k x).holds = s.holds := rfl
@[simp] theorem setBnd_free (s : State) (k : Nat) (x : Bnd) : (setBnd s k x).free = s.free := rfl
@[simp] theorem setBnd_cyc (s : State) (k : Nat) (x : Bnd) : (setBnd s k x).cyc = s.cyc := rfl
@[simp] theorem setBnd_pending (s : State) (k : Nat) (x : Bnd) : (setBnd s k x).pending = s.pending := rfl

/-! setDie writes dies only. -/

@[simp] theorem setDie_regs (s : State) (k : Nat) (x : Die) : (setDie s k x).regs = s.regs := rfl
@[simp] theorem setDie_wide (s : State) (k : Nat) (x : Die) : (setDie s k x).wide = s.wide := rfl
@[simp] theorem setDie_stage (s : State) (k : Nat) (x : Die) : (setDie s k x).stage = s.stage := rfl
@[simp] theorem setDie_posted (s : State) (k : Nat) (x : Die) : (setDie s k x).posted = s.posted := rfl
@[simp] theorem setDie_strms (s : State) (k : Nat) (x : Die) : (setDie s k x).strms = s.strms := rfl
@[simp] theorem setDie_acqs (s : State) (k : Nat) (x : Die) : (setDie s k x).acqs = s.acqs := rfl
@[simp] theorem setDie_chans (s : State) (k : Nat) (x : Die) : (setDie s k x).chans = s.chans := rfl
@[simp] theorem setDie_pols (s : State) (k : Nat) (x : Die) : (setDie s k x).pols = s.pols := rfl
@[simp] theorem setDie_queues (s : State) (k : Nat) (x : Die) : (setDie s k x).queues = s.queues := rfl
@[simp] theorem setDie_dss (s : State) (k : Nat) (x : Die) : (setDie s k x).dss = s.dss := rfl
@[simp] theorem setDie_bnds (s : State) (k : Nat) (x : Die) : (setDie s k x).bnds = s.bnds := rfl
@[simp] theorem setDie_flts (s : State) (k : Nat) (x : Die) : (setDie s k x).flts = s.flts := rfl
@[simp] theorem setDie_fltBad (s : State) (k : Nat) (x : Die) : (setDie s k x).fltBad = s.fltBad := rfl
@[simp] theorem setDie_dram (s : State) (k : Nat) (x : Die) : (setDie s k x).dram = s.dram := rfl
@[simp] theorem setDie_rtr (s : State) (k : Nat) (x : Die) : (setDie s k x).rtr = s.rtr := rfl
@[simp] theorem setDie_clk (s : State) (k : Nat) (x : Die) : (setDie s k x).clk = s.clk := rfl
@[simp] theorem setDie_bgl (s : State) (k : Nat) (x : Die) : (setDie s k x).bgl = s.bgl := rfl
@[simp] theorem setDie_hkp (s : State) (k : Nat) (x : Die) : (setDie s k x).hkp = s.hkp := rfl
@[simp] theorem setDie_pwr (s : State) (k : Nat) (x : Die) : (setDie s k x).pwr = s.pwr := rfl
@[simp] theorem setDie_nvm (s : State) (k : Nat) (x : Die) : (setDie s k x).nvm = s.nvm := rfl
@[simp] theorem setDie_otp (s : State) (k : Nat) (x : Die) : (setDie s k x).otp = s.otp := rfl
@[simp] theorem setDie_sec (s : State) (k : Nat) (x : Die) : (setDie s k x).sec = s.sec := rfl
@[simp] theorem setDie_ports (s : State) (k : Nat) (x : Die) : (setDie s k x).ports = s.ports := rfl
@[simp] theorem setDie_smb (s : State) (k : Nat) (x : Die) : (setDie s k x).smb = s.smb := rfl
@[simp] theorem setDie_jtag (s : State) (k : Nat) (x : Die) : (setDie s k x).jtag = s.jtag := rfl
@[simp] theorem setDie_mbox (s : State) (k : Nat) (x : Die) : (setDie s k x).mbox = s.mbox := rfl
@[simp] theorem setDie_dramBad (s : State) (k : Nat) (x : Die) : (setDie s k x).dramBad = s.dramBad := rfl
@[simp] theorem setDie_pool (s : State) (k : Nat) (x : Die) : (setDie s k x).pool = s.pool := rfl
@[simp] theorem setDie_ret (s : State) (k : Nat) (x : Die) : (setDie s k x).ret = s.ret := rfl
@[simp] theorem setDie_bdn (s : State) (k : Nat) (x : Die) : (setDie s k x).bdn = s.bdn := rfl
@[simp] theorem setDie_clkSteps (s : State) (k : Nat) (x : Die) : (setDie s k x).clkSteps = s.clkSteps := rfl
@[simp] theorem setDie_holds (s : State) (k : Nat) (x : Die) : (setDie s k x).holds = s.holds := rfl
@[simp] theorem setDie_free (s : State) (k : Nat) (x : Die) : (setDie s k x).free = s.free := rfl
@[simp] theorem setDie_cyc (s : State) (k : Nat) (x : Die) : (setDie s k x).cyc = s.cyc := rfl
@[simp] theorem setDie_pending (s : State) (k : Nat) (x : Die) : (setDie s k x).pending = s.pending := rfl

/-! setPort writes ports only. -/

@[simp] theorem setPort_regs (s : State) (k : Nat) (x : Port) : (setPort s k x).regs = s.regs := rfl
@[simp] theorem setPort_wide (s : State) (k : Nat) (x : Port) : (setPort s k x).wide = s.wide := rfl
@[simp] theorem setPort_stage (s : State) (k : Nat) (x : Port) : (setPort s k x).stage = s.stage := rfl
@[simp] theorem setPort_posted (s : State) (k : Nat) (x : Port) : (setPort s k x).posted = s.posted := rfl
@[simp] theorem setPort_strms (s : State) (k : Nat) (x : Port) : (setPort s k x).strms = s.strms := rfl
@[simp] theorem setPort_acqs (s : State) (k : Nat) (x : Port) : (setPort s k x).acqs = s.acqs := rfl
@[simp] theorem setPort_chans (s : State) (k : Nat) (x : Port) : (setPort s k x).chans = s.chans := rfl
@[simp] theorem setPort_pols (s : State) (k : Nat) (x : Port) : (setPort s k x).pols = s.pols := rfl
@[simp] theorem setPort_queues (s : State) (k : Nat) (x : Port) : (setPort s k x).queues = s.queues := rfl
@[simp] theorem setPort_dss (s : State) (k : Nat) (x : Port) : (setPort s k x).dss = s.dss := rfl
@[simp] theorem setPort_bnds (s : State) (k : Nat) (x : Port) : (setPort s k x).bnds = s.bnds := rfl
@[simp] theorem setPort_dies (s : State) (k : Nat) (x : Port) : (setPort s k x).dies = s.dies := rfl
@[simp] theorem setPort_flts (s : State) (k : Nat) (x : Port) : (setPort s k x).flts = s.flts := rfl
@[simp] theorem setPort_fltBad (s : State) (k : Nat) (x : Port) : (setPort s k x).fltBad = s.fltBad := rfl
@[simp] theorem setPort_dram (s : State) (k : Nat) (x : Port) : (setPort s k x).dram = s.dram := rfl
@[simp] theorem setPort_rtr (s : State) (k : Nat) (x : Port) : (setPort s k x).rtr = s.rtr := rfl
@[simp] theorem setPort_clk (s : State) (k : Nat) (x : Port) : (setPort s k x).clk = s.clk := rfl
@[simp] theorem setPort_bgl (s : State) (k : Nat) (x : Port) : (setPort s k x).bgl = s.bgl := rfl
@[simp] theorem setPort_hkp (s : State) (k : Nat) (x : Port) : (setPort s k x).hkp = s.hkp := rfl
@[simp] theorem setPort_pwr (s : State) (k : Nat) (x : Port) : (setPort s k x).pwr = s.pwr := rfl
@[simp] theorem setPort_nvm (s : State) (k : Nat) (x : Port) : (setPort s k x).nvm = s.nvm := rfl
@[simp] theorem setPort_otp (s : State) (k : Nat) (x : Port) : (setPort s k x).otp = s.otp := rfl
@[simp] theorem setPort_sec (s : State) (k : Nat) (x : Port) : (setPort s k x).sec = s.sec := rfl
@[simp] theorem setPort_smb (s : State) (k : Nat) (x : Port) : (setPort s k x).smb = s.smb := rfl
@[simp] theorem setPort_jtag (s : State) (k : Nat) (x : Port) : (setPort s k x).jtag = s.jtag := rfl
@[simp] theorem setPort_mbox (s : State) (k : Nat) (x : Port) : (setPort s k x).mbox = s.mbox := rfl
@[simp] theorem setPort_dramBad (s : State) (k : Nat) (x : Port) : (setPort s k x).dramBad = s.dramBad := rfl
@[simp] theorem setPort_pool (s : State) (k : Nat) (x : Port) : (setPort s k x).pool = s.pool := rfl
@[simp] theorem setPort_ret (s : State) (k : Nat) (x : Port) : (setPort s k x).ret = s.ret := rfl
@[simp] theorem setPort_bdn (s : State) (k : Nat) (x : Port) : (setPort s k x).bdn = s.bdn := rfl
@[simp] theorem setPort_clkSteps (s : State) (k : Nat) (x : Port) : (setPort s k x).clkSteps = s.clkSteps := rfl
@[simp] theorem setPort_holds (s : State) (k : Nat) (x : Port) : (setPort s k x).holds = s.holds := rfl
@[simp] theorem setPort_free (s : State) (k : Nat) (x : Port) : (setPort s k x).free = s.free := rfl
@[simp] theorem setPort_cyc (s : State) (k : Nat) (x : Port) : (setPort s k x).cyc = s.cyc := rfl
@[simp] theorem setPort_pending (s : State) (k : Nat) (x : Port) : (setPort s k x).pending = s.pending := rfl

/-! cycle writes cyc only. -/

@[simp] theorem cycle_regs (s : State) : (cycle s).regs = s.regs := rfl
@[simp] theorem cycle_wide (s : State) : (cycle s).wide = s.wide := rfl
@[simp] theorem cycle_stage (s : State) : (cycle s).stage = s.stage := rfl
@[simp] theorem cycle_posted (s : State) : (cycle s).posted = s.posted := rfl
@[simp] theorem cycle_strms (s : State) : (cycle s).strms = s.strms := rfl
@[simp] theorem cycle_acqs (s : State) : (cycle s).acqs = s.acqs := rfl
@[simp] theorem cycle_chans (s : State) : (cycle s).chans = s.chans := rfl
@[simp] theorem cycle_pols (s : State) : (cycle s).pols = s.pols := rfl
@[simp] theorem cycle_queues (s : State) : (cycle s).queues = s.queues := rfl
@[simp] theorem cycle_dss (s : State) : (cycle s).dss = s.dss := rfl
@[simp] theorem cycle_bnds (s : State) : (cycle s).bnds = s.bnds := rfl
@[simp] theorem cycle_dies (s : State) : (cycle s).dies = s.dies := rfl
@[simp] theorem cycle_flts (s : State) : (cycle s).flts = s.flts := rfl
@[simp] theorem cycle_fltBad (s : State) : (cycle s).fltBad = s.fltBad := rfl
@[simp] theorem cycle_dram (s : State) : (cycle s).dram = s.dram := rfl
@[simp] theorem cycle_rtr (s : State) : (cycle s).rtr = s.rtr := rfl
@[simp] theorem cycle_clk (s : State) : (cycle s).clk = s.clk := rfl
@[simp] theorem cycle_bgl (s : State) : (cycle s).bgl = s.bgl := rfl
@[simp] theorem cycle_hkp (s : State) : (cycle s).hkp = s.hkp := rfl
@[simp] theorem cycle_pwr (s : State) : (cycle s).pwr = s.pwr := rfl
@[simp] theorem cycle_nvm (s : State) : (cycle s).nvm = s.nvm := rfl
@[simp] theorem cycle_otp (s : State) : (cycle s).otp = s.otp := rfl
@[simp] theorem cycle_sec (s : State) : (cycle s).sec = s.sec := rfl
@[simp] theorem cycle_ports (s : State) : (cycle s).ports = s.ports := rfl
@[simp] theorem cycle_smb (s : State) : (cycle s).smb = s.smb := rfl
@[simp] theorem cycle_jtag (s : State) : (cycle s).jtag = s.jtag := rfl
@[simp] theorem cycle_mbox (s : State) : (cycle s).mbox = s.mbox := rfl
@[simp] theorem cycle_dramBad (s : State) : (cycle s).dramBad = s.dramBad := rfl
@[simp] theorem cycle_pool (s : State) : (cycle s).pool = s.pool := rfl
@[simp] theorem cycle_ret (s : State) : (cycle s).ret = s.ret := rfl
@[simp] theorem cycle_bdn (s : State) : (cycle s).bdn = s.bdn := rfl
@[simp] theorem cycle_clkSteps (s : State) : (cycle s).clkSteps = s.clkSteps := rfl
@[simp] theorem cycle_holds (s : State) : (cycle s).holds = s.holds := rfl
@[simp] theorem cycle_free (s : State) : (cycle s).free = s.free := rfl
@[simp] theorem cycle_pending (s : State) : (cycle s).pending = s.pending := rfl

/-! What a sparse part of the state reads after it is written. -/

@[simp] theorem strmOf_setStrm_same (s : State) (k : Nat) (x : Strm) : strmOf (setStrm s k x) k = x := Store.get_put_same _ _ _ _

theorem strmOf_setStrm_ne (s : State) {j k : Nat} (x : Strm) (h : j ≠ k) : strmOf (setStrm s k x) j = strmOf s j := Store.get_put_ne _ _ _ _ h

@[simp] theorem strmOf_setF (s : State) (f : Fld) (n v j : Nat) : strmOf (setF s f n v) j = strmOf s j := rfl

@[simp] theorem strmOf_cycle (s : State) (j : Nat) : strmOf (cycle s) j = strmOf s j := rfl

@[simp] theorem getF_setStrm (s : State) (k : Nat) (x : Strm) (f : Fld) (n : Nat) : getF (setStrm s k x) f n = getF s f n := rfl

@[simp] theorem acqOf_setAcq_same (s : State) (k : Nat) (x : AcqU) : acqOf (setAcq s k x) k = x := Store.get_put_same _ _ _ _

theorem acqOf_setAcq_ne (s : State) {j k : Nat} (x : AcqU) (h : j ≠ k) : acqOf (setAcq s k x) j = acqOf s j := Store.get_put_ne _ _ _ _ h

@[simp] theorem acqOf_setF (s : State) (f : Fld) (n v j : Nat) : acqOf (setF s f n v) j = acqOf s j := rfl

@[simp] theorem acqOf_cycle (s : State) (j : Nat) : acqOf (cycle s) j = acqOf s j := rfl

@[simp] theorem getF_setAcq (s : State) (k : Nat) (x : AcqU) (f : Fld) (n : Nat) : getF (setAcq s k x) f n = getF s f n := rfl

@[simp] theorem chanOf_setChan_same (s : State) (k : Nat) (x : Chan) : chanOf (setChan s k x) k = x := Store.get_put_same _ _ _ _

theorem chanOf_setChan_ne (s : State) {j k : Nat} (x : Chan) (h : j ≠ k) : chanOf (setChan s k x) j = chanOf s j := Store.get_put_ne _ _ _ _ h

@[simp] theorem chanOf_setF (s : State) (f : Fld) (n v j : Nat) : chanOf (setF s f n v) j = chanOf s j := rfl

@[simp] theorem chanOf_cycle (s : State) (j : Nat) : chanOf (cycle s) j = chanOf s j := rfl

@[simp] theorem getF_setChan (s : State) (k : Nat) (x : Chan) (f : Fld) (n : Nat) : getF (setChan s k x) f n = getF s f n := rfl

@[simp] theorem polOf_setPol_same (s : State) (k : Nat) (x : Pol) : polOf (setPol s k x) k = x := Store.get_put_same _ _ _ _

theorem polOf_setPol_ne (s : State) {j k : Nat} (x : Pol) (h : j ≠ k) : polOf (setPol s k x) j = polOf s j := Store.get_put_ne _ _ _ _ h

@[simp] theorem polOf_setF (s : State) (f : Fld) (n v j : Nat) : polOf (setF s f n v) j = polOf s j := rfl

@[simp] theorem polOf_cycle (s : State) (j : Nat) : polOf (cycle s) j = polOf s j := rfl

@[simp] theorem getF_setPol (s : State) (k : Nat) (x : Pol) (f : Fld) (n : Nat) : getF (setPol s k x) f n = getF s f n := rfl

@[simp] theorem queueOf_setQueue_same (s : State) (k : Nat) (x : DacQ) : queueOf (setQueue s k x) k = x := Store.get_put_same _ _ _ _

theorem queueOf_setQueue_ne (s : State) {j k : Nat} (x : DacQ) (h : j ≠ k) : queueOf (setQueue s k x) j = queueOf s j := Store.get_put_ne _ _ _ _ h

@[simp] theorem queueOf_setF (s : State) (f : Fld) (n v j : Nat) : queueOf (setF s f n v) j = queueOf s j := rfl

@[simp] theorem queueOf_cycle (s : State) (j : Nat) : queueOf (cycle s) j = queueOf s j := rfl

@[simp] theorem getF_setQueue (s : State) (k : Nat) (x : DacQ) (f : Fld) (n : Nat) : getF (setQueue s k x) f n = getF s f n := rfl

@[simp] theorem dsOf_setDs_same (s : State) (k : Nat) (x : Ds) : dsOf (setDs s k x) k = x := Store.get_put_same _ _ _ _

theorem dsOf_setDs_ne (s : State) {j k : Nat} (x : Ds) (h : j ≠ k) : dsOf (setDs s k x) j = dsOf s j := Store.get_put_ne _ _ _ _ h

@[simp] theorem dsOf_setF (s : State) (f : Fld) (n v j : Nat) : dsOf (setF s f n v) j = dsOf s j := rfl

@[simp] theorem dsOf_cycle (s : State) (j : Nat) : dsOf (cycle s) j = dsOf s j := rfl

@[simp] theorem getF_setDs (s : State) (k : Nat) (x : Ds) (f : Fld) (n : Nat) : getF (setDs s k x) f n = getF s f n := rfl

@[simp] theorem bndOf_setBnd_same (s : State) (k : Nat) (x : Bnd) : bndOf (setBnd s k x) k = x := Store.get_put_same _ _ _ _

theorem bndOf_setBnd_ne (s : State) {j k : Nat} (x : Bnd) (h : j ≠ k) : bndOf (setBnd s k x) j = bndOf s j := Store.get_put_ne _ _ _ _ h

@[simp] theorem bndOf_setF (s : State) (f : Fld) (n v j : Nat) : bndOf (setF s f n v) j = bndOf s j := rfl

@[simp] theorem bndOf_cycle (s : State) (j : Nat) : bndOf (cycle s) j = bndOf s j := rfl

@[simp] theorem getF_setBnd (s : State) (k : Nat) (x : Bnd) (f : Fld) (n : Nat) : getF (setBnd s k x) f n = getF s f n := rfl

@[simp] theorem dieOf_setDie_same (s : State) (k : Nat) (x : Die) : dieOf (setDie s k x) k = x := Store.get_put_same _ _ _ _

theorem dieOf_setDie_ne (s : State) {j k : Nat} (x : Die) (h : j ≠ k) : dieOf (setDie s k x) j = dieOf s j := Store.get_put_ne _ _ _ _ h

@[simp] theorem dieOf_setF (s : State) (f : Fld) (n v j : Nat) : dieOf (setF s f n v) j = dieOf s j := rfl

@[simp] theorem dieOf_cycle (s : State) (j : Nat) : dieOf (cycle s) j = dieOf s j := rfl

@[simp] theorem getF_setDie (s : State) (k : Nat) (x : Die) (f : Fld) (n : Nat) : getF (setDie s k x) f n = getF s f n := rfl

@[simp] theorem portOf_setPort_same (s : State) (k : Nat) (x : Port) : portOf (setPort s k x) k = x := Store.get_put_same _ _ _ _

theorem portOf_setPort_ne (s : State) {j k : Nat} (x : Port) (h : j ≠ k) : portOf (setPort s k x) j = portOf s j := Store.get_put_ne _ _ _ _ h

@[simp] theorem portOf_setF (s : State) (f : Fld) (n v j : Nat) : portOf (setF s f n v) j = portOf s j := rfl

@[simp] theorem portOf_cycle (s : State) (j : Nat) : portOf (cycle s) j = portOf s j := rfl

@[simp] theorem getF_setPort (s : State) (k : Nat) (x : Port) (f : Fld) (n : Nat) : getF (setPort s k x) f n = getF s f n := rfl

@[simp] theorem acqOf_setStrm (s : State) (k : Nat) (x : Strm) (j : Nat) : acqOf (setStrm s k x) j = acqOf s j := rfl
@[simp] theorem chanOf_setStrm (s : State) (k : Nat) (x : Strm) (j : Nat) : chanOf (setStrm s k x) j = chanOf s j := rfl
@[simp] theorem polOf_setStrm (s : State) (k : Nat) (x : Strm) (j : Nat) : polOf (setStrm s k x) j = polOf s j := rfl
@[simp] theorem queueOf_setStrm (s : State) (k : Nat) (x : Strm) (j : Nat) : queueOf (setStrm s k x) j = queueOf s j := rfl
@[simp] theorem dsOf_setStrm (s : State) (k : Nat) (x : Strm) (j : Nat) : dsOf (setStrm s k x) j = dsOf s j := rfl
@[simp] theorem bndOf_setStrm (s : State) (k : Nat) (x : Strm) (j : Nat) : bndOf (setStrm s k x) j = bndOf s j := rfl
@[simp] theorem dieOf_setStrm (s : State) (k : Nat) (x : Strm) (j : Nat) : dieOf (setStrm s k x) j = dieOf s j := rfl
@[simp] theorem portOf_setStrm (s : State) (k : Nat) (x : Strm) (j : Nat) : portOf (setStrm s k x) j = portOf s j := rfl
@[simp] theorem strmOf_setAcq (s : State) (k : Nat) (x : AcqU) (j : Nat) : strmOf (setAcq s k x) j = strmOf s j := rfl
@[simp] theorem chanOf_setAcq (s : State) (k : Nat) (x : AcqU) (j : Nat) : chanOf (setAcq s k x) j = chanOf s j := rfl
@[simp] theorem polOf_setAcq (s : State) (k : Nat) (x : AcqU) (j : Nat) : polOf (setAcq s k x) j = polOf s j := rfl
@[simp] theorem queueOf_setAcq (s : State) (k : Nat) (x : AcqU) (j : Nat) : queueOf (setAcq s k x) j = queueOf s j := rfl
@[simp] theorem dsOf_setAcq (s : State) (k : Nat) (x : AcqU) (j : Nat) : dsOf (setAcq s k x) j = dsOf s j := rfl
@[simp] theorem bndOf_setAcq (s : State) (k : Nat) (x : AcqU) (j : Nat) : bndOf (setAcq s k x) j = bndOf s j := rfl
@[simp] theorem dieOf_setAcq (s : State) (k : Nat) (x : AcqU) (j : Nat) : dieOf (setAcq s k x) j = dieOf s j := rfl
@[simp] theorem portOf_setAcq (s : State) (k : Nat) (x : AcqU) (j : Nat) : portOf (setAcq s k x) j = portOf s j := rfl
@[simp] theorem strmOf_setChan (s : State) (k : Nat) (x : Chan) (j : Nat) : strmOf (setChan s k x) j = strmOf s j := rfl
@[simp] theorem acqOf_setChan (s : State) (k : Nat) (x : Chan) (j : Nat) : acqOf (setChan s k x) j = acqOf s j := rfl
@[simp] theorem polOf_setChan (s : State) (k : Nat) (x : Chan) (j : Nat) : polOf (setChan s k x) j = polOf s j := rfl
@[simp] theorem queueOf_setChan (s : State) (k : Nat) (x : Chan) (j : Nat) : queueOf (setChan s k x) j = queueOf s j := rfl
@[simp] theorem dsOf_setChan (s : State) (k : Nat) (x : Chan) (j : Nat) : dsOf (setChan s k x) j = dsOf s j := rfl
@[simp] theorem bndOf_setChan (s : State) (k : Nat) (x : Chan) (j : Nat) : bndOf (setChan s k x) j = bndOf s j := rfl
@[simp] theorem dieOf_setChan (s : State) (k : Nat) (x : Chan) (j : Nat) : dieOf (setChan s k x) j = dieOf s j := rfl
@[simp] theorem portOf_setChan (s : State) (k : Nat) (x : Chan) (j : Nat) : portOf (setChan s k x) j = portOf s j := rfl
@[simp] theorem strmOf_setPol (s : State) (k : Nat) (x : Pol) (j : Nat) : strmOf (setPol s k x) j = strmOf s j := rfl
@[simp] theorem acqOf_setPol (s : State) (k : Nat) (x : Pol) (j : Nat) : acqOf (setPol s k x) j = acqOf s j := rfl
@[simp] theorem chanOf_setPol (s : State) (k : Nat) (x : Pol) (j : Nat) : chanOf (setPol s k x) j = chanOf s j := rfl
@[simp] theorem queueOf_setPol (s : State) (k : Nat) (x : Pol) (j : Nat) : queueOf (setPol s k x) j = queueOf s j := rfl
@[simp] theorem dsOf_setPol (s : State) (k : Nat) (x : Pol) (j : Nat) : dsOf (setPol s k x) j = dsOf s j := rfl
@[simp] theorem bndOf_setPol (s : State) (k : Nat) (x : Pol) (j : Nat) : bndOf (setPol s k x) j = bndOf s j := rfl
@[simp] theorem dieOf_setPol (s : State) (k : Nat) (x : Pol) (j : Nat) : dieOf (setPol s k x) j = dieOf s j := rfl
@[simp] theorem portOf_setPol (s : State) (k : Nat) (x : Pol) (j : Nat) : portOf (setPol s k x) j = portOf s j := rfl
@[simp] theorem strmOf_setQueue (s : State) (k : Nat) (x : DacQ) (j : Nat) : strmOf (setQueue s k x) j = strmOf s j := rfl
@[simp] theorem acqOf_setQueue (s : State) (k : Nat) (x : DacQ) (j : Nat) : acqOf (setQueue s k x) j = acqOf s j := rfl
@[simp] theorem chanOf_setQueue (s : State) (k : Nat) (x : DacQ) (j : Nat) : chanOf (setQueue s k x) j = chanOf s j := rfl
@[simp] theorem polOf_setQueue (s : State) (k : Nat) (x : DacQ) (j : Nat) : polOf (setQueue s k x) j = polOf s j := rfl
@[simp] theorem dsOf_setQueue (s : State) (k : Nat) (x : DacQ) (j : Nat) : dsOf (setQueue s k x) j = dsOf s j := rfl
@[simp] theorem bndOf_setQueue (s : State) (k : Nat) (x : DacQ) (j : Nat) : bndOf (setQueue s k x) j = bndOf s j := rfl
@[simp] theorem dieOf_setQueue (s : State) (k : Nat) (x : DacQ) (j : Nat) : dieOf (setQueue s k x) j = dieOf s j := rfl
@[simp] theorem portOf_setQueue (s : State) (k : Nat) (x : DacQ) (j : Nat) : portOf (setQueue s k x) j = portOf s j := rfl
@[simp] theorem strmOf_setDs (s : State) (k : Nat) (x : Ds) (j : Nat) : strmOf (setDs s k x) j = strmOf s j := rfl
@[simp] theorem acqOf_setDs (s : State) (k : Nat) (x : Ds) (j : Nat) : acqOf (setDs s k x) j = acqOf s j := rfl
@[simp] theorem chanOf_setDs (s : State) (k : Nat) (x : Ds) (j : Nat) : chanOf (setDs s k x) j = chanOf s j := rfl
@[simp] theorem polOf_setDs (s : State) (k : Nat) (x : Ds) (j : Nat) : polOf (setDs s k x) j = polOf s j := rfl
@[simp] theorem queueOf_setDs (s : State) (k : Nat) (x : Ds) (j : Nat) : queueOf (setDs s k x) j = queueOf s j := rfl
@[simp] theorem bndOf_setDs (s : State) (k : Nat) (x : Ds) (j : Nat) : bndOf (setDs s k x) j = bndOf s j := rfl
@[simp] theorem dieOf_setDs (s : State) (k : Nat) (x : Ds) (j : Nat) : dieOf (setDs s k x) j = dieOf s j := rfl
@[simp] theorem portOf_setDs (s : State) (k : Nat) (x : Ds) (j : Nat) : portOf (setDs s k x) j = portOf s j := rfl
@[simp] theorem strmOf_setBnd (s : State) (k : Nat) (x : Bnd) (j : Nat) : strmOf (setBnd s k x) j = strmOf s j := rfl
@[simp] theorem acqOf_setBnd (s : State) (k : Nat) (x : Bnd) (j : Nat) : acqOf (setBnd s k x) j = acqOf s j := rfl
@[simp] theorem chanOf_setBnd (s : State) (k : Nat) (x : Bnd) (j : Nat) : chanOf (setBnd s k x) j = chanOf s j := rfl
@[simp] theorem polOf_setBnd (s : State) (k : Nat) (x : Bnd) (j : Nat) : polOf (setBnd s k x) j = polOf s j := rfl
@[simp] theorem queueOf_setBnd (s : State) (k : Nat) (x : Bnd) (j : Nat) : queueOf (setBnd s k x) j = queueOf s j := rfl
@[simp] theorem dsOf_setBnd (s : State) (k : Nat) (x : Bnd) (j : Nat) : dsOf (setBnd s k x) j = dsOf s j := rfl
@[simp] theorem dieOf_setBnd (s : State) (k : Nat) (x : Bnd) (j : Nat) : dieOf (setBnd s k x) j = dieOf s j := rfl
@[simp] theorem portOf_setBnd (s : State) (k : Nat) (x : Bnd) (j : Nat) : portOf (setBnd s k x) j = portOf s j := rfl
@[simp] theorem strmOf_setDie (s : State) (k : Nat) (x : Die) (j : Nat) : strmOf (setDie s k x) j = strmOf s j := rfl
@[simp] theorem acqOf_setDie (s : State) (k : Nat) (x : Die) (j : Nat) : acqOf (setDie s k x) j = acqOf s j := rfl
@[simp] theorem chanOf_setDie (s : State) (k : Nat) (x : Die) (j : Nat) : chanOf (setDie s k x) j = chanOf s j := rfl
@[simp] theorem polOf_setDie (s : State) (k : Nat) (x : Die) (j : Nat) : polOf (setDie s k x) j = polOf s j := rfl
@[simp] theorem queueOf_setDie (s : State) (k : Nat) (x : Die) (j : Nat) : queueOf (setDie s k x) j = queueOf s j := rfl
@[simp] theorem dsOf_setDie (s : State) (k : Nat) (x : Die) (j : Nat) : dsOf (setDie s k x) j = dsOf s j := rfl
@[simp] theorem bndOf_setDie (s : State) (k : Nat) (x : Die) (j : Nat) : bndOf (setDie s k x) j = bndOf s j := rfl
@[simp] theorem portOf_setDie (s : State) (k : Nat) (x : Die) (j : Nat) : portOf (setDie s k x) j = portOf s j := rfl
@[simp] theorem strmOf_setPort (s : State) (k : Nat) (x : Port) (j : Nat) : strmOf (setPort s k x) j = strmOf s j := rfl
@[simp] theorem acqOf_setPort (s : State) (k : Nat) (x : Port) (j : Nat) : acqOf (setPort s k x) j = acqOf s j := rfl
@[simp] theorem chanOf_setPort (s : State) (k : Nat) (x : Port) (j : Nat) : chanOf (setPort s k x) j = chanOf s j := rfl
@[simp] theorem polOf_setPort (s : State) (k : Nat) (x : Port) (j : Nat) : polOf (setPort s k x) j = polOf s j := rfl
@[simp] theorem queueOf_setPort (s : State) (k : Nat) (x : Port) (j : Nat) : queueOf (setPort s k x) j = queueOf s j := rfl
@[simp] theorem dsOf_setPort (s : State) (k : Nat) (x : Port) (j : Nat) : dsOf (setPort s k x) j = dsOf s j := rfl
@[simp] theorem bndOf_setPort (s : State) (k : Nat) (x : Port) (j : Nat) : bndOf (setPort s k x) j = bndOf s j := rfl
@[simp] theorem dieOf_setPort (s : State) (k : Nat) (x : Port) (j : Nat) : dieOf (setPort s k x) j = dieOf s j := rfl

@[simp] theorem getF_setWide (s : State) (p : Page) (n sp e : Nat) (v : BitVec 192) (f : Fld) (k : Nat) : getF (setWide s p n sp e v) f k = getF s f k := rfl

@[simp] theorem getF_cycle (s : State) (f : Fld) (n : Nat) : getF (cycle s) f n = getF s f n := rfl

/-! Fields (R32). -/

/-- A field reads what was written, cut to its width. -/
@[simp] theorem getF_setF_same (s : State) (f : Fld) (n v : Nat) : getF (setF s f n v) f n = v % 2 ^ f.w.val := by
  have h : v % 2 ^ f.w.val < 2 ^ 32 :=
    lt_of_lt_of_le (Nat.mod_lt _ (by positivity)) (Nat.pow_le_pow_right (by omega) (by have := f.w.isLt; omega))
  simp only [getF, setF, Store.get_put_same, BitVec.toNat_ofNat]
  rw [Nat.mod_eq_of_lt h, Nat.mod_mod]

/-- A write of a field leaves a field of another key alone. -/
theorem getF_setF_ne (s : State) {f g : Fld} {n m : Nat} (v : Nat) (h : g.key m ≠ f.key n) :
    getF (setF s f n v) g m = getF s g m := by
  simp only [getF, setF]
  rw [Store.get_put_ne _ _ _ _ h]

/-- The part of a key that names the page and the field. -/
def Fld.tag (f : Fld) : Nat := fldKey f.page.code 0 f.space f.off f.lo % 2 ^ 38

theorem Fld.key_tag (f : Fld) (n : Nat) : f.key n % 2 ^ 38 = f.tag := by
  simp only [Fld.key, Fld.tag, fldKey]
  omega

/-- Fields of different tags are different fields, whatever their instances. -/
theorem getF_setF_tag (s : State) {f g : Fld} (n m v : Nat) (h : g.tag ≠ f.tag) :
    getF (setF s f n v) g m = getF s g m :=
  getF_setF_ne s v (fun hk => h (by rw [← Fld.key_tag g m, ← Fld.key_tag f n, hk]))

theorem page_code_lt (p : Page) : p.code < 32 := by cases p <;> decide

theorem page_code_inj {p q : Page} (h : p.code = q.code) : p = q := by cases p <;> cases q <;> first | rfl | cases h

theorem Fld.key_page (f : Fld) (n : Nat) : f.key n % 32 = f.page.code := by
  have := page_code_lt f.page
  simp only [Fld.key, fldKey]
  omega

/-- Fields of different pages are different fields. -/
theorem getF_setF_page (s : State) {f g : Fld} (n m v : Nat) (h : g.page ≠ f.page) :
    getF (setF s f n v) g m = getF s g m :=
  getF_setF_ne s v (fun hk => h (page_code_inj (by rw [← Fld.key_page g m, ← Fld.key_page f n, hk])))

/-- A field of another instance of the page is another field. -/
theorem getF_setF_inst (s : State) (f : Fld) {n m : Nat} (v : Nat) (h : m ≠ n) :
    getF (setF s f n v) f m = getF s f m :=
  getF_setF_ne s v (by simp only [Fld.key, fldKey]; omega)

end Sys2Proof.Machine
end

