-- ==== Sys2Proof/Laws/Ops.lean ====
section
/-! SUPPORT. Sticky events, reports, counters and stamps: what each writes, and that it writes nothing else. -/

namespace Sys2Proof.Machine

/-! Two fields in one step (R32). -/

theorem tag_key {f g : Fld} {n m : Nat} (h : f.tag ≠ g.tag) : f.key n ≠ g.key m :=
  fun e => h (by rw [← Fld.key_tag f n, ← Fld.key_tag g m, e])

/-! A report goes to the router and writes no register (R403). -/

@[simp] theorem getF_report (s : State) (p : Page) (n b : Nat) (f : Fld) (m : Nat) : getF (report s p n b) f m = getF s f m := by
  unfold report
  split <;> rfl

/-! EVT_SEQ counts once per command for a page (R34). -/

theorem getF_countEvt (s : State) (p : Page) (n : Nat) (f : Fld) (m : Nat) (h : f.tag ≠ (F.EVT_SEQ p).tag) :
    getF (countEvt s p n) f m = getF s f m := by
  unfold countEvt
  split
  · rfl
  · exact getF_setF_tag s n m _ h

/-- What raising an event does, with and without a report (R34, R37, R403). -/
theorem raise_cases (s : State) (p : Page) (n b : Nat) :
    raise s p n b = countEvt (setF s (F.EVT p) n (getF s (F.EVT p) n ||| 2 ^ b)) p n ∨
    raise s p n b = report (countEvt (setF s (F.EVT p) n (getF s (F.EVT p) n ||| 2 ^ b)) p n) p n b := by
  simp only [raise]
  split
  · exact Or.inr rfl
  · exact Or.inl rfl

theorem getF_evt_raise (s : State) (p : Page) (n b : Nat) :
    getF (raise s p n b) (F.EVT p) n = (getF s (F.EVT p) n ||| 2 ^ b) % 2 ^ 32 := by
  have ht : (F.EVT p).tag ≠ (F.EVT_SEQ p).tag := by cases p <;> decide
  rcases raise_cases s p n b with h | h
  · rw [h, getF_countEvt _ _ _ _ _ ht, getF_setF_same]; rfl
  · rw [h, getF_report, getF_countEvt _ _ _ _ _ ht, getF_setF_same]; rfl

/-- Raising an event leaves every field but EVT and EVT_SEQ of a page. -/
theorem getF_raise (s : State) (p : Page) (n b : Nat) (f : Fld) (m : Nat) (h : f.tag ≠ (F.EVT p).tag)
    (g : f.tag ≠ (F.EVT_SEQ p).tag) : getF (raise s p n b) f m = getF s f m := by
  rcases raise_cases s p n b with e | e
  · rw [e, getF_countEvt _ _ _ _ _ g, getF_setF_tag _ _ _ _ h]
  · rw [e, getF_report, getF_countEvt _ _ _ _ _ g, getF_setF_tag _ _ _ _ h]

/-- An event that has been raised reads 1 (R34). -/
theorem evt_raise (s : State) (p : Page) (n b : Nat) (h : b < 32) : (getF (raise s p n b) (F.EVT p) n).testBit b = true := by
  rw [getF_evt_raise, Nat.testBit_mod_two_pow]
  simp [h, Nat.testBit_or, Nat.testBit_two_pow_self]

/-- Raising an event leaves the events raised before. -/
theorem evt_raise_old (s : State) (p : Page) (n b c : Nat) (h : (getF s (F.EVT p) n).testBit c = true) (hc : c < 32) :
    (getF (raise s p n b) (F.EVT p) n).testBit c = true := by
  rw [getF_evt_raise, Nat.testBit_mod_two_pow]
  simp [hc, Nat.testBit_or, h]

/-! Counters (R32) and stamps. -/

theorem getF_addCt_same (s : State) (f : Fld) (n k : Nat) :
    getF (addCt s f n k) f n = Nat.min (getF s f n + k) (2 ^ f.w.val - 1) := by
  unfold addCt
  rw [getF_setF_same, Nat.mod_eq_of_lt]
  exact lt_of_le_of_lt (Nat.min_le_right _ _) (Nat.sub_lt (by positivity) (by omega))

theorem getF_addCt_tag (s : State) {f g : Fld} (n m k : Nat) (h : g.tag ≠ f.tag) : getF (addCt s f n k) g m = getF s g m :=
  getF_setF_tag s n m _ h

@[simp] theorem getF_reach (s : State) (t : Stamp) (f : Fld) (n : Nat) : getF (reach s t) f n = getF s f n := by
  unfold reach
  split <;> rfl

@[simp] theorem getF_launch (s : State) (e : Ev) (f : Fld) (n : Nat) : getF (launch s e) f n = getF s f n := rfl

/-! The parts of the state that `raise`, `reach` and `launch` leave. -/

theorem raise_parts (s : State) (p : Page) (n b : Nat) : (raise s p n b).chans = s.chans ∧ (raise s p n b).pols = s.pols ∧
    (raise s p n b).queues = s.queues ∧ (raise s p n b).bnds = s.bnds ∧ (raise s p n b).dss = s.dss ∧
    (raise s p n b).ports = s.ports ∧ (raise s p n b).wide = s.wide ∧ (raise s p n b).nvm = s.nvm ∧
    (raise s p n b).sec = s.sec ∧ (raise s p n b).bdn = s.bdn ∧ (raise s p n b).pwr = s.pwr ∧ (raise s p n b).flts = s.flts := by
  rcases raise_cases s p n b with e | e
  · rw [e]; unfold countEvt; split <;> exact ⟨rfl, rfl, rfl, rfl, rfl, rfl, rfl, rfl, rfl, rfl, rfl, rfl⟩
  · rw [e]; unfold report countEvt
    split <;> split <;> exact ⟨rfl, rfl, rfl, rfl, rfl, rfl, rfl, rfl, rfl, rfl, rfl, rfl⟩

end Sys2Proof.Machine
end

