-- ==== Sys2Proof/Laws/Frame.lean ====
section
/-! SUPPORT. The page frame, part 1: levels, timing, NVM records, the Sluice, acquisition, the parametric unit, the TDC. Each operation has one lemma: it leaves every register field of the pages
that its hypotheses do not name. -/

namespace Sys2Proof.Machine

theorem getF_upd (t : State) (wide : Store (BitVec 192)) (stage : Store Stage) (posted : Store (List Posted)) (strms : Store
    Strm) (acqs : Store AcqU) (chans : Store Chan) (pols : Store Pol) (queues : Store DacQ) (dss : Store Ds) (bnds : Store
    Bnd) (dies : Store Die) (flts : Store Flt) (fltBad : List Nat) (dram : List Host.Cell) (rtr : Router) (clk : Clk) (bgl :
    Bgl) (hkp : Hkp) (pwr : Pwr) (nvm : Nvm) (otp : Otp) (sec : Sec) (ports : Store Port) (smb : Smb) (jtag : Jtag) (mbox :
    List Host.Cell) (dramBad : List Nat) (pool : Store (List (BitVec 64))) (ret : Option Word) (bdn : BitVec 64) (clkSteps :
    Nat) (holds : Nat) (free : Nat) (cyc : List (Nat × Nat)) (pending : List Instr) (f : Fld) (m : Nat) : getF (State.mk
    t.regs wide stage posted strms acqs chans pols queues dss bnds dies flts fltBad dram rtr clk bgl hkp pwr nvm otp sec
    ports smb jtag mbox dramBad pool ret bdn clkSteps holds free cyc pending) f m = getF t f m := rfl

theorem getF_ite (c : Prop) [Decidable c] (a b : State) (f : Fld) (m : Nat) :
    getF (if c then a else b) f m = if c then getF a f m else getF b f m := apply_ite (fun x => getF x f m) c a b

theorem forAll_page {f : Fld} {m : Nat} {g : State → Nat → State} (h : ∀ s n, getF (g s n) f m = getF s f m) (l : List Nat)
    (s : State) : getF (forAll l s g) f m = getF s f m := by
  unfold forAll
  induction l generalizing s with
  | nil => rfl
  | cons n l ih => rw [List.foldl_cons, ih, h]

theorem foldl_page {α : Type} {f : Fld} {m : Nat} {g : State → α → State} (h : ∀ s a, getF (g s a) f m = getF s f m) (l :
    List α)
    (s : State) : getF (l.foldl g s) f m = getF s f m := by
  induction l generalizing s with
  | nil => rfl
  | cons n l ih => rw [List.foldl_cons, ih, h]

theorem raise_page (s : State) (p : Page) (n b : Nat) {f : Fld} {m : Nat} (h : f.page ≠ p) :
    getF (raise s p n b) f m = getF s f m := by
  have hc : ∀ t : State, getF (countEvt t p n) f m = getF t f m := by
    intro t
    unfold countEvt
    split
    · rfl
    · exact getF_setF_page t n m _ h
  rcases raise_cases s p n b with e | e
  · rw [e, hc]; exact getF_setF_page s n m _ h
  · rw [e, getF_report, hc]; exact getF_setF_page s n m _ h

theorem raiseIf_page (c : Bool) (s : State) (p : Page) (n b : Nat) {f : Fld} {m : Nat} (h : f.page ≠ p) :
    getF (raiseIf c s p n b) f m = getF s f m := by
  unfold raiseIf
  split
  · exact raise_page s p n b h
  · rfl

theorem setF_page (s : State) (g : Fld) (n v : Nat) {f : Fld} {m : Nat} (h : f.page ≠ g.page) :
    getF (setF s g n v) f m = getF s f m := getF_setF_page s n m v h

theorem addCt_page (s : State) (g : Fld) (n k : Nat) {f : Fld} {m : Nat} (h : f.page ≠ g.page) :
    getF (addCt s g n k) f m = getF s f m := getF_setF_page s n m _ h

theorem set64_page (s : State) (a b : Fld) (n : Nat) (v : BitVec 64) {f : Fld} {m : Nat} (h : f.page ≠ a.page) (g : f.page ≠
    b.page) :
    getF (set64 s a b n v) f m = getF s f m := by
  unfold set64
  rw [getF_setF_page _ _ _ _ g, getF_setF_page _ _ _ _ h]

theorem setB_page (s : State) (b : Nat) (x y : Fld) (v : Nat) {f : Fld} {m : Nat} (h : f.page ≠ x.page) (g : f.page ≠ y.page)
    :
    getF (setB s b x y v) f m = getF s f m := by
  unfold setB
  split
  · exact getF_setF_page s _ m v h
  · exact getF_setF_page s _ m v g

/-- Fields of one page, all written with the same value. -/
theorem setAll_page {p : Page} (l : List Fld) (n : Nat) (h : ∀ g ∈ l, g.page = p) {f : Fld} {m : Nat} (hp : f.page ≠ p) (s :
    State) :
    getF (l.foldl (fun s g => setF s g n 0) s) f m = getF s f m := by
  induction l generalizing s with
  | nil => rfl
  | cons g l ih =>
    rw [List.foldl_cons, ih (fun x hx => h x (List.mem_cons_of_mem _ hx))]
    exact setF_page s g n 0 (by rw [h g List.mem_cons_self]; exact hp)

theorem freeW_page (s : State) (f : Fld) (m : Nat) : getF (freeW s).2 f m = getF s f m := rfl

theorem freeB_page (s : State) (f : Fld) (m : Nat) : getF (freeB s).2 f m = getF s f m := rfl

theorem setRs_page (s : State) (p : Nat) (r : RS) {fl : Fld} {mm : Nat} (hpol : fl.page ≠ .pol) :
    getF (setRs s p r) fl mm = getF s fl mm := by
  unfold setRs
  repeat' (first
    | with_reducible rfl
    | simp (disch := assumption) only [setF_page])

theorem setLive_page (s : State) (src : Nat) (v : Bool) {fl : Fld} {mm : Nat} :
    getF (setLive s src v) fl mm = getF s fl mm := by
  unfold setLive
  repeat' (first
    | with_reducible rfl
    | simp only [getF_upd])

theorem setCorr_page (s : State) (src : Nat) (v : Bool) {fl : Fld} {mm : Nat} :
    getF (setCorr s src v) fl mm = getF s fl mm := by
  unfold setCorr
  repeat' (first
    | with_reducible rfl
    | simp only [getF_upd])

theorem forwardEv_page (s : State) (e : Ev) {fl : Fld} {mm : Nat} :
    getF (forwardEv s e) fl mm = getF s fl mm := by
  unfold forwardEv
  repeat' (first
    | with_reducible rfl
    | simp only [getF_upd, getF_launch])

theorem correct_page (s : State) (src : Nat) (t : Stamp) {fl : Fld} {mm : Nat} :
    getF (correct s src t) fl mm = getF s fl mm := by
  unfold correct
  repeat' (first
    | with_reducible rfl
    | simp only [getF_ite, ite_self, setCorr_page, forwardEv_page])

theorem uncorrect_page (s : State) (src : Nat) (t : Stamp) {fl : Fld} {mm : Nat} :
    getF (uncorrect s src t) fl mm = getF s fl mm := by
  unfold uncorrect
  repeat' (first
    | with_reducible rfl
    | simp only [getF_ite, ite_self, getF_upd]
    | split)

theorem dieEvent_page (s : State) (e : Ev) {fl : Fld} {mm : Nat} (hevr : fl.page ≠ .evr) :
    getF (dieEvent s e) fl mm = getF s fl mm := by
  unfold dieEvent
  repeat' (first
    | with_reducible rfl
    | simp (disch := assumption) only [getF_ite, ite_self, addCt_page, raise_page, setLive_page, forwardEv_page,
        correct_page, uncorrect_page])

theorem setFlt_page (s : State) (f : Nat) (x : Flt) {fl : Fld} {mm : Nat} :
    getF (setFlt s f x) fl mm = getF s fl mm := by
  unfold setFlt
  repeat' (first
    | with_reducible rfl
    | simp only [getF_upd])

theorem owe_page (s : State) (f : Nat) {fl : Fld} {mm : Nat} :
    getF (owe s f) fl mm = getF s fl mm := by
  unfold owe
  repeat' (first
    | with_reducible rfl
    | simp only [setFlt_page])

theorem causeOn_page (s : State) (f : Nat) (names : List Nat) {fl : Fld} {mm : Nat} :
    getF (causeOn s f names) fl mm = getF s fl mm := by
  unfold causeOn
  repeat' (first
    | with_reducible rfl
    | simp only [getF_ite, ite_self, setFlt_page])

theorem causeOff_page (s : State) (f : Nat) {fl : Fld} {mm : Nat} :
    getF (causeOff s f) fl mm = getF s fl mm := by
  unfold causeOff
  repeat' (first
    | with_reducible rfl
    | simp only [setFlt_page])

theorem causeDrop_page (s : State) (f : Nat) {fl : Fld} {mm : Nat} :
    getF (causeDrop s f) fl mm = getF s fl mm := by
  unfold causeDrop
  repeat' (first
    | with_reducible rfl
    | simp only [setFlt_page])

theorem muteStart_page (s : State) (p k : Nat) (t : Stamp) {fl : Fld} {mm : Nat} :
    getF (muteStart s p k t) fl mm = getF s fl mm := by
  unfold muteStart
  repeat' (first
    | with_reducible rfl
    | simp only [getF_ite, ite_self, getF_setPol])

theorem muteStarts_page (s : State) (p : Nat) (f : Nat → Bool) (t : Stamp) {fl : Fld} {mm : Nat} :
    getF (muteStarts s p f t) fl mm = getF s fl mm := by
  unfold muteStarts
  repeat' (first
    | with_reducible rfl
    | simp only [getF_ite, ite_self, muteStart_page]
    | refine (forAll_page (fun _ _ => ?_) _ _).trans ?_)

theorem refreshLevee_page (s : State) (p : Nat) {fl : Fld} {mm : Nat} :
    getF (refreshLevee s p) fl mm = getF s fl mm := by
  unfold refreshLevee
  repeat' (first
    | with_reducible rfl
    | simp only [getF_ite, ite_self, causeOn_page, causeOff_page])

theorem putQueue_page (s : State) (q : Nat) (x : DacQ) {fl : Fld} {mm : Nat} (hdsc : fl.page ≠ .dsc) (hpol : fl.page ≠ .pol)
    :
    getF (putQueue s q x) fl mm = getF s fl mm := by
  unfold putQueue
  repeat' (first
    | with_reducible rfl
    | simp (disch := assumption) only [getF_ite, ite_self, setF_page, getF_setQueue])

theorem emptyQueue_page (s : State) (q : Nat) {fl : Fld} {mm : Nat} (hdsc : fl.page ≠ .dsc) (hpol : fl.page ≠ .pol) :
    getF (emptyQueue s q) fl mm = getF s fl mm := by
  unfold emptyQueue
  repeat' (first
    | with_reducible rfl
    | simp (disch := assumption) only [putQueue_page])

theorem suspendQueue_page (s : State) (q : Nat) (v : Bool) {fl : Fld} {mm : Nat} (hdsc : fl.page ≠ .dsc) (hpol : fl.page ≠
    .pol) :
    getF (suspendQueue s q v) fl mm = getF s fl mm := by
  unfold suspendQueue
  repeat' (first
    | with_reducible rfl
    | simp (disch := assumption) only [putQueue_page])

theorem pushEntry_page (s : State) (q : Nat) (e : BitVec 64) {fl : Fld} {mm : Nat} (hdsc : fl.page ≠ .dsc) (hpol : fl.page ≠
    .pol) :
    getF (pushEntry s q e) fl mm = getF s fl mm := by
  unfold pushEntry
  repeat' (first
    | with_reducible rfl
    | simp (disch := assumption) only [getF_ite, ite_self, addCt_page, raise_page, putQueue_page])

theorem pushStaged_page (s : State) (p k : Nat) {fl : Fld} {mm : Nat} (hdsc : fl.page ≠ .dsc) (hpol : fl.page ≠ .pol) :
    getF (pushStaged s p k) fl mm = getF s fl mm := by
  unfold pushStaged
  repeat' (first
    | with_reducible rfl
    | simp (disch := assumption) only [getF_ite, ite_self, raise_page, pushEntry_page])

theorem pushLset_page (s : State) (p : Nat) (ls : BitVec 4) {fl : Fld} {mm : Nat} (hdsc : fl.page ≠ .dsc) (hpol : fl.page ≠
    .pol) :
    getF (pushLset s p ls) fl mm = getF s fl mm := by
  unfold pushLset
  repeat' (first
    | with_reducible rfl
    | simp (disch := assumption) only [getF_ite, ite_self, getF_setPol, pushEntry_page])

theorem applyDac_page (s : State) (c d code : Nat) (g : Bool) {fl : Fld} {mm : Nat} (hoct : fl.page ≠ .oct) :
    getF (applyDac s c d code g) fl mm = getF s fl mm := by
  unfold applyDac
  repeat' (first
    | with_reducible rfl
    | simp (disch := assumption) only [setF_page])

theorem applyLset_page (s : State) (l c : Nat) {fl : Fld} {mm : Nat} (hoct : fl.page ≠ .oct) :
    getF (applyLset s l c) fl mm = getF s fl mm := by
  unfold applyLset
  repeat' (first
    | with_reducible rfl
    | simp (disch := assumption) only [applyDac_page]
    | refine (forAll_page (fun _ _ => ?_) _ _).trans ?_)

theorem gainSwitch_page (s : State) (q : Nat) (sw : Bool) {fl : Fld} {mm : Nat} (hdsc : fl.page ≠ .dsc) (hpol : fl.page ≠
    .pol) :
    getF (gainSwitch s q sw) fl mm = getF s fl mm := by
  unfold gainSwitch
  repeat' (first
    | with_reducible rfl
    | simp (disch := assumption) only [getF_ite, ite_self, putQueue_page])

theorem levelOp_page (s : State) (q : Nat) (cs : List Nat) (f : State → Nat → State) {fl : Fld} {mm : Nat} (hdsc : fl.page ≠
    .dsc) (hpol : fl.page ≠ .pol) (hf : ∀ s n, getF (f s n) fl mm = getF s fl mm) :
    getF (levelOp s q cs f) fl mm = getF s fl mm := by
  unfold levelOp
  repeat' (first
    | with_reducible rfl
    | simp (disch := assumption) only [gainSwitch_page, forAll_page])

theorem applyFaultChan_page (s : State) (c : Nat) {fl : Fld} {mm : Nat} (hoct : fl.page ≠ .oct) :
    getF (applyFaultChan s c) fl mm = getF s fl mm := by
  unfold applyFaultChan
  repeat' (first
    | with_reducible rfl
    | simp (disch := assumption) only [applyDac_page]
    | refine (forAll_page (fun _ _ => ?_) _ _).trans ?_)

theorem applyFaultDacs_page (s : State) (o : Nat) {fl : Fld} {mm : Nat} (hdsc : fl.page ≠ .dsc) (hpol : fl.page ≠ .pol) (hoct
    : fl.page ≠ .oct) : getF (applyFaultDacs s o) fl mm = getF s fl mm := by
  unfold applyFaultDacs
  extract_lets cs
  split
  · exact levelOp_page _ _ _ _ ‹_› ‹_› (fun _ _ => applyFaultChan_page _ _ ‹_›)
  · exact forAll_page (fun _ _ => applyFaultChan_page _ _ ‹_›) _ _

theorem applyPwrupDacs_page (s : State) (o : Nat) {fl : Fld} {mm : Nat} (hoct : fl.page ≠ .oct) :
    getF (applyPwrupDacs s o) fl mm = getF s fl mm := by
  unfold applyPwrupDacs
  repeat' (first
    | with_reducible rfl
    | simp (disch := assumption) only [applyDac_page]
    | refine (forAll_page (fun _ _ => ?_) _ _).trans ?_)

theorem startDacs_page (s : State) (o : Nat) {fl : Fld} {mm : Nat} (hdsc : fl.page ≠ .dsc) (hpol : fl.page ≠ .pol) (hoct :
    fl.page ≠ .oct) :
    getF (startDacs s o) fl mm = getF s fl mm := by
  unfold startDacs
  repeat' (first
    | with_reducible rfl
    | simp (disch := assumption) only [getF_ite, ite_self, applyFaultDacs_page, applyPwrupDacs_page])

theorem dsLimit_page (s : State) (d cause : Nat) {fl : Fld} {mm : Nat} (hdsc : fl.page ≠ .dsc) :
    getF (dsLimit s d cause) fl mm = getF s fl mm := by
  unfold dsLimit
  repeat' (first
    | with_reducible rfl
    | simp (disch := assumption) only [setF_page, raise_page])

theorem dsCause_page (s : State) (d : Nat) {fl : Fld} {mm : Nat} :
    getF (dsCause s d) fl mm = getF s fl mm := by
  unfold dsCause
  repeat' (first
    | with_reducible rfl
    | simp only [getF_ite, ite_self, causeOn_page, causeOff_page])

theorem clipDs_page (s : State) (d : Nat) (clip : Bool) {fl : Fld} {mm : Nat} (hdsc : fl.page ≠ .dsc) :
    getF (clipDs s d clip) fl mm = getF s fl mm := by
  unfold clipDs
  repeat' (first
    | with_reducible rfl
    | simp (disch := assumption) only [getF_ite, ite_self, setF_page, dsLimit_page, dsCause_page])

theorem applySp_page (s : State) (d : Nat) {fl : Fld} {mm : Nat} (hdsc : fl.page ≠ .dsc) :
    getF (applySp s d) fl mm = getF s fl mm := by
  unfold applySp
  repeat' (first
    | with_reducible rfl
    | simp (disch := assumption) only [setF_page, clipDs_page])

theorem setPoint_page (s : State) (d code : Nat) (g : Bool) {fl : Fld} {mm : Nat} (hdsc : fl.page ≠ .dsc) :
    getF (setPoint s d code g) fl mm = getF s fl mm := by
  unfold setPoint
  repeat' (first
    | with_reducible rfl
    | simp (disch := assumption) only [getF_setDs, applySp_page])

theorem setDsOn_page (s : State) (d : Nat) (v : Bool) {fl : Fld} {mm : Nat} (hdsc : fl.page ≠ .dsc) :
    getF (setDsOn s d v) fl mm = getF s fl mm := by
  unfold setDsOn
  repeat' (first
    | with_reducible rfl
    | simp (disch := assumption) only [setF_page])

theorem dsMonOff_page (s : State) (d : Nat) (t : Stamp) {fl : Fld} {mm : Nat} (hevr : fl.page ≠ .evr) :
    getF (dsMonOff s d t) fl mm = getF s fl mm := by
  unfold dsMonOff
  repeat' (first
    | with_reducible rfl
    | simp (disch := assumption) only [getF_ite, ite_self, getF_setDs, dieEvent_page])

theorem dsOff_page (s : State) (d : Nat) (t : Stamp) {fl : Fld} {mm : Nat} (hevr : fl.page ≠ .evr) (hdsc : fl.page ≠ .dsc) :
    getF (dsOff s d t) fl mm = getF s fl mm := by
  unfold dsOff
  repeat' (first
    | with_reducible rfl
    | simp (disch := assumption) only [setF_page, getF_setDs, dsCause_page, setDsOn_page, dsMonOff_page])

theorem opErr_page (s : State) (q : Nat) {fl : Fld} {mm : Nat} (hdsc : fl.page ≠ .dsc) (hpol : fl.page ≠ .pol) :
    getF (opErr s q) fl mm = getF s fl mm := by
  unfold opErr
  repeat' (first
    | with_reducible rfl
    | simp (disch := assumption) only [getF_ite, ite_self, addCt_page, raise_page])

theorem stampQueue_page (s : State) (q : Nat) (t : Stamp) {fl : Fld} {mm : Nat} (hdsc : fl.page ≠ .dsc) (hpol : fl.page ≠
    .pol) :
    getF (stampQueue s q t) fl mm = getF s fl mm := by
  unfold stampQueue
  repeat' (first
    | with_reducible rfl
    | simp (disch := assumption) only [getF_ite, ite_self, setF_page, set64_page])

theorem levelMute_page (s : State) (q : Nat) (lsw : Bool) (t : Stamp) {fl : Fld} {mm : Nat} :
    getF (levelMute s q lsw t) fl mm = getF s fl mm := by
  unfold levelMute
  repeat' (first
    | with_reducible rfl
    | simp only [muteStarts_page])

theorem dsMute_page (s : State) (q : Nat) (t : Stamp) {fl : Fld} {mm : Nat} :
    getF (dsMute s q t) fl mm = getF s fl mm := by
  unfold dsMute
  repeat' (first
    | with_reducible rfl
    | simp only [muteStarts_page]
    | split)

theorem applyEntry_page (s : State) (q : Nat) (e : BitVec 64) (t : Stamp) {fl : Fld} {mm : Nat} (hevr : fl.page ≠ .evr) (hdsc
    : fl.page ≠ .dsc) (hpol : fl.page ≠ .pol) (hoct : fl.page ≠ .oct) :
    getF (applyEntry s q e t) fl mm = getF s fl mm := by
  have hd (l : List Nat) : getF (levelOp s q l (fun s c => applyDac s c (qeDac e) (qeCode e) (qeG e))) fl mm = getF s fl mm
      :=
    levelOp_page _ _ _ _ ‹_› ‹_› (fun _ _ => applyDac_page _ _ _ _ _ ‹_›)
  have hs (l : List Nat) : getF (levelOp s q l (fun s c => applyLset s (qeLset e) c)) fl mm = getF s fl mm :=
    levelOp_page _ _ _ _ ‹_› ‹_› (fun _ _ => applyLset_page _ _ _ ‹_›)
  unfold applyEntry
  extract_lets cs snt d
  split
  · rfl
  split
  · rfl
  · split
    · simp (disch := assumption) only [opErr_page]
    · split
      · simp (disch := assumption) only [levelMute_page, hd]
      · simp (disch := assumption) only [opErr_page]
  · split
    · simp (disch := assumption) only [opErr_page]
    · simp (disch := assumption) only [levelMute_page, hd]
  · simp (disch := assumption) only [levelMute_page, setF_page, hs]
  · simp (disch := assumption) only [dsMute_page, gainSwitch_page, setPoint_page]
  · rw [dsMute_page]
    split
    · rfl
    · simp (disch := assumption) only [setDsOn_page]
  · simp (disch := assumption) only [dsMute_page, dsOff_page]
  · simp (disch := assumption) only [opErr_page]

theorem showRamp_page (s : State) (d : Nat) (v : Bool) {fl : Fld} {mm : Nat} (hdsc : fl.page ≠ .dsc) :
    getF (showRamp s d v) fl mm = getF s fl mm := by
  unfold showRamp
  repeat' (first
    | with_reducible rfl
    | simp (disch := assumption) only [setF_page, getF_setDs])

theorem rampEnd_page (s : State) (d : Nat) {fl : Fld} {mm : Nat} (hevr : fl.page ≠ .evr) (hdsc : fl.page ≠ .dsc) :
    getF (rampEnd s d) fl mm = getF s fl mm := by
  unfold rampEnd
  repeat' (first
    | with_reducible rfl
    | simp (disch := assumption) only [getF_ite, ite_self, setPoint_page, setDsOn_page, dsOff_page, showRamp_page])

theorem faultRamp_page (s : State) (d : Nat) {fl : Fld} {mm : Nat} (hevr : fl.page ≠ .evr) (hdsc : fl.page ≠ .dsc) (hpol :
    fl.page ≠ .pol) :
    getF (faultRamp s d) fl mm = getF s fl mm := by
  unfold faultRamp
  repeat' (first
    | with_reducible rfl
    | simp (disch := assumption) only [getF_ite, ite_self, setF_page, getF_setDs, gainSwitch_page, clipDs_page,
        showRamp_page, rampEnd_page])

theorem dikeQueues_page (s : State) (p : Nat) {fl : Fld} {mm : Nat} (hevr : fl.page ≠ .evr) (hdsc : fl.page ≠ .dsc) (hpol :
    fl.page ≠ .pol) :
    getF (dikeQueues s p) fl mm = getF s fl mm := by
  unfold dikeQueues
  repeat' (first
    | with_reducible rfl
    | simp (disch := assumption) only [setF_page, emptyQueue_page, suspendQueue_page, faultRamp_page]
    | refine (forAll_page (fun _ _ => ?_) _ _).trans ?_)

theorem releaseQueues_page (s : State) (p : Nat) {fl : Fld} {mm : Nat} (hdsc : fl.page ≠ .dsc) (hpol : fl.page ≠ .pol) :
    getF (releaseQueues s p) fl mm = getF s fl mm := by
  unfold releaseQueues
  repeat' (first
    | with_reducible rfl
    | simp (disch := assumption) only [getF_setDs, suspendQueue_page]
    | refine (forAll_page (fun _ _ => ?_) _ _).trans ?_)

theorem takeDs_page (s : State) (p d : Nat) {fl : Fld} {mm : Nat} (hdsc : fl.page ≠ .dsc) (hpol : fl.page ≠ .pol) :
    getF (takeDs s p d) fl mm = getF s fl mm := by
  unfold takeDs
  repeat' (first
    | with_reducible rfl
    | simp (disch := assumption) only [setF_page, suspendQueue_page])

theorem dropDs_page (s : State) (d : Nat) {fl : Fld} {mm : Nat} (hevr : fl.page ≠ .evr) (hdsc : fl.page ≠ .dsc) (hpol :
    fl.page ≠ .pol) :
    getF (dropDs s d) fl mm = getF s fl mm := by
  unfold dropDs
  repeat' (first
    | with_reducible rfl
    | simp (disch := assumption) only [setF_page, emptyQueue_page, suspendQueue_page, dsMonOff_page, faultRamp_page])

theorem commitChar_page (s : State) (o e : Nat) (v : BitVec 192) {fl : Fld} {mm : Nat} (hoct : fl.page ≠ .oct) :
    getF (commitChar s o e v) fl mm = getF s fl mm := by
  unfold commitChar
  repeat' (first
    | with_reducible rfl
    | simp (disch := assumption) only [setF_page, raise_page, getF_setWide]
    | split)

theorem commitConfig_page (s : State) (p t : Nat) (v : BitVec 192) {fl : Fld} {mm : Nat} (hpol : fl.page ≠ .pol) :
    getF (commitConfig s p t v) fl mm = getF s fl mm := by
  unfold commitConfig
  repeat' (first
    | with_reducible rfl
    | simp (disch := assumption) only [getF_ite, setF_page, raise_page, getF_setWide]
    | split)

theorem clearSet_page (s : State) (p t : Nat) {fl : Fld} {mm : Nat} :
    getF (clearSet s p t) fl mm = getF s fl mm := by
  unfold clearSet
  repeat' (first
    | with_reducible rfl
    | simp only [getF_setWide]
    | refine (forAll_page (fun _ _ => ?_) _ _).trans ?_)

theorem clearSpace_page (s : State) (pg : Page) (n sp : Nat) {fl : Fld} {mm : Nat} :
    getF (clearSpace s pg n sp) fl mm = getF s fl mm := by
  unfold clearSpace
  repeat' (first
    | with_reducible rfl
    | simp only [getF_upd])

theorem takeDeskew_page (s : State) (ch : Nat) {fl : Fld} {mm : Nat} (hoct : fl.page ≠ .oct) :
    getF (takeDeskew s ch) fl mm = getF s fl mm := by
  unfold takeDeskew
  repeat' (first
    | with_reducible rfl
    | simp (disch := assumption) only [setF_page, raiseIf_page, getF_setChan])

theorem applyDeskew_page (s : State) (ch : Nat) {fl : Fld} {mm : Nat} (hoct : fl.page ≠ .oct) :
    getF (applyDeskew s ch) fl mm = getF s fl mm := by
  unfold applyDeskew
  repeat' (first
    | with_reducible rfl
    | simp (disch := assumption) only [getF_ite, ite_self, getF_setChan, takeDeskew_page])

theorem dueDeskew_page (s : State) (ch : Nat) {fl : Fld} {mm : Nat} (hoct : fl.page ≠ .oct) :
    getF (dueDeskew s ch) fl mm = getF s fl mm := by
  unfold dueDeskew
  repeat' (first
    | with_reducible rfl
    | simp (disch := assumption) only [getF_ite, ite_self, takeDeskew_page])

theorem deskewRound_page (s : State) {fl : Fld} {mm : Nat} (hoct : fl.page ≠ .oct) :
    getF (deskewRound s) fl mm = getF s fl mm := by
  unfold deskewRound
  repeat' (first
    | with_reducible rfl
    | simp (disch := assumption) only [getF_ite, ite_self, getF_setChan, applyDeskew_page]
    | refine (forAll_page (fun _ _ => ?_) _ _).trans ?_)

theorem takePdly_page (s : State) (p : Nat) {fl : Fld} {mm : Nat} (hoct : fl.page ≠ .oct) :
    getF (takePdly s p) fl mm = getF s fl mm := by
  unfold takePdly
  repeat' (first
    | with_reducible rfl
    | simp (disch := assumption) only [getF_setChan, applyDeskew_page]
    | refine (forAll_page (fun _ _ => ?_) _ _).trans ?_)

theorem selfcalStart_page (s : State) (d : Nat) {fl : Fld} {mm : Nat} (hcdi : fl.page ≠ .cdi) :
    getF (selfcalStart s d) fl mm = getF s fl mm := by
  unfold selfcalStart
  repeat' (first
    | with_reducible rfl
    | simp (disch := assumption) only [setF_page, getF_setDie])

theorem selfcalLeave_page (s : State) (o : Nat) {fl : Fld} {mm : Nat} (hcdi : fl.page ≠ .cdi) :
    getF (selfcalLeave s o) fl mm = getF s fl mm := by
  unfold selfcalLeave
  repeat' (first
    | with_reducible rfl
    | simp (disch := assumption) only [getF_ite, ite_self, setF_page, getF_setDie])

theorem calChan_page (s : State) (t0 : Nat) (rs : List CalResult) (c : Nat) {fl : Fld} {mm : Nat} (hoct : fl.page ≠ .oct) :
    getF (calChan s t0 rs c) fl mm = getF s fl mm := by
  unfold calChan
  repeat' (first
    | with_reducible rfl
    | simp (disch := assumption) only [setF_page, freeW_page, getF_setChan, applyDeskew_page]
    | split)

theorem programRec_page (s : State) (r : NvmRecord) {fl : Fld} {mm : Nat} (hnvm : fl.page ≠ .nvm) :
    getF (programRec s r) fl mm = getF s fl mm := by
  unfold programRec
  repeat' (first
    | with_reducible rfl
    | simp (disch := assumption) only [getF_upd, setF_page])

theorem putRec_page (s : State) (typ : Nat) (payload : List Byte) {fl : Fld} {mm : Nat} (hnvm : fl.page ≠ .nvm) :
    getF (putRec s typ payload) fl mm = getF s fl mm := by
  unfold putRec
  repeat' (first
    | with_reducible rfl
    | simp (disch := assumption) only [set64_page, programRec_page])

theorem rescue_page (s : State) (n k : Nat) {fl : Fld} {mm : Nat} (hnvm : fl.page ≠ .nvm) : getF (rescue s n k) fl mm
    = getF s fl mm := by
  induction k generalizing s with
  | zero => rfl
  | succ k ih => unfold rescue; split <;> simp (disch := assumption) only [ih, putRec_page]

theorem makeRoom_page (s : State) (typ n : Nat) {fl : Fld} {mm : Nat} (hnvm : fl.page ≠ .nvm) :
    getF (makeRoom s typ n) fl mm = getF s fl mm := by
  unfold makeRoom
  split <;> simp (disch := assumption) only [rescue_page]

theorem writeRec_page (s : State) (typ : Nat) (payload : List Byte) {fl : Fld} {mm : Nat} (hnvm : fl.page ≠ .nvm) :
    getF (writeRec s typ payload) fl mm = getF s fl mm := by
  simp (disch := assumption) only [writeRec, putRec_page, makeRoom_page]

theorem parityMade_page (s : State) (f : Nat) {fl : Fld} {mm : Nat} :
    getF (parityMade s f) fl mm = getF s fl mm := by
  unfold parityMade
  repeat' (first
    | with_reducible rfl
    | simp only [getF_upd])

theorem setFltCfg_page (s : State) (f v : Nat) {fl : Fld} {mm : Nat} (hflt : fl.page ≠ .flt) :
    getF (setFltCfg s f v) fl mm = getF s fl mm := by
  unfold setFltCfg
  repeat' (first
    | with_reducible rfl
    | simp (disch := assumption) only [getF_ite, ite_self, setF_page, parityMade_page])

theorem thrSet_page (s : State) (b : Bool) (v : Nat) {fl : Fld} {mm : Nat} (hhkp : fl.page ≠ .hkp) :
    getF (thrSet s b v) fl mm = getF s fl mm := by
  unfold thrSet
  repeat' (first
    | with_reducible rfl
    | simp (disch := assumption) only [getF_ite, ite_self, setF_page, raise_page])

theorem defaultDacs_page (s : State) {fl : Fld} {mm : Nat} (hdsc : fl.page ≠ .dsc) (hoct : fl.page ≠ .oct) :
    getF (defaultDacs s) fl mm = getF s fl mm := by
  unfold defaultDacs
  repeat' (first
    | with_reducible rfl
    | simp (disch := assumption) only [setF_page]
    | refine (forAll_page (fun _ _ => ?_) _ _).trans ?_)

theorem applyPwrup_page (s : State) {fl : Fld} {mm : Nat} (hdsc : fl.page ≠ .dsc) (hpol : fl.page ≠ .pol) (hoct : fl.page ≠
    .oct) :
    getF (applyPwrup s) fl mm = getF s fl mm := by
  unfold applyPwrup
  repeat' (first
    | with_reducible rfl
    | simp (disch := assumption) only [startDacs_page, setPoint_page, setDsOn_page]
    | refine (forAll_page (fun _ _ => ?_) _ _).trans ?_)

theorem selectRecords_page (s : State) {fl : Fld} {mm : Nat} (hdev : fl.page ≠ .dev) (hnvm : fl.page ≠ .nvm) :
    getF (selectRecords s) fl mm = getF s fl mm := by
  unfold selectRecords
  repeat' (first
    | with_reducible rfl
    | simp (disch := assumption) only [getF_upd, setF_page, addCt_page, set64_page, raiseIf_page])

theorem faultRecord_page (s : State) (src : Nat) (t : Stamp) (react : Nat) (ps : List Nat) (limited : Bool) {fl : Fld} {mm :
    Nat} (hflt : fl.page ≠ .flt) (hnvm : fl.page ≠ .nvm) :
    getF (faultRecord s src t react ps limited) fl mm = getF s fl mm := by
  unfold faultRecord
  repeat' (first
    | with_reducible rfl
    | simp (disch := assumption) only [getF_ite, ite_self, getF_upd, addCt_page, raise_page, writeRec_page])

theorem nvmBusy_page (s : State) (op : NvmOp) {fl : Fld} {mm : Nat} (hnvm : fl.page ≠ .nvm) :
    getF (nvmBusy s op) fl mm = getF s fl mm := by
  unfold nvmBusy
  repeat' (first
    | with_reducible rfl
    | simp (disch := assumption) only [getF_upd, setF_page])

theorem nvmIdle_page (s : State) {fl : Fld} {mm : Nat} (hnvm : fl.page ≠ .nvm) : getF (nvmIdle s) fl mm = getF s fl mm := by
  simp (disch := assumption) only [nvmIdle, List.foldl_cons, List.foldl_nil, setF_page, getF_upd]

theorem wrReject_page (s : State) (why : Nat) {fl : Fld} {mm : Nat} (hnvm : fl.page ≠ .nvm) :
    getF (wrReject s why) fl mm = getF s fl mm := by
  unfold wrReject
  repeat' (first
    | with_reducible rfl
    | simp (disch := assumption) only [setF_page, raise_page])

theorem wrRom_page (s : State) {fl : Fld} {mm : Nat} (hnvm : fl.page ≠ .nvm) :
    getF (wrRom s) fl mm = getF s fl mm := by
  unfold wrRom
  repeat' (first
    | with_reducible rfl
    | simp (disch := assumption) only [freeW_page, wrReject_page])

theorem recordGo_page (s : State) (port : Nat) {fl : Fld} {mm : Nat} (hnvm : fl.page ≠ .nvm) :
    getF (recordGo s port) fl mm = getF s fl mm := by
  unfold recordGo
  repeat' (first
    | with_reducible rfl
    | simp (disch := assumption) only [getF_ite, ite_self, setF_page, nvmBusy_page, wrReject_page, wrRom_page])

theorem calsaveGo_page (s : State) {fl : Fld} {mm : Nat} (hnvm : fl.page ≠ .nvm) :
    getF (calsaveGo s) fl mm = getF s fl mm := by
  unfold calsaveGo
  repeat' (first
    | with_reducible rfl
    | simp (disch := assumption) only [getF_ite, ite_self, setF_page, nvmBusy_page, wrReject_page, wrRom_page])

theorem writeDone_page (s : State) (ok : Bool) {fl : Fld} {mm : Nat} (hnvm : fl.page ≠ .nvm) :
    getF (writeDone s ok) fl mm = getF s fl mm := by
  unfold writeDone
  repeat' (first
    | with_reducible rfl
    | simp (disch := assumption) only [getF_ite, ite_self, raise_page, writeRec_page, nvmIdle_page, wrReject_page]
    | split)

theorem refreshSlot_page (s : State) (b : Bool) {fl : Fld} {mm : Nat} (hnvm : fl.page ≠ .nvm) :
    getF (refreshSlot s b) fl mm = getF s fl mm := by
  unfold refreshSlot
  repeat' (first
    | with_reducible rfl
    | simp (disch := assumption) only [getF_ite, ite_self, getF_upd, setF_page])

theorem rewrite_page (l : List NvmRecord) (m : List (Nat × Nat)) (s : State) {fl : Fld} {mm : Nat} (hnvm : fl.page ≠ .nvm) :
    getF (rewrite l m s) fl mm = getF s fl mm := by
  induction l generalizing s m with
  | nil => rfl
  | cons r l ih => simp (disch := assumption) only [rewrite, ih, writeRec_page]

theorem refreshRecs_page (s : State) (f : NvmRecord → Bool) {fl : Fld} {mm : Nat} (hnvm : fl.page ≠ .nvm) : getF (refreshRecs
    s f) fl mm = getF s fl mm := by
  simp (disch := assumption) only [refreshRecs, getF_upd, rewrite_page]

theorem refreshEnd_page (s : State) {fl : Fld} {mm : Nat} (hnvm : fl.page ≠ .nvm) :
    getF (refreshEnd s) fl mm = getF s fl mm := by
  unfold refreshEnd
  repeat' (first
    | with_reducible rfl
    | simp (disch := assumption) only [raise_page, nvmIdle_page, refreshSlot_page, refreshRecs_page]
    | split)

theorem refreshGo_page (s : State) {fl : Fld} {mm : Nat} (hnvm : fl.page ≠ .nvm) :
    getF (refreshGo s) fl mm = getF s fl mm := by
  unfold refreshGo
  repeat' (first
    | with_reducible rfl
    | simp (disch := assumption) only [getF_ite, ite_self, setF_page, nvmBusy_page])

theorem freed_page (s : State) (k : Nat) (gs : List Gran) {fl : Fld} {mm : Nat} :
    getF (freed s k gs) fl mm = getF s fl mm := by
  unfold freed
  repeat' (first
    | with_reducible rfl
    | simp only [getF_upd])

theorem grant_page (s : State) (k : Nat) {fl : Fld} {mm : Nat} :
    getF (grant s k) fl mm = getF s fl mm := by
  unfold grant
  repeat' (first
    | with_reducible rfl
    | simp only [getF_upd, getF_setStrm])

theorem handOff_page (s : State) (k : Nat) (flush : Bool) {fl : Fld} {mm : Nat} :
    getF (handOff s k flush) fl mm = getF s fl mm := by
  unfold handOff
  repeat' (first
    | with_reducible rfl
    | simp only [getF_setStrm]
    | split)

theorem retain_page (s : State) (k : Nat) {fl : Fld} {mm : Nat} :
    getF (retain s k) fl mm = getF s fl mm := by
  unfold retain
  repeat' (first
    | with_reducible rfl
    | simp only [getF_ite, ite_self, getF_setStrm, handOff_page]
    | split)

theorem queueGran_page (k : Nat) (s : State) (g : Gran) {fl : Fld} {mm : Nat} :
    getF (queueGran k s g) fl mm = getF s fl mm := by
  unfold queueGran
  repeat' (first
    | with_reducible rfl
    | simp only [getF_setStrm])

theorem discard_page (s : State) (k : Nat) (gs : List Gran) {fl : Fld} {mm : Nat} :
    getF (discard s k gs) fl mm = getF s fl mm := by
  unfold discard
  repeat' (first
    | with_reducible rfl
    | simp only [freed_page])

theorem padOut_page (s : State) (k : Nat) {fl : Fld} {mm : Nat} :
    getF (padOut s k) fl mm = getF s fl mm := by
  unfold padOut
  repeat' (first
    | with_reducible rfl
    | simp only [getF_setStrm]
    | split)

theorem dropRec_page (s : State) (k : Nat) {fl : Fld} {mm : Nat} (hslu : fl.page ≠ .slu) :
    getF (dropRec s k) fl mm = getF s fl mm := by
  unfold dropRec
  repeat' (first
    | with_reducible rfl
    | simp (disch := assumption) only [addCt_page, raise_page, getF_setStrm])

theorem reuse_page (s : State) (k : Nat) {fl : Fld} {mm : Nat} :
    getF (reuse s k) fl mm = getF s fl mm := by
  unfold reuse
  repeat' (first
    | with_reducible rfl
    | simp only [getF_setAcq, getF_setStrm, discard_page])

theorem putWords_page (s : State) (k : Nat) (ws : List (BitVec 64)) {fl : Fld} {mm : Nat} (hslu : fl.page ≠ .slu) :
    getF (putWords s k ws) fl mm = getF s fl mm := by
  unfold putWords
  repeat' (first
    | with_reducible rfl
    | simp (disch := assumption) only [getF_ite, ite_self, getF_setStrm, grant_page, handOff_page, retain_page, padOut_page,
        dropRec_page, reuse_page]
    | split)

theorem takeSeq_page (s : State) (k : Nat) {fl : Fld} {mm : Nat} :
    getF (takeSeq s k) fl mm = getF s fl mm := by
  unfold takeSeq
  repeat' (first
    | with_reducible rfl
    | simp only [getF_setStrm])

theorem appendRec_page (s : State) (k : Nat) (r : Record) {fl : Fld} {mm : Nat} (hslu : fl.page ≠ .slu) :
    getF (appendRec s k r) fl mm = getF s fl mm := by
  unfold appendRec
  repeat' (first
    | with_reducible rfl
    | simp (disch := assumption) only [getF_ite, ite_self, putWords_page, takeSeq_page])

theorem appendFlush_page (s : State) (k : Nat) (r : Record) {fl : Fld} {mm : Nat} (hslu : fl.page ≠ .slu) :
    getF (appendFlush s k r) fl mm = getF s fl mm := by
  unfold appendFlush
  repeat' (first
    | with_reducible rfl
    | simp (disch := assumption) only [getF_ite, ite_self, handOff_page, retain_page, appendRec_page])

theorem freeGran_page (s : State) (k idx : Nat) {fl : Fld} {mm : Nat} (hslu : fl.page ≠ .slu) :
    getF (freeGran s k idx) fl mm = getF s fl mm := by
  unfold freeGran
  repeat' (first
    | with_reducible rfl
    | simp (disch := assumption) only [getF_ite, ite_self, addCt_page, getF_setStrm, freed_page])

theorem setDflog_page (s : State) (k d : Nat) {fl : Fld} {mm : Nat} (hslu : fl.page ≠ .slu) :
    getF (setDflog s k d) fl mm = getF s fl mm := by
  unfold setDflog
  repeat' (first
    | with_reducible rfl
    | simp (disch := assumption) only [getF_ite, ite_self, setF_page, handOff_page, retain_page])

theorem reclaim_page (s : State) (p : Nat) {fl : Fld} {mm : Nat} :
    getF (reclaim s p) fl mm = getF s fl mm := by
  unfold reclaim
  repeat' (first
    | with_reducible rfl
    | simp only [getF_setStrm, freed_page]
    | refine (forAll_page (fun _ _ => ?_) _ _).trans ?_)

theorem clearDflog_page (s : State) (p : Nat) {fl : Fld} {mm : Nat} (hslu : fl.page ≠ .slu) :
    getF (clearDflog s p) fl mm = getF s fl mm := by
  unfold clearDflog
  repeat' (first
    | with_reducible rfl
    | simp (disch := assumption) only [getF_setStrm, setDflog_page]
    | refine (forAll_page (fun _ _ => ?_) _ _).trans ?_)

theorem restartStreams_page (s : State) (p : Nat) {fl : Fld} {mm : Nat} (hslu : fl.page ≠ .slu) :
    getF (restartStreams s p) fl mm = getF s fl mm := by
  unfold restartStreams
  repeat' (first
    | with_reducible rfl
    | simp (disch := assumption) only [getF_setStrm, clearDflog_page]
    | refine (forAll_page (fun _ _ => ?_) _ _).trans ?_)

theorem setAstate_page (s : State) (p v : Nat) {fl : Fld} {mm : Nat} (hacq : fl.page ≠ .acq) :
    getF (setAstate s p v) fl mm = getF s fl mm := by
  unfold setAstate
  repeat' (first
    | with_reducible rfl
    | simp (disch := assumption) only [setF_page])

theorem runEnd_page (s : State) (p : Nat) (t : Stamp) {fl : Fld} {mm : Nat} :
    getF (runEnd s p t) fl mm = getF s fl mm := by
  unfold runEnd
  repeat' (first
    | with_reducible rfl
    | simp only [getF_setAcq])

theorem countFlog_page (s : State) (p n : Nat) {fl : Fld} {mm : Nat} (hpol : fl.page ≠ .pol) :
    getF (countFlog s p n) fl mm = getF s fl mm := by
  unfold countFlog
  repeat' (first
    | with_reducible rfl
    | simp (disch := assumption) only [getF_ite, ite_self, addCt_page, getF_setPol])

theorem putItem_page (s : State) (p src : Nat) (r : Record) (t : Stamp) {fl : Fld} {mm : Nat} (hslu : fl.page ≠ .slu) :
    getF (putItem s p src r t) fl mm = getF s fl mm := by
  unfold putItem
  repeat' (first
    | with_reducible rfl
    | simp (disch := assumption) only [getF_ite, ite_self, getF_setAcq, takeSeq_page, appendRec_page])

theorem flushScope_page (s : State) (p o : Nat) {fl : Fld} {mm : Nat} (hslu : fl.page ≠ .slu) :
    getF (flushScope s p o) fl mm = getF s fl mm := by
  unfold flushScope
  repeat' (first
    | with_reducible rfl
    | simp (disch := assumption) only [getF_ite, ite_self, getF_setAcq, putItem_page])

theorem flushScopes_page (s : State) (p : Nat) {fl : Fld} {mm : Nat} (hslu : fl.page ≠ .slu) :
    getF (flushScopes s p) fl mm = getF s fl mm := by
  unfold flushScopes
  repeat' (first
    | with_reducible rfl
    | simp (disch := assumption) only [flushScope_page]
    | refine (forAll_page (fun _ _ => ?_) _ _).trans ?_)

theorem cutStrm_page (s : State) (k : Nat) (c : Stamp) {fl : Fld} {mm : Nat} :
    getF (cutStrm s k c) fl mm = getF s fl mm := by
  unfold cutStrm
  repeat' (first
    | with_reducible rfl
    | simp only [getF_setStrm])

theorem markAll_page (s : State) (p cause : Nat) (t : Stamp) (src : Option Nat) (vwi : Nat) {fl : Fld} {mm : Nat} (hslu :
    fl.page ≠ .slu) :
    getF (markAll s p cause t src vwi) fl mm = getF s fl mm := by
  unfold markAll
  repeat' (first
    | with_reducible rfl
    | simp (disch := assumption) only [getF_ite, ite_self, appendRec_page, appendFlush_page]
    | refine (forAll_page (fun _ _ => ?_) _ _).trans ?_
    | split)

theorem closeEvent_page (s : State) (p : Nat) (c : Stamp) {fl : Fld} {mm : Nat} :
    getF (closeEvent s p c) fl mm = getF s fl mm := by
  unfold closeEvent
  repeat' (first
    | with_reducible rfl
    | simp only [getF_upd]
    | split)

theorem closeRec_page (s : State) (p cause : Nat) (c : Stamp) {fl : Fld} {mm : Nat} (hslu : fl.page ≠ .slu) (hacq : fl.page ≠
    .acq) :
    getF (closeRec s p cause c) fl mm = getF s fl mm := by
  unfold closeRec
  repeat' (first
    | with_reducible rfl
    | simp (disch := assumption) only [getF_ite, ite_self, raise_page, getF_setAcq, appendFlush_page, setAstate_page,
        flushScopes_page, cutStrm_page, closeEvent_page]
    | refine (forAll_page (fun _ _ => ?_) _ _).trans ?_
    | split)

theorem armUnit_page (s : State) (p : Nat) (a : Stamp) {fl : Fld} {mm : Nat} (hacq : fl.page ≠ .acq) :
    getF (armUnit s p a) fl mm = getF s fl mm := by
  unfold armUnit
  repeat' (first
    | with_reducible rfl
    | simp (disch := assumption) only [getF_setAcq, setAstate_page])

theorem completeRec_page (s : State) (p : Nat) {fl : Fld} {mm : Nat} (hslu : fl.page ≠ .slu) (hacq : fl.page ≠ .acq) :
    getF (completeRec s p) fl mm = getF s fl mm := by
  unfold completeRec
  repeat' (first
    | with_reducible rfl
    | simp (disch := assumption) only [getF_ite, getF_setAcq, putWords_page, setAstate_page, closeRec_page, armUnit_page]
    | refine (foldl_page (fun _ _ => ?_) _ _).trans ?_
    | split)

theorem endRec_page (s : State) (p : Nat) {fl : Fld} {mm : Nat} (hslu : fl.page ≠ .slu) (hacq : fl.page ≠ .acq) :
    getF (endRec s p) fl mm = getF s fl mm := by
  unfold endRec
  repeat' (first
    | with_reducible rfl
    | simp (disch := assumption) only [getF_ite, ite_self, closeRec_page, completeRec_page]
    | split)

theorem dropRetained_page (s : State) (k : Nat) {fl : Fld} {mm : Nat} :
    getF (dropRetained s k) fl mm = getF s fl mm := by
  unfold dropRetained
  repeat' (first
    | with_reducible rfl
    | simp only [getF_ite, ite_self, getF_setStrm, retain_page, discard_page])

theorem endRun_page (s : State) (p : Nat) (t : Stamp) {fl : Fld} {mm : Nat} (hslu : fl.page ≠ .slu) (hacq : fl.page ≠ .acq) :
    getF (endRun s p t) fl mm = getF s fl mm := by
  unfold endRun
  repeat' (first
    | with_reducible rfl
    | simp (disch := assumption) only [getF_ite, raise_page, getF_setAcq, appendFlush_page, setAstate_page, flushScopes_page,
        markAll_page, dropRetained_page]
    | refine (forAll_page (fun _ _ => ?_) _ _).trans ?_
    | split)

theorem acqArmed_page (s : State) (p : Nat) {fl : Fld} {mm : Nat} (hslu : fl.page ≠ .slu) (hacq : fl.page ≠ .acq) : getF
    (acqArmed s p) fl mm = getF s fl mm := by
  unfold acqArmed
  repeat' (first
    | with_reducible rfl
    | simp (disch := assumption) only [getF_ite, ite_self, List.foldl_cons, List.foldl_nil, setF_page, getF_setAcq,
        setAstate_page, restartStreams_page, clearDflog_page]
    | split)

theorem acqStart_page (s : State) (p : Nat) (t : Stamp) {fl : Fld} {mm : Nat} (hslu : fl.page ≠ .slu) (hacq : fl.page ≠ .acq)
    :
    getF (acqStart s p t) fl mm = getF s fl mm := by
  unfold acqStart
  repeat' (first
    | with_reducible rfl
    | simp (disch := assumption) only [getF_ite, ite_self, getF_setAcq, markAll_page, armUnit_page])

theorem noteMask_page (s : State) (p n : Nat) (t0 : Stamp) {fl : Fld} {mm : Nat} (hacq : fl.page ≠ .acq) :
    getF (noteMask s p n t0) fl mm = getF s fl mm := by
  unfold noteMask
  repeat' (first
    | with_reducible rfl
    | simp (disch := assumption) only [getF_ite, ite_self, addCt_page, raise_page, getF_setAcq])

theorem claimConvs_page (s : State) (p : Nat) (ts : List Stamp) (o c : Stamp) {fl : Fld} {mm : Nat} (hacq : fl.page ≠ .acq) :
    getF (claimConvs s p ts o c) fl mm = getF s fl mm := by
  unfold claimConvs
  repeat' (first
    | with_reducible rfl
    | simp (disch := assumption) only [getF_setAcq, noteMask_page]
    | refine (foldl_page (fun _ _ => ?_) _ _).trans ?_)

theorem claim_page (s : State) (p j : Nat) (w : OpenRec) (kind : TrigKind) {fl : Fld} {mm : Nat} (hslu : fl.page ≠ .slu)
    (hpol : fl.page ≠ .pol) (hacq : fl.page ≠ .acq) :
    getF (claim s p j w kind) fl mm = getF s fl mm := by
  unfold claim
  extract_lets k s1 x ts late cl0 fs okc cl s2 s3 s4 y s5 u s6 s7
  have h1 : getF s1 fl mm = getF s fl mm := by simp (disch := assumption) only [s1, retain_page]
  have h2 : getF s2 fl mm = getF s fl mm := by simp (disch := assumption) only [s2, discard_page, getF_setStrm, h1]
  have h3 : getF s3 fl mm = getF s fl mm := by
    simp only [s3]; split
    · simp (disch := assumption) only [reuse_page, h2]
    · exact h2
  have h4 : getF s4 fl mm = getF s fl mm := by simp (disch := assumption) only [s4, appendRec_page, h3]
  have h5 : getF s5 fl mm = getF s fl mm := by
    simp only [s5]; split
    · exact h4
    · refine (foldl_page (fun _ _ => ?_) _ _).trans ?_
      · simp (disch := assumption) only [queueGran_page]
      · simp (disch := assumption) only [handOff_page, getF_setStrm, h4]
  have h6 : getF s6 fl mm = getF s fl mm := (getF_setAcq ..).trans h5
  have h7 : getF s7 fl mm = getF s fl mm := by
    simp only [s7]; split
    · simp (disch := assumption) only [claimConvs_page, h6]
    · exact h6
  split
  · simp (disch := assumption) only [countFlog_page, getF_setAcq, h7]
  · exact h7

theorem accept_page (s : State) (p : Nat) (t : Stamp) (kind : TrigKind) {fl : Fld} {mm : Nat} (hslu : fl.page ≠ .slu) (hpol :
    fl.page ≠ .pol) (hacq : fl.page ≠ .acq) :
    getF (accept s p t kind) fl mm = getF s fl mm := by
  unfold accept
  repeat' (first
    | with_reducible rfl
    | simp (disch := assumption) only [addCt_page, set64_page, raise_page, getF_setAcq, getF_launch, setAstate_page,
        putItem_page, claim_page]
    | refine (forAll_page (fun _ _ => ?_) _ _).trans ?_
    | refine (foldl_page (fun _ _ => ?_) _ _).trans ?_)

theorem ignoreTrig_page (s : State) (p : Nat) {fl : Fld} {mm : Nat} (hacq : fl.page ≠ .acq) :
    getF (ignoreTrig s p) fl mm = getF s fl mm := by
  unfold ignoreTrig
  repeat' (first
    | with_reducible rfl
    | simp (disch := assumption) only [addCt_page, raise_page])

theorem forceTrig_page (s : State) (p : Nat) {fl : Fld} {mm : Nat} (hslu : fl.page ≠ .slu) (hpol : fl.page ≠ .pol) (hacq :
    fl.page ≠ .acq) :
    getF (forceTrig s p) fl mm = getF s fl mm := by
  unfold forceTrig
  repeat' (first
    | with_reducible rfl
    | simp (disch := assumption) only [getF_ite, ite_self, addCt_page, raise_page, accept_page])

theorem trigger_page (s : State) (p : Nat) (t : Stamp) (kind : TrigKind) (vwi : Nat) {fl : Fld} {mm : Nat} (hslu : fl.page ≠
    .slu) (hpol : fl.page ≠ .pol) (hacq : fl.page ≠ .acq) :
    getF (trigger s p t kind vwi) fl mm = getF s fl mm := by
  unfold trigger
  repeat' (first
    | with_reducible rfl
    | simp (disch := assumption) only [getF_ite, ite_self, markAll_page, accept_page, ignoreTrig_page, forceTrig_page])

theorem routerTrigger_page (s : State) (p : Nat) (e : Ev) (vwi : Nat) {fl : Fld} {mm : Nat} (hslu : fl.page ≠ .slu) (hpol :
    fl.page ≠ .pol) (hacq : fl.page ≠ .acq) :
    getF (routerTrigger s p e vwi) fl mm = getF s fl mm := by
  unfold routerTrigger
  repeat' (first
    | with_reducible rfl
    | simp (disch := assumption) only [getF_ite, ite_self, trigger_page])

theorem gateOpen_page (s : State) (p : Nat) (t : Stamp) {fl : Fld} {mm : Nat} :
    getF (gateOpen s p t) fl mm = getF s fl mm := by
  unfold gateOpen
  repeat' (first
    | with_reducible rfl
    | simp only [getF_ite, ite_self, getF_setAcq])

theorem gateClose_page (s : State) (p : Nat) (t : Stamp) {fl : Fld} {mm : Nat} :
    getF (gateClose s p t) fl mm = getF s fl mm := by
  unfold gateClose
  repeat' (first
    | with_reducible rfl
    | simp only [getF_setAcq]
    | split)

theorem expire_page (s : State) (p j : Nat) (t : Stamp) {fl : Fld} {mm : Nat} :
    getF (expire s p j t) fl mm = getF s fl mm := by
  unfold expire
  repeat' (first
    | with_reducible rfl
    | simp only [getF_ite, ite_self, getF_setAcq, getF_setStrm, discard_page])

theorem freeze_page (s : State) (p : Nat) (t0 : Stamp) (vwi : Nat) {fl : Fld} {mm : Nat} (hslu : fl.page ≠ .slu) (hacq :
    fl.page ≠ .acq) :
    getF (freeze s p t0 vwi) fl mm = getF s fl mm := by
  unfold freeze
  repeat' (first
    | with_reducible rfl
    | simp (disch := assumption) only [getF_ite, ite_self, setAstate_page, markAll_page, closeRec_page])

theorem scopeSample_page (s : State) (p o : Nat) (t : Stamp) (b : Byte) {fl : Fld} {mm : Nat} (hslu : fl.page ≠ .slu) :
    getF (scopeSample s p o t b) fl mm = getF s fl mm := by
  unfold scopeSample
  repeat' (first
    | with_reducible rfl
    | simp (disch := assumption) only [getF_ite, ite_self, getF_setAcq, flushScope_page])

theorem setClaim_page (s : State) (c v : Nat) {fl : Fld} {mm : Nat} (hoct : fl.page ≠ .oct) (hcdi : fl.page ≠ .cdi) :
    getF (setClaim s c v) fl mm = getF s fl mm := by
  unfold setClaim
  repeat' (first
    | with_reducible rfl
    | simp (disch := assumption) only [setF_page])

theorem takeNew_page (s : State) (n : PmuNew) {fl : Fld} {mm : Nat} (hoct : fl.page ≠ .oct) (hcdi : fl.page ≠ .cdi) :
    getF (takeNew s n) fl mm = getF s fl mm := by
  unfold takeNew
  repeat' (first
    | with_reducible rfl
    | simp (disch := assumption) only [setF_page, getF_setChan, setClaim_page])

theorem refuseBudget_page (s : State) (p : Option Nat) (k : Nat) {fl : Fld} {mm : Nat} (hpol : fl.page ≠ .pol) (hcdi :
    fl.page ≠ .cdi) :
    getF (refuseBudget s p k) fl mm = getF s fl mm := by
  unfold refuseBudget
  repeat' (first
    | with_reducible rfl
    | simp (disch := assumption) only [addCt_page, raise_page, causeOn_page]
    | split)

theorem showConv_page (s : State) (p : Nat) {fl : Fld} {mm : Nat} (hpol : fl.page ≠ .pol) :
    getF (showConv s p) fl mm = getF s fl mm := by
  unfold showConv
  repeat' (first
    | with_reducible rfl
    | simp (disch := assumption) only [getF_ite, ite_self, setF_page])

theorem showConvOf_page (s : State) (p : Option Nat) {fl : Fld} {mm : Nat} (hpol : fl.page ≠ .pol) :
    getF (showConvOf s p) fl mm = getF s fl mm := by
  unfold showConvOf
  repeat' (first
    | with_reducible rfl
    | simp (disch := assumption) only [showConv_page]
    | split)

theorem request_page (s : State) (p : Option Nat) (k : Nat) (ns : List PmuNew) {fl : Fld} {mm : Nat} (hpol : fl.page ≠ .pol)
    (hoct : fl.page ≠ .oct) (hcdi : fl.page ≠ .cdi) :
    getF (request s p k ns).1 fl mm = getF s fl mm := by
  unfold request
  split
  · simp (disch := assumption) only [refuseBudget_page]
  · refine foldl_page (fun _ _ => ?_) _ _
    simp (disch := assumption) only [takeNew_page]

theorem requests_page (s : State) (p : Option Nat) (ns : List PmuNew) {fl : Fld} {mm : Nat} (hpol : fl.page ≠ .pol) (hoct :
    fl.page ≠ .oct) (hcdi : fl.page ≠ .cdi) :
    getF (requests s p ns) fl mm = getF s fl mm := by
  unfold requests
  repeat' (first
    | with_reducible rfl
    | simp (disch := assumption) only [getF_ite, ite_self, showConvOf_page, request_page]
    | refine (forAll_page (fun _ _ => ?_) _ _).trans ?_)

theorem disconnect_page (s : State) (c : Nat) {fl : Fld} {mm : Nat} (hoct : fl.page ≠ .oct) (hcdi : fl.page ≠ .cdi) :
    getF (disconnect s c) fl mm = getF s fl mm := by
  unfold disconnect
  repeat' (first
    | with_reducible rfl
    | simp (disch := assumption) only [getF_setChan, takeNew_page])

theorem disconnectOct_page (s : State) (o : Nat) {fl : Fld} {mm : Nat} (hoct : fl.page ≠ .oct) (hcdi : fl.page ≠ .cdi) :
    getF (disconnectOct s o) fl mm = getF s fl mm := by
  unfold disconnectOct
  repeat' (first
    | with_reducible rfl
    | simp (disch := assumption) only [getF_ite, ite_self, disconnect_page]
    | refine (forAll_page (fun _ _ => ?_) _ _).trans ?_)

theorem beginConv_page (s : State) (c : Nat) (v : Conv) (burst : Option (Option Nat)) {fl : Fld} {mm : Nat} :
    getF (beginConv s c v burst) fl mm = getF s fl mm := by
  unfold beginConv
  repeat' (first
    | with_reducible rfl
    | simp only [getF_ite, ite_self, getF_setChan])

theorem fire_page (s : State) (p : Nat) (t0 : Stamp) (burst : Option Nat) {fl : Fld} {mm : Nat} (hpol : fl.page ≠ .pol) :
    getF (fire s p t0 burst) fl mm = getF s fl mm := by
  unfold fire
  repeat' (first
    | with_reducible rfl
    | simp (disch := assumption) only [getF_ite, ite_self, addCt_page, raise_page, beginConv_page]
    | refine (forAll_page (fun _ _ => ?_) _ _).trans ?_)

theorem order_page (s : State) (p : Nat) (t0 : Stamp) (act : PmuAct) {fl : Fld} {mm : Nat} :
    getF (order s p t0 act) fl mm = getF s fl mm := by
  unfold order
  repeat' (first
    | with_reducible rfl
    | simp only [getF_setPol])

theorem tidyBurst_page (s : State) (p : Nat) {fl : Fld} {mm : Nat} (hpol : fl.page ≠ .pol) :
    getF (tidyBurst s p) fl mm = getF s fl mm := by
  unfold tidyBurst
  repeat' (first
    | with_reducible rfl
    | simp (disch := assumption) only [getF_ite, ite_self, setF_page, getF_setChan]
    | refine (forAll_page (fun _ _ => ?_) _ _).trans ?_)

theorem stopBurst_page (s : State) (p n : Nat) {fl : Fld} {mm : Nat} (hpol : fl.page ≠ .pol) :
    getF (stopBurst s p n) fl mm = getF s fl mm := by
  unfold stopBurst
  repeat' (first
    | with_reducible rfl
    | simp (disch := assumption) only [getF_setChan, getF_setPol, tidyBurst_page]
    | refine (forAll_page (fun _ _ => ?_) _ _).trans ?_)

theorem endBurst_page (s : State) (p : Nat) {fl : Fld} {mm : Nat} (hpol : fl.page ≠ .pol) :
    getF (endBurst s p) fl mm = getF s fl mm := by
  unfold endBurst
  repeat' (first
    | with_reducible rfl
    | simp (disch := assumption) only [getF_setChan, getF_setPol, tidyBurst_page]
    | refine (forAll_page (fun _ _ => ?_) _ _).trans ?_)

theorem nextConv_page (s : State) (c : Nat) (v : Conv) (t : Stamp) {fl : Fld} {mm : Nat} :
    getF (nextConv s c v t) fl mm = getF s fl mm := by
  unfold nextConv
  repeat' (first
    | with_reducible rfl
    | simp only [getF_ite, getF_setChan, beginConv_page]
    | split)

theorem showOps_page (s : State) (p : Nat) {fl : Fld} {mm : Nat} (hpol : fl.page ≠ .pol) :
    getF (showOps s p) fl mm = getF s fl mm := by
  unfold showOps
  repeat' (first
    | with_reducible rfl
    | simp (disch := assumption) only [getF_ite, ite_self, setF_page])

theorem showPmu_page (s : State) (p : Nat) {fl : Fld} {mm : Nat} (hpol : fl.page ≠ .pol) :
    getF (showPmu s p) fl mm = getF s fl mm := by
  unfold showPmu
  repeat' (first
    | with_reducible rfl
    | simp (disch := assumption) only [showConv_page, tidyBurst_page, showOps_page])

theorem queueOp_page (s : State) (p : Nat) (cs : List Nat) (op : PmuOp) {fl : Fld} {mm : Nat} :
    getF (queueOp s p cs op) fl mm = getF s fl mm := by
  unfold queueOp
  repeat' (first
    | with_reducible rfl
    | simp only [getF_ite, getF_setChan, getF_setPol]
    | refine (forAll_page (fun _ _ => ?_) _ _).trans ?_
    | split)

theorem holdClaim_page (s : State) (n : PmuNew) {fl : Fld} {mm : Nat} (hoct : fl.page ≠ .oct) (hcdi : fl.page ≠ .cdi) :
    getF (holdClaim s n) fl mm = getF s fl mm := by
  unfold holdClaim
  repeat' (first
    | with_reducible rfl
    | simp (disch := assumption) only [setClaim_page])

theorem applyOn_page (k : Nat) (s : State) (r : Nat × PmuOp) {fl : Fld} {mm : Nat} (hpol : fl.page ≠ .pol) (hoct : fl.page ≠
    .oct) (hcdi : fl.page ≠ .cdi) :
    getF (applyOn k s r) fl mm = getF s fl mm := by
  unfold applyOn
  repeat' (first
    | with_reducible rfl
    | simp (disch := assumption) only [getF_ite, takeNew_page, refuseBudget_page, queueOp_page, holdClaim_page]
    | refine (foldl_page (fun _ _ => ?_) _ _).trans ?_
    | split)

theorem applyOps_page (s : State) (rs : List (Nat × PmuOp)) {fl : Fld} {mm : Nat} (hpol : fl.page ≠ .pol) (hoct : fl.page ≠
    .oct) (hcdi : fl.page ≠ .cdi) :
    getF (applyOps s rs) fl mm = getF s fl mm := by
  unfold applyOps
  repeat' (first
    | with_reducible rfl
    | simp (disch := assumption) only [showPmu_page, applyOn_page]
    | refine (forAll_page (fun _ _ => ?_) _ _).trans ?_
    | refine (foldl_page (fun _ _ => ?_) _ _).trans ?_)

theorem fireOrder_page (s : State) (p : Nat) (x : Trig) {fl : Fld} {mm : Nat} (hpol : fl.page ≠ .pol) :
    getF (fireOrder s p x) fl mm = getF s fl mm := by
  unfold fireOrder
  repeat' (first
    | with_reducible rfl
    | simp (disch := assumption) only [showConv_page, fire_page, tidyBurst_page, stopBurst_page]
    | split)

theorem fireRound_page (s : State) (t : Stamp) {fl : Fld} {mm : Nat} (hpol : fl.page ≠ .pol) (hoct : fl.page ≠ .oct) (hcdi :
    fl.page ≠ .cdi) :
    getF (fireRound s t) fl mm = getF s fl mm := by
  unfold fireRound
  repeat' (first
    | with_reducible rfl
    | simp (disch := assumption) only [getF_setPol, applyOps_page, fireOrder_page]
    | refine (foldl_page (fun _ _ => ?_) _ _).trans ?_
    | split)

theorem pmuDue_page (s : State) (t : Stamp) {fl : Fld} {mm : Nat} (hpol : fl.page ≠ .pol) (hoct : fl.page ≠ .oct) (hcdi :
    fl.page ≠ .cdi) :
    getF (pmuDue s t) fl mm = getF s fl mm := by
  unfold pmuDue
  repeat' (first
    | with_reducible rfl
    | simp (disch := assumption) only [fireRound_page]
    | refine (foldl_page (fun _ _ => ?_) _ _).trans ?_)

theorem pmuNowDue_page (s : State) {fl : Fld} {mm : Nat} (hpol : fl.page ≠ .pol) (hoct : fl.page ≠ .oct) (hcdi : fl.page ≠
    .cdi) :
    getF (pmuNowDue s) fl mm = getF s fl mm := by
  unfold pmuNowDue
  repeat' (first
    | with_reducible rfl
    | simp (disch := assumption) only [pmuDue_page])

theorem pmuOp_page (s : State) (p op : Nat) (t tc : Stamp) {fl : Fld} {mm : Nat} (hpol : fl.page ≠ .pol) :
    getF (pmuOp s p op t tc) fl mm = getF s fl mm := by
  unfold pmuOp
  repeat' (first
    | with_reducible rfl
    | simp (disch := assumption) only [getF_ite, ite_self, raise_page, order_page]
    | split)

theorem endsBurst_page (s : State) (p : Nat) (t : Stamp) {fl : Fld} {mm : Nat} (hpol : fl.page ≠ .pol) (hoct : fl.page ≠
    .oct) (hcdi : fl.page ≠ .cdi) :
    getF (endsBurst s p t) fl mm = getF s fl mm := by
  unfold endsBurst
  repeat' (first
    | with_reducible rfl
    | simp (disch := assumption) only [order_page, pmuNowDue_page])

theorem pmuctl_page (s : State) (p b : Nat) {fl : Fld} {mm : Nat} (hpol : fl.page ≠ .pol) (hoct : fl.page ≠ .oct) (hcdi :
    fl.page ≠ .cdi) :
    getF (pmuctl s p b) fl mm = getF s fl mm := by
  unfold pmuctl
  repeat' (first
    | with_reducible rfl
    | simp (disch := assumption) only [getF_ite, ite_self, setF_page, pmuNowDue_page, pmuOp_page]
    | split)

theorem runOps_page (s : State) (p : Nat) (cs : List Nat) {fl : Fld} {mm : Nat} (hpol : fl.page ≠ .pol) (hoct : fl.page ≠
    .oct) (hcdi : fl.page ≠ .cdi) :
    getF (runOps s p cs) fl mm = getF s fl mm := by
  unfold runOps
  repeat' (first
    | with_reducible rfl
    | simp (disch := assumption) only [getF_setChan, requests_page]
    | refine (forAll_page (fun _ _ => ?_) _ _).trans ?_)

theorem pmuCfgWrite_page (s : State) (c : Nat) (mode range : Nat) (en conn : Bool) {fl : Fld} {mm : Nat} (hpol : fl.page ≠
    .pol) (hoct : fl.page ≠ .oct) (hcdi : fl.page ≠ .cdi) :
    getF (pmuCfgWrite s c mode range en conn) fl mm = getF s fl mm := by
  unfold pmuCfgWrite
  repeat' (first
    | with_reducible rfl
    | simp (disch := assumption) only [getF_ite, ite_self, setF_page, getF_setChan, takeNew_page, disconnect_page,
        showPmu_page, queueOp_page, pmuNowDue_page, runOps_page, request_page]
    | split)

theorem pmuForceSet_page (s0 : State) (c code : Nat) {fl : Fld} {mm : Nat} (hpol : fl.page ≠ .pol) (hoct : fl.page ≠ .oct)
    (hcdi : fl.page ≠ .cdi) :
    getF (pmuForceSet s0 c code) fl mm = getF s0 fl mm := by
  unfold pmuForceSet
  repeat' (first
    | with_reducible rfl
    | simp (disch := assumption) only [pmuNowDue_page, request_page])

theorem latchOne_page (s : State) (base p c t : Nat) (rs : List ConvResult) {fl : Fld} {mm : Nat} (hpol : fl.page ≠ .pol)
    (hoct : fl.page ≠ .oct) :
    getF (latchOne s base p c t rs) fl mm = getF s fl mm := by
  unfold latchOne
  repeat' (first
    | with_reducible rfl
    | simp (disch := assumption) only [setF_page, addCt_page, raiseIf_page, getF_setChan]
    | split)

theorem samples_page (s : State) (base p : Nat) (t0 : Stamp) (burst : Bool) (xs : List (Nat × Nat)) (rs : List ConvResult)
 {fl : Fld} {mm : Nat} (hslu : fl.page ≠ .slu) (hacq : fl.page ≠ .acq) :
    getF (samples s base p t0 burst xs rs) fl mm = getF s fl mm := by
  unfold samples
  repeat' (first
    | with_reducible rfl
    | simp (disch := assumption) only [getF_ite, ite_self, getF_setAcq, putItem_page, noteMask_page]
    | refine (forAll_page (fun _ _ => ?_) _ _).trans ?_)

theorem release_page (s : State) (p : Nat) (cs : List Nat) (t : Stamp) {fl : Fld} {mm : Nat} (hpol : fl.page ≠ .pol) (hoct :
    fl.page ≠ .oct) (hcdi : fl.page ≠ .cdi) :
    getF (release s p cs t) fl mm = getF s fl mm := by
  unfold release
  repeat' (first
    | with_reducible rfl
    | simp (disch := assumption) only [getF_setChan, nextConv_page, showPmu_page, runOps_page]
    | refine (forAll_page (fun _ _ => ?_) _ _).trans ?_
    | split)

theorem latchAll_page (s0 : State) (p : Nat) (t0 : Stamp) (rs : List ConvResult) {fl : Fld} {mm : Nat} (hslu : fl.page ≠
    .slu) (hpol : fl.page ≠ .pol) (hacq : fl.page ≠ .acq) (hoct : fl.page ≠ .oct) (hcdi : fl.page ≠ .cdi) :
    getF (latchAll s0 p t0 rs) fl mm = getF s0 fl mm := by
  unfold latchAll
  extract_lets z single burst xs s s1 u s2 s3 s4
  have hz : getF z fl mm = getF s0 fl mm := by simp (disch := assumption) only [z, pmuDue_page]
  have h0 : getF s fl mm = getF s0 fl mm := (getF_reach ..).trans hz
  have h1 : getF s1 fl mm = getF s0 fl mm := by
    simp (disch := assumption) only [s1, samples_page]
    split
    · exact h0
    · simp (disch := assumption) only [samples_page, h0]
  have h2 : getF s2 fl mm = getF s0 fl mm := by
    simp only [s2]; split
    · exact (getF_setAcq ..).trans h1
    · exact h1
  have h3 : getF s3 fl mm = getF s0 fl mm := by
    refine (foldl_page (fun _ _ => ?_) _ _).trans h2
    simp (disch := assumption) only [latchOne_page]
  clear_value s3
  have h4 : getF s4 fl mm = getF s0 fl mm := h3
  split
  · exact hz
  · simp (disch := assumption) only [showPmu_page, release_page, h4]

theorem returnAll_page (s0 : State) (p : Nat) (t0 : Stamp) {fl : Fld} {mm : Nat} (hpol : fl.page ≠ .pol) (hoct : fl.page ≠
    .oct) (hcdi : fl.page ≠ .cdi) :
    getF (returnAll s0 p t0) fl mm = getF s0 fl mm := by
  unfold returnAll
  repeat' (first
    | with_reducible rfl
    | simp (disch := assumption) only [getF_ite, ite_self, getF_reach, pmuDue_page, release_page])

theorem rangeDone_page (s0 : State) (c : Nat) (t : Stamp) {fl : Fld} {mm : Nat} (hpol : fl.page ≠ .pol) (hoct : fl.page ≠
    .oct) (hcdi : fl.page ≠ .cdi) :
    getF (rangeDone s0 c t) fl mm = getF s0 fl mm := by
  unfold rangeDone
  repeat' (first
    | with_reducible rfl
    | simp (disch := assumption) only [getF_ite, ite_self, getF_setChan, getF_reach, setClaim_page, pmuDue_page])

theorem setTdc_page (s : State) (c : Nat) (x : Tdc) {fl : Fld} {mm : Nat} :
    getF (setTdc s c x) fl mm = getF s fl mm := by
  unfold setTdc
  repeat' (first
    | with_reducible rfl
    | simp only [getF_setChan])

theorem closeTdcRec_page (s : State) (c : Nat) {fl : Fld} {mm : Nat} (hslu : fl.page ≠ .slu) :
    getF (closeTdcRec s c) fl mm = getF s fl mm := by
  unfold closeTdcRec
  repeat' (first
    | with_reducible rfl
    | simp (disch := assumption) only [putItem_page, setTdc_page]
    | split)

theorem acqStamp_page (s : State) (c : Nat) (e : Stamp × Bool) {fl : Fld} {mm : Nat} (hslu : fl.page ≠ .slu) :
    getF (acqStamp s c e) fl mm = getF s fl mm := by
  unfold acqStamp
  repeat' (first
    | with_reducible rfl
    | simp (disch := assumption) only [getF_ite, ite_self, setTdc_page, closeTdcRec_page])

theorem popFifo_page (s : State) (c : Nat) {fl : Fld} {mm : Nat} (hslu : fl.page ≠ .slu) :
    getF (popFifo s c) fl mm = getF s fl mm := by
  unfold popFifo
  repeat' (first
    | with_reducible rfl
    | simp (disch := assumption) only [getF_ite, ite_self, setTdc_page, closeTdcRec_page, acqStamp_page]
    | split)

theorem drainDie_page (d n : Nat) (s : State) {fl : Fld} {mm : Nat} (hslu : fl.page ≠ .slu) : getF (drainDie d n s) fl mm =
    getF s fl mm := by
  induction n generalizing s with
  | zero => rfl
  | succ n ih => unfold drainDie; extract_lets; split <;> simp (disch := assumption) only [ih, getF_setDie, popFifo_page]

theorem drainUntil_page (s : State) (d : Nat) (t : Stamp) {fl : Fld} {mm : Nat} (hslu : fl.page ≠ .slu) : getF (drainUntil s
    d t) fl mm = getF s fl mm := by
  unfold drainUntil
  extract_lets x n s1
  split
  · simp (disch := assumption) only [s1, getF_setDie, drainDie_page]
  · rfl

theorem drainOut_page (cs : List Nat) (d n : Nat) (s : State) {fl : Fld} {mm : Nat} (hslu : fl.page ≠ .slu) : getF (drainOut
    cs d n s) fl mm = getF s fl mm := by
  induction n generalizing s with
  | zero => rfl
  | succ n ih =>
    unfold drainOut
    split
    · rfl
    · refine (ih _).trans ((getF_setDie ..).trans ?_)
      simp (disch := assumption) only [drainDie_page]

theorem drainChans_page (cs : List Nat) (s : State) (d : Nat) {fl : Fld} {mm : Nat} (hslu : fl.page ≠ .slu) :
    getF (drainChans cs s d) fl mm = getF s fl mm := by
  unfold drainChans
  refine (forAll_page (fun _ _ => ?_) _ _).trans ?_ <;>
    simp (disch := assumption) only [closeTdcRec_page, getF_reach, drainOut_page, drainUntil_page]

theorem pushFifo_page (s : State) (c : Nat) (e : Stamp × Bool) {fl : Fld} {mm : Nat} (hslu : fl.page ≠ .slu) (hoct : fl.page
    ≠ .oct) :
    getF (pushFifo s c e) fl mm = getF s fl mm := by
  unfold pushFifo
  repeat' (first
    | with_reducible rfl
    | simp (disch := assumption) only [getF_ite, ite_self, addCt_page, raise_page, setTdc_page, drainUntil_page])

theorem tdcArm_page (s : State) (c : Nat) (t : Stamp) {fl : Fld} {mm : Nat} (hpol : fl.page ≠ .pol) (hoct : fl.page ≠ .oct) :
    getF (tdcArm s c t) fl mm = getF s fl mm := by
  unfold tdcArm
  repeat' (first
    | with_reducible rfl
    | simp (disch := assumption) only [getF_ite, raise_page, setTdc_page]
    | split)

theorem tdcOff_page (s : State) (c : Nat) {fl : Fld} {mm : Nat} (hslu : fl.page ≠ .slu) :
    getF (tdcOff s c) fl mm = getF s fl mm := by
  unfold tdcOff
  repeat' (first
    | with_reducible rfl
    | simp (disch := assumption) only [getF_ite, ite_self, setTdc_page, closeTdcRec_page, drainUntil_page])

theorem tdcCut_page (s : State) (c : Nat) {fl : Fld} {mm : Nat} (hslu : fl.page ≠ .slu) (hoct : fl.page ≠ .oct) :
    getF (tdcCut s c) fl mm = getF s fl mm := by
  unfold tdcCut
  repeat' (first
    | with_reducible rfl
    | simp (disch := assumption) only [getF_ite, ite_self, raise_page, tdcOff_page])

theorem intervalResult_page (s : State) (p a b : Nat) (ts te : Stamp16) (stepped : Bool) {fl : Fld} {mm : Nat} (hslu :
    fl.page ≠ .slu) (hpol : fl.page ≠ .pol) :
    getF (intervalResult s p a b ts te stepped) fl mm = getF s fl mm := by
  unfold intervalResult
  repeat' (first
    | with_reducible rfl
    | simp (disch := assumption) only [addCt_page, putItem_page])

theorem unpaired_page (s : State) (p b : Nat) (w : PairWait) {fl : Fld} {mm : Nat} (hpol : fl.page ≠ .pol) :
    getF (unpaired s p b w) fl mm = getF s fl mm := by
  unfold unpaired
  repeat' (first
    | with_reducible rfl
    | simp (disch := assumption) only [addCt_page, raise_page, setTdc_page])

theorem noStart_page (s : State) (p : Nat) {fl : Fld} {mm : Nat} (hpol : fl.page ≠ .pol) :
    getF (noStart s p) fl mm = getF s fl mm := by
  unfold noStart
  repeat' (first
    | with_reducible rfl
    | simp (disch := assumption) only [addCt_page, raise_page])

theorem pairStamp_page (s : State) (p a b : Nat) (start : Bool) (t : Stamp16) {fl : Fld} {mm : Nat} (hslu : fl.page ≠ .slu)
    (hpol : fl.page ≠ .pol) :
    getF (pairStamp s p a b start t) fl mm = getF s fl mm := by
  unfold pairStamp
  repeat' (first
    | with_reducible rfl
    | simp (disch := assumption) only [getF_ite, ite_self, setTdc_page, intervalResult_page, unpaired_page, noStart_page]
    | refine (foldl_page (fun _ _ => ?_) _ _).trans ?_
    | split)

theorem freqEdge_page (s : State) (c : Nat) (t : Stamp16) {fl : Fld} {mm : Nat} (hoct : fl.page ≠ .oct) :
    getF (freqEdge s c t) fl mm = getF s fl mm := by
  unfold freqEdge
  repeat' (first
    | with_reducible rfl
    | simp (disch := assumption) only [getF_ite, ite_self, addCt_page, raise_page, setTdc_page])

theorem edgeStamp_page (s : State) (c : Nat) (rising : Bool) (t : Stamp) (t16 : Stamp16) {fl : Fld} {mm : Nat} (hevr :
    fl.page ≠ .evr) (hslu : fl.page ≠ .slu) (hpol : fl.page ≠ .pol) (hoct : fl.page ≠ .oct) :
    getF (edgeStamp s c rising t t16) fl mm = getF s fl mm := by
  unfold edgeStamp
  repeat' (first
    | with_reducible rfl
    | simp (disch := assumption) only [getF_ite, dieEvent_page, setTdc_page, pushFifo_page, tdcOff_page, noStart_page,
        pairStamp_page]
    | refine (forAll_page (fun _ _ => ?_) _ _).trans ?_
    | split)

theorem tdcTime_page (s : State) (c : Nat) (t0 : Stamp) (sub : BitVec 4) {fl : Fld} {mm : Nat} :
    getF (tdcTime s c t0 sub).2 fl mm = getF s fl mm := by
  unfold tdcTime
  dsimp only
  split <;> rfl

theorem tdcEdge_page (s : State) (c : Nat) (high rising : Bool) (t0 : Stamp) (sub : BitVec 4) {fl : Fld} {mm : Nat} (hevr :
    fl.page ≠ .evr) (hslu : fl.page ≠ .slu) (hpol : fl.page ≠ .pol) (hoct : fl.page ≠ .oct) :
    getF (tdcEdge s c high rising t0 sub) fl mm = getF s fl mm := by
  have h := tdcTime_page s c t0 sub (fl := fl) (mm := mm)
  unfold tdcEdge
  repeat' (first
    | with_reducible rfl
    | simp (disch := assumption) only [getF_ite, ite_self, raise_page, addCt_page, freqEdge_page, edgeStamp_page, h])

theorem freqResult_page (s : State) (c : Nat) {fl : Fld} {mm : Nat} (hslu : fl.page ≠ .slu) (hpol : fl.page ≠ .pol) (hoct :
    fl.page ≠ .oct) :
    getF (freqResult s c) fl mm = getF s fl mm := by
  unfold freqResult
  repeat' (first
    | with_reducible rfl
    | simp (disch := assumption) only [setF_page, addCt_page, freeB_page, putItem_page]
    | split)

end Sys2Proof.Machine
end

