-- ==== Sys2Proof/Laws/FrameRun.lean ====
section
/-! SUPPORT. The page frame, part 2: pins, vector memory, runs, faults, clocks, the router, Bugle, polders, sampling. Each operation has one lemma: it leaves every register field of the pages
that its hypotheses do not name. -/

namespace Sys2Proof.Machine

theorem monOff_page (s : State) (c : Nat) (high : Bool) (t : Stamp) {fl : Fld} {mm : Nat} (hevr : fl.page ≠ .evr) :
    getF (monOff s c high t) fl mm = getF s fl mm := by
  unfold monOff
  repeat' (first
    | with_reducible rfl
    | simp (disch := assumption) only [getF_ite, ite_self, getF_setChan, dieEvent_page])

theorem levOff_page (s : State) (c : Nat) (t : Stamp) {fl : Fld} {mm : Nat} (hevr : fl.page ≠ .evr) :
    getF (levOff s c t) fl mm = getF s fl mm := by
  unfold levOff
  repeat' (first
    | with_reducible rfl
    | simp (disch := assumption) only [monOff_page])

theorem setPstate_page (s : State) (o v : Nat) {fl : Fld} {mm : Nat} (hoct : fl.page ≠ .oct) :
    getF (setPstate s o v) fl mm = getF s fl mm := by
  unfold setPstate
  repeat' (first
    | with_reducible rfl
    | simp (disch := assumption) only [setF_page])

theorem octOff_page (s : State) (o : Nat) {fl : Fld} {mm : Nat} (hevr : fl.page ≠ .evr) (hslu : fl.page ≠ .slu) (hoct :
    fl.page ≠ .oct) (hcdi : fl.page ≠ .cdi) :
    getF (octOff s o) fl mm = getF s fl mm := by
  unfold octOff
  repeat' (first
    | with_reducible rfl
    | simp (disch := assumption) only [getF_setChan, setClaim_page, tdcCut_page, levOff_page]
    | refine (forAll_page (fun _ _ => ?_) _ _).trans ?_)

theorem octDeskew_page (s : State) (o : Nat) {fl : Fld} {mm : Nat} (hoct : fl.page ≠ .oct) :
    getF (octDeskew s o) fl mm = getF s fl mm := by
  unfold octDeskew
  repeat' (first
    | with_reducible rfl
    | simp (disch := assumption) only [dueDeskew_page]
    | refine (forAll_page (fun _ _ => ?_) _ _).trans ?_)

theorem octSafe_page (s : State) (o : Nat) {fl : Fld} {mm : Nat} (hevr : fl.page ≠ .evr) (hslu : fl.page ≠ .slu) (hdsc :
    fl.page ≠ .dsc) (hpol : fl.page ≠ .pol) (hoct : fl.page ≠ .oct) (hcdi : fl.page ≠ .cdi) :
    getF (octSafe s o) fl mm = getF s fl mm := by
  unfold octSafe
  repeat' (first
    | with_reducible rfl
    | simp (disch := assumption) only [getF_ite, ite_self, applyFaultDacs_page, setPstate_page, octOff_page, octDeskew_page])

theorem octIdle_page (s : State) (o : Nat) {fl : Fld} {mm : Nat} (hevr : fl.page ≠ .evr) (hslu : fl.page ≠ .slu) (hdsc :
    fl.page ≠ .dsc) (hpol : fl.page ≠ .pol) (hoct : fl.page ≠ .oct) (hcdi : fl.page ≠ .cdi) :
    getF (octIdle s o) fl mm = getF s fl mm := by
  unfold octIdle
  repeat' (first
    | with_reducible rfl
    | simp (disch := assumption) only [getF_ite, ite_self, setF_page, getF_setChan, selfcalLeave_page, setPstate_page,
        octDeskew_page, octSafe_page]
    | refine (forAll_page (fun _ _ => ?_) _ _).trans ?_
    | split)

theorem octActive_page (s : State) (o : Nat) {fl : Fld} {mm : Nat} (hoct : fl.page ≠ .oct) :
    getF (octActive s o) fl mm = getF s fl mm := by
  unfold octActive
  repeat' (first
    | with_reducible rfl
    | simp (disch := assumption) only [setPstate_page])

theorem octHiz_page (s : State) (o : Nat) {fl : Fld} {mm : Nat} (hevr : fl.page ≠ .evr) (hslu : fl.page ≠ .slu) (hpol :
    fl.page ≠ .pol) (hoct : fl.page ≠ .oct) (hcdi : fl.page ≠ .cdi) : getF (octHiz s o) fl mm = getF s fl mm := by
  unfold octHiz
  extract_lets s1 s2
  have h1 : getF s1 fl mm = getF s fl mm := by
    refine (forAll_page (fun _ _ => getF_setChan ..) _ _).trans ?_
    simp (disch := assumption) only [octOff_page, selfcalLeave_page]
  have h2 : getF s2 fl mm = getF s fl mm := (setF_page _ _ _ _ hoct).trans h1
  split
  · simp (disch := assumption) only [showPmu_page, h2]
  · exact h2

theorem octBack_page (s : State) (o : Nat) {fl : Fld} {mm : Nat} (hevr : fl.page ≠ .evr) (hslu : fl.page ≠ .slu) (hdsc :
    fl.page ≠ .dsc) (hpol : fl.page ≠ .pol) (hoct : fl.page ≠ .oct) (hcdi : fl.page ≠ .cdi) :
    getF (octBack s o) fl mm = getF s fl mm := by
  unfold octBack
  repeat' (first
    | with_reducible rfl
    | simp (disch := assumption) only [octSafe_page, octIdle_page, octActive_page]
    | split)

theorem pinRails_page (s : State) {fl : Fld} {mm : Nat} (hevr : fl.page ≠ .evr) (hslu : fl.page ≠ .slu) (hdsc : fl.page ≠
    .dsc) (hpol : fl.page ≠ .pol) (hoct : fl.page ≠ .oct) (hcdi : fl.page ≠ .cdi) :
    getF (pinRails s) fl mm = getF s fl mm := by
  unfold pinRails
  repeat' (first
    | with_reducible rfl
    | simp (disch := assumption) only [getF_ite, ite_self, octHiz_page, octBack_page]
    | refine (forAll_page (fun _ _ => ?_) _ _).trans ?_)

theorem failLatch_page (s : State) (p : Nat) {fl : Fld} {mm : Nat} (hseq : fl.page ≠ .seq) (hmce : fl.page ≠ .mce) :
    getF (failLatch s p) fl mm = getF s fl mm := by
  unfold failLatch
  repeat' (first
    | with_reducible rfl
    | simp (disch := assumption) only [getF_ite, ite_self, setB_page, getF_setBnd]
    | split)

theorem firstFail_page (s : State) (p : Nat) (r : VecRef) (t : Nat) {fl : Fld} {mm : Nat} (hpol : fl.page ≠ .pol) :
    getF (firstFail s p r t) fl mm = getF s fl mm := by
  unfold firstFail
  repeat' (first
    | with_reducible rfl
    | simp (disch := assumption) only [getF_ite, ite_self, setF_page, set64_page, raise_page])

theorem sofReached_page (s : State) (p : Nat) {fl : Fld} {mm : Nat} :
    getF (sofReached s p) fl mm = getF s fl mm := by
  unfold sofReached
  repeat' (first
    | with_reducible rfl
    | simp only [getF_ite, ite_self, getF_setPol])

theorem failCount_page (s : State) (p c : Nat) (r : VecRef) (tc : Nat) (t : Stamp) {fl : Fld} {mm : Nat} (hevr : fl.page ≠
    .evr) (hpol : fl.page ≠ .pol) (hoct : fl.page ≠ .oct) (hseq : fl.page ≠ .seq) (hmce : fl.page ≠ .mce) :
    getF (failAt.failCount s p c r tc t) fl mm = getF s fl mm := by
  simp (disch := assumption) only [failAt.failCount, getF_ite, ite_self, failLatch_page, dieEvent_page, firstFail_page,
      addCt_page]

theorem failAt_page (s : State) (c : Nat) (r : VecRef) (t : Stamp) {fl : Fld} {mm : Nat} (hevr : fl.page ≠ .evr) (hpol :
    fl.page ≠ .pol) (hoct : fl.page ≠ .oct) (hseq : fl.page ≠ .seq) (hmce : fl.page ≠ .mce) :
    getF (failAt s c r t) fl mm = getF s fl mm := by
  unfold failAt
  repeat' (first
    | with_reducible rfl
    | simp (disch := assumption) only [getF_setPol, addCt_page, sofReached_page, failCount_page]
    | split)

theorem logFail_page (s : State) (p : Nat) (f : FailVec) {fl : Fld} {mm : Nat} (hslu : fl.page ≠ .slu) (hpol : fl.page ≠
    .pol) :
    getF (logFail s p f) fl mm = getF s fl mm := by
  unfold logFail
  repeat' (first
    | with_reducible rfl
    | simp (disch := assumption) only [getF_ite, ite_self, getF_setAcq, countFlog_page, putItem_page])

theorem flushFails_page (s : State) (p : Nat) {fl : Fld} {mm : Nat} (hslu : fl.page ≠ .slu) (hpol : fl.page ≠ .pol) :
    getF (flushFails s p) fl mm = getF s fl mm := by
  unfold flushFails
  repeat' (first
    | with_reducible rfl
    | simp (disch := assumption) only [getF_setPol, logFail_page]
    | refine (foldl_page (fun _ _ => ?_) _ _).trans ?_)

theorem flushAllFails_page (s : State) (p : Nat) {fl : Fld} {mm : Nat} (hslu : fl.page ≠ .slu) (hpol : fl.page ≠ .pol) :
    getF (flushAllFails s p) fl mm = getF s fl mm := by
  unfold flushAllFails
  repeat' (first
    | with_reducible rfl
    | simp (disch := assumption) only [getF_setPol, logFail_page]
    | refine (foldl_page (fun _ _ => ?_) _ _).trans ?_)

theorem strobe_page (s : State) (c : Nat) (e : Expect) (r : VecRef) (t : Stamp) {fl : Fld} {mm : Nat} (hevr : fl.page ≠ .evr)
    (hpol : fl.page ≠ .pol) (hoct : fl.page ≠ .oct) (hseq : fl.page ≠ .seq) (hmce : fl.page ≠ .mce) :
    getF (strobe s c e r t) fl mm = getF s fl mm := by
  unfold strobe
  repeat' (first
    | with_reducible rfl
    | simp (disch := assumption) only [getF_ite, ite_self, failAt_page])

theorem winFail_page (s : State) (c : Nat) (w : Win) (t : Stamp) {fl : Fld} {mm : Nat} (hevr : fl.page ≠ .evr) (hpol :
    fl.page ≠ .pol) (hoct : fl.page ≠ .oct) (hseq : fl.page ≠ .seq) (hmce : fl.page ≠ .mce) :
    getF (winFail s c w t) fl mm = getF s fl mm := by
  unfold winFail
  repeat' (first
    | with_reducible rfl
    | simp (disch := assumption) only [getF_setChan, failAt_page])

theorem settleViol_page (s : State) (c : Nat) (t : Stamp) {fl : Fld} {mm : Nat} (hevr : fl.page ≠ .evr) (hpol : fl.page ≠
    .pol) (hoct : fl.page ≠ .oct) (hseq : fl.page ≠ .seq) (hmce : fl.page ≠ .mce) :
    getF (settleViol s c t) fl mm = getF s fl mm := by
  unfold settleViol
  repeat' (first
    | with_reducible rfl
    | simp (disch := assumption) only [getF_ite, ite_self, freeB_page, getF_setChan, winFail_page]
    | split)

theorem winOpen_page (s : State) (c : Nat) (e : Expect) (r : VecRef) (t : Stamp) {fl : Fld} {mm : Nat} (hevr : fl.page ≠
    .evr) (hpol : fl.page ≠ .pol) (hoct : fl.page ≠ .oct) (hseq : fl.page ≠ .seq) (hmce : fl.page ≠ .mce) :
    getF (winOpen s c e r t) fl mm = getF s fl mm := by
  unfold winOpen
  repeat' (first
    | with_reducible rfl
    | simp (disch := assumption) only [getF_setChan, settleViol_page])

theorem winClose_page (s : State) (c : Nat) (t : Stamp) {fl : Fld} {mm : Nat} (hevr : fl.page ≠ .evr) (hpol : fl.page ≠ .pol)
    (hoct : fl.page ≠ .oct) (hseq : fl.page ≠ .seq) (hmce : fl.page ≠ .mce) :
    getF (winClose s c t) fl mm = getF s fl mm := by
  unfold winClose
  repeat' (first
    | with_reducible rfl
    | simp (disch := assumption) only [getF_setChan, settleViol_page])

theorem playChar_page (s : State) (ch t c per : Nat) (r : VecRef) (park : Bool) {fl : Fld} {mm : Nat} (hoct : fl.page ≠ .oct)
    :
    getF (playChar s ch t c per r park) fl mm = getF s fl mm := by
  unfold playChar
  repeat' (first
    | with_reducible rfl
    | simp (disch := assumption) only [getF_ite, ite_self, addCt_page, raise_page, getF_setChan]
    | refine (foldl_page (fun _ _ => ?_) _ _).trans ?_
    | split)

theorem parkPeriod_page (s : State) (ch p : Nat) {fl : Fld} {mm : Nat} (hoct : fl.page ≠ .oct) :
    getF (parkPeriod s ch p) fl mm = getF s fl mm := by
  unfold parkPeriod
  repeat' (first
    | with_reducible rfl
    | simp (disch := assumption) only [getF_setChan, playChar_page]
    | split)

theorem driveEdge_page (s : State) (c : Nat) (d : Drv) (t : Stamp) {fl : Fld} {mm : Nat} (hoct : fl.page ≠ .oct) :
    getF (driveEdge s c d t) fl mm = getF s fl mm := by
  unfold driveEdge
  repeat' (first
    | with_reducible rfl
    | simp (disch := assumption) only [getF_ite, ite_self, addCt_page, raise_page, getF_setChan])

theorem playEdge_page (s : State) (c : Nat) (e : Edge) {fl : Fld} {mm : Nat} (hevr : fl.page ≠ .evr) (hpol : fl.page ≠ .pol)
    (hoct : fl.page ≠ .oct) (hseq : fl.page ≠ .seq) (hmce : fl.page ≠ .mce) :
    getF (playEdge s c e) fl mm = getF s fl mm := by
  unfold playEdge
  repeat' (first
    | with_reducible rfl
    | simp (disch := assumption) only [getF_ite, ite_self, addCt_page, raise_page, getF_setChan, tdcArm_page, strobe_page,
        winOpen_page, winClose_page, driveEdge_page]
    | split)

theorem layAll_page (s : State) (c p : Nat) {fl : Fld} {mm : Nat} (hoct : fl.page ≠ .oct) :
    getF (layAll s c p) fl mm = getF s fl mm := by
  unfold layAll
  repeat' (first
    | with_reducible rfl
    | simp (disch := assumption) only [getF_ite, ite_self, getF_setChan, parkPeriod_page]
    | refine (foldl_page (fun _ _ => ?_) _ _).trans ?_
    | split)

theorem setPark_page (s : State) (p t : Nat) (a : Stamp) (b : Option Stamp) (quiet : Bool) {fl : Fld} {mm : Nat} (hoct :
    fl.page ≠ .oct) :
    getF (setPark s p t a b quiet) fl mm = getF s fl mm := by
  unfold setPark
  repeat' (first
    | with_reducible rfl
    | simp (disch := assumption) only [getF_setChan, layAll_page]
    | refine (forAll_page (fun _ _ => ?_) _ _).trans ?_)

theorem endPark_page (s : State) (p : Nat) (b : Stamp) {fl : Fld} {mm : Nat} :
    getF (endPark s p b) fl mm = getF s fl mm := by
  unfold endPark
  repeat' (first
    | with_reducible rfl
    | simp only [getF_setChan]
    | refine (forAll_page (fun _ _ => ?_) _ _).trans ?_
    | split)

theorem leavePark_page (s : State) (c : Nat) (t : Stamp) {fl : Fld} {mm : Nat} :
    getF (leavePark s c t) fl mm = getF s fl mm := by
  unfold leavePark
  repeat' (first
    | with_reducible rfl
    | simp only [getF_ite, ite_self, getF_setChan]
    | split)

theorem layPark_page (f : Nat) (s : State) (c p : Nat) {fl : Fld} {mm : Nat} (hoct : fl.page ≠ .oct) : getF (layPark f s c p)
    fl mm = getF s fl mm := by
  induction f generalizing s with
  | zero => rfl
  | succ f ih =>
    unfold layPark
    repeat' (first | with_reducible rfl | simp (disch := assumption) only [ih, parkPeriod_page] | split)

theorem nextEdge_page (s : State) (c : Nat) {fl : Fld} {mm : Nat} (hevr : fl.page ≠ .evr) (hslu : fl.page ≠ .slu) (hpol :
    fl.page ≠ .pol) (hoct : fl.page ≠ .oct) (hseq : fl.page ≠ .seq) (hmce : fl.page ≠ .mce) (hcdi : fl.page ≠ .cdi) : getF
    (nextEdge s c) fl mm = getF s fl mm := by
  unfold nextEdge
  extract_lets s0
  have h0 : getF s0 fl mm = getF s fl mm := by
    simp only [s0]; split
    · simp (disch := assumption) only [layPark_page]
    · rfl
  split
  · exact h0
  · next e es he =>
    extract_lets s1 u s2 s3
    have h1 : getF s1 fl mm = getF s fl mm := by simp (disch := assumption) only [s1, pmuDue_page, h0]
    have h2 : getF s2 fl mm = getF s fl mm := by simp (disch := assumption) only [s2, leavePark_page, getF_setChan, h1]
    have h3 : getF s3 fl mm = getF s fl mm := by simp (disch := assumption) only [s3, playEdge_page, h2]
    split
    · simp (disch := assumption) only [flushFails_page, h3]
    · exact h3

theorem winBroken_page (s : State) (c : Nat) (w : Win) (det : Bool) (t : Stamp) {fl : Fld} {mm : Nat} (hevr : fl.page ≠ .evr)
    (hpol : fl.page ≠ .pol) (hoct : fl.page ≠ .oct) (hseq : fl.page ≠ .seq) (hmce : fl.page ≠ .mce) :
    getF (winBroken s c w det t) fl mm = getF s fl mm := by
  unfold winBroken
  repeat' (first
    | with_reducible rfl
    | simp (disch := assumption) only [getF_ite, ite_self, getF_setChan, winFail_page])

theorem midBroken_page (s : State) (c : Nat) (t : Stamp) {fl : Fld} {mm : Nat} (hevr : fl.page ≠ .evr) (hpol : fl.page ≠
    .pol) (hoct : fl.page ≠ .oct) (hseq : fl.page ≠ .seq) (hmce : fl.page ≠ .mce) :
    getF (midBroken s c t) fl mm = getF s fl mm := by
  unfold midBroken
  repeat' (first
    | with_reducible rfl
    | simp (disch := assumption) only [getF_ite, ite_self, winBroken_page]
    | split)

theorem comparatorTransition_page (s : State) (c : Nat) (high rising : Bool) (t0 : Stamp) (sub : BitVec 4) (det : Bool) {fl :
    Fld} {mm : Nat} (hevr : fl.page ≠ .evr) (hslu : fl.page ≠ .slu) (hpol : fl.page ≠ .pol) (hoct : fl.page ≠ .oct) (hseq :
    fl.page ≠ .seq) (hmce : fl.page ≠ .mce) :
    getF (comparatorTransition s c high rising t0 sub det) fl mm = getF s fl mm := by
  unfold comparatorTransition
  repeat' (first
    | with_reducible rfl
    | simp (disch := assumption) only [getF_ite, ite_self, setF_page, tdcEdge_page, settleViol_page, winBroken_page]
    | split)

theorem lockSpan_page (s : State) (b : Nat) (x : Span) {fl : Fld} {mm : Nat} (hmem : fl.page ≠ .mem) :
    getF (lockSpan s b x) fl mm = getF s fl mm := by
  unfold lockSpan
  repeat' (first
    | with_reducible rfl
    | simp (disch := assumption) only [getF_ite, ite_self, addCt_page, getF_setBnd])

theorem unlock_page (s : State) (b : Nat) (f : Span → Bool) {fl : Fld} {mm : Nat} :
    getF (unlock s b f) fl mm = getF s fl mm := by
  unfold unlock
  repeat' (first
    | with_reducible rfl
    | simp only [getF_setBnd])

theorem noteSeen_page (s : State) (b va : Nat) (compact : Bool) {fl : Fld} {mm : Nat} :
    getF (noteSeen s b va compact) fl mm = getF s fl mm := by
  unfold noteSeen
  repeat' (first
    | with_reducible rfl
    | simp only [getF_setBnd])

theorem showFree_page (s : State) {fl : Fld} {mm : Nat} (hmem : fl.page ≠ .mem) :
    getF (showFree s) fl mm = getF s fl mm := by
  unfold showFree
  repeat' (first
    | with_reducible rfl
    | simp (disch := assumption) only [setF_page])

theorem cacheAlloc_page (s : State) (b noct : Nat) {fl : Fld} {mm : Nat} (hmem : fl.page ≠ .mem) :
    getF (cacheAlloc s b noct) fl mm = getF s fl mm := by
  unfold cacheAlloc
  repeat' (first
    | with_reducible rfl
    | simp (disch := assumption) only [setF_page, raiseIf_page, getF_setBnd, showFree_page])

theorem keepPoison_page (s : State) (b : Nat) (kept : Nat → Bool) {fl : Fld} {mm : Nat} (hmem : fl.page ≠ .mem) :
    getF (keepPoison s b kept) fl mm = getF s fl mm := by
  unfold keepPoison
  repeat' (first
    | with_reducible rfl
    | simp (disch := assumption) only [getF_ite, ite_self, addCt_page, raise_page, getF_setBnd])

theorem cacheFree_page (s : State) (b : Nat) {fl : Fld} {mm : Nat} (hmem : fl.page ≠ .mem) :
    getF (cacheFree s b) fl mm = getF s fl mm := by
  unfold cacheFree
  repeat' (first
    | with_reducible rfl
    | simp (disch := assumption) only [getF_ite, ite_self, setF_page, getF_setBnd, showFree_page, keepPoison_page])

theorem eccAddr_page (s : State) (a : Nat) (ue cache : Bool) {fl : Fld} {mm : Nat} (hmem : fl.page ≠ .mem) :
    getF (eccAddr s a ue cache) fl mm = getF s fl mm := by
  unfold eccAddr
  repeat' (first
    | with_reducible rfl
    | simp (disch := assumption) only [setF_page])

theorem eccCe_page (s : State) (a : Nat) (cache : Bool) {fl : Fld} {mm : Nat} (hmem : fl.page ≠ .mem) :
    getF (eccCe s a cache) fl mm = getF s fl mm := by
  unfold eccCe
  repeat' (first
    | with_reducible rfl
    | simp (disch := assumption) only [addCt_page, raise_page, eccAddr_page])

theorem eccUe_page (s : State) (a : Nat) (cache : Bool) {fl : Fld} {mm : Nat} (hmem : fl.page ≠ .mem) :
    getF (eccUe s a cache) fl mm = getF s fl mm := by
  unfold eccUe
  repeat' (first
    | with_reducible rfl
    | simp (disch := assumption) only [getF_ite, ite_self, getF_upd, addCt_page, raise_page, causeOn_page, eccAddr_page])

theorem eccErrs_page (s : State) (ce ue : List EccErr) {fl : Fld} {mm : Nat} (hmem : fl.page ≠ .mem) :
    getF (eccErrs s ce ue) fl mm = getF s fl mm := by
  unfold eccErrs
  repeat' (first
    | with_reducible rfl
    | simp (disch := assumption) only [eccCe_page, eccUe_page]
    | refine (foldl_page (fun _ _ => ?_) _ _).trans ?_)

theorem setVa_page (s : State) (m v : Nat) {fl : Fld} {mm : Nat} (hmce : fl.page ≠ .mce) :
    getF (setVa s m v) fl mm = getF s fl mm := by
  unfold setVa
  repeat' (first
    | with_reducible rfl
    | simp (disch := assumption) only [setF_page])

theorem leadRegained_page (s : State) (b : Nat) {fl : Fld} {mm : Nat} :
    getF (leadRegained s b) fl mm = getF s fl mm := by
  unfold leadRegained
  repeat' (first
    | with_reducible rfl
    | simp only [getF_ite, ite_self, getF_setBnd])

theorem fetched_page (s : State) (b : Nat) (ws : List (Nat × Bool)) (found : List EccErr) {fl : Fld} {mm : Nat} (hmem :
    fl.page ≠ .mem) :
    getF (fetched s b ws found) fl mm = getF s fl mm := by
  unfold fetched
  repeat' (first
    | with_reducible rfl
    | simp (disch := assumption) only [getF_setBnd, eccErrs_page])

theorem jumpLead_page (s : State) (b : Nat) (fixed : Bool) {fl : Fld} {mm : Nat} (hmem : fl.page ≠ .mem) :
    getF (jumpLead s b fixed) fl mm = getF s fl mm := by
  unfold jumpLead
  repeat' (first
    | with_reducible rfl
    | simp (disch := assumption) only [getF_ite, ite_self, getF_setBnd, leadRegained_page, fetched_page])

theorem preloadGo_page (s : State) (b : Nat) {fl : Fld} {mm : Nat} (hmem : fl.page ≠ .mem) :
    getF (preloadGo s b) fl mm = getF s fl mm := by
  unfold preloadGo
  repeat' (first
    | with_reducible rfl
    | simp (disch := assumption) only [getF_ite, ite_self, setF_page, raise_page, getF_setBnd, showFree_page,
        keepPoison_page])

theorem invalidate_page (s : State) (a n : Nat) {fl : Fld} {mm : Nat} (hmem : fl.page ≠ .mem) :
    getF (invalidate s a n) fl mm = getF s fl mm := by
  unfold invalidate
  repeat' (first
    | with_reducible rfl
    | simp (disch := assumption) only [getF_ite, ite_self, getF_setBnd, keepPoison_page]
    | refine (forAll_page (fun _ _ => ?_) _ _).trans ?_)

theorem growCredit_page (s : State) (b : Nat) {fl : Fld} {mm : Nat} :
    getF (growCredit s b) fl mm = getF s fl mm := by
  unfold growCredit
  repeat' (first
    | with_reducible rfl
    | simp only [getF_setBnd])

theorem clearLatches_page (s : State) (b : Nat) {fl : Fld} {mm : Nat} (hseq : fl.page ≠ .seq) (hmce : fl.page ≠ .mce) :
    getF (clearLatches s b) fl mm = getF s fl mm := by
  unfold clearLatches
  repeat' (first
    | with_reducible rfl
    | simp (disch := assumption) only [setB_page, getF_setBnd])

theorem clearLatch_page (s : State) (b code : Nat) {fl : Fld} {mm : Nat} (hseq : fl.page ≠ .seq) (hmce : fl.page ≠ .mce) :
    getF (clearLatch s b code) fl mm = getF s fl mm := by
  unfold clearLatch
  repeat' (first
    | with_reducible rfl
    | simp (disch := assumption) only [getF_ite, ite_self, setB_page, getF_setBnd])

theorem setLatch_page (s : State) (b code : Nat) {fl : Fld} {mm : Nat} (hseq : fl.page ≠ .seq) (hmce : fl.page ≠ .mce) :
    getF (setLatch s b code) fl mm = getF s fl mm := by
  unfold setLatch
  repeat' (first
    | with_reducible rfl
    | simp (disch := assumption) only [setB_page])

theorem rejudgeFailAll_page (s : State) (b : Nat) {fl : Fld} {mm : Nat} (hseq : fl.page ≠ .seq) (hmce : fl.page ≠ .mce) :
    getF (rejudgeFailAll s b) fl mm = getF s fl mm := by
  unfold rejudgeFailAll
  repeat' (first
    | with_reducible rfl
    | simp (disch := assumption) only [getF_ite, ite_self, setB_page])

theorem setCause_page (s : State) (b sq me : Nat) {fl : Fld} {mm : Nat} (hseq : fl.page ≠ .seq) (hmce : fl.page ≠ .mce) :
    getF (setCause s b sq me) fl mm = getF s fl mm := by
  unfold setCause
  repeat' (first
    | with_reducible rfl
    | simp (disch := assumption) only [getF_ite, ite_self, setF_page])

theorem setIssuing_page (s : State) (b : Nat) (v : Bool) {fl : Fld} {mm : Nat} (hseq : fl.page ≠ .seq) (hmce : fl.page ≠
    .mce) :
    getF (setIssuing s b v) fl mm = getF s fl mm := by
  unfold setIssuing
  repeat' (first
    | with_reducible rfl
    | simp (disch := assumption) only [setB_page])

theorem engArm_page (s : State) (m : Nat) (mem : List Nat) {fl : Fld} {mm : Nat} (hmce : fl.page ≠ .mce) :
    getF (engArm s m mem) fl mm = getF s fl mm := by
  unfold engArm
  repeat' (first
    | with_reducible rfl
    | simp (disch := assumption) only [getF_ite, setF_page, getF_launch, setVa_page]
    | refine (forAll_page (fun _ _ => ?_) _ _).trans ?_
    | split)

theorem reserve_page (s : State) (b a : Nat) (mem : List Nat) {fl : Fld} {mm : Nat} (hhkp : fl.page ≠ .hkp) (hmem : fl.page ≠
    .mem) (hseq : fl.page ≠ .seq) (hmce : fl.page ≠ .mce) :
    getF (reserve s b a mem) fl mm = getF s fl mm := by
  unfold reserve
  repeat' (first
    | with_reducible rfl
    | simp (disch := assumption) only [getF_ite, ite_self, setF_page, setB_page, getF_setBnd, cacheAlloc_page,
        clearLatches_page, setCause_page, engArm_page])

theorem releaseBnd_page (s : State) (b : Nat) {fl : Fld} {mm : Nat} (hmem : fl.page ≠ .mem) (hseq : fl.page ≠ .seq) (hmce :
    fl.page ≠ .mce) :
    getF (releaseBnd s b) fl mm = getF s fl mm := by
  unfold releaseBnd
  repeat' (first
    | with_reducible rfl
    | simp (disch := assumption) only [getF_ite, ite_self, setF_page, setB_page, getF_setPol, getF_setBnd, cacheFree_page,
        setIssuing_page]
    | refine (forAll_page (fun _ _ => ?_) _ _).trans ?_)

theorem clearRun_page (s : State) (p : Nat) {fl : Fld} {mm : Nat} (hpol : fl.page ≠ .pol) (hoct : fl.page ≠ .oct) : getF
    (clearRun s p) fl mm = getF s fl mm := by
  unfold clearRun
  extract_lets s1
  have h1 : getF s1 fl mm = getF s fl mm := by
    simp only [s1]
    exact setAll_page _ p (by decide) hpol s
  refine (forAll_page (fun _ _ => ?_) _ _).trans h1
  refine (forAll_page (fun _ _ => ?_) _ _).trans (setF_page _ _ _ _ hoct)
  simp (disch := assumption) only [setF_page]

theorem reclaimEnd_page (s : State) (p : Nat) {fl : Fld} {mm : Nat} (hslu : fl.page ≠ .slu) (hacq : fl.page ≠ .acq) :
    getF (reclaimEnd s p) fl mm = getF s fl mm := by
  unfold reclaimEnd
  repeat' (first
    | with_reducible rfl
    | simp (disch := assumption) only [getF_ite, addCt_page, raise_page, getF_setPol, handOff_page, endRun_page]
    | refine (forAll_page (fun _ _ => ?_) _ _).trans ?_
    | split)

theorem armPol_page (s : State) (p b : Nat) {fl : Fld} {mm : Nat} (hslu : fl.page ≠ .slu) (hpol : fl.page ≠ .pol) (hacq :
    fl.page ≠ .acq) (hoct : fl.page ≠ .oct) :
    getF (armPol s p b) fl mm = getF s fl mm := by
  unfold armPol
  repeat' (first
    | with_reducible rfl
    | simp (disch := assumption) only [getF_setPol, setRs_page, takePdly_page, acqArmed_page, clearRun_page,
        reclaimEnd_page])

theorem arm_page (s : State) (p : Nat) {fl : Fld} {mm : Nat} (hhkp : fl.page ≠ .hkp) (hslu : fl.page ≠ .slu) (hmem : fl.page
    ≠ .mem) (hpol : fl.page ≠ .pol) (hacq : fl.page ≠ .acq) (hoct : fl.page ≠ .oct) (hseq : fl.page ≠ .seq) (hmce : fl.page ≠
    .mce) :
    getF (arm s p) fl mm = getF s fl mm := by
  unfold arm
  repeat' (first
    | with_reducible rfl
    | simp (disch := assumption) only [getF_ite, setF_page, raise_page, getF_setPol, reserve_page, armPol_page]
    | refine (forAll_page (fun _ _ => ?_) _ _).trans ?_
    | split)

theorem markRun_page (s : State) (p cause : Nat) {fl : Fld} {mm : Nat} (hslu : fl.page ≠ .slu) :
    getF (markRun s p cause) fl mm = getF s fl mm := by
  unfold markRun
  repeat' (first
    | with_reducible rfl
    | simp (disch := assumption) only [getF_ite, ite_self, markAll_page])

theorem closeGate_page (s : State) (p : Nat) (t : Stamp) {fl : Fld} {mm : Nat} :
    getF (closeGate s p t) fl mm = getF s fl mm := by
  unfold closeGate
  repeat' (first
    | with_reducible rfl
    | simp only [gateClose_page])

theorem abortPins_page (s : State) (p : Nat) {fl : Fld} {mm : Nat} (hdsc : fl.page ≠ .dsc) (hpol : fl.page ≠ .pol) (hoct :
    fl.page ≠ .oct) (hcdi : fl.page ≠ .cdi) :
    getF (abortPins s p) fl mm = getF s fl mm := by
  unfold abortPins
  repeat' (first
    | with_reducible rfl
    | simp (disch := assumption) only [getF_setPol, emptyQueue_page, disconnectOct_page, showPmu_page, pmuNowDue_page]
    | refine (forAll_page (fun _ _ => ?_) _ _).trans ?_)

theorem parkOut_page (s : State) (b p : Nat) (paused : Bool) {fl : Fld} {mm : Nat} (hoct : fl.page ≠ .oct) :
    getF (parkOut s b p paused) fl mm = getF s fl mm := by
  unfold parkOut
  repeat' (first
    | with_reducible rfl
    | simp (disch := assumption) only [getF_ite, ite_self, setPark_page])

theorem toStopping_page (s : State) (b p : Nat) (abort : Bool) {fl : Fld} {mm : Nat} (hslu : fl.page ≠ .slu) (hdsc : fl.page
    ≠ .dsc) (hpol : fl.page ≠ .pol) (hacq : fl.page ≠ .acq) (hoct : fl.page ≠ .oct) (hcdi : fl.page ≠ .cdi) :
    getF (toStopping s b p abort) fl mm = getF s fl mm := by
  unfold toStopping
  repeat' (first
    | with_reducible rfl
    | simp (disch := assumption) only [getF_ite, ite_self, setF_page, getF_setPol, setRs_page, runEnd_page, closeEvent_page,
        closeRec_page, endsBurst_page, markRun_page, closeGate_page, abortPins_page, parkOut_page])

theorem endIssue_page (s : State) (b sq me : Nat) (abort : Bool) {fl : Fld} {mm : Nat} (hslu : fl.page ≠ .slu) (hmem :
    fl.page ≠ .mem) (hdsc : fl.page ≠ .dsc) (hpol : fl.page ≠ .pol) (hacq : fl.page ≠ .acq) (hoct : fl.page ≠ .oct) (hseq :
    fl.page ≠ .seq) (hmce : fl.page ≠ .mce) (hcdi : fl.page ≠ .cdi) :
    getF (endIssue s b sq me abort) fl mm = getF s fl mm := by
  unfold endIssue
  repeat' (first
    | with_reducible rfl
    | simp (disch := assumption) only [getF_ite, ite_self, setF_page, getF_setBnd, setCause_page, setIssuing_page,
        toStopping_page]
    | refine (forAll_page (fun _ _ => ?_) _ _).trans ?_)

theorem stopFault_page (s : State) (b sq me : Nat) {fl : Fld} {mm : Nat} (hslu : fl.page ≠ .slu) (hmem : fl.page ≠ .mem)
    (hdsc : fl.page ≠ .dsc) (hpol : fl.page ≠ .pol) (hacq : fl.page ≠ .acq) (hoct : fl.page ≠ .oct) (hseq : fl.page ≠ .seq)
    (hmce : fl.page ≠ .mce) (hcdi : fl.page ≠ .cdi) :
    getF (stopFault s b sq me) fl mm = getF s fl mm := by
  unfold stopFault
  repeat' (first
    | with_reducible rfl
    | simp (disch := assumption) only [getF_ite, ite_self, raise_page, causeOn_page, endIssue_page])

theorem vmStop_page (s : State) (b code : Nat) {fl : Fld} {mm : Nat} (hslu : fl.page ≠ .slu) (hmem : fl.page ≠ .mem) (hdsc :
    fl.page ≠ .dsc) (hpol : fl.page ≠ .pol) (hacq : fl.page ≠ .acq) (hoct : fl.page ≠ .oct) (hseq : fl.page ≠ .seq) (hmce :
    fl.page ≠ .mce) (hcdi : fl.page ≠ .cdi) :
    getF (vmStop s b code) fl mm = getF s fl mm := by
  unfold vmStop
  repeat' (first
    | with_reducible rfl
    | simp (disch := assumption) only [getF_ite, ite_self, setF_page, raise_page, getF_setBnd, causeOn_page, stopFault_page]
    | refine (forAll_page (fun _ _ => ?_) _ _).trans ?_)

theorem wordStop_page (s : State) (b va : Nat) (cp : Bool) (code : Nat) {fl : Fld} {mm : Nat} (hslu : fl.page ≠ .slu) (hmem :
    fl.page ≠ .mem) (hdsc : fl.page ≠ .dsc) (hpol : fl.page ≠ .pol) (hacq : fl.page ≠ .acq) (hoct : fl.page ≠ .oct) (hseq :
    fl.page ≠ .seq) (hmce : fl.page ≠ .mce) (hcdi : fl.page ≠ .cdi) :
    getF (wordStop s b va cp code) fl mm = getF s fl mm := by
  unfold wordStop
  repeat' (first
    | with_reducible rfl
    | simp (disch := assumption) only [getF_ite, ite_self, addCt_page, getF_setBnd, vmStop_page])

theorem clearBenched_page (s : State) (p : Nat) {fl : Fld} {mm : Nat} (hpol : fl.page ≠ .pol) :
    getF (clearBenched s p) fl mm = getF s fl mm := by
  unfold clearBenched
  repeat' (first
    | with_reducible rfl
    | simp (disch := assumption) only [getF_ite, setF_page]
    | refine (forAll_page (fun _ _ => ?_) _ _).trans ?_
    | split)

theorem endCmds_page (s : State) (p : Nat) {fl : Fld} {mm : Nat} (hpol : fl.page ≠ .pol) : getF (endCmds s p) fl mm = getF s
    fl mm := by
  unfold endCmds
  exact setAll_page _ p (by decide) hpol s

theorem cancelRestart_page (s : State) (p : Nat) {fl : Fld} {mm : Nat} (hpol : fl.page ≠ .pol) :
    getF (cancelRestart s p) fl mm = getF s fl mm := by
  unfold cancelRestart
  repeat' (first
    | with_reducible rfl
    | simp (disch := assumption) only [getF_ite, ite_self, setF_page, raise_page])

theorem dikePins_page (s : State) (p : Nat) {fl : Fld} {mm : Nat} (hevr : fl.page ≠ .evr) (hslu : fl.page ≠ .slu) (hdsc :
    fl.page ≠ .dsc) (hpol : fl.page ≠ .pol) (hoct : fl.page ≠ .oct) (hcdi : fl.page ≠ .cdi) :
    getF (dikePins s p) fl mm = getF s fl mm := by
  unfold dikePins
  repeat' (first
    | with_reducible rfl
    | simp (disch := assumption) only [getF_setPol, dikeQueues_page, disconnectOct_page, endBurst_page, showPmu_page,
        octSafe_page]
    | refine (forAll_page (fun _ _ => ?_) _ _).trans ?_)

theorem leaveBnd_page (s : State) (b p cause : Nat) {fl : Fld} {mm : Nat} (hmem : fl.page ≠ .mem) (hseq : fl.page ≠ .seq)
    (hmce : fl.page ≠ .mce) :
    getF (leaveBnd s b p cause) fl mm = getF s fl mm := by
  unfold leaveBnd
  repeat' (first
    | with_reducible rfl
    | simp (disch := assumption) only [getF_ite, ite_self, getF_setPol, rejudgeFailAll_page, setCause_page, releaseBnd_page])

theorem dikeBench_page (s : State) (p : Nat) {fl : Fld} {mm : Nat} (hslu : fl.page ≠ .slu) (hpol : fl.page ≠ .pol) :
    getF (dikeBench s p) fl mm = getF s fl mm := by
  unfold dikeBench
  repeat' (first
    | with_reducible rfl
    | simp (disch := assumption) only [getF_ite, ite_self, setF_page, raise_page, markRun_page])

theorem dikeRecords_page (s : State) (p : Nat) {fl : Fld} {mm : Nat} (hslu : fl.page ≠ .slu) (hacq : fl.page ≠ .acq) :
    getF (dikeRecords s p) fl mm = getF s fl mm := by
  unfold dikeRecords
  repeat' (first
    | with_reducible rfl
    | simp (disch := assumption) only [getF_setPol, getF_setAcq, reclaim_page, runEnd_page, closeRec_page])

theorem dikeState_page (s : State) (p src : Nat) {fl : Fld} {mm : Nat} (hpol : fl.page ≠ .pol) :
    getF (dikeState s p src) fl mm = getF s fl mm := by
  unfold dikeState
  repeat' (first
    | with_reducible rfl
    | simp (disch := assumption) only [setF_page, raise_page, getF_setPol, setRs_page, endCmds_page, cancelRestart_page])

theorem dikeAgain_page (s : State) (p src : Nat) {fl : Fld} {mm : Nat} (hpol : fl.page ≠ .pol) :
    getF (dikeAgain s p src) fl mm = getF s fl mm := by
  unfold dikeAgain
  repeat' (first
    | with_reducible rfl
    | simp (disch := assumption) only [getF_ite, ite_self, setF_page, freeB_page, getF_setPol]
    | split)

theorem dikeEntry_page (s : State) (p src : Nat) {fl : Fld} {mm : Nat} (hevr : fl.page ≠ .evr) (hslu : fl.page ≠ .slu) (hmem
    : fl.page ≠ .mem) (hdsc : fl.page ≠ .dsc) (hpol : fl.page ≠ .pol) (hacq : fl.page ≠ .acq) (hoct : fl.page ≠ .oct) (hseq :
    fl.page ≠ .seq) (hmce : fl.page ≠ .mce) (hcdi : fl.page ≠ .cdi) :
    getF (dikeEntry s p src) fl mm = getF s fl mm := by
  unfold dikeEntry
  repeat' (first
    | with_reducible rfl
    | simp (disch := assumption) only [markRun_page, clearBenched_page, dikePins_page, leaveBnd_page, dikeBench_page,
        dikeRecords_page, dikeState_page, dikeAgain_page]
    | split)

theorem benchOut_page (s : State) (b p : Nat) (toDike : Bool) {fl : Fld} {mm : Nat} (hslu : fl.page ≠ .slu) (hmem : fl.page ≠
    .mem) (hdsc : fl.page ≠ .dsc) (hpol : fl.page ≠ .pol) (hacq : fl.page ≠ .acq) (hoct : fl.page ≠ .oct) (hseq : fl.page ≠
    .seq) (hmce : fl.page ≠ .mce) (hcdi : fl.page ≠ .cdi) :
    getF (benchOut s b p toDike) fl mm = getF s fl mm := by
  unfold benchOut
  repeat' (first
    | with_reducible rfl
    | simp (disch := assumption) only [getF_ite, ite_self, getF_setPol, getF_setAcq, runEnd_page, closeEvent_page,
        closeRec_page, endsBurst_page, closeGate_page, parkOut_page, toStopping_page, leaveBnd_page])

theorem disarm_page (s : State) (p : Nat) (abort : Bool) {fl : Fld} {mm : Nat} (hdsc : fl.page ≠ .dsc) (hpol : fl.page ≠
    .pol) (hoct : fl.page ≠ .oct) (hcdi : fl.page ≠ .cdi) :
    getF (disarm s p abort) fl mm = getF s fl mm := by
  unfold disarm
  repeat' (first
    | with_reducible rfl
    | simp (disch := assumption) only [getF_ite, ite_self, setRs_page, endsBurst_page, abortPins_page, endCmds_page])

theorem benchTo_page (s : State) (p : Nat) (toDike : Bool) {fl : Fld} {mm : Nat} (hevr : fl.page ≠ .evr) (hslu : fl.page ≠
    .slu) (hmem : fl.page ≠ .mem) (hdsc : fl.page ≠ .dsc) (hpol : fl.page ≠ .pol) (hacq : fl.page ≠ .acq) (hoct : fl.page ≠
    .oct) (hseq : fl.page ≠ .seq) (hmce : fl.page ≠ .mce) (hcdi : fl.page ≠ .cdi) :
    getF (benchTo s p toDike) fl mm = getF s fl mm := by
  unfold benchTo
  repeat' (first
    | with_reducible rfl
    | simp (disch := assumption) only [getF_ite, ite_self, setF_page, raise_page, getF_setPol, markRun_page,
        clearBenched_page, leaveBnd_page, dikeEntry_page, benchOut_page, disarm_page]
    | split)

theorem bench_page (s : State) (p : Nat) {fl : Fld} {mm : Nat} (hevr : fl.page ≠ .evr) (hslu : fl.page ≠ .slu) (hmem :
    fl.page ≠ .mem) (hdsc : fl.page ≠ .dsc) (hpol : fl.page ≠ .pol) (hacq : fl.page ≠ .acq) (hoct : fl.page ≠ .oct) (hseq :
    fl.page ≠ .seq) (hmce : fl.page ≠ .mce) (hcdi : fl.page ≠ .cdi) :
    getF (bench s p) fl mm = getF s fl mm := by
  unfold bench
  repeat' (first
    | with_reducible rfl
    | simp (disch := assumption) only [benchTo_page])

theorem stopAll_page (s : State) (p : Nat) (abort : Bool) {fl : Fld} {mm : Nat} (hslu : fl.page ≠ .slu) (hmem : fl.page ≠
    .mem) (hdsc : fl.page ≠ .dsc) (hpol : fl.page ≠ .pol) (hacq : fl.page ≠ .acq) (hoct : fl.page ≠ .oct) (hseq : fl.page ≠
    .seq) (hmce : fl.page ≠ .mce) (hcdi : fl.page ≠ .cdi) :
    getF (stopAll s p abort) fl mm = getF s fl mm := by
  unfold stopAll
  repeat' (first
    | with_reducible rfl
    | simp (disch := assumption) only [getF_ite, setCause_page, releaseBnd_page, endIssue_page, clearBenched_page,
        disarm_page]
    | refine (forAll_page (fun _ _ => ?_) _ _).trans ?_
    | split)

theorem firstWord_page (s : State) (p : Nat) (t : Stamp) {fl : Fld} {mm : Nat} (hslu : fl.page ≠ .slu) (hpol : fl.page ≠
    .pol) (hacq : fl.page ≠ .acq) (hoct : fl.page ≠ .oct) :
    getF (firstWord s p t) fl mm = getF s fl mm := by
  unfold firstWord
  repeat' (first
    | with_reducible rfl
    | simp (disch := assumption) only [raise_page, acqStart_page, octActive_page]
    | refine (forAll_page (fun _ _ => ?_) _ _).trans ?_)

theorem playWord_page (s : State) (b p va tset : Nat) (cp : Bool) (es : List (BitVec 192)) (vwi per : Nat) (t : Stamp) {fl :
    Fld} {mm : Nat} (hoct : fl.page ≠ .oct) :
    getF (playWord s b p va tset cp es vwi per t) fl mm = getF s fl mm := by
  unfold playWord
  repeat' (first
    | with_reducible rfl
    | simp (disch := assumption) only [getF_ite, playChar_page]
    | refine (forAll_page (fun _ _ => ?_) _ _).trans ?_
    | split)

theorem insertIdle_page (s : State) (b n : Nat) {fl : Fld} {mm : Nat} (hhkp : fl.page ≠ .hkp) (hoct : fl.page ≠ .oct) :
    getF (insertIdle s b n) fl mm = getF s fl mm := by
  unfold insertIdle
  repeat' (first
    | with_reducible rfl
    | simp (disch := assumption) only [getF_ite, addCt_page, getF_setBnd, setPark_page]
    | refine (forAll_page (fun _ _ => ?_) _ _).trans ?_
    | split)

theorem afterWord_page (s : State) (b : Nat) (streamed safe thr : Bool) {fl : Fld} {mm : Nat} (hhkp : fl.page ≠ .hkp) (hslu :
    fl.page ≠ .slu) (hmem : fl.page ≠ .mem) (hdsc : fl.page ≠ .dsc) (hpol : fl.page ≠ .pol) (hacq : fl.page ≠ .acq) (hoct :
    fl.page ≠ .oct) (hseq : fl.page ≠ .seq) (hmce : fl.page ≠ .mce) (hcdi : fl.page ≠ .cdi) :
    getF (afterWord s b streamed safe thr) fl mm = getF s fl mm := by
  unfold afterWord
  repeat' (first
    | with_reducible rfl
    | simp (disch := assumption) only [getF_ite, ite_self, addCt_page, getF_setBnd, leadRegained_page, vmStop_page,
        insertIdle_page])

theorem takeOvl_page (f : Nat) (s : State) (b vwi : Nat) (acc : List (BitVec 192)) {fl : Fld} {mm : Nat} (hpol : fl.page ≠
    .pol) :
    getF (takeOvl f s b vwi acc).1 fl mm = getF s fl mm := by
  induction f generalizing s acc with
  | zero => rfl
  | succ f ih =>
    unfold takeOvl
    repeat' (first | with_reducible rfl | simp (disch := assumption) only [ih, raise_page, addCt_page, getF_setBnd] | split)

theorem issueWord_page (s : State) (b : Nat) (w : WordOp) {fl : Fld} {mm : Nat} (hslu : fl.page ≠ .slu) (hdsc : fl.page ≠
    .dsc) (hpol : fl.page ≠ .pol) (hacq : fl.page ≠ .acq) (hoct : fl.page ≠ .oct) (hseq : fl.page ≠ .seq) (hmce : fl.page ≠
    .mce) : getF (issueWord s b w) fl mm = getF s fl mm := by
  unfold issueWord
  extract_lets y a cp per mem t streamed s1 s2 s3 s4 g o d s5 s6 s7 z act
  have h1 : getF s1 fl mm = getF s fl mm := by
    simp only [s1]; split
    · rfl
    · refine forAll_page (fun _ _ => ?_) _ _
      simp (disch := assumption) only [firstWord_page]
  have h2 : getF s2 fl mm = getF s fl mm := by
    rw [← h1]; simp only [s2]; split
    · refine forAll_page (fun _ _ => ?_) _ _
      simp (disch := assumption) only [muteStarts_page]
    · rfl
  have h3 : getF s3 fl mm = getF s fl mm := by
    rw [← h2]; refine forAll_page (fun _ _ => ?_) _ _
    split <;> simp (disch := assumption) only [gateOpen_page, gateClose_page]
  have h4 : getF s4 fl mm = getF s fl mm := by
    rw [← h3]; refine forAll_page (fun _ _ => ?_) _ _
    simp (disch := assumption) only [pushLset_page]
  have hg : getF o.1 fl mm = getF s fl mm := by
    rw [← h4]; simp (disch := assumption) only [o, g, takeOvl_page, growCredit_page]
  have hd : getF d fl mm = getF s fl mm := by
    rw [← hg]; refine forAll_page (fun _ _ => forAll_page (fun _ _ => ?_) _ _) _ _
    simp (disch := assumption) only [dueDeskew_page]
  have h5 : getF s5 fl mm = getF s fl mm := by
    refine (forAll_page (fun _ _ => ?_) _ _).trans hd
    simp (disch := assumption) only [playWord_page]
  have h6 : getF s6 fl mm = getF s fl mm := by
    rw [← h5]; refine forAll_page (fun _ _ => ?_) _ _
    simp (disch := assumption) only [setF_page]
  rw [← h6]
  simp (disch := assumption) only [s7, setIssuing_page, getF_setBnd, noteSeen_page]

theorem startRun_page (s : State) (b : Nat) {fl : Fld} {mm : Nat} (hpol : fl.page ≠ .pol) :
    getF (startRun s b) fl mm = getF s fl mm := by
  unfold startRun
  repeat' (first
    | with_reducible rfl
    | simp (disch := assumption) only [addCt_page, getF_setBnd, setRs_page, leadRegained_page]
    | refine (forAll_page (fun _ _ => ?_) _ _).trans ?_)

theorem takePause_page (s : State) (b : Nat) (tol : Bool) {fl : Fld} {mm : Nat} (hevr : fl.page ≠ .evr) (hslu : fl.page ≠
    .slu) (hmem : fl.page ≠ .mem) (hpol : fl.page ≠ .pol) (hoct : fl.page ≠ .oct) (hseq : fl.page ≠ .seq) (hmce : fl.page ≠
    .mce) :
    getF (takePause s b tol) fl mm = getF s fl mm := by
  unfold takePause
  repeat' (first
    | with_reducible rfl
    | simp (disch := assumption) only [getF_ite, ite_self, setF_page, raise_page, getF_setBnd, setRs_page, flushFails_page,
        winClose_page, setPark_page, setIssuing_page, markRun_page]
    | refine (forAll_page (fun _ _ => ?_) _ _).trans ?_)

theorem resumeRun_page (s : State) (b : Nat) {fl : Fld} {mm : Nat} (hhkp : fl.page ≠ .hkp) (hslu : fl.page ≠ .slu) (hmem :
    fl.page ≠ .mem) (hpol : fl.page ≠ .pol) (hoct : fl.page ≠ .oct) (hseq : fl.page ≠ .seq) (hmce : fl.page ≠ .mce) :
    getF (resumeRun s b) fl mm = getF s fl mm := by
  unfold resumeRun
  repeat' (first
    | with_reducible rfl
    | simp (disch := assumption) only [getF_ite, setF_page, addCt_page, getF_setBnd, setRs_page, endPark_page,
        setIssuing_page, markRun_page, endCmds_page, insertIdle_page]
    | refine (forAll_page (fun _ _ => ?_) _ _).trans ?_
    | split)

theorem setFstate_page (s : State) (f v : Nat) {fl : Fld} {mm : Nat} (hflt : fl.page ≠ .flt) :
    getF (setFstate s f v) fl mm = getF s fl mm := by
  unfold setFstate
  repeat' (first
    | with_reducible rfl
    | simp (disch := assumption) only [setF_page])

theorem hubSource_page (s : State) (src : Nat) (v : Bool) {fl : Fld} {mm : Nat} :
    getF (hubSource s src v) fl mm = getF s fl mm := by
  unfold hubSource
  repeat' (first
    | with_reducible rfl
    | simp only [getF_ite, ite_self, getF_launch, setLive_page])

theorem faultSources_page (s : State) {fl : Fld} {mm : Nat} :
    getF (faultSources s) fl mm = getF s fl mm := by
  unfold faultSources
  repeat' (first
    | with_reducible rfl
    | simp only [hubSource_page]
    | refine (forAll_page (fun _ _ => ?_) _ _).trans ?_)

theorem shutSource_page (s : State) {fl : Fld} {mm : Nat} :
    getF (shutSource s) fl mm = getF s fl mm := by
  unfold shutSource
  repeat' (first
    | with_reducible rfl
    | simp only [hubSource_page])

theorem preloadDrop_page (s : State) (b : Nat) {fl : Fld} {mm : Nat} (hmem : fl.page ≠ .mem) :
    getF (preloadDrop s b) fl mm = getF s fl mm := by
  unfold preloadDrop
  repeat' (first
    | with_reducible rfl
    | simp (disch := assumption) only [getF_ite, ite_self, setF_page, getF_setBnd])

theorem setEmbank_page (s : State) (v : Bool) {fl : Fld} {mm : Nat} (hdev : fl.page ≠ .dev) (hflt : fl.page ≠ .flt) :
    getF (setEmbank s v) fl mm = getF s fl mm := by
  unfold setEmbank
  repeat' (first
    | with_reducible rfl
    | simp (disch := assumption) only [setF_page])

theorem embank_page (s : State) (cause f : Nat) (t : Stamp) {fl : Fld} {mm : Nat} (hdev : fl.page ≠ .dev) (hflt : fl.page ≠
    .flt) (hevr : fl.page ≠ .evr) (hnvm : fl.page ≠ .nvm) (hslu : fl.page ≠ .slu) (hmem : fl.page ≠ .mem) (hdsc : fl.page ≠
    .dsc) (hpol : fl.page ≠ .pol) (hacq : fl.page ≠ .acq) (hoct : fl.page ≠ .oct) (hseq : fl.page ≠ .seq) (hmce : fl.page ≠
    .mce) (hcdi : fl.page ≠ .cdi) :
    getF (embank s cause f t) fl mm = getF s fl mm := by
  unfold embank
  repeat' (first
    | with_reducible rfl
    | simp (disch := assumption) only [getF_ite, ite_self, getF_upd, setF_page, set64_page, raise_page, applyFaultDacs_page,
        faultRamp_page, faultRecord_page, dikeEntry_page, preloadDrop_page, setEmbank_page]
    | refine (forAll_page (fun _ _ => ?_) _ _).trans ?_
    | split)

theorem setIso_page (s : State) (d : Nat) (v : Bool) {fl : Fld} {mm : Nat} (hflt : fl.page ≠ .flt) (hoct : fl.page ≠ .oct) :
    getF (setIso s d v) fl mm = getF s fl mm := by
  unfold setIso
  repeat' (first
    | with_reducible rfl
    | simp (disch := assumption) only [setF_page]
    | refine (forAll_page (fun _ _ => ?_) _ _).trans ?_)

theorem isolate_page (s : State) (d f : Nat) (t : Stamp) (names : List Nat) {fl : Fld} {mm : Nat} (hflt : fl.page ≠ .flt)
    (hevr : fl.page ≠ .evr) (hnvm : fl.page ≠ .nvm) (hslu : fl.page ≠ .slu) (hdsc : fl.page ≠ .dsc) (hpol : fl.page ≠ .pol)
    (hoct : fl.page ≠ .oct) (hcdi : fl.page ≠ .cdi) :
    getF (isolate s d f t names) fl mm = getF s fl mm := by
  unfold isolate
  repeat' (first
    | with_reducible rfl
    | simp (disch := assumption) only [getF_ite, raise_page, causeDrop_page, faultRecord_page, octSafe_page, setIso_page]
    | refine (forAll_page (fun _ _ => ?_) _ _).trans ?_
    | split)

theorem endIso_page (s : State) {fl : Fld} {mm : Nat} (hflt : fl.page ≠ .flt) (hoct : fl.page ≠ .oct) :
    getF (endIso s) fl mm = getF s fl mm := by
  unfold endIso
  repeat' (first
    | with_reducible rfl
    | simp (disch := assumption) only [getF_ite, ite_self, setIso_page]
    | refine (forAll_page (fun _ _ => ?_) _ _).trans ?_)

theorem takeReaction_page (s : State) (f : Nat) (t : Stamp) {fl : Fld} {mm : Nat} (hdev : fl.page ≠ .dev) (hflt : fl.page ≠
    .flt) (hevr : fl.page ≠ .evr) (hnvm : fl.page ≠ .nvm) (hslu : fl.page ≠ .slu) (hmem : fl.page ≠ .mem) (hdsc : fl.page ≠
    .dsc) (hpol : fl.page ≠ .pol) (hacq : fl.page ≠ .acq) (hoct : fl.page ≠ .oct) (hseq : fl.page ≠ .seq) (hmce : fl.page ≠
    .mce) (hcdi : fl.page ≠ .cdi) :
    getF (takeReaction s f t) fl mm = getF s fl mm := by
  unfold takeReaction
  repeat' (first
    | with_reducible rfl
    | simp (disch := assumption) only [getF_ite, ite_self, dikeEntry_page, embank_page, isolate_page]
    | refine (forAll_page (fun _ _ => ?_) _ _).trans ?_
    | split)

theorem occurrence_page (s : State) (f : Nat) (t : Stamp) {fl : Fld} {mm : Nat} (hdev : fl.page ≠ .dev) (hflt : fl.page ≠
    .flt) (hevr : fl.page ≠ .evr) (hnvm : fl.page ≠ .nvm) (hslu : fl.page ≠ .slu) (hmem : fl.page ≠ .mem) (hdsc : fl.page ≠
    .dsc) (hpol : fl.page ≠ .pol) (hacq : fl.page ≠ .acq) (hoct : fl.page ≠ .oct) (hseq : fl.page ≠ .seq) (hmce : fl.page ≠
    .mce) (hcdi : fl.page ≠ .cdi) :
    getF (occurrence s f t) fl mm = getF s fl mm := by
  unfold occurrence
  repeat' (first
    | with_reducible rfl
    | simp (disch := assumption) only [setF_page, addCt_page, set64_page, raise_page, setFlt_page, setFstate_page,
        takeReaction_page])

theorem occur_page (s : State) (f : Nat) (t : Stamp) {fl : Fld} {mm : Nat} (hdev : fl.page ≠ .dev) (hflt : fl.page ≠ .flt)
    (hevr : fl.page ≠ .evr) (hnvm : fl.page ≠ .nvm) (hslu : fl.page ≠ .slu) (hmem : fl.page ≠ .mem) (hdsc : fl.page ≠ .dsc)
    (hpol : fl.page ≠ .pol) (hacq : fl.page ≠ .acq) (hoct : fl.page ≠ .oct) (hseq : fl.page ≠ .seq) (hmce : fl.page ≠ .mce)
    (hcdi : fl.page ≠ .cdi) :
    getF (occur s f t) fl mm = getF s fl mm := by
  unfold occur
  repeat' (first
    | with_reducible rfl
    | simp (disch := assumption) only [getF_ite, ite_self, setFlt_page, causeOff_page, causeDrop_page, setFstate_page,
        faultSources_page, takeReaction_page, occurrence_page]
    | split)

theorem senseGone_page (s : State) (f : Nat) {fl : Fld} {mm : Nat} (hclk : fl.page ≠ .clk) (hdsc : fl.page ≠ .dsc) :
    getF (senseGone s f) fl mm = getF s fl mm := by
  unfold senseGone
  repeat' (first
    | with_reducible rfl
    | simp (disch := assumption) only [getF_ite, getF_upd, setF_page, getF_setChan, getF_setDs, causeOff_page, dsCause_page]
    | refine (forAll_page (fun _ _ => ?_) _ _).trans ?_
    | split)

theorem toQuiet_page (s : State) (f : Nat) {fl : Fld} {mm : Nat} (hflt : fl.page ≠ .flt) :
    getF (toQuiet s f) fl mm = getF s fl mm := by
  unfold toQuiet
  repeat' (first
    | with_reducible rfl
    | simp (disch := assumption) only [getF_ite, ite_self, setFlt_page, setFstate_page, faultSources_page])

theorem quietEnd_page (s : State) (f : Nat) {fl : Fld} {mm : Nat} (hflt : fl.page ≠ .flt) (hnvm : fl.page ≠ .nvm) :
    getF (quietEnd s f) fl mm = getF s fl mm := by
  unfold quietEnd
  repeat' (first
    | with_reducible rfl
    | simp (disch := assumption) only [getF_ite, ite_self, raise_page, setFlt_page, faultRecord_page, setFstate_page])

theorem fltDisable_page (s : State) (f : Nat) {fl : Fld} {mm : Nat} (hflt : fl.page ≠ .flt) (hoct : fl.page ≠ .oct) :
    getF (fltDisable s f) fl mm = getF s fl mm := by
  unfold fltDisable
  repeat' (first
    | with_reducible rfl
    | simp (disch := assumption) only [getF_ite, ite_self, setFlt_page, causeDrop_page, setFstate_page, faultSources_page,
        endIso_page])

theorem clearSource_page (s : State) (f : Nat) {fl : Fld} {mm : Nat} (hdev : fl.page ≠ .dev) (hflt : fl.page ≠ .flt) (hevr :
    fl.page ≠ .evr) (hnvm : fl.page ≠ .nvm) (hslu : fl.page ≠ .slu) (hmem : fl.page ≠ .mem) (hdsc : fl.page ≠ .dsc) (hpol :
    fl.page ≠ .pol) (hacq : fl.page ≠ .acq) (hoct : fl.page ≠ .oct) (hseq : fl.page ≠ .seq) (hmce : fl.page ≠ .mce) (hcdi :
    fl.page ≠ .cdi) :
    getF (clearSource s f) fl mm = getF s fl mm := by
  unfold clearSource
  repeat' (first
    | with_reducible rfl
    | simp (disch := assumption) only [getF_ite, ite_self, setFlt_page, setFstate_page, occur_page]
    | split)

theorem clearSelf_page (s : State) {fl : Fld} {mm : Nat} (hflt : fl.page ≠ .flt) (hoct : fl.page ≠ .oct) :
    getF (clearSelf s) fl mm = getF s fl mm := by
  unfold clearSelf
  repeat' (first
    | with_reducible rfl
    | simp (disch := assumption) only [getF_upd, setF_page, setFltCfg_page, fltDisable_page]
    | refine (forAll_page (fun _ _ => ?_) _ _).trans ?_
    | split)

theorem clrGo_page (s : State) {fl : Fld} {mm : Nat} (hdev : fl.page ≠ .dev) (hflt : fl.page ≠ .flt) (hevr : fl.page ≠ .evr)
    (hnvm : fl.page ≠ .nvm) (hslu : fl.page ≠ .slu) (hmem : fl.page ≠ .mem) (hdsc : fl.page ≠ .dsc) (hpol : fl.page ≠ .pol)
    (hacq : fl.page ≠ .acq) (hoct : fl.page ≠ .oct) (hseq : fl.page ≠ .seq) (hmce : fl.page ≠ .mce) (hcdi : fl.page ≠ .cdi) :
    getF (clrGo s) fl mm = getF s fl mm := by
  unfold clrGo
  extract_lets s1 l
  have h1 : getF s1 fl mm = getF s fl mm := by
    simp only [s1]; split
    · simp (disch := assumption) only [clearSelf_page]
    · rfl
  split
  · exact h1
  · simp (disch := assumption) only [faultSources_page, endIso_page]
    refine (forAll_page (fun _ _ => ?_) _ _).trans h1
    simp (disch := assumption) only [clearSource_page]

theorem selfErr_page (s : State) (t : Stamp) {fl : Fld} {mm : Nat} (hdev : fl.page ≠ .dev) (hflt : fl.page ≠ .flt) (hevr :
    fl.page ≠ .evr) (hnvm : fl.page ≠ .nvm) (hslu : fl.page ≠ .slu) (hmem : fl.page ≠ .mem) (hdsc : fl.page ≠ .dsc) (hpol :
    fl.page ≠ .pol) (hacq : fl.page ≠ .acq) (hoct : fl.page ≠ .oct) (hseq : fl.page ≠ .seq) (hmce : fl.page ≠ .mce) (hcdi :
    fl.page ≠ .cdi) :
    getF (selfErr s t) fl mm = getF s fl mm := by
  unfold selfErr
  repeat' (first
    | with_reducible rfl
    | simp (disch := assumption) only [setF_page, raise_page, faultRecord_page, faultSources_page, embank_page])

theorem exitGo_page (s : State) {fl : Fld} {mm : Nat} (hdev : fl.page ≠ .dev) (hflt : fl.page ≠ .flt) :
    getF (exitGo s) fl mm = getF s fl mm := by
  unfold exitGo
  repeat' (first
    | with_reducible rfl
    | simp (disch := assumption) only [getF_ite, ite_self, setF_page, raise_page, faultSources_page, setEmbank_page])

theorem wantStep_page (s : State) (r : Option Nat) {fl : Fld} {mm : Nat} :
    getF (wantStep s r) fl mm = getF s fl mm := by
  unfold wantStep
  repeat' (first
    | with_reducible rfl
    | simp only [getF_upd])

theorem ratioChanged_page (s : State) (age : Bool) {fl : Fld} {mm : Nat} :
    getF (ratioChanged s age) fl mm = getF s fl mm := by
  unfold ratioChanged
  repeat' (first
    | with_reducible rfl
    | simp only [getF_ite, ite_self, wantStep_page])

theorem clkStep_page (s : State) {fl : Fld} {mm : Nat} :
    getF (clkStep s) fl mm = getF s fl mm := by
  unfold clkStep
  repeat' (first
    | with_reducible rfl
    | simp only [getF_upd])

theorem holdMark_page (s : State) {fl : Fld} {mm : Nat} :
    getF (holdMark s) fl mm = getF s fl mm := by
  unfold holdMark
  repeat' (first
    | with_reducible rfl
    | simp only [getF_upd])

theorem setOnhold_page (s : State) (k : Nat) (v : Bool) {fl : Fld} {mm : Nat} (hclk : fl.page ≠ .clk) :
    getF (setOnhold s k v) fl mm = getF s fl mm := by
  unfold setOnhold
  repeat' (first
    | with_reducible rfl
    | simp (disch := assumption) only [setF_page])

theorem switchAll_page (s : State) {fl : Fld} {mm : Nat} (hclk : fl.page ≠ .clk) :
    getF (switchAll s) fl mm = getF s fl mm := by
  unfold switchAll
  repeat' (first
    | with_reducible rfl
    | simp (disch := assumption) only [setOnhold_page]
    | refine (forAll_page (fun _ _ => ?_) _ _).trans ?_)

theorem switchBack_page (s : State) {fl : Fld} {mm : Nat} (hclk : fl.page ≠ .clk) :
    getF (switchBack s) fl mm = getF s fl mm := by
  unfold switchBack
  repeat' (first
    | with_reducible rfl
    | simp (disch := assumption) only [setOnhold_page]
    | refine (forAll_page (fun _ _ => ?_) _ _).trans ?_)

theorem outdivSet_page (s : State) (k n p q : Nat) {fl : Fld} {mm : Nat} (hclk : fl.page ≠ .clk) :
    getF (outdivSet s k n p q) fl mm = getF s fl mm := by
  unfold outdivSet
  repeat' (first
    | with_reducible rfl
    | simp (disch := assumption) only [getF_ite, ite_self, getF_upd, setF_page, raise_page, setOnhold_page])

theorem outEnSet_page (s : State) (k : Nat) {fl : Fld} {mm : Nat} (hclk : fl.page ≠ .clk) :
    getF (outEnSet s k) fl mm = getF s fl mm := by
  unfold outEnSet
  repeat' (first
    | with_reducible rfl
    | simp (disch := assumption) only [setOnhold_page])

theorem xcalFail_page (s : State) {fl : Fld} {mm : Nat} (hbgl : fl.page ≠ .bgl) :
    getF (xcalFail s) fl mm = getF s fl mm := by
  unfold xcalFail
  repeat' (first
    | with_reducible rfl
    | simp (disch := assumption) only [setF_page, raise_page])

theorem xcalBreak_page (s : State) {fl : Fld} {mm : Nat} (hbgl : fl.page ≠ .bgl) :
    getF (xcalBreak s) fl mm = getF s fl mm := by
  unfold xcalBreak
  repeat' (first
    | with_reducible rfl
    | simp (disch := assumption) only [getF_ite, ite_self, xcalFail_page])

theorem loadLfsr_page (s : State) {fl : Fld} {mm : Nat} :
    getF (loadLfsr s) fl mm = getF s fl mm := by
  unfold loadLfsr
  repeat' (first
    | with_reducible rfl
    | simp only [getF_upd])

theorem modCycle_page (s : State) (r : Nat) {fl : Fld} {mm : Nat} :
    getF (modCycle s r) fl mm = getF s fl mm := by
  unfold modCycle
  repeat' (first
    | with_reducible rfl
    | simp only [getF_upd])

theorem modLost_page (s : State) (r : Nat) {fl : Fld} {mm : Nat} :
    getF (modLost s r) fl mm = getF s fl mm := by
  unfold modLost
  repeat' (first
    | with_reducible rfl
    | simp only [getF_upd, freeW_page, freeB_page])

theorem modTick_page (s : State) {fl : Fld} {mm : Nat} :
    getF (modTick s) fl mm = getF s fl mm := by
  unfold modTick
  repeat' (first
    | with_reducible rfl
    | simp only [getF_ite, ite_self, getF_upd, modCycle_page, modLost_page]
    | split)

theorem acquire_page (s : State) (bclk : Bool) {fl : Fld} {mm : Nat} (hclk : fl.page ≠ .clk) :
    getF (acquire s bclk) fl mm = getF s fl mm := by
  unfold acquire
  repeat' (first
    | with_reducible rfl
    | simp (disch := assumption) only [getF_upd, setF_page, clkStep_page, switchAll_page])

theorem loseLock_page (s : State) {fl : Fld} {mm : Nat} (hclk : fl.page ≠ .clk) (hbgl : fl.page ≠ .bgl) :
    getF (loseLock s) fl mm = getF s fl mm := by
  unfold loseLock
  repeat' (first
    | with_reducible rfl
    | simp (disch := assumption) only [getF_ite, ite_self, addCt_page, raise_page, causeOn_page, holdMark_page,
        xcalBreak_page, acquire_page])

theorem steer_page (s : State) (bclk hold : Bool) {fl : Fld} {mm : Nat} (hclk : fl.page ≠ .clk) :
    getF (steer s bclk hold) fl mm = getF s fl mm := by
  unfold steer
  repeat' (first
    | with_reducible rfl
    | simp (disch := assumption) only [setF_page])

theorem measureB_page (s : State) {fl : Fld} {mm : Nat} :
    getF (measureB s) fl mm = getF s fl mm := by
  unfold measureB
  repeat' (first
    | with_reducible rfl
    | simp only [getF_upd, freeW_page])

theorem enterHoldover_page (s : State) {fl : Fld} {mm : Nat} (hclk : fl.page ≠ .clk) :
    getF (enterHoldover s) fl mm = getF s fl mm := by
  unfold enterHoldover
  repeat' (first
    | with_reducible rfl
    | simp (disch := assumption) only [getF_ite, ite_self, getF_upd, wantStep_page, clkStep_page, holdMark_page, steer_page,
        measureB_page])

theorem leaveRef_page (s : State) {fl : Fld} {mm : Nat} (hclk : fl.page ≠ .clk) (hbgl : fl.page ≠ .bgl) :
    getF (leaveRef s) fl mm = getF s fl mm := by
  unfold leaveRef
  repeat' (first
    | with_reducible rfl
    | simp (disch := assumption) only [getF_ite, ite_self, loseLock_page, enterHoldover_page])

theorem judgePhase_page (s : State) (e : Int) {fl : Fld} {mm : Nat} (hclk : fl.page ≠ .clk) :
    getF (judgePhase s e) fl mm = getF s fl mm := by
  unfold judgePhase
  repeat' (first
    | with_reducible rfl
    | simp (disch := assumption) only [getF_ite, ite_self, getF_upd, setF_page, raiseIf_page])

theorem phaseDue_page (s : State) {fl : Fld} {mm : Nat} (hclk : fl.page ≠ .clk) :
    getF (phaseDue s) fl mm = getF s fl mm := by
  unfold phaseDue
  repeat' (first
    | with_reducible rfl
    | simp (disch := assumption) only [getF_ite, ite_self, getF_upd, freeW_page, judgePhase_page])

theorem lockWindow_page (s : State) (d : BitVec 16) {fl : Fld} {mm : Nat} (hclk : fl.page ≠ .clk) (hbgl : fl.page ≠ .bgl) :
    getF (lockWindow s d) fl mm = getF s fl mm := by
  unfold lockWindow
  repeat' (first
    | with_reducible rfl
    | simp (disch := assumption) only [getF_ite, ite_self, setF_page, loseLock_page])

theorem declareLock_page (s : State) {fl : Fld} {mm : Nat} (hclk : fl.page ≠ .clk) :
    getF (declareLock s) fl mm = getF s fl mm := by
  unfold declareLock
  repeat' (first
    | with_reducible rfl
    | simp (disch := assumption) only [getF_ite, ite_self, getF_upd, setF_page, addCt_page, raise_page, causeOff_page,
        clkStep_page, switchBack_page, loadLfsr_page, enterHoldover_page, phaseDue_page])

theorem relockGo_page (s : State) {fl : Fld} {mm : Nat} (hclk : fl.page ≠ .clk) (hbgl : fl.page ≠ .bgl) :
    getF (relockGo s) fl mm = getF s fl mm := by
  unfold relockGo
  repeat' (first
    | with_reducible rfl
    | simp (disch := assumption) only [getF_ite, ite_self, setF_page, holdMark_page, xcalBreak_page, acquire_page])

theorem refselSet_page (s : State) {fl : Fld} {mm : Nat} (hclk : fl.page ≠ .clk) (hbgl : fl.page ≠ .bgl) :
    getF (refselSet s) fl mm = getF s fl mm := by
  unfold refselSet
  repeat' (first
    | with_reducible rfl
    | simp (disch := assumption) only [getF_ite, ite_self, wantStep_page, acquire_page, leaveRef_page]
    | split)

theorem dropBclk_page (s : State) {fl : Fld} {mm : Nat} (hclk : fl.page ≠ .clk) (hbgl : fl.page ≠ .bgl) :
    getF (dropBclk s) fl mm = getF s fl mm := by
  unfold dropBclk
  repeat' (first
    | with_reducible rfl
    | simp (disch := assumption) only [getF_ite, ite_self, wantStep_page, acquire_page, leaveRef_page])

theorem endHoldover_page (s : State) {fl : Fld} {mm : Nat} (hclk : fl.page ≠ .clk) :
    getF (endHoldover s) fl mm = getF s fl mm := by
  unfold endHoldover
  repeat' (first
    | with_reducible rfl
    | simp (disch := assumption) only [getF_ite, ite_self, getF_upd, holdMark_page, steer_page, phaseDue_page])

theorem phstepGo_page (s : State) {fl : Fld} {mm : Nat} (hclk : fl.page ≠ .clk) :
    getF (phstepGo s) fl mm = getF s fl mm := by
  unfold phstepGo
  repeat' (first
    | with_reducible rfl
    | simp (disch := assumption) only [setF_page])

theorem shiftSpans_page (s : State) (x : Stamp) {fl : Fld} {mm : Nat} :
    getF (shiftSpans s x) fl mm = getF s fl mm := by
  unfold shiftSpans
  repeat' (first
    | with_reducible rfl
    | simp only [getF_upd])

theorem passStarts_page (s : State) (t0 t1 : Stamp) {fl : Fld} {mm : Nat} (hpol : fl.page ≠ .pol) :
    getF (passStarts s t0 t1) fl mm = getF s fl mm := by
  unfold passStarts
  repeat' (first
    | with_reducible rfl
    | simp (disch := assumption) only [getF_ite, ite_self, raise_page, getF_setPol]
    | refine (forAll_page (fun _ _ => ?_) _ _).trans ?_
    | split)

theorem bsyncReset_page (s : State) {fl : Fld} {mm : Nat} (hclk : fl.page ≠ .clk) :
    getF (bsyncReset s) fl mm = getF s fl mm := by
  unfold bsyncReset
  repeat' (first
    | with_reducible rfl
    | simp (disch := assumption) only [getF_upd, clkStep_page, switchAll_page])

theorem bdnCapture_page (s : State) {fl : Fld} {mm : Nat} (hevr : fl.page ≠ .evr) :
    getF (bdnCapture s) fl mm = getF s fl mm := by
  unfold bdnCapture
  repeat' (first
    | with_reducible rfl
    | simp (disch := assumption) only [setF_page])

theorem reachUp_page (s : State) (t : Stamp) {fl : Fld} {mm : Nat} :
    getF (reachUp s t) fl mm = getF s fl mm := by
  unfold reachUp
  repeat' (first
    | with_reducible rfl
    | simp only [getF_reach])

theorem driveLine_page (s : State) (k : Nat) (v : Bool) {fl : Fld} {mm : Nat} :
    getF (driveLine s k v) fl mm = getF s fl mm := by
  unfold driveLine
  repeat' (first
    | with_reducible rfl
    | simp only [getF_upd])

theorem lineEvent_page (s : State) (k : Nat) (t : Stamp) {fl : Fld} {mm : Nat} (hbgl : fl.page ≠ .bgl) :
    getF (lineEvent s k t) fl mm = getF s fl mm := by
  unfold lineEvent
  repeat' (first
    | with_reducible rfl
    | simp (disch := assumption) only [getF_ite, ite_self, getF_upd, addCt_page, raise_page, driveLine_page])

theorem linesEvent_page (s : State) (src : Nat) (ord : Bool) (t : Stamp) {fl : Fld} {mm : Nat} (hbgl : fl.page ≠ .bgl) :
    getF (linesEvent s src ord t) fl mm = getF s fl mm := by
  unfold linesEvent
  repeat' (first
    | with_reducible rfl
    | simp (disch := assumption) only [getF_ite, ite_self, lineEvent_page]
    | refine (forAll_page (fun _ _ => ?_) _ _).trans ?_)

theorem lineConfig_page (s : State) (k : Nat) {fl : Fld} {mm : Nat} :
    getF (lineConfig s k) fl mm = getF s fl mm := by
  unfold lineConfig
  repeat' (first
    | with_reducible rfl
    | simp only [getF_upd, driveLine_page])

theorem refreshRoute_page (s : State) (k : Nat) {fl : Fld} {mm : Nat} :
    getF (refreshRoute s k) fl mm = getF s fl mm := by
  unfold refreshRoute
  repeat' (first
    | with_reducible rfl
    | simp only [getF_ite, ite_self, causeOn_page, causeOff_page])

theorem latchEvent_page (s : State) (src : Nat) (pol : Bool) {fl : Fld} {mm : Nat} (hseq : fl.page ≠ .seq) (hmce : fl.page ≠
    .mce) :
    getF (latchEvent s src pol) fl mm = getF s fl mm := by
  unfold latchEvent
  repeat' (first
    | with_reducible rfl
    | simp (disch := assumption) only [getF_ite, ite_self, setLatch_page]
    | refine (forAll_page (fun _ _ => ?_) _ _).trans ?_)

theorem startEvent_page (s : State) (src : Nat) (pol : Bool) (t : Stamp) {fl : Fld} {mm : Nat} :
    getF (startEvent s src pol t) fl mm = getF s fl mm := by
  unfold startEvent
  repeat' (first
    | with_reducible rfl
    | simp only [getF_ite, ite_self, getF_setPol]
    | refine (forAll_page (fun _ _ => ?_) _ _).trans ?_
    | split)

theorem muteEvent_page (s : State) (src : Nat) (pol : Bool) (t : Stamp) {fl : Fld} {mm : Nat} :
    getF (muteEvent s src pol t) fl mm = getF s fl mm := by
  unfold muteEvent
  repeat' (first
    | with_reducible rfl
    | simp only [getF_ite, ite_self, muteStart_page]
    | refine (forAll_page (fun _ _ => ?_) _ _).trans ?_)

theorem deliverPrompt_page (s : State) (e : Ev) {fl : Fld} {mm : Nat} (hbgl : fl.page ≠ .bgl) (hseq : fl.page ≠ .seq) (hmce :
    fl.page ≠ .mce) :
    getF (deliverPrompt s e) fl mm = getF s fl mm := by
  unfold deliverPrompt
  repeat' (first
    | with_reducible rfl
    | simp (disch := assumption) only [getF_ite, ite_self, getF_upd, refreshLevee_page, linesEvent_page, refreshRoute_page,
        latchEvent_page, startEvent_page, muteEvent_page]
    | refine (forAll_page (fun _ _ => ?_) _ _).trans ?_
    | split)

theorem ringWrite_page (s : State) (w0 : Stamp) (w1 : Nat) {fl : Fld} {mm : Nat} (hevr : fl.page ≠ .evr) :
    getF (ringWrite s w0 w1) fl mm = getF s fl mm := by
  unfold ringWrite
  repeat' (first
    | with_reducible rfl
    | simp (disch := assumption) only [getF_ite, ite_self, getF_upd, setF_page, addCt_page, raise_page, getF_setWide])

theorem deliverOrdered_page (s : State) (e : Ev) (late : Bool) {fl : Fld} {mm : Nat} (hevr : fl.page ≠ .evr) (hbgl : fl.page
    ≠ .bgl) (hslu : fl.page ≠ .slu) (hpol : fl.page ≠ .pol) (hacq : fl.page ≠ .acq) :
    getF (deliverOrdered s e late) fl mm = getF s fl mm := by
  unfold deliverOrdered
  repeat' (first
    | with_reducible rfl
    | simp (disch := assumption) only [getF_ite, ite_self, getF_upd, routerTrigger_page, linesEvent_page, ringWrite_page]
    | refine (forAll_page (fun _ _ => ?_) _ _).trans ?_
    | split)

theorem promptEvent_page (s : State) (e : Ev) {fl : Fld} {mm : Nat} (hbgl : fl.page ≠ .bgl) (hseq : fl.page ≠ .seq) (hmce :
    fl.page ≠ .mce) :
    getF (promptEvent s e) fl mm = getF s fl mm := by
  unfold promptEvent
  repeat' (first
    | with_reducible rfl
    | simp (disch := assumption) only [getF_ite, ite_self, deliverPrompt_page])

theorem hold_page (s : State) (h : Held) {fl : Fld} {mm : Nat} :
    getF (hold s h) fl mm = getF s fl mm := by
  unfold hold
  repeat' (first
    | with_reducible rfl
    | simp only [getF_upd])

theorem orderedEvent_page (s : State) (e : Ev) (late : Bool) {fl : Fld} {mm : Nat} (hevr : fl.page ≠ .evr) (hbgl : fl.page ≠
    .bgl) (hslu : fl.page ≠ .slu) (hpol : fl.page ≠ .pol) (hacq : fl.page ≠ .acq) :
    getF (orderedEvent s e late) fl mm = getF s fl mm := by
  unfold orderedEvent
  repeat' (first
    | with_reducible rfl
    | simp (disch := assumption) only [getF_ite, ite_self, deliverOrdered_page, hold_page])

theorem monEvent_page (s : State) (e : Ev) (late : Bool) {fl : Fld} {mm : Nat} (hevr : fl.page ≠ .evr) (hbgl : fl.page ≠
    .bgl) (hslu : fl.page ≠ .slu) (hpol : fl.page ≠ .pol) (hacq : fl.page ≠ .acq) (hseq : fl.page ≠ .seq) (hmce : fl.page ≠
    .mce) :
    getF (monEvent s e late) fl mm = getF s fl mm := by
  unfold monEvent
  repeat' (first
    | with_reducible rfl
    | simp (disch := assumption) only [addCt_page, getF_setPol, deliverPrompt_page, deliverOrdered_page]
    | split)

theorem startHeld_page (s : State) (t : Stamp) {fl : Fld} {mm : Nat} :
    getF (startHeld s t) fl mm = getF s fl mm := by
  unfold startHeld
  repeat' (first
    | with_reducible rfl
    | simp only [muteEvent_page]
    | refine (foldl_page (fun _ _ => ?_) _ _).trans ?_)

theorem holdMon_page (s : State) (e : Ev) {fl : Fld} {mm : Nat} :
    getF (holdMon s e) fl mm = getF s fl mm := by
  unfold holdMon
  repeat' (first
    | with_reducible rfl
    | simp only [getF_upd, hold_page])

theorem muteEnd_page (s : State) (p k : Nat) (c : Stamp) {fl : Fld} {mm : Nat} :
    getF (muteEnd s p k c) fl mm = getF s fl mm := by
  unfold muteEnd
  repeat' (first
    | with_reducible rfl
    | simp only [getF_ite, ite_self, getF_setPol, hold_page]
    | refine (foldl_page (fun _ _ => ?_) _ _).trans ?_
    | split)

theorem hostEvent_page (s : State) (k act code : Nat) {fl : Fld} {mm : Nat} :
    getF (hostEvent s k act code) fl mm = getF s fl mm := by
  unfold hostEvent
  repeat' (first
    | with_reducible rfl
    | simp only [getF_ite, ite_self, getF_launch])

theorem echoState_page (s : State) {fl : Fld} {mm : Nat} (hbgl : fl.page ≠ .bgl) :
    getF (echoState s) fl mm = getF s fl mm := by
  unfold echoState
  repeat' (first
    | with_reducible rfl
    | simp (disch := assumption) only [setF_page, hubSource_page])

theorem startSlew_page (s : State) (e : Int) {fl : Fld} {mm : Nat} (hclk : fl.page ≠ .clk) :
    getF (startSlew s e) fl mm = getF s fl mm := by
  unfold startSlew
  repeat' (first
    | with_reducible rfl
    | simp (disch := assumption) only [getF_ite, ite_self, getF_upd, setF_page])

theorem stepCount_page (s : State) (x : Stamp) {fl : Fld} {mm : Nat} :
    getF (stepCount s x) fl mm = getF s fl mm := by
  unfold stepCount
  repeat' (first
    | with_reducible rfl
    | simp only [getF_upd, clkStep_page, shiftSpans_page])

theorem loadPreset_page (s : State) (d e : Int) {fl : Fld} {mm : Nat} (hclk : fl.page ≠ .clk) (hevr : fl.page ≠ .evr) (hpol :
    fl.page ≠ .pol) :
    getF (loadPreset s d e) fl mm = getF s fl mm := by
  unfold loadPreset
  repeat' (first
    | with_reducible rfl
    | simp (disch := assumption) only [getF_ite, ite_self, setF_page, addCt_page, raise_page, passStarts_page,
        startSlew_page, stepCount_page])

theorem bsyncDue_page (s : State) (d : Int) {fl : Fld} {mm : Nat} (hclk : fl.page ≠ .clk) (hbgl : fl.page ≠ .bgl) :
    getF (bsyncDue s d) fl mm = getF s fl mm := by
  unfold bsyncDue
  repeat' (first
    | with_reducible rfl
    | simp (disch := assumption) only [getF_ite, ite_self, setF_page, bsyncReset_page])

theorem frameMeasure_page (s : State) (pherr : Int) {fl : Fld} {mm : Nat} (hclk : fl.page ≠ .clk) :
    getF (frameMeasure s pherr) fl mm = getF s fl mm := by
  unfold frameMeasure
  repeat' (first
    | with_reducible rfl
    | simp (disch := assumption) only [getF_ite, ite_self, getF_upd, judgePhase_page])

theorem xcalSample_page (s : State) (r : Int) {fl : Fld} {mm : Nat} :
    getF (xcalSample s r) fl mm = getF s fl mm := by
  unfold xcalSample
  repeat' (first
    | with_reducible rfl
    | simp only [getF_ite, ite_self, getF_upd])

theorem useFrame_page (s : State) (v : Nat) (tm : Stamp) (resid : BitVec 4) (pherr : Bool) {fl : Fld} {mm : Nat} (hclk :
    fl.page ≠ .clk) (hevr : fl.page ≠ .evr) (hbgl : fl.page ≠ .bgl) (hpol : fl.page ≠ .pol) :
    getF (useFrame s v tm resid pherr) fl mm = getF s fl mm := by
  unfold useFrame
  split
  · rfl
  · extract_lets ta s1 d left s2 s3
    clear_value ta d left
    have h1 : getF s1 fl mm = getF s fl mm :=
      (getF_launch (reachUp s ta) _ fl mm).trans (reachUp_page s ta)
    have h2 : getF s2 fl mm = getF s fl mm := by simp (disch := assumption) only [s2, frameMeasure_page, xcalSample_page, h1]
    have h3 : getF s3 fl mm = getF s fl mm := by simp (disch := assumption) only [s3, bsyncDue_page, h2]
    simp (disch := assumption) only [loadPreset_page, h3]

theorem markerEdge_page (s : State) (tm : Stamp) {fl : Fld} {mm : Nat} :
    getF (markerEdge s tm) fl mm = getF s fl mm := by
  unfold markerEdge
  repeat' (first
    | with_reducible rfl
    | simp only [getF_ite, ite_self, getF_upd])

theorem goodEcho_page (s : State) (r : Int) {fl : Fld} {mm : Nat} (hbgl : fl.page ≠ .bgl) :
    getF (goodEcho s r) fl mm = getF s fl mm := by
  unfold goodEcho
  repeat' (first
    | with_reducible rfl
    | simp (disch := assumption) only [getF_ite, ite_self, getF_upd, setF_page])

theorem badEcho_page (s : State) {fl : Fld} {mm : Nat} (hclk : fl.page ≠ .clk) (hbgl : fl.page ≠ .bgl) :
    getF (badEcho s) fl mm = getF s fl mm := by
  unfold badEcho
  repeat' (first
    | with_reducible rfl
    | simp (disch := assumption) only [getF_ite, ite_self, getF_upd, setF_page, addCt_page, raise_page, phaseDue_page])

theorem xcalGo_page (s : State) {fl : Fld} {mm : Nat} (hbgl : fl.page ≠ .bgl) :
    getF (xcalGo s) fl mm = getF s fl mm := by
  unfold xcalGo
  repeat' (first
    | with_reducible rfl
    | simp (disch := assumption) only [getF_ite, ite_self, getF_upd, setF_page, xcalFail_page])

theorem ignored_page (s : State) (p : Nat) {fl : Fld} {mm : Nat} (hpol : fl.page ≠ .pol) :
    getF (ignored s p) fl mm = getF s fl mm := by
  unfold ignored
  repeat' (first
    | with_reducible rfl
    | simp (disch := assumption) only [raise_page])

theorem takeOct_page (s : State) (p o : Nat) {fl : Fld} {mm : Nat} (hevr : fl.page ≠ .evr) (hslu : fl.page ≠ .slu) (hdsc :
    fl.page ≠ .dsc) (hpol : fl.page ≠ .pol) (hoct : fl.page ≠ .oct) (hcdi : fl.page ≠ .cdi) :
    getF (takeOct s p o) fl mm = getF s fl mm := by
  unfold takeOct
  repeat' (first
    | with_reducible rfl
    | simp (disch := assumption) only [getF_ite, ite_self, setF_page, clearSpace_page, octSafe_page, octIdle_page])

theorem dropOct_page (s : State) (o : Nat) {fl : Fld} {mm : Nat} (hevr : fl.page ≠ .evr) (hslu : fl.page ≠ .slu) (hdsc :
    fl.page ≠ .dsc) (hpol : fl.page ≠ .pol) (hoct : fl.page ≠ .oct) (hcdi : fl.page ≠ .cdi) :
    getF (dropOct s o) fl mm = getF s fl mm := by
  unfold dropOct
  repeat' (first
    | with_reducible rfl
    | simp (disch := assumption) only [setF_page, emptyQueue_page, clearSpace_page, disconnectOct_page, octOff_page,
        octSafe_page]
    | split)

theorem takeDsmap_page (s : State) (p v : Nat) {fl : Fld} {mm : Nat} (hevr : fl.page ≠ .evr) (hdsc : fl.page ≠ .dsc) (hpol :
    fl.page ≠ .pol) :
    getF (takeDsmap s p v) fl mm = getF s fl mm := by
  unfold takeDsmap
  repeat' (first
    | with_reducible rfl
    | simp (disch := assumption) only [getF_ite, ite_self, setF_page, raise_page, refreshLevee_page, takeDs_page,
        dropDs_page]
    | refine (forAll_page (fun _ _ => ?_) _ _).trans ?_
    | refine (foldl_page (fun _ _ => ?_) _ _).trans ?_
    | split)

theorem form_page (s : State) (p : Nat) {fl : Fld} {mm : Nat} (hevr : fl.page ≠ .evr) (hslu : fl.page ≠ .slu) (hdsc : fl.page
    ≠ .dsc) (hpol : fl.page ≠ .pol) (hacq : fl.page ≠ .acq) :
    getF (form s p) fl mm = getF s fl mm := by
  unfold form
  repeat' (first
    | with_reducible rfl
    | simp (disch := assumption) only [setF_page, emptyQueue_page, suspendQueue_page, faultRamp_page, dikeBench_page,
        dikeRecords_page, dikeState_page, takeDsmap_page]
    | refine (forAll_page (fun _ _ => ?_) _ _).trans ?_)

theorem dissolve_page (s : State) (p : Nat) {fl : Fld} {mm : Nat} (hevr : fl.page ≠ .evr) (hdsc : fl.page ≠ .dsc) (hpol :
    fl.page ≠ .pol) :
    getF (dissolve s p) fl mm = getF s fl mm := by
  unfold dissolve
  repeat' (first
    | with_reducible rfl
    | simp (disch := assumption) only [setF_page, getF_setPol, setRs_page, emptyQueue_page, dropDs_page, endBurst_page,
        showPmu_page]
    | refine (forAll_page (fun _ _ => ?_) _ _).trans ?_)

theorem octmapSet_page (s : State) (p : Nat) (hi : Bool) (v : Nat) {fl : Fld} {mm : Nat} (hevr : fl.page ≠ .evr) (hslu :
    fl.page ≠ .slu) (hdsc : fl.page ≠ .dsc) (hpol : fl.page ≠ .pol) (hacq : fl.page ≠ .acq) (hoct : fl.page ≠ .oct) (hcdi :
    fl.page ≠ .cdi) :
    getF (octmapSet s p hi v) fl mm = getF s fl mm := by
  unfold octmapSet
  repeat' (first
    | with_reducible rfl
    | simp (disch := assumption) only [getF_ite, ite_self, setF_page, raise_page, refreshLevee_page, showPmu_page,
        takeOct_page, dropOct_page, form_page, dissolve_page]
    | refine (forAll_page (fun _ _ => ?_) _ _).trans ?_
    | refine (foldl_page (fun _ _ => ?_) _ _).trans ?_
    | split)

theorem dsmapSet_page (s : State) (p v : Nat) {fl : Fld} {mm : Nat} (hevr : fl.page ≠ .evr) (hdsc : fl.page ≠ .dsc) (hpol :
    fl.page ≠ .pol) :
    getF (dsmapSet s p v) fl mm = getF s fl mm := by
  unfold dsmapSet
  repeat' (first
    | with_reducible rfl
    | simp (disch := assumption) only [getF_ite, ite_self, setF_page, takeDsmap_page])

theorem judgeRun_page (s : State) (p : Nat) {fl : Fld} {mm : Nat} (hhkp : fl.page ≠ .hkp) (hslu : fl.page ≠ .slu) (hmem :
    fl.page ≠ .mem) (hpol : fl.page ≠ .pol) (hacq : fl.page ≠ .acq) (hoct : fl.page ≠ .oct) (hseq : fl.page ≠ .seq) (hmce :
    fl.page ≠ .mce) :
    getF (judgeRun s p) fl mm = getF s fl mm := by
  unfold judgeRun
  repeat' (first
    | with_reducible rfl
    | simp (disch := assumption) only [getF_ite, ite_self, setF_page, raise_page, arm_page, ignored_page])

theorem cmdRun_page (s : State) (p : Nat) (scope : Bool) {fl : Fld} {mm : Nat} (hhkp : fl.page ≠ .hkp) (hslu : fl.page ≠
    .slu) (hmem : fl.page ≠ .mem) (hpol : fl.page ≠ .pol) (hacq : fl.page ≠ .acq) (hoct : fl.page ≠ .oct) (hseq : fl.page ≠
    .seq) (hmce : fl.page ≠ .mce) :
    getF (cmdRun s p scope) fl mm = getF s fl mm := by
  unfold cmdRun
  repeat' (first
    | with_reducible rfl
    | simp (disch := assumption) only [getF_ite, setF_page, ignored_page, judgeRun_page]
    | refine (forAll_page (fun _ _ => ?_) _ _).trans ?_
    | split)

theorem showStop_page (s : State) (p : Nat) (abort : Bool) {fl : Fld} {mm : Nat} (hpol : fl.page ≠ .pol) :
    getF (showStop s p abort) fl mm = getF s fl mm := by
  unfold showStop
  repeat' (first
    | with_reducible rfl
    | simp (disch := assumption) only [getF_ite, setF_page]
    | split)

theorem cmdStop_page (s : State) (p : Nat) (scope abort : Bool) {fl : Fld} {mm : Nat} (hevr : fl.page ≠ .evr) (hslu : fl.page
    ≠ .slu) (hmem : fl.page ≠ .mem) (hdsc : fl.page ≠ .dsc) (hpol : fl.page ≠ .pol) (hacq : fl.page ≠ .acq) (hoct : fl.page ≠
    .oct) (hseq : fl.page ≠ .seq) (hmce : fl.page ≠ .mce) (hcdi : fl.page ≠ .cdi) :
    getF (cmdStop s p scope abort) fl mm = getF s fl mm := by
  unfold cmdStop
  repeat' (first
    | with_reducible rfl
    | simp (disch := assumption) only [getF_ite, ite_self, cancelRestart_page, bench_page, stopAll_page, ignored_page,
        showStop_page]
    | refine (forAll_page (fun _ _ => ?_) _ _).trans ?_
    | split)

theorem cmdPause_page (s : State) (p : Nat) (scope : Bool) {fl : Fld} {mm : Nat} (hpol : fl.page ≠ .pol) :
    getF (cmdPause s p scope) fl mm = getF s fl mm := by
  unfold cmdPause
  repeat' (first
    | with_reducible rfl
    | simp (disch := assumption) only [getF_ite, ite_self, setF_page, getF_setBnd, ignored_page]
    | split)

theorem cmdResume_page (s : State) (p : Nat) (scope : Bool) {fl : Fld} {mm : Nat} (hhkp : fl.page ≠ .hkp) (hslu : fl.page ≠
    .slu) (hmem : fl.page ≠ .mem) (hpol : fl.page ≠ .pol) (hoct : fl.page ≠ .oct) (hseq : fl.page ≠ .seq) (hmce : fl.page ≠
    .mce) :
    getF (cmdResume s p scope) fl mm = getF s fl mm := by
  unfold cmdResume
  repeat' (first
    | with_reducible rfl
    | simp (disch := assumption) only [getF_ite, setF_page, resumeRun_page, ignored_page]
    | refine (forAll_page (fun _ _ => ?_) _ _).trans ?_
    | split)

theorem cmdDike_page (s : State) (p : Nat) (scope : Bool) {fl : Fld} {mm : Nat} (hevr : fl.page ≠ .evr) (hslu : fl.page ≠
    .slu) (hmem : fl.page ≠ .mem) (hdsc : fl.page ≠ .dsc) (hpol : fl.page ≠ .pol) (hacq : fl.page ≠ .acq) (hoct : fl.page ≠
    .oct) (hseq : fl.page ≠ .seq) (hmce : fl.page ≠ .mce) (hcdi : fl.page ≠ .cdi) :
    getF (cmdDike s p scope) fl mm = getF s fl mm := by
  unfold cmdDike
  repeat' (first
    | with_reducible rfl
    | simp (disch := assumption) only [getF_ite, dikeEntry_page, ignored_page]
    | refine (forAll_page (fun _ _ => ?_) _ _).trans ?_
    | split)

theorem cmdRelease_page (s : State) (p : Nat) (scope : Bool) {fl : Fld} {mm : Nat} (hpol : fl.page ≠ .pol) :
    getF (cmdRelease s p scope) fl mm = getF s fl mm := by
  unfold cmdRelease
  repeat' (first
    | with_reducible rfl
    | simp (disch := assumption) only [getF_ite, ite_self, setF_page, getF_setPol, ignored_page]
    | refine (forAll_page (fun _ _ => ?_) _ _).trans ?_
    | split)

theorem runctl_page (s : State) (p v : Nat) (scope : Bool) {fl : Fld} {mm : Nat} (hhkp : fl.page ≠ .hkp) (hevr : fl.page ≠
    .evr) (hslu : fl.page ≠ .slu) (hmem : fl.page ≠ .mem) (hdsc : fl.page ≠ .dsc) (hpol : fl.page ≠ .pol) (hacq : fl.page ≠
    .acq) (hoct : fl.page ≠ .oct) (hseq : fl.page ≠ .seq) (hmce : fl.page ≠ .mce) (hcdi : fl.page ≠ .cdi) :
    getF (runctl s p v scope) fl mm = getF s fl mm := by
  unfold runctl
  repeat' (first
    | with_reducible rfl
    | simp (disch := assumption) only [getF_ite, ite_self, ignored_page, cmdRun_page, cmdStop_page, cmdPause_page,
        cmdResume_page, cmdDike_page, cmdRelease_page])

theorem releaseNow_page (s : State) (p : Nat) {fl : Fld} {mm : Nat} (hevr : fl.page ≠ .evr) (hslu : fl.page ≠ .slu) (hdsc :
    fl.page ≠ .dsc) (hpol : fl.page ≠ .pol) (hoct : fl.page ≠ .oct) (hcdi : fl.page ≠ .cdi) :
    getF (releaseNow s p) fl mm = getF s fl mm := by
  unfold releaseNow
  repeat' (first
    | with_reducible rfl
    | simp (disch := assumption) only [getF_ite, setF_page, raise_page, getF_setPol, setRs_page, releaseQueues_page,
        octIdle_page, ignored_page]
    | refine (forAll_page (fun _ _ => ?_) _ _).trans ?_
    | split)

theorem lastItems_page (s : State) (p : Nat) {fl : Fld} {mm : Nat} (hevr : fl.page ≠ .evr) (hslu : fl.page ≠ .slu) (hpol :
    fl.page ≠ .pol) (hoct : fl.page ≠ .oct) (hseq : fl.page ≠ .seq) (hmce : fl.page ≠ .mce) :
    getF (lastItems s p) fl mm = getF s fl mm := by
  unfold lastItems
  repeat' (first
    | with_reducible rfl
    | simp (disch := assumption) only [flushScopes_page, drainChans_page, flushAllFails_page, winClose_page]
    | refine (forAll_page (fun _ _ => ?_) _ _).trans ?_)

theorem finish_page (s : State) (p : Nat) {fl : Fld} {mm : Nat} (hevr : fl.page ≠ .evr) (hslu : fl.page ≠ .slu) (hdsc :
    fl.page ≠ .dsc) (hpol : fl.page ≠ .pol) (hacq : fl.page ≠ .acq) (hoct : fl.page ≠ .oct) (hseq : fl.page ≠ .seq) (hmce :
    fl.page ≠ .mce) (hcdi : fl.page ≠ .cdi) :
    getF (finish s p) fl mm = getF s fl mm := by
  unfold finish
  repeat' (first
    | with_reducible rfl
    | simp (disch := assumption) only [setRs_page, endRec_page, endRun_page, octIdle_page, endCmds_page, lastItems_page]
    | refine (forAll_page (fun _ _ => ?_) _ _).trans ?_)

theorem endBenched_page (s : State) (p : Nat) {fl : Fld} {mm : Nat} (hevr : fl.page ≠ .evr) (hslu : fl.page ≠ .slu) (hmem :
    fl.page ≠ .mem) (hdsc : fl.page ≠ .dsc) (hpol : fl.page ≠ .pol) (hacq : fl.page ≠ .acq) (hoct : fl.page ≠ .oct) (hseq :
    fl.page ≠ .seq) (hmce : fl.page ≠ .mce) (hcdi : fl.page ≠ .cdi) :
    getF (endBenched s p) fl mm = getF s fl mm := by
  unfold endBenched
  repeat' (first
    | with_reducible rfl
    | simp (disch := assumption) only [getF_ite, ite_self, clearBenched_page, dikeEntry_page, lastItems_page, finish_page])

theorem endStopping_page (s : State) (p : Nat) (g : List Nat) {fl : Fld} {mm : Nat} (hhkp : fl.page ≠ .hkp) (hevr : fl.page ≠
    .evr) (hslu : fl.page ≠ .slu) (hmem : fl.page ≠ .mem) (hdsc : fl.page ≠ .dsc) (hpol : fl.page ≠ .pol) (hacq : fl.page ≠
    .acq) (hoct : fl.page ≠ .oct) (hseq : fl.page ≠ .seq) (hmce : fl.page ≠ .mce) (hcdi : fl.page ≠ .cdi) :
    getF (endStopping s p g) fl mm = getF s fl mm := by
  unfold endStopping
  repeat' (first
    | with_reducible rfl
    | simp (disch := assumption) only [getF_ite, ite_self, setF_page, raise_page, releaseBnd_page, arm_page,
        clearBenched_page, dikeEntry_page, lastItems_page, finish_page]
    | refine (forAll_page (fun _ _ => ?_) _ _).trans ?_
    | split)

theorem stopOrBench_page (s : State) (p : Nat) (one : Bool) {fl : Fld} {mm : Nat} (hevr : fl.page ≠ .evr) (hslu : fl.page ≠
    .slu) (hmem : fl.page ≠ .mem) (hdsc : fl.page ≠ .dsc) (hpol : fl.page ≠ .pol) (hacq : fl.page ≠ .acq) (hoct : fl.page ≠
    .oct) (hseq : fl.page ≠ .seq) (hmce : fl.page ≠ .mce) (hcdi : fl.page ≠ .cdi) :
    getF (stopOrBench s p one) fl mm = getF s fl mm := by
  unfold stopOrBench
  repeat' (first
    | with_reducible rfl
    | simp (disch := assumption) only [getF_ite, ite_self, cancelRestart_page, bench_page, stopAll_page]
    | refine (forAll_page (fun _ _ => ?_) _ _).trans ?_
    | split)

theorem spwEval_page (z s : State) (k : Nat) {fl : Fld} {mm : Nat} (hslu : fl.page ≠ .slu) : getF (spwEval z s k) fl mm =
    getF s fl mm := by
  unfold spwEval
  extract_lets r x s0 s1
  split
  · exact getF_setStrm ..
  · have h1 : getF s1 fl mm = getF s fl mm := by
      simp only [s1]; split
      · simp (disch := assumption) only [flushScopes_page, s0, getF_setStrm]
      · exact getF_setStrm ..
    simp (disch := assumption) only [addCt_page, raise_page, setDflog_page, h1]

theorem acqctlSet_page (s : State) (p : Nat) (en : Bool) (mode : Nat) (strig rtrig : Bool) {fl : Fld} {mm : Nat} (hslu :
    fl.page ≠ .slu) (hacq : fl.page ≠ .acq) :
    getF (acqctlSet s p en mode strig rtrig) fl mm = getF s fl mm := by
  unfold acqctlSet
  repeat' (first
    | with_reducible rfl
    | simp (disch := assumption) only [getF_ite, ite_self, setF_page, restartStreams_page, setAstate_page, flushScopes_page])

theorem becameFull_page (old s : State) {fl : Fld} {mm : Nat} (hslu : fl.page ≠ .slu) : getF (becameFull old s) fl mm = getF
    s fl mm := by
  unfold becameFull
  simp (disch := assumption) only [raiseIf_page]

theorem spillrdSet_page (s : State) (hi : Bool) (v : Nat) {fl : Fld} {mm : Nat} (hslu : fl.page ≠ .slu) :
    getF (spillrdSet s hi v) fl mm = getF s fl mm := by
  unfold spillrdSet
  repeat' (first
    | with_reducible rfl
    | simp (disch := assumption) only [getF_ite, ite_self, setF_page, raise_page, becameFull_page])

end Sys2Proof.Machine
end

