-- ==== Sys2Proof/Laws/FramePage.lean ====
section
/-! SUPPORT. The page frame, part 3: the link, engines, security, thermal, power, sequencers, the fabric, indirect access and the DAC queues. Each operation has one lemma: it leaves every register field of the pages
that its hypotheses do not name. -/

namespace Sys2Proof.Machine

theorem setL_page (s : State) (p v : Nat) {fl : Fld} {mm : Nat} (hphl : fl.page ≠ .phl) :
    getF (setL s p v) fl mm = getF s fl mm := by
  unfold setL
  repeat' (first
    | with_reducible rfl
    | simp (disch := assumption) only [setF_page])

theorem setLocks_page (s : State) (p m : Nat) {fl : Fld} {mm : Nat} (hphl : fl.page ≠ .phl) :
    getF (setLocks s p m) fl mm = getF s fl mm := by
  unfold setLocks
  repeat' (first
    | with_reducible rfl
    | simp (disch := assumption) only [setF_page]
    | refine (forAll_page (fun _ _ => ?_) _ _).trans ?_)

theorem setSess_page (s : State) (p v : Nat) {fl : Fld} {mm : Nat} (hphl : fl.page ≠ .phl) :
    getF (setSess s p v) fl mm = getF s fl mm := by
  unfold setSess
  repeat' (first
    | with_reducible rfl
    | simp (disch := assumption) only [setF_page]
    | refine (forAll_page (fun _ _ => ?_) _ _).trans ?_)

theorem setEpoch_page (s : State) (p v : Nat) {fl : Fld} {mm : Nat} (hphl : fl.page ≠ .phl) :
    getF (setEpoch s p v) fl mm = getF s fl mm := by
  unfold setEpoch
  repeat' (first
    | with_reducible rfl
    | simp (disch := assumption) only [setF_page]
    | refine (forAll_page (fun _ _ => ?_) _ _).trans ?_)

theorem lowerSess_page (s : State) (p v : Nat) {fl : Fld} {mm : Nat} (hphl : fl.page ≠ .phl) :
    getF (lowerSess s p v) fl mm = getF s fl mm := by
  unfold lowerSess
  repeat' (first
    | with_reducible rfl
    | simp (disch := assumption) only [setSess_page])

theorem nextEpoch_page (s : State) (p : Nat) {fl : Fld} {mm : Nat} (hphl : fl.page ≠ .phl) :
    getF (nextEpoch s p) fl mm = getF s fl mm := by
  unfold nextEpoch
  repeat' (first
    | with_reducible rfl
    | simp (disch := assumption) only [getF_setPort, setEpoch_page])

theorem showRoles_page (s : State) {fl : Fld} {mm : Nat} (hphl : fl.page ≠ .phl) :
    getF (showRoles s) fl mm = getF s fl mm := by
  unfold showRoles
  repeat' (first
    | with_reducible rfl
    | simp (disch := assumption) only [setF_page])

theorem enterDetect_page (s : State) (p : Nat) {fl : Fld} {mm : Nat} (hphl : fl.page ≠ .phl) :
    getF (enterDetect s p) fl mm = getF s fl mm := by
  unfold enterDetect
  repeat' (first
    | with_reducible rfl
    | simp (disch := assumption) only [getF_ite, setF_page, getF_setPort, setL_page, setLocks_page]
    | refine (forAll_page (fun _ _ => ?_) _ _).trans ?_
    | split)

theorem startRetrain_page (s : State) (p : Nat) {fl : Fld} {mm : Nat} (hphl : fl.page ≠ .phl) :
    getF (startRetrain s p) fl mm = getF s fl mm := by
  unfold startRetrain
  repeat' (first
    | with_reducible rfl
    | simp (disch := assumption) only [getF_ite, ite_self, getF_setPort, setL_page, setLocks_page])

theorem endTrial_page (s : State) (p : Nat) {fl : Fld} {mm : Nat} (hphl : fl.page ≠ .phl) :
    getF (endTrial s p) fl mm = getF s fl mm := by
  unfold endTrial
  repeat' (first
    | with_reducible rfl
    | simp (disch := assumption) only [setF_page, getF_setPort, setL_page, setLocks_page])

theorem lockEnd_page (s : State) (p : Nat) {fl : Fld} {mm : Nat} (hphl : fl.page ≠ .phl) :
    getF (lockEnd s p) fl mm = getF s fl mm := by
  unfold lockEnd
  repeat' (first
    | with_reducible rfl
    | simp (disch := assumption) only [getF_ite, ite_self, getF_setPort, setL_page, setLocks_page, enterDetect_page,
        endTrial_page])

theorem tell_page (s : State) (p : Nat) (l : List Lctl) {fl : Fld} {mm : Nat} :
    getF (tell s p l) fl mm = getF s fl mm := by
  unfold tell
  repeat' (first
    | with_reducible rfl
    | simp only [getF_setPort])

theorem giveCredit_page (s : State) (p : Nat) (l : List (CreditClass × Nat)) {fl : Fld} {mm : Nat} :
    getF (giveCredit s p l) fl mm = getF s fl mm := by
  unfold giveCredit
  repeat' (first
    | with_reducible rfl
    | simp only [getF_setPort])

theorem firstGrants_page (s : State) (p : Nat) {fl : Fld} {mm : Nat} :
    getF (firstGrants s p) fl mm = getF s fl mm := by
  unfold firstGrants
  repeat' (first
    | with_reducible rfl
    | simp only [getF_ite, ite_self, getF_upd, getF_setPort, giveCredit_page])

theorem negotiated_page (s : State) (p : Nat) (ts : TsFields) {fl : Fld} {mm : Nat} (hphl : fl.page ≠ .phl) :
    getF (negotiated s p ts) fl mm = getF s fl mm := by
  unfold negotiated
  repeat' (first
    | with_reducible rfl
    | simp (disch := assumption) only [getF_ite, setF_page, getF_setPort, setL_page, showRoles_page, firstGrants_page]
    | refine (forAll_page (fun _ _ => ?_) _ _).trans ?_
    | split)

theorem sendPkt_page (s : State) (p : Nat) (k : TxPkt) {fl : Fld} {mm : Nat} :
    getF (sendPkt s p k) fl mm = getF s fl mm := by
  unfold sendPkt
  repeat' (first
    | with_reducible rfl
    | simp only [getF_setPort])

theorem useCredit_page (s : State) (p : Nat) (l : List (CreditClass × Nat)) {fl : Fld} {mm : Nat} (hphl : fl.page ≠ .phl) :
    getF (useCredit s p l) fl mm = getF s fl mm := by
  unfold useCredit
  repeat' (first
    | with_reducible rfl
    | simp (disch := assumption) only [setF_page, getF_setPort]
    | refine (foldl_page (fun _ _ => ?_) _ _).trans ?_
    | split)

theorem passOn_page (p : Nat) (s : State) (k : TxPkt) {fl : Fld} {mm : Nat} (hphl : fl.page ≠ .phl) :
    getF (passOn p s k) fl mm = getF s fl mm := by
  unfold passOn
  repeat' (first
    | with_reducible rfl
    | simp (disch := assumption) only [getF_ite, ite_self, getF_setPort, giveCredit_page, sendPkt_page, useCredit_page])

theorem drainWait_page (s : State) (p : Nat) {fl : Fld} {mm : Nat} (hphl : fl.page ≠ .phl) :
    getF (drainWait s p) fl mm = getF s fl mm := by
  unfold drainWait
  repeat' (first
    | with_reducible rfl
    | simp (disch := assumption) only [getF_ite, getF_setPort, tell_page, passOn_page]
    | refine (foldl_page (fun _ _ => ?_) _ _).trans ?_
    | split)

theorem requeue_page (s : State) (k idx : Nat) {fl : Fld} {mm : Nat} :
    getF (requeue s k idx) fl mm = getF s fl mm := by
  unfold requeue
  repeat' (first
    | with_reducible rfl
    | simp only [getF_setStrm])

theorem discardPkt_page (p : Nat) (s : State) (k : TxPkt) {fl : Fld} {mm : Nat} (hphl : fl.page ≠ .phl) :
    getF (discardPkt p s k) fl mm = getF s fl mm := by
  unfold discardPkt
  repeat' (first
    | with_reducible rfl
    | simp (disch := assumption) only [getF_ite, ite_self, raise_page, sendPkt_page, requeue_page]
    | split)

theorem discardWait_page (p : Nat) (s : State) (k : TxPkt) {fl : Fld} {mm : Nat} (hphl : fl.page ≠ .phl) :
    getF (discardWait p s k) fl mm = getF s fl mm := by
  unfold discardWait
  repeat' (first
    | with_reducible rfl
    | simp (disch := assumption) only [getF_ite, ite_self, giveCredit_page, discardPkt_page])

theorem goDown_page (s : State) (p : Nat) {fl : Fld} {mm : Nat} (hphl : fl.page ≠ .phl) : getF (goDown s p) fl mm = getF s fl
    mm := by
  unfold goDown
  extract_lets x up s1 s2 s3 s4 s5
  have h1 : getF s1 fl mm = getF s fl mm := by simp (disch := assumption) only [s1, setL_page, getF_setPort]
  have h2 : getF s2 fl mm = getF s fl mm := by
    refine (foldl_page (fun _ _ => ?_) _ _).trans ((foldl_page (fun _ _ => ?_) _ _).trans h1)
    · simp (disch := assumption) only [discardWait_page]
    · simp (disch := assumption) only [discardPkt_page]
  have h3 : getF s3 fl mm = getF s fl mm := by
    refine (setAll_page _ p (by decide) hphl _).trans ?_
    simp (disch := assumption) only [setLocks_page, h2]
  have h4 : getF s4 fl mm = getF s fl mm := by
    simp only [s4]; split
    · refine (forAll_page (fun _ _ => ?_) _ _).trans h3
      simp (disch := assumption) only [setF_page]
    · exact h3
  have h5 : getF s5 fl mm = getF s fl mm := by simp (disch := assumption) only [s5, raise_page, h4]
  split
  · exact h4
  · split
    · simp (disch := assumption) only [getF_setPort, setF_page, h5]
    · exact h5

theorem narrow_page (s : State) (p m : Nat) {fl : Fld} {mm : Nat} (hphl : fl.page ≠ .phl) :
    getF (narrow s p m) fl mm = getF s fl mm := by
  unfold narrow
  repeat' (first
    | with_reducible rfl
    | simp (disch := assumption) only [setF_page])

theorem replay_page (s : State) (p : Nat) {fl : Fld} {mm : Nat} (hphl : fl.page ≠ .phl) :
    getF (replay s p) fl mm = getF s fl mm := by
  unfold replay
  repeat' (first
    | with_reducible rfl
    | simp (disch := assumption) only [getF_ite, ite_self, addCt_page, raise_page, getF_setPort, startRetrain_page])

theorem narrowed_page (s : State) (p m : Nat) {fl : Fld} {mm : Nat} (hphl : fl.page ≠ .phl) :
    getF (narrowed s p m) fl mm = getF s fl mm := by
  unfold narrowed
  repeat' (first
    | with_reducible rfl
    | simp (disch := assumption) only [addCt_page, raise_page, getF_setPort, narrow_page])

theorem degrade_page (s : State) (p m : Nat) {fl : Fld} {mm : Nat} (hphl : fl.page ≠ .phl) :
    getF (degrade s p m) fl mm = getF s fl mm := by
  unfold degrade
  repeat' (first
    | with_reducible rfl
    | simp (disch := assumption) only [replay_page, narrowed_page])

theorem retrainGo_page (s : State) (p : Nat) {fl : Fld} {mm : Nat} (hphl : fl.page ≠ .phl) :
    getF (retrainGo s p) fl mm = getF s fl mm := by
  unfold retrainGo
  repeat' (first
    | with_reducible rfl
    | simp (disch := assumption) only [getF_ite, ite_self, setF_page, startRetrain_page])

theorem ackedPkt_page (s : State) (k : TxPkt) {fl : Fld} {mm : Nat} (hevr : fl.page ≠ .evr) (hslu : fl.page ≠ .slu) :
    getF (ackedPkt s k) fl mm = getF s fl mm := by
  unfold ackedPkt
  repeat' (first
    | with_reducible rfl
    | simp (disch := assumption) only [getF_ite, ite_self, setF_page, freeGran_page]
    | split)

theorem retrained_page (s : State) (p : Nat) (r : BitVec 12) {fl : Fld} {mm : Nat} (hevr : fl.page ≠ .evr) (hphl : fl.page ≠
    .phl) (hslu : fl.page ≠ .slu) :
    getF (retrained s p r) fl mm = getF s fl mm := by
  unfold retrained
  repeat' (first
    | with_reducible rfl
    | simp (disch := assumption) only [getF_ite, ite_self, setF_page, addCt_page, raise_page, getF_setPort, setL_page,
        lowerSess_page, nextEpoch_page, replay_page, narrowed_page, ackedPkt_page]
    | refine (foldl_page (fun _ _ => ?_) _ _).trans ?_)

theorem csChanged_page (s : State) (m : Nat) {fl : Fld} {mm : Nat} (hmce : fl.page ≠ .mce) :
    getF (csChanged s m) fl mm = getF s fl mm := by
  unfold csChanged
  repeat' (first
    | with_reducible rfl
    | simp (disch := assumption) only [getF_ite, ite_self, setF_page, raise_page])

theorem commitMword_page (s : State) (m a : Nat) (v : BitVec 192) {fl : Fld} {mm : Nat} (hmce : fl.page ≠ .mce) :
    getF (commitMword s m a v) fl mm = getF s fl mm := by
  unfold commitMword
  repeat' (first
    | with_reducible rfl
    | simp (disch := assumption) only [getF_ite, ite_self, setF_page, raise_page, getF_setWide, csChanged_page])

theorem consume_page (s : State) (m code : Nat) {fl : Fld} {mm : Nat} (hseq : fl.page ≠ .seq) (hmce : fl.page ≠ .mce) :
    getF (consume s m code) fl mm = getF s fl mm := by
  unfold consume
  repeat' (first
    | with_reducible rfl
    | simp (disch := assumption) only [getF_ite, ite_self, clearLatch_page])

theorem setLoops_page (s : State) (m : Nat) (l : List LoopLv) {fl : Fld} {mm : Nat} (hmce : fl.page ≠ .mce) :
    getF (setLoops s m l) fl mm = getF s fl mm := by
  unfold setLoops
  repeat' (first
    | with_reducible rfl
    | simp (disch := assumption) only [setF_page, getF_setBnd])

theorem setCalls_page (s : State) (m : Nat) (l : List (BitVec 14 × BitVec 40)) {fl : Fld} {mm : Nat} (hmce : fl.page ≠ .mce)
    :
    getF (setCalls s m l) fl mm = getF s fl mm := by
  unfold setCalls
  repeat' (first
    | with_reducible rfl
    | simp (disch := assumption) only [setF_page, getF_setBnd])

theorem setCnt_page (s : State) (m k v : Nat) {fl : Fld} {mm : Nat} (hmce : fl.page ≠ .mce) :
    getF (setCnt s m k v) fl mm = getF s fl mm := by
  unfold setCnt
  repeat' (first
    | with_reducible rfl
    | simp (disch := assumption) only [setF_page])

theorem setUpc_page (s : State) (m a : Nat) {fl : Fld} {mm : Nat} (hmce : fl.page ≠ .mce) :
    getF (setUpc s m a) fl mm = getF s fl mm := by
  unfold setUpc
  repeat' (first
    | with_reducible rfl
    | simp (disch := assumption) only [setF_page])

theorem engFault_page (s : State) (m c : Nat) {fl : Fld} {mm : Nat} (hslu : fl.page ≠ .slu) (hmem : fl.page ≠ .mem) (hdsc :
    fl.page ≠ .dsc) (hpol : fl.page ≠ .pol) (hacq : fl.page ≠ .acq) (hoct : fl.page ≠ .oct) (hseq : fl.page ≠ .seq) (hmce :
    fl.page ≠ .mce) (hcdi : fl.page ≠ .cdi) :
    getF (engFault s m c) fl mm = getF s fl mm := by
  unfold engFault
  repeat' (first
    | with_reducible rfl
    | simp (disch := assumption) only [setF_page, stopFault_page])

theorem popLoop_page (s : State) (m : Nat) {fl : Fld} {mm : Nat} (hmce : fl.page ≠ .mce) :
    getF (popLoop s m) fl mm = getF s fl mm := by
  unfold popLoop
  repeat' (first
    | with_reducible rfl
    | simp (disch := assumption) only [unlock_page, setLoops_page])

theorem branch_page (s : State) (m nxt : Nat) (cs : List (Nat × Bool)) {fl : Fld} {mm : Nat} (hseq : fl.page ≠ .seq) (hmce :
    fl.page ≠ .mce) :
    getF (branch s m nxt cs) fl mm = getF s fl mm := by
  unfold branch
  repeat' (first
    | with_reducible rfl
    | simp (disch := assumption) only [getF_ite, ite_self, consume_page, setUpc_page]
    | refine (foldl_page (fun _ _ => ?_) _ _).trans ?_)

theorem setFlag_page (s : State) (m k : Nat) (v : Bool) (t : Stamp) {fl : Fld} {mm : Nat} (hmce : fl.page ≠ .mce) :
    getF (setFlag s m k v t) fl mm = getF s fl mm := by
  unfold setFlag
  repeat' (first
    | with_reducible rfl
    | simp (disch := assumption) only [getF_ite, setF_page, getF_launch]
    | refine (forAll_page (fun _ _ => ?_) _ _).trans ?_
    | split)

theorem flgDo_page (s : State) (m flg : Nat) (t : Stamp) {fl : Fld} {mm : Nat} (hmce : fl.page ≠ .mce) :
    getF (flgDo s m flg t) fl mm = getF s fl mm := by
  unfold flgDo
  repeat' (first
    | with_reducible rfl
    | simp (disch := assumption) only [getF_ite, ite_self, setFlag_page])

theorem engEvent_page (s : State) (m i act : Nat) (code : BitVec 4) (t : Stamp) {fl : Fld} {mm : Nat} :
    getF (engEvent s m i act code t) fl mm = getF s fl mm := by
  unfold engEvent
  repeat' (first
    | with_reducible rfl
    | simp only [getF_launch]
    | split)

theorem capTrig_page (s : State) (b : Nat) (t : Stamp) {fl : Fld} {mm : Nat} (hslu : fl.page ≠ .slu) (hpol : fl.page ≠ .pol)
    (hacq : fl.page ≠ .acq) :
    getF (capTrig s b t) fl mm = getF s fl mm := by
  unfold capTrig
  repeat' (first
    | with_reducible rfl
    | simp (disch := assumption) only [getF_ite, ite_self, trigger_page]
    | refine (forAll_page (fun _ _ => ?_) _ _).trans ?_)

theorem capMark_page (s : State) (b : Nat) (t : Stamp) {fl : Fld} {mm : Nat} (hslu : fl.page ≠ .slu) :
    getF (capMark s b t) fl mm = getF s fl mm := by
  unfold capMark
  repeat' (first
    | with_reducible rfl
    | simp (disch := assumption) only [markAll_page]
    | refine (forAll_page (fun _ _ => ?_) _ _).trans ?_)

theorem microPmu_page (s : State) (mem : List Nat) (op : Nat) (t : Stamp) {fl : Fld} {mm : Nat} (hpol : fl.page ≠ .pol) :
    getF (microPmu s mem op t) fl mm = getF s fl mm := by
  unfold microPmu
  repeat' (first
    | with_reducible rfl
    | simp (disch := assumption) only [pmuOp_page]
    | refine (forAll_page (fun _ _ => ?_) _ _).trans ?_)

theorem firstActs_page (s : State) (m v : Nat) (t : Stamp) {fl : Fld} {mm : Nat} (hslu : fl.page ≠ .slu) (hdsc : fl.page ≠
    .dsc) (hpol : fl.page ≠ .pol) (hacq : fl.page ≠ .acq) (hmce : fl.page ≠ .mce) :
    getF (firstActs s m v t) fl mm = getF s fl mm := by
  unfold firstActs
  repeat' (first
    | with_reducible rfl
    | simp (disch := assumption) only [getF_ite, ite_self, pushStaged_page, flgDo_page, engEvent_page, capTrig_page,
        capMark_page, microPmu_page]
    | refine (forAll_page (fun _ _ => ?_) _ _).trans ?_)

theorem leaveWord_page (s : State) (m : Nat) (e : WordEnd) {fl : Fld} {mm : Nat} (hmce : fl.page ≠ .mce) :
    getF (leaveWord s m e) fl mm = getF s fl mm := by
  unfold leaveWord
  repeat' (first
    | with_reducible rfl
    | simp (disch := assumption) only [setF_page, getF_setBnd])

/-- What an engine operation answers keeps the field, in the next state and in the state of a fault. -/
def resPage (fl : Fld) (mm : Nat) (r : EngRes) (s : State) : Prop :=
  (∀ t, r = .ok t → getF t fl mm = getF s fl mm) ∧ ∀ c, r = .error c → getF c.2 fl mm = getF s fl mm

theorem resPage_ok {fl : Fld} {mm : Nat} {t s : State} (h : getF t fl mm = getF s fl mm) : resPage fl mm (.ok t) s :=
  ⟨fun _ e => (by cases e; exact h), fun _ e => (by cases e)⟩

theorem resPage_error {fl : Fld} {mm : Nat} (c : Nat) (s : State) : resPage fl mm (.error (c, s)) s :=
  ⟨fun _ e => (by cases e), fun _ e => (by cases e; rfl)⟩

theorem lopBegin_page (s : State) (m k n nxt : Nat) (r : Bool) {fl : Fld} {mm : Nat} (hmem : fl.page ≠ .mem) (hmce : fl.page
    ≠ .mce) :
    resPage fl mm (lopBegin s m k n nxt r) s := by
  unfold lopBegin
  extract_lets y va s1 len
  have h : getF s1 fl mm = getF s fl mm := by simp (disch := assumption) only [s1, setLoops_page, setCnt_page]
  split
  · exact resPage_error ..
  · refine resPage_ok ?_
    split
    · simp (disch := assumption) only [lockSpan_page, h]
    · exact h

theorem lopDo_page (s : State) (m lop k imm nxt : Nat) {fl : Fld} {mm : Nat} (hmem : fl.page ≠ .mem) (hmce : fl.page ≠ .mce)
    : resPage fl mm (lopDo s m lop k imm nxt) s := by
  unfold lopDo
  split
  all_goals first
    | exact lopBegin_page _ _ _ _ _ _ hmem hmce
    | exact resPage_ok (setCnt_page _ _ _ _ hmce)
    | exact resPage_ok rfl
    | (split
       · exact resPage_error ..
       · refine resPage_ok ?_
         simp (disch := assumption) only [popLoop_page])

theorem loopTest_page (s : State) (m nxt : Nat) {fl : Fld} {mm : Nat} (hmem : fl.page ≠ .mem) (hmce : fl.page ≠ .mce) :
    resPage fl mm (loopTest s m nxt) s := by
  unfold loopTest
  split
  · exact resPage_error ..
  · next l _ =>
    extract_lets back c
    have hb : ∀ t, getF (back t) fl mm = getF t fl mm := by
      intro t
      simp only [back]
      split <;> simp (disch := assumption) only [jumpLead_page, setVa_page, setUpc_page]
    refine resPage_ok ?_
    split
    · exact hb _
    · split
      · simp (disch := assumption) only [setUpc_page, popLoop_page]
      · rw [hb]
        simp (disch := assumption) only [setCnt_page]

theorem doCall_page (s : State) (m nxt : Nat) {fl : Fld} {mm : Nat} (hmce : fl.page ≠ .mce) : resPage fl mm (doCall s m nxt)
    s := by
  unfold doCall
  extract_lets
  split
  · exact resPage_error ..
  · refine resPage_ok ?_
    simp (disch := assumption) only [setUpc_page, setCalls_page]

theorem doReturn_page (s : State) (m : Nat) (r : Bool) {fl : Fld} {mm : Nat} (hmem : fl.page ≠ .mem) (hmce : fl.page ≠ .mce)
    : resPage fl mm (doReturn s m r) s := by
  unfold doReturn
  split
  · exact resPage_error ..
  · refine resPage_ok ?_
    split <;> simp (disch := assumption) only [jumpLead_page, setVa_page, setUpc_page, setCalls_page]

theorem bmodeDo_page (s : State) (m bm nxt : Nat) (cs : List (Nat × Bool)) (r : Bool) {fl : Fld} {mm : Nat} (hmem : fl.page ≠
    .mem) (hseq : fl.page ≠ .seq) (hmce : fl.page ≠ .mce) :
    resPage fl mm (bmodeDo s m bm nxt cs r) s := by
  unfold bmodeDo
  split
  · refine resPage_ok ?_
    simp (disch := assumption) only [setUpc_page]
  · exact doReturn_page _ _ _ hmem hmce
  · exact doCall_page _ _ _ hmce
  · exact loopTest_page _ _ _ hmem hmce
  · refine resPage_ok ?_
    simp (disch := assumption) only [branch_page]

theorem resPage_trans {fl : Fld} {mm : Nat} {r : EngRes} {s t : State} (h : resPage fl mm r t) (e : getF t fl mm = getF s fl
    mm) :
    resPage fl mm r s :=
  ⟨fun _ x => (h.1 _ x).trans e, fun _ x => (h.2 _ x).trans e⟩

theorem lastActs_page (s : State) (m v : Nat) (cs : List (Nat × Bool)) {fl : Fld} {mm : Nat} (hmem : fl.page ≠ .mem) (hseq :
    fl.page ≠ .seq) (hmce : fl.page ≠ .mce) :
    resPage fl mm (lastActs s m v cs) s := by
  have h := lopDo_page (mm := mm) s m (mwLop v) (mwLsel v) (mwImm v) (mwNxt v) hmem hmce
  unfold lastActs
  split
  · next c e => rw [← e]; exact h
  · next t e => exact resPage_trans (bmodeDo_page _ _ _ _ _ _ hmem hseq hmce) (h.1 _ e)

theorem resolveWord_page (s : State) (m : Nat) {fl : Fld} {mm : Nat} (hslu : fl.page ≠ .slu) (hmem : fl.page ≠ .mem) (hdsc :
    fl.page ≠ .dsc) (hpol : fl.page ≠ .pol) (hacq : fl.page ≠ .acq) (hoct : fl.page ≠ .oct) (hseq : fl.page ≠ .seq) (hmce :
    fl.page ≠ .mce) (hcdi : fl.page ≠ .cdi) : getF (resolveWord s m) fl mm = getF s fl mm := by
  unfold resolveWord
  extract_lets b y v
  split
  · rfl
  · simp (disch := assumption) only [setUpc_page, getF_setBnd]
  · split
    · next e => exact ((lastActs_page _ _ _ _ hmem hseq hmce).1 _ e).trans (getF_setBnd ..)
    · next e =>
      refine Eq.trans ?_ (((lastActs_page _ _ _ _ hmem hseq hmce).2 _ e).trans (getF_setBnd ..))
      simp (disch := assumption) only [engFault_page]

theorem consumeAll_page (s : State) (m v : Nat) (cs : List (Nat × Bool)) {fl : Fld} {mm : Nat} (hseq : fl.page ≠ .seq) (hmce
    : fl.page ≠ .mce) :
    getF (consumeAll s m v cs) fl mm = getF s fl mm := by
  unfold consumeAll
  repeat' (first
    | with_reducible rfl
    | simp (disch := assumption) only [getF_ite, ite_self, consume_page]
    | refine (foldl_page (fun _ _ => ?_) _ _).trans ?_
    | split)

theorem engIssue_page (s : State) (m vop imm k tset lset cap : Nat) {fl : Fld} {mm : Nat} (hslu : fl.page ≠ .slu) (hmem :
    fl.page ≠ .mem) (hdsc : fl.page ≠ .dsc) (hpol : fl.page ≠ .pol) (hacq : fl.page ≠ .acq) (hoct : fl.page ≠ .oct) (hseq :
    fl.page ≠ .seq) (hmce : fl.page ≠ .mce) (hcdi : fl.page ≠ .cdi) :
    getF (engIssue s m vop imm k tset lset cap).1 fl mm = getF s fl mm := by
  unfold engIssue
  extract_lets b w s0 cp
  have h0 : getF s0 fl mm = getF s fl mm := by
    simp only [s0]; split
    · rfl
    · simp (disch := assumption) only [jumpLead_page, setVa_page]
  split
  · simp (disch := assumption) only [setVa_page, wordStop_page, h0]
  · rename_i old s1 u x hx
    have h1 : getF s1 fl mm = getF s0 fl mm := by
      simp only [s1]
      apply issueWord_page <;> assumption
    simp (disch := assumption) only [setVa_page, getF_setBnd, h1, h0]

theorem issueMicroword_page (s : State) (m : Nat) {fl : Fld} {mm : Nat} (hhkp : fl.page ≠ .hkp) (hslu : fl.page ≠ .slu) (hmem
    : fl.page ≠ .mem) (hdsc : fl.page ≠ .dsc) (hpol : fl.page ≠ .pol) (hacq : fl.page ≠ .acq) (hoct : fl.page ≠ .oct) (hseq :
    fl.page ≠ .seq) (hmce : fl.page ≠ .mce) (hcdi : fl.page ≠ .cdi) :
    getF (issueMicroword s m) fl mm = getF s fl mm := by
  unfold issueMicroword
  repeat' (first | with_reducible rfl | (simp (disch := assumption) only [getF_ite, ite_self, setF_page, addCt_page,
      raise_page, getF_setBnd, endIssue_page, engFault_page, consume_page, consumeAll_page, firstActs_page, leaveWord_page,
      afterWord_page, resolveWord_page, engIssue_page]) | split)
  rename_i e
  refine ((lastActs_page _ _ _ _ hmem hseq hmce).2 _ e).trans ?_
  simp (disch := assumption) only [getF_ite, ite_self, consume_page, consumeAll_page, firstActs_page, engIssue_page]

theorem parityMet_page (s : State) (m : Nat) {fl : Fld} {mm : Nat} (hmce : fl.page ≠ .mce) :
    getF (parityMet s m) fl mm = getF s fl mm := by
  unfold parityMet
  repeat' (first
    | with_reducible rfl
    | simp (disch := assumption) only [getF_ite, ite_self, addCt_page, getF_setBnd])

theorem engReady_page (s t : State) (m : Nat) (h : engReady s m = some t) {fl : Fld} {mm : Nat} (hslu : fl.page ≠ .slu) (hmem
    : fl.page ≠ .mem) (hdsc : fl.page ≠ .dsc) (hpol : fl.page ≠ .pol) (hacq : fl.page ≠ .acq) (hoct : fl.page ≠ .oct) (hseq :
    fl.page ≠ .seq) (hmce : fl.page ≠ .mce) (hcdi : fl.page ≠ .cdi) : getF t fl mm = getF s fl mm := by
  unfold engReady at h
  split at h
  · dsimp only at h
    split at h
    · cases h; simp (disch := assumption) only [resolveWord_page]
    · cases h
  · cases h

theorem engStep_page (s : State) (m : Nat) (f : State → EngRes) {fl : Fld} {mm : Nat} (hslu : fl.page ≠ .slu) (hmem : fl.page
    ≠ .mem) (hdsc : fl.page ≠ .dsc) (hpol : fl.page ≠ .pol) (hacq : fl.page ≠ .acq) (hoct : fl.page ≠ .oct) (hseq : fl.page ≠
    .seq) (hmce : fl.page ≠ .mce) (hcdi : fl.page ≠ .cdi)
    (hf : ∀ s, resPage fl mm (f s) s) : getF (engStep s m f) fl mm = getF s fl mm := by
  unfold engStep
  split
  · rfl
  · next t e =>
    have h0 : getF t fl mm = getF s fl mm := by apply engReady_page s t m e <;> assumption
    split
    · next h => exact ((hf _).1 _ h).trans h0
    · next h =>
      refine Eq.trans ?_ (((hf _).2 _ h).trans h0)
      simp (disch := assumption) only [engFault_page]

theorem engAct_page (s : State) (m : Nat) (f : State → State) {fl : Fld} {mm : Nat} (hslu : fl.page ≠ .slu) (hmem : fl.page ≠
    .mem) (hdsc : fl.page ≠ .dsc) (hpol : fl.page ≠ .pol) (hacq : fl.page ≠ .acq) (hoct : fl.page ≠ .oct) (hseq : fl.page ≠
    .seq) (hmce : fl.page ≠ .mce) (hcdi : fl.page ≠ .cdi)
    (hf : ∀ s, getF (f s) fl mm = getF s fl mm) : getF (engAct s m f) fl mm = getF s fl mm := by
  unfold engAct
  split
  · next e =>
    refine (hf _).trans ?_
    apply engReady_page s _ m e <;> assumption
  · rfl

theorem engVop_page (s : State) (m vop imm k tset : Nat) {fl : Fld} {mm : Nat} (hhkp : fl.page ≠ .hkp) (hslu : fl.page ≠
    .slu) (hmem : fl.page ≠ .mem) (hdsc : fl.page ≠ .dsc) (hpol : fl.page ≠ .pol) (hacq : fl.page ≠ .acq) (hoct : fl.page ≠
    .oct) (hseq : fl.page ≠ .seq) (hmce : fl.page ≠ .mce) (hcdi : fl.page ≠ .cdi) :
    getF (engVop s m vop imm k tset) fl mm = getF s fl mm := by
  unfold engVop
  apply engAct_page
  all_goals first | assumption | skip
  intro s
  extract_lets b w streamed i
  split <;> simp (disch := assumption) only [i, afterWord_page, engIssue_page]

theorem setSec_page (s : State) (p : Nat) (x : SecP) {fl : Fld} {mm : Nat} :
    getF (setSec s p x) fl mm = getF s fl mm := by
  unfold setSec
  repeat' (first
    | with_reducible rfl
    | simp only [getF_upd])

theorem advGo_page (s : State) {fl : Fld} {mm : Nat} (hsec : fl.page ≠ .sec) :
    getF (advGo s) fl mm = getF s fl mm := by
  unfold advGo
  repeat' (first
    | with_reducible rfl
    | simp (disch := assumption) only [getF_ite, ite_self, getF_upd, setF_page, raise_page])

theorem progGo_page (s : State) (port : Nat) {fl : Fld} {mm : Nat} (hsec : fl.page ≠ .sec) :
    getF (progGo s port) fl mm = getF s fl mm := by
  unfold progGo
  repeat' (first
    | with_reducible rfl
    | simp (disch := assumption) only [getF_ite, ite_self, getF_upd, setF_page, raise_page])

theorem revokeGo_page (s : State) {fl : Fld} {mm : Nat} (hsec : fl.page ≠ .sec) :
    getF (revokeGo s) fl mm = getF s fl mm := by
  unfold revokeGo
  repeat' (first
    | with_reducible rfl
    | simp (disch := assumption) only [getF_upd, setF_page])

theorem lcGo_page (s : State) {fl : Fld} {mm : Nat} (hsec : fl.page ≠ .sec) :
    getF (lcGo s) fl mm = getF s fl mm := by
  unfold lcGo
  repeat' (first
    | with_reducible rfl
    | simp (disch := assumption) only [getF_ite, ite_self, getF_upd, setF_page, raise_page])

theorem showLc_page (s : State) {fl : Fld} {mm : Nat} (hdev : fl.page ≠ .dev) (hsec : fl.page ≠ .sec) :
    getF (showLc s) fl mm = getF s fl mm := by
  unfold showLc
  repeat' (first
    | with_reducible rfl
    | simp (disch := assumption) only [setF_page])

theorem lcEnd_page (s : State) {fl : Fld} {mm : Nat} (hdev : fl.page ≠ .dev) (hphl : fl.page ≠ .phl) (hsec : fl.page ≠ .sec)
    :
    getF (lcEnd s) fl mm = getF s fl mm := by
  unfold lcEnd
  repeat' (first
    | with_reducible rfl
    | simp (disch := assumption) only [getF_ite, getF_upd, setF_page, raise_page, lowerSess_page, showLc_page]
    | refine (forAll_page (fun _ _ => ?_) _ _).trans ?_
    | split)

theorem chreqGo_page (s : State) (p : Nat) {fl : Fld} {mm : Nat} (hsec : fl.page ≠ .sec) :
    getF (chreqGo s p) fl mm = getF s fl mm := by
  unfold chreqGo
  repeat' (first
    | with_reducible rfl
    | simp (disch := assumption) only [getF_upd, setF_page, setSec_page]
    | refine (forAll_page (fun _ _ => ?_) _ _).trans ?_)

theorem authGo_page (s : State) (p : Nat) {fl : Fld} {mm : Nat} (hsec : fl.page ≠ .sec) :
    getF (authGo s p) fl mm = getF s fl mm := by
  unfold authGo
  repeat' (first
    | with_reducible rfl
    | simp (disch := assumption) only [setF_page, setSec_page])

theorem authEnd_page (s : State) (p : Nat) {fl : Fld} {mm : Nat} (hphl : fl.page ≠ .phl) (hsec : fl.page ≠ .sec) :
    getF (authEnd s p) fl mm = getF s fl mm := by
  unfold authEnd
  repeat' (first
    | with_reducible rfl
    | simp (disch := assumption) only [getF_ite, ite_self, setF_page, raise_page, setSess_page, setSec_page]
    | split)

theorem mbRun_page (s : State) (p st : Nat) (reply : List Byte) (flash : Option FwImage) {fl : Fld} {mm : Nat} (hsec :
    fl.page ≠ .sec) :
    getF (mbRun s p st reply flash) fl mm = getF s fl mm := by
  unfold mbRun
  repeat' (first
    | with_reducible rfl
    | simp (disch := assumption) only [setF_page, setSec_page])

theorem mbEnd_page (s : State) (p st : Nat) (reply : List Byte) {fl : Fld} {mm : Nat} (hsec : fl.page ≠ .sec) :
    getF (mbEnd s p st reply) fl mm = getF s fl mm := by
  unfold mbEnd
  repeat' (first
    | with_reducible rfl
    | simp (disch := assumption) only [getF_upd, setF_page, raise_page, setSec_page])

theorem mbReplyRun_page (s : State) (p : Nat) (r : Option (List Byte)) {fl : Fld} {mm : Nat} (hsec : fl.page ≠ .sec) :
    getF (mbReplyRun s p r) fl mm = getF s fl mm := by
  unfold mbReplyRun
  repeat' (first
    | with_reducible rfl
    | simp (disch := assumption) only [freeW_page, mbRun_page]
    | split)

theorem fwTake_page (s : State) (p : Nat) (bs : List Byte) {fl : Fld} {mm : Nat} (hsec : fl.page ≠ .sec) :
    getF (fwTake s p bs) fl mm = getF s fl mm := by
  unfold fwTake
  repeat' (first
    | with_reducible rfl
    | simp (disch := assumption) only [getF_ite, ite_self, mbRun_page]
    | split)

theorem fwPiece_page (s : State) (p : Nat) {fl : Fld} {mm : Nat} (hsec : fl.page ≠ .sec) :
    getF (fwPiece s p) fl mm = getF s fl mm := by
  unfold fwPiece
  repeat' (first
    | with_reducible rfl
    | simp (disch := assumption) only [getF_ite, ite_self, getF_upd, mbRun_page, fwTake_page])

theorem mbGo_page (s : State) (p : Nat) (priv : Bool) {fl : Fld} {mm : Nat} (hsec : fl.page ≠ .sec) :
    getF (mbGo s p priv) fl mm = getF s fl mm := by
  unfold mbGo
  repeat' (first
    | with_reducible rfl
    | simp (disch := assumption) only [getF_ite, ite_self, getF_upd, setF_page, setSec_page, mbRun_page, mbReplyRun_page,
        fwTake_page, fwPiece_page])

theorem flashSlot_page (s : State) (b : Bool) (x : FwImage) {fl : Fld} {mm : Nat} (hnvm : fl.page ≠ .nvm) :
    getF (flashSlot s b x) fl mm = getF s fl mm := by
  unfold flashSlot
  repeat' (first
    | with_reducible rfl
    | simp (disch := assumption) only [getF_upd, setF_page])

theorem setSens_page (s : State) (i : Nat) (x : Sens) {fl : Fld} {mm : Nat} :
    getF (setSens s i x) fl mm = getF s fl mm := by
  unfold setSens
  repeat' (first
    | with_reducible rfl
    | simp only [getF_upd])

theorem showFailmap_page (s : State) {fl : Fld} {mm : Nat} (hhkp : fl.page ≠ .hkp) :
    getF (showFailmap s) fl mm = getF s fl mm := by
  unfold showFailmap
  repeat' (first
    | with_reducible rfl
    | simp (disch := assumption) only [setF_page])

theorem judgeSensor_page (rd : Nat → Int) (why : Nat → Nat) (s : State) (i : Nat) {fl : Fld} {mm : Nat} (hhkp : fl.page ≠
    .hkp) :
    getF (judgeSensor rd why s i) fl mm = getF s fl mm := by
  unfold judgeSensor
  repeat' (first
    | with_reducible rfl
    | simp (disch := assumption) only [getF_ite, ite_self, setF_page, addCt_page, raise_page, setSens_page])

theorem substitute_page (s : State) (i : Nat) {fl : Fld} {mm : Nat} (hhkp : fl.page ≠ .hkp) :
    getF (substitute s i) fl mm = getF s fl mm := by
  unfold substitute
  repeat' (first
    | with_reducible rfl
    | simp (disch := assumption) only [getF_ite, setF_page]
    | split)

theorem showMax_page (s : State) {fl : Fld} {mm : Nat} (hhkp : fl.page ≠ .hkp) :
    getF (showMax s) fl mm = getF s fl mm := by
  unfold showMax
  repeat' (first
    | with_reducible rfl
    | simp (disch := assumption) only [setF_page, hubSource_page])

theorem setActivity_page (s : State) (a : Nat) {fl : Fld} {mm : Nat} (hhkp : fl.page ≠ .hkp) :
    getF (setActivity s a) fl mm = getF s fl mm := by
  unfold setActivity
  repeat' (first
    | with_reducible rfl
    | simp (disch := assumption) only [getF_ite, ite_self, getF_upd, setF_page, raise_page, getF_setBnd, hubSource_page]
    | refine (forAll_page (fun _ _ => ?_) _ _).trans ?_
    | split)

theorem setEarly_page (s : State) (v : Bool) {fl : Fld} {mm : Nat} (hhkp : fl.page ≠ .hkp) :
    getF (setEarly s v) fl mm = getF s fl mm := by
  unfold setEarly
  repeat' (first
    | with_reducible rfl
    | simp (disch := assumption) only [setF_page, hubSource_page])

theorem rateOfRise_page (s : State) (rise : Bool) {fl : Fld} {mm : Nat} (hhkp : fl.page ≠ .hkp) :
    getF (rateOfRise s rise) fl mm = getF s fl mm := by
  unfold rateOfRise
  repeat' (first
    | with_reducible rfl
    | simp (disch := assumption) only [getF_ite, ite_self, getF_upd, raise_page, causeOff_page, setEarly_page])

theorem throttle_page (s : State) (began : Bool) {fl : Fld} {mm : Nat} (hhkp : fl.page ≠ .hkp) :
    getF (throttle s began) fl mm = getF s fl mm := by
  unfold throttle
  repeat' (first
    | with_reducible rfl
    | simp (disch := assumption) only [getF_ite, ite_self, getF_upd, setF_page, setActivity_page])

theorem shutdown_page (s : State) (t : Stamp) {fl : Fld} {mm : Nat} (hdev : fl.page ≠ .dev) (hhkp : fl.page ≠ .hkp) (hnvm :
    fl.page ≠ .nvm) :
    getF (shutdown s t) fl mm = getF s fl mm := by
  unfold shutdown
  repeat' (first
    | with_reducible rfl
    | simp (disch := assumption) only [getF_ite, ite_self, getF_upd, setF_page, raise_page, causeOn_page, causeOff_page,
        writeRec_page, shutSource_page])

theorem levelCause_page (s : State) (f : Nat) (v : Bool) {fl : Fld} {mm : Nat} :
    getF (levelCause s f v) fl mm = getF s fl mm := by
  unfold levelCause
  repeat' (first
    | with_reducible rfl
    | simp only [getF_ite, ite_self, causeOn_page, causeOff_page])

theorem rails_page (s : State) (smp : List (BitVec 16)) (out : List Nat) {fl : Fld} {mm : Nat} (hhkp : fl.page ≠ .hkp) :
    getF (rails s smp out) fl mm = getF s fl mm := by
  unfold rails
  repeat' (first
    | with_reducible rfl
    | simp (disch := assumption) only [getF_upd, setF_page, raiseIf_page, hubSource_page, levelCause_page]
    | refine (forAll_page (fun _ _ => ?_) _ _).trans ?_)

theorem dieIntegrity_page (s : State) {fl : Fld} {mm : Nat} :
    getF (dieIntegrity s) fl mm = getF s fl mm := by
  unfold dieIntegrity
  repeat' (first
    | with_reducible rfl
    | simp only [levelCause_page]
    | refine (forAll_page (fun _ _ => ?_) _ _).trans ?_)

theorem dieTemps_page (s : State) {fl : Fld} {mm : Nat} (hcdi : fl.page ≠ .cdi) :
    getF (dieTemps s) fl mm = getF s fl mm := by
  unfold dieTemps
  repeat' (first
    | with_reducible rfl
    | simp (disch := assumption) only [getF_ite, ite_self, setF_page, freeB_page]
    | refine (forAll_page (fun _ _ => ?_) _ _).trans ?_)

theorem ck0Servo_page (s : State) {fl : Fld} {mm : Nat} (hclk : fl.page ≠ .clk) :
    getF (ck0Servo s) fl mm = getF s fl mm := by
  unfold ck0Servo
  repeat' (first
    | with_reducible rfl
    | simp (disch := assumption) only [getF_ite, setF_page, freeW_page]
    | refine (forAll_page (fun _ _ => ?_) _ _).trans ?_
    | split)

theorem dsMeas_page (s : State) (smp : List (BitVec 16)) {fl : Fld} {mm : Nat} (hdsc : fl.page ≠ .dsc) :
    getF (dsMeas s smp) fl mm = getF s fl mm := by
  unfold dsMeas
  repeat' (first
    | with_reducible rfl
    | simp (disch := assumption) only [setF_page]
    | refine (forAll_page (fun _ _ => ?_) _ _).trans ?_)

theorem thackGo_page (s : State) {fl : Fld} {mm : Nat} (hhkp : fl.page ≠ .hkp) :
    getF (thackGo s) fl mm = getF s fl mm := by
  unfold thackGo
  repeat' (first
    | with_reducible rfl
    | simp (disch := assumption) only [getF_ite, ite_self, getF_upd, setF_page])

theorem thackEnd_page (s : State) {fl : Fld} {mm : Nat} (hdev : fl.page ≠ .dev) (hhkp : fl.page ≠ .hkp) (hnvm : fl.page ≠
    .nvm) :
    getF (thackEnd s) fl mm = getF s fl mm := by
  unfold thackEnd
  repeat' (first
    | with_reducible rfl
    | simp (disch := assumption) only [getF_ite, getF_upd, setF_page, raise_page, writeRec_page]
    | refine (forAll_page (fun _ _ => ?_) _ _).trans ?_
    | split)

theorem sensclrGo_page (s : State) {fl : Fld} {mm : Nat} (hhkp : fl.page ≠ .hkp) : getF (sensclrGo s) fl mm = getF s fl mm :=
    by
  unfold sensclrGo
  extract_lets l s1
  have h1 : getF s1 fl mm = getF s fl mm := by
    refine forAll_page (fun _ _ => ?_) _ _
    split
    · simp (disch := assumption) only [setF_page, setSens_page]
    · rfl
  simp (disch := assumption) only [hubSource_page, showFailmap_page, h1]

theorem cutWrite_page (s : State) {fl : Fld} {mm : Nat} (hnvm : fl.page ≠ .nvm) :
    getF (cutWrite s) fl mm = getF s fl mm := by
  unfold cutWrite
  repeat' (first
    | with_reducible rfl
    | simp (disch := assumption) only [programRec_page, makeRoom_page, getF_upd]
    | split)

theorem romClock_page (s : State) {fl : Fld} {mm : Nat} (hclk : fl.page ≠ .clk) :
    getF (romClock s) fl mm = getF s fl mm := by
  unfold romClock
  repeat' (first
    | with_reducible rfl
    | simp (disch := assumption) only [getF_ite, ite_self, acquire_page])

theorem thermalStart_page (s : State) {fl : Fld} {mm : Nat} (hdev : fl.page ≠ .dev) (hflt : fl.page ≠ .flt) (hevr : fl.page ≠
    .evr) (hnvm : fl.page ≠ .nvm) (hslu : fl.page ≠ .slu) (hmem : fl.page ≠ .mem) (hdsc : fl.page ≠ .dsc) (hpol : fl.page ≠
    .pol) (hacq : fl.page ≠ .acq) (hoct : fl.page ≠ .oct) (hseq : fl.page ≠ .seq) (hmce : fl.page ≠ .mce) (hcdi : fl.page ≠
    .cdi) :
    getF (thermalStart s) fl mm = getF s fl mm := by
  unfold thermalStart
  repeat' (first
    | with_reducible rfl
    | simp (disch := assumption) only [getF_ite, ite_self, raise_page, setFlt_page, faultRecord_page, setFstate_page,
        faultSources_page, embank_page])

theorem hubLevels_page (s : State) {fl : Fld} {mm : Nat} :
    getF (hubLevels s) fl mm = getF s fl mm := by
  unfold hubLevels
  repeat' (first
    | with_reducible rfl
    | simp only [hubSource_page, faultSources_page, shutSource_page]
    | refine (foldl_page (fun _ _ => ?_) _ _).trans ?_)

theorem resetGo_page (s : State) {fl : Fld} {mm : Nat} (hdev : fl.page ≠ .dev) (hevr : fl.page ≠ .evr) (hslu : fl.page ≠
    .slu) (hmem : fl.page ≠ .mem) (hdsc : fl.page ≠ .dsc) (hpol : fl.page ≠ .pol) (hacq : fl.page ≠ .acq) (hoct : fl.page ≠
    .oct) (hseq : fl.page ≠ .seq) (hmce : fl.page ≠ .mce) (hcdi : fl.page ≠ .cdi) :
    getF (resetGo s) fl mm = getF s fl mm := by
  unfold resetGo
  repeat' (first
    | with_reducible rfl
    | simp (disch := assumption) only [setF_page, dikeEntry_page]
    | refine (forAll_page (fun _ _ => ?_) _ _).trans ?_)

theorem resetFaults_page (s : State) {fl : Fld} {mm : Nat} (hflt : fl.page ≠ .flt) (hoct : fl.page ≠ .oct) :
    getF (resetFaults s) fl mm = getF s fl mm := by
  unfold resetFaults
  repeat' (first
    | with_reducible rfl
    | simp (disch := assumption) only [getF_ite, ite_self, getF_upd, setFstate_page, endIso_page]
    | refine (forAll_page (fun _ _ => ?_) _ _).trans ?_)

theorem finishNvm_page (s : State) {fl : Fld} {mm : Nat} (hdev : fl.page ≠ .dev) (hhkp : fl.page ≠ .hkp) (hnvm : fl.page ≠
    .nvm) :
    getF (finishNvm s) fl mm = getF s fl mm := by
  unfold finishNvm
  repeat' (first
    | with_reducible rfl
    | simp (disch := assumption) only [writeDone_page, refreshEnd_page, thackEnd_page])

theorem wdtEnd_page (s : State) {fl : Fld} {mm : Nat} :
    getF (wdtEnd s) fl mm = getF s fl mm := by
  unfold wdtEnd
  repeat' (first
    | with_reducible rfl
    | simp only [getF_upd])

theorem commitSeg_page (s : State) (n e : Nat) (v : BitVec 192) {fl : Fld} {mm : Nat} (hseq : fl.page ≠ .seq) :
    getF (commitSeg s n e v) fl mm = getF s fl mm := by
  unfold commitSeg
  repeat' (first
    | with_reducible rfl
    | simp (disch := assumption) only [getF_ite, ite_self, setF_page, raise_page, getF_setWide])

theorem enterEntry_page (s : State) (q e jc : Nat) {fl : Fld} {mm : Nat} (hmem : fl.page ≠ .mem) (hseq : fl.page ≠ .seq)
    (hmce : fl.page ≠ .mce) :
    getF (enterEntry s q e jc) fl mm = getF s fl mm := by
  unfold enterEntry
  repeat' (first
    | with_reducible rfl
    | simp (disch := assumption) only [getF_ite, ite_self, setF_page, addCt_page, getF_setBnd, lockSpan_page, unlock_page,
        jumpLead_page, clearLatch_page])

theorem passSeen_page (s : State) (q e : Nat) {fl : Fld} {mm : Nat} :
    getF (passSeen s q e) fl mm = getF s fl mm := by
  unfold passSeen
  repeat' (first
    | with_reducible rfl
    | simp only [getF_setBnd])

theorem segWord_page (s : State) (q : Nat) {fl : Fld} {mm : Nat} (hhkp : fl.page ≠ .hkp) (hslu : fl.page ≠ .slu) (hmem :
    fl.page ≠ .mem) (hdsc : fl.page ≠ .dsc) (hpol : fl.page ≠ .pol) (hacq : fl.page ≠ .acq) (hoct : fl.page ≠ .oct) (hseq :
    fl.page ≠ .seq) (hmce : fl.page ≠ .mce) (hcdi : fl.page ≠ .cdi) :
    getF (segWord s q) fl mm = getF s fl mm := by
  unfold segWord
  repeat' (first
    | with_reducible rfl
    | simp (disch := assumption) only [getF_ite, ite_self, setF_page, getF_setBnd, pushStaged_page, endIssue_page,
        wordStop_page, afterWord_page, issueWord_page, passSeen_page]
    | refine (forAll_page (fun _ _ => ?_) _ _).trans ?_
    | split)

theorem maskEvents_page (s : State) (p : Page) (n old : Nat) {fl : Fld} {mm : Nat} :
    getF (maskEvents s p n old) fl mm = getF s fl mm := by
  unfold maskEvents
  repeat' (first
    | with_reducible rfl
    | simp only [getF_ite, ite_self, getF_report]
    | refine (forAll_page (fun _ _ => ?_) _ _).trans ?_)

theorem sessGo_page (s : State) (ini : Initiator) (p : Nat) (acc : List (Fld × Nat)) {fl : Fld} {mm : Nat} (hphl : fl.page ≠
    .phl) :
    getF (sessGo s ini p acc) fl mm = getF s fl mm := by
  unfold sessGo
  repeat' (first
    | with_reducible rfl
    | simp (disch := assumption) only [getF_ite, ite_self, setF_page, setSess_page]
    | split)

theorem devWrite_page (s : State) (off : Nat) (acc : List (Fld × Nat)) {fl : Fld} {mm : Nat} (hdev : fl.page ≠ .dev) (hevr :
    fl.page ≠ .evr) (hslu : fl.page ≠ .slu) (hmem : fl.page ≠ .mem) (hdsc : fl.page ≠ .dsc) (hpol : fl.page ≠ .pol) (hacq :
    fl.page ≠ .acq) (hoct : fl.page ≠ .oct) (hseq : fl.page ≠ .seq) (hmce : fl.page ≠ .mce) (hcdi : fl.page ≠ .cdi) :
    getF (devWrite s off acc) fl mm = getF s fl mm := by
  unfold devWrite
  repeat' (first
    | with_reducible rfl
    | simp (disch := assumption) only [getF_ite, ite_self, setF_page, resetGo_page]
    | split)

theorem lcctlWrite_page (s : State) (acc : List (Fld × Nat)) {fl : Fld} {mm : Nat} (hsec : fl.page ≠ .sec) :
    getF (lcctlWrite s acc) fl mm = getF s fl mm := by
  unfold lcctlWrite
  repeat' (first
    | with_reducible rfl
    | simp (disch := assumption) only [getF_ite, ite_self, setF_page, lcGo_page]
    | split)

theorem fltWrite_page (s : State) (acc : List (Fld × Nat)) {fl : Fld} {mm : Nat} (hdev : fl.page ≠ .dev) (hflt : fl.page ≠
    .flt) (hevr : fl.page ≠ .evr) (hnvm : fl.page ≠ .nvm) (hslu : fl.page ≠ .slu) (hmem : fl.page ≠ .mem) (hdsc : fl.page ≠
    .dsc) (hpol : fl.page ≠ .pol) (hacq : fl.page ≠ .acq) (hoct : fl.page ≠ .oct) (hseq : fl.page ≠ .seq) (hmce : fl.page ≠
    .mce) (hcdi : fl.page ≠ .cdi) :
    getF (fltWrite s acc) fl mm = getF s fl mm := by
  unfold fltWrite
  repeat' (first
    | with_reducible rfl
    | simp (disch := assumption) only [getF_ite, ite_self, clrGo_page, exitGo_page])

theorem hkpWrite_page (s : State) (off v : Nat) (acc : List (Fld × Nat)) {fl : Fld} {mm : Nat} (hhkp : fl.page ≠ .hkp) :
    getF (hkpWrite s off v acc) fl mm = getF s fl mm := by
  unfold hkpWrite
  repeat' (first
    | with_reducible rfl
    | simp (disch := assumption) only [getF_ite, ite_self, thrSet_page, thackGo_page, sensclrGo_page])

theorem clkWrite_page (s : State) (off v : Nat) (acc : List (Fld × Nat)) (old : Fld → Nat) {fl : Fld} {mm : Nat} (hclk :
    fl.page ≠ .clk) (hbgl : fl.page ≠ .bgl) :
    getF (clkWrite s off v acc old) fl mm = getF s fl mm := by
  unfold clkWrite
  repeat' (first
    | with_reducible rfl
    | simp (disch := assumption) only [getF_ite, ite_self, ratioChanged_page, outdivSet_page, outEnSet_page, relockGo_page,
        refselSet_page, phstepGo_page])

theorem evrWrite_page (s : State) (off : Nat) (acc : List (Fld × Nat)) {fl : Fld} {mm : Nat} :
    getF (evrWrite s off acc) fl mm = getF s fl mm := by
  unfold evrWrite
  repeat' (first
    | with_reducible rfl
    | simp only [getF_ite, ite_self, lineConfig_page, refreshRoute_page, hostEvent_page])

theorem bglWrite_page (s : State) (acc : List (Fld × Nat)) {fl : Fld} {mm : Nat} (hbgl : fl.page ≠ .bgl) :
    getF (bglWrite s acc) fl mm = getF s fl mm := by
  unfold bglWrite
  repeat' (first
    | with_reducible rfl
    | simp (disch := assumption) only [getF_ite, ite_self, setF_page, xcalGo_page])

theorem phlWrite_page (s : State) (ini : Initiator) (n off : Nat) (acc : List (Fld × Nat)) {fl : Fld} {mm : Nat} (hphl :
    fl.page ≠ .phl) :
    getF (phlWrite s ini n off acc) fl mm = getF s fl mm := by
  unfold phlWrite
  repeat' (first
    | with_reducible rfl
    | simp (disch := assumption) only [getF_ite, ite_self, retrainGo_page, sessGo_page])

theorem nvmWrite_page (s : State) (ini : Initiator) (acc : List (Fld × Nat)) {fl : Fld} {mm : Nat} (hnvm : fl.page ≠ .nvm) :
    getF (nvmWrite s ini acc) fl mm = getF s fl mm := by
  unfold nvmWrite
  repeat' (first
    | with_reducible rfl
    | simp (disch := assumption) only [getF_ite, ite_self, recordGo_page, calsaveGo_page, refreshGo_page])

theorem secWrite_page (s : State) (ini : Initiator) (off : Nat) (acc : List (Fld × Nat)) {fl : Fld} {mm : Nat} (hsec :
    fl.page ≠ .sec) :
    getF (secWrite s ini off acc) fl mm = getF s fl mm := by
  unfold secWrite
  repeat' (first
    | with_reducible rfl
    | simp (disch := assumption) only [getF_ite, ite_self, advGo_page, progGo_page, revokeGo_page, chreqGo_page, authGo_page,
        mbGo_page, lcctlWrite_page])

theorem sluWrite_page (s : State) (off v : Nat) (acc : List (Fld × Nat)) {fl : Fld} {mm : Nat} (hslu : fl.page ≠ .slu) :
    getF (sluWrite s off v acc) fl mm = getF s fl mm := by
  unfold sluWrite
  repeat' (first
    | with_reducible rfl
    | simp (disch := assumption) only [getF_ite, ite_self, spillrdSet_page])

theorem memWrite_page (s : State) (off : Nat) (acc : List (Fld × Nat)) {fl : Fld} {mm : Nat} (hmem : fl.page ≠ .mem) :
    getF (memWrite s off acc) fl mm = getF s fl mm := by
  unfold memWrite
  repeat' (first
    | with_reducible rfl
    | simp (disch := assumption) only [getF_ite, ite_self, preloadGo_page])

theorem dscWrite_page (s : State) (n off : Nat) (acc : List (Fld × Nat)) {fl : Fld} {mm : Nat} (hevr : fl.page ≠ .evr) (hdsc
    : fl.page ≠ .dsc) (hpol : fl.page ≠ .pol) :
    getF (dscWrite s n off acc) fl mm = getF s fl mm := by
  unfold dscWrite
  repeat' (first
    | with_reducible rfl
    | simp (disch := assumption) only [getF_ite, ite_self, refreshLevee_page, pushEntry_page, clipDs_page, applySp_page,
        dsMonOff_page]
    | split)

theorem polWrite_page (s : State) (p off v : Nat) (acc : List (Fld × Nat)) {fl : Fld} {mm : Nat} (hhkp : fl.page ≠ .hkp)
    (hevr : fl.page ≠ .evr) (hslu : fl.page ≠ .slu) (hmem : fl.page ≠ .mem) (hdsc : fl.page ≠ .dsc) (hpol : fl.page ≠ .pol)
    (hacq : fl.page ≠ .acq) (hoct : fl.page ≠ .oct) (hseq : fl.page ≠ .seq) (hmce : fl.page ≠ .mce) (hcdi : fl.page ≠ .cdi) :
    getF (polWrite s p off v acc) fl mm = getF s fl mm := by
  unfold polWrite
  repeat' (first
    | with_reducible rfl
    | simp (disch := assumption) only [getF_ite, ite_self, pushEntry_page, clearSet_page, pmuctl_page, faultSources_page,
        octmapSet_page, dsmapSet_page, runctl_page]
    | refine (forAll_page (fun _ _ => ?_) _ _).trans ?_
    | split)

theorem acqWrite_page (s : State) (p off v : Nat) (acc : List (Fld × Nat)) {fl : Fld} {mm : Nat} (hslu : fl.page ≠ .slu)
    (hacq : fl.page ≠ .acq) :
    getF (acqWrite s p off v acc) fl mm = getF s fl mm := by
  unfold acqWrite
  repeat' (first
    | with_reducible rfl
    | simp (disch := assumption) only [getF_ite, ite_self, acqctlSet_page])

theorem octWrite_page (s : State) (o off : Nat) (acc : List (Fld × Nat)) {fl : Fld} {mm : Nat} :
    getF (octWrite s o off acc) fl mm = getF s fl mm := by
  unfold octWrite
  repeat' (first
    | with_reducible rfl
    | simp only [getF_ite, ite_self, getF_setChan])

theorem seqWrite_page (s : State) (n : Nat) (acc : List (Fld × Nat)) {fl : Fld} {mm : Nat} (hseq : fl.page ≠ .seq) (hmce :
    fl.page ≠ .mce) :
    getF (seqWrite s n acc) fl mm = getF s fl mm := by
  unfold seqWrite
  repeat' (first
    | with_reducible rfl
    | simp (disch := assumption) only [getF_ite, ite_self, clearLatches_page])

theorem mceWrite_page (s : State) (m : Nat) (acc : List (Fld × Nat)) {fl : Fld} {mm : Nat} (hseq : fl.page ≠ .seq) (hmce :
    fl.page ≠ .mce) :
    getF (mceWrite s m acc) fl mm = getF s fl mm := by
  unfold mceWrite
  repeat' (first
    | with_reducible rfl
    | simp (disch := assumption) only [getF_ite, ite_self, setF_page, clearLatches_page, csChanged_page])

theorem cdiWrite_page (s : State) (d : Nat) (acc : List (Fld × Nat)) {fl : Fld} {mm : Nat} (hcdi : fl.page ≠ .cdi) :
    getF (cdiWrite s d acc) fl mm = getF s fl mm := by
  unfold cdiWrite
  repeat' (first
    | with_reducible rfl
    | simp (disch := assumption) only [getF_ite, ite_self, setF_page, selfcalStart_page])

theorem pageWrite_page (s : State) (ini : Initiator) (p : Page) (n off v : Nat) (acc : List (Fld × Nat)) (old : Fld → Nat)
 {fl : Fld} {mm : Nat} (hdev : fl.page ≠ .dev) (hflt : fl.page ≠ .flt) (hhkp : fl.page ≠ .hkp) (hclk : fl.page ≠ .clk)
    (hevr : fl.page ≠ .evr) (hbgl : fl.page ≠ .bgl) (hphl : fl.page ≠ .phl) (hnvm : fl.page ≠ .nvm) (hsec : fl.page ≠ .sec)
    (hslu : fl.page ≠ .slu) (hmem : fl.page ≠ .mem) (hdsc : fl.page ≠ .dsc) (hpol : fl.page ≠ .pol) (hacq : fl.page ≠ .acq)
    (hoct : fl.page ≠ .oct) (hseq : fl.page ≠ .seq) (hmce : fl.page ≠ .mce) (hcdi : fl.page ≠ .cdi) :
    getF (pageWrite s ini p n off v acc old) fl mm = getF s fl mm := by
  unfold pageWrite
  repeat' (first
    | with_reducible rfl
    | simp (disch := assumption) only [devWrite_page, fltWrite_page, hkpWrite_page, clkWrite_page, evrWrite_page,
        bglWrite_page, phlWrite_page, nvmWrite_page, secWrite_page, sluWrite_page, memWrite_page, dscWrite_page,
        polWrite_page, acqWrite_page, octWrite_page, seqWrite_page, mceWrite_page, cdiWrite_page]
    | split)

theorem forceEvents_page (s : State) (p : Page) (n old : Nat) {fl : Fld} {mm : Nat} :
    getF (forceEvents s p n old) fl mm = getF s fl mm := by
  unfold forceEvents
  repeat' (first
    | with_reducible rfl
    | simp only [getF_ite, ite_self, owe_page, shutSource_page]
    | refine (forAll_page (fun _ _ => ?_) _ _).trans ?_)

theorem commitStream_page (s : State) (k : Nat) (v : BitVec 192) {fl : Fld} {mm : Nat} (hslu : fl.page ≠ .slu) :
    getF (commitStream s k v) fl mm = getF s fl mm := by
  unfold commitStream
  repeat' (first
    | with_reducible rfl
    | simp (disch := assumption) only [getF_ite, ite_self, setF_page, raise_page, getF_setWide])

theorem commitWide_page (s : State) (p : Page) (n sp e : Nat) (v : BitVec 192) {fl : Fld} {mm : Nat} (hslu : fl.page ≠ .slu)
    (hpol : fl.page ≠ .pol) (hoct : fl.page ≠ .oct) (hseq : fl.page ≠ .seq) (hmce : fl.page ≠ .mce) :
    getF (commitWide s p n sp e v) fl mm = getF s fl mm := by
  unfold commitWide
  repeat' (first
    | with_reducible rfl
    | simp (disch := assumption) only [getF_setWide, commitChar_page, commitConfig_page, commitMword_page, commitSeg_page,
        commitStream_page]
    | split)

theorem setStage_page (s : State) (p : Page) (n sp : Nat) (x : Stage) {fl : Fld} {mm : Nat} :
    getF (setStage s p n sp x) fl mm = getF s fl mm := by
  unfold setStage
  repeat' (first
    | with_reducible rfl
    | simp only [getF_upd])

theorem loadStage_page (s : State) (p : Page) (n sp e : Nat) {fl : Fld} {mm : Nat} :
    getF (loadStage s p n sp e) fl mm = getF s fl mm := by
  unfold loadStage
  repeat' (first
    | with_reducible rfl
    | simp only [setStage_page])

theorem track_page (s : State) (p : Page) (n sp a : Nat) {fl : Fld} {mm : Nat} :
    getF (track s p n sp a) fl mm = getF s fl mm := by
  unfold track
  repeat' (first
    | with_reducible rfl
    | simp only [getF_ite, ite_self, loadStage_page])

theorem setPosted_page (s : State) (p : Page) (n : Nat) (l : List Posted) {fl : Fld} {mm : Nat} :
    getF (setPosted s p n l) fl mm = getF s fl mm := by
  unfold setPosted
  repeat' (first
    | with_reducible rfl
    | simp only [getF_upd])

theorem ixEffect_page (s : State) (p : Page) (n sp a : Nat) (acc : List (Fld × Nat)) (old : Fld → Nat) {fl : Fld} {mm : Nat}
    (hflt : fl.page ≠ .flt) (hevr : fl.page ≠ .evr) (hpol : fl.page ≠ .pol) (hoct : fl.page ≠ .oct) (hcdi : fl.page ≠ .cdi) :
    getF (ixEffect s p n sp a acc old) fl mm = getF s fl mm := by
  unfold ixEffect
  repeat' (first
    | with_reducible rfl
    | simp (disch := assumption) only [getF_ite, ite_self, refreshLevee_page, applyDeskew_page, parityMade_page,
        pmuCfgWrite_page, pmuForceSet_page, monOff_page, fltDisable_page]
    | split)

theorem hostErrs_page (s : State) (a n : Nat) {fl : Fld} {mm : Nat} (hmem : fl.page ≠ .mem) :
    getF (hostErrs s a n) fl mm = getF s fl mm := by
  unfold hostErrs
  repeat' (first
    | with_reducible rfl
    | simp (disch := assumption) only [getF_upd, eccErrs_page])

theorem dramWrite_page (s : State) (a : Nat) (bs : List Byte) {fl : Fld} {mm : Nat} (hmem : fl.page ≠ .mem) :
    getF (dramWrite s a bs) fl mm = getF s fl mm := by
  unfold dramWrite
  repeat' (first
    | with_reducible rfl
    | simp (disch := assumption) only [getF_upd, invalidate_page])

theorem crcErr_page (s : State) (p : Nat) {fl : Fld} {mm : Nat} (hphl : fl.page ≠ .phl) :
    getF (crcErr s p) fl mm = getF s fl mm := by
  unfold crcErr
  repeat' (first
    | with_reducible rfl
    | simp (disch := assumption) only [addCt_page, raise_page])

theorem complete_page (s : State) (p : Nat) (k : Packet) (st : Nat) (data : List Word) {fl : Fld} {mm : Nat} :
    getF (complete s p k st data) fl mm = getF s fl mm := by
  unfold complete
  repeat' (first
    | with_reducible rfl
    | simp only [sendPkt_page])

theorem remember_page (s : State) (p : Nat) (k : Packet) (st : Nat) (data : List Word) {fl : Fld} {mm : Nat} :
    getF (remember s p k st data) fl mm = getF s fl mm := by
  unfold remember
  repeat' (first
    | with_reducible rfl
    | simp only [getF_setPort])

theorem stale_page (s : State) (p : Nat) (k : Packet) {fl : Fld} {mm : Nat} (hphl : fl.page ≠ .phl) :
    getF (stale s p k) fl mm = getF s fl mm := by
  unfold stale
  repeat' (first
    | with_reducible rfl
    | simp (disch := assumption) only [addCt_page, raise_page, complete_page])

theorem turnAway_page (s : State) (p : Nat) (k : Packet) {fl : Fld} {mm : Nat} (hphl : fl.page ≠ .phl) :
    getF (turnAway s p k) fl mm = getF s fl mm := by
  unfold turnAway
  repeat' (first
    | with_reducible rfl
    | simp (disch := assumption) only [getF_ite, ite_self, crcErr_page, complete_page])

theorem forward_page (s : State) (p : Nat) (k : Packet) {fl : Fld} {mm : Nat} (hphl : fl.page ≠ .phl) :
    getF (forward s p k) fl mm = getF s fl mm := by
  unfold forward
  repeat' (first
    | with_reducible rfl
    | simp (disch := assumption) only [getF_ite, ite_self, raise_page, giveCredit_page, passOn_page, crcErr_page,
        complete_page, turnAway_page])

theorem takePkt_page (s : State) (p : Nat) (k : Packet) {fl : Fld} {mm : Nat} :
    getF (takePkt s p k) fl mm = getF s fl mm := by
  unfold takePkt
  repeat' (first
    | with_reducible rfl
    | simp only [getF_setPort])

theorem ackUpTo_page (s : State) (p : Nat) (a : BitVec 12) {fl : Fld} {mm : Nat} (hevr : fl.page ≠ .evr) (hslu : fl.page ≠
    .slu) :
    getF (ackUpTo s p a) fl mm = getF s fl mm := by
  unfold ackUpTo
  repeat' (first
    | with_reducible rfl
    | simp (disch := assumption) only [getF_ite, getF_setPort, ackedPkt_page]
    | refine (foldl_page (fun _ _ => ?_) _ _).trans ?_
    | split)

theorem markDraining_page (s : State) (k idx : Nat) {fl : Fld} {mm : Nat} :
    getF (markDraining s k idx) fl mm = getF s fl mm := by
  unfold markDraining
  repeat' (first
    | with_reducible rfl
    | simp only [getF_setStrm])

theorem sendCap_page (s : State) (p k : Nat) (g : Gran) {fl : Fld} {mm : Nat} (hphl : fl.page ≠ .phl) :
    getF (sendCap s p k g) fl mm = getF s fl mm := by
  unfold sendCap
  repeat' (first
    | with_reducible rfl
    | simp (disch := assumption) only [setF_page, sendPkt_page, markDraining_page])

theorem spill_page (s : State) (k : Nat) (g : Gran) {fl : Fld} {mm : Nat} (hslu : fl.page ≠ .slu) (hmem : fl.page ≠ .mem) :
    getF (spill s k g) fl mm = getF s fl mm := by
  unfold spill
  repeat' (first
    | with_reducible rfl
    | simp (disch := assumption) only [getF_ite, ite_self, setF_page, freeGran_page, becameFull_page, dramWrite_page])

theorem takeTurn_page (s : State) (k : Nat) {fl : Fld} {mm : Nat} :
    getF (takeTurn s k) fl mm = getF s fl mm := by
  unfold takeTurn
  repeat' (first
    | with_reducible rfl
    | simp only [getF_ite, getF_setStrm]
    | refine (forAll_page (fun _ _ => ?_) _ _).trans ?_
    | split)

theorem ackDraining_page (s : State) (k : Nat) {fl : Fld} {mm : Nat} (hevr : fl.page ≠ .evr) (hslu : fl.page ≠ .slu) :
    getF (ackDraining s k) fl mm = getF s fl mm := by
  unfold ackDraining
  repeat' (first
    | with_reducible rfl
    | simp (disch := assumption) only [getF_ite, ite_self, ackUpTo_page]
    | refine (forAll_page (fun _ _ => ?_) _ _).trans ?_
    | split)

theorem smbAnswer_page (s : State) (code : Byte) (count bs : List Byte) {fl : Fld} {mm : Nat} :
    getF (smbAnswer s code count bs) fl mm = getF s fl mm := by
  unfold smbAnswer
  repeat' (first
    | with_reducible rfl
    | simp only [getF_upd])

theorem loadIr_page (s : State) (ir : TapIr) {fl : Fld} {mm : Nat} :
    getF (loadIr s ir) fl mm = getF s fl mm := by
  unfold loadIr
  repeat' (first
    | with_reducible rfl
    | simp only [getF_upd])

theorem boundary_page (s : State) (ir : TapIr) (pins shift : List Bool) {fl : Fld} {mm : Nat} :
    getF (boundary s ir pins shift) fl mm = getF s fl mm := by
  unfold boundary
  repeat' (first
    | with_reducible rfl
    | simp only [getF_upd, loadIr_page])

theorem midSwitch_page (s : State) (q : Nat) (t : Stamp) (f : State → State) {fl : Fld} {mm : Nat} (hevr : fl.page ≠ .evr)
    (hpol : fl.page ≠ .pol) (hoct : fl.page ≠ .oct) (hseq : fl.page ≠ .seq) (hmce : fl.page ≠ .mce) (hf : ∀ s, getF (f s) fl
    mm = getF s fl mm) :
    getF (midSwitch s q t f) fl mm = getF s fl mm := by
  unfold midSwitch
  repeat' (first
    | with_reducible rfl
    | simp (disch := assumption) only [getF_ite, ite_self, hf, settleViol_page, midBroken_page]
    | refine (forAll_page (fun _ _ => ?_) _ _).trans ?_)

theorem consumeEntry_page (s : State) (q : Nat) (e : BitVec 64) {fl : Fld} {mm : Nat} (hevr : fl.page ≠ .evr) (hdsc : fl.page
    ≠ .dsc) (hpol : fl.page ≠ .pol) (hoct : fl.page ≠ .oct) (hseq : fl.page ≠ .seq) (hmce : fl.page ≠ .mce) :
    getF (consumeEntry s q e) fl mm = getF s fl mm := by
  unfold consumeEntry
  extract_lets t u s1
  have h1 : getF s1 fl mm = getF s fl mm := by simp (disch := assumption) only [s1, putQueue_page]
  have ha (s : State) : getF (applyEntry s q e t) fl mm = getF s fl mm := by simp (disch := assumption) only
      [applyEntry_page]
  simp (disch := assumption) only [stampQueue_page]
  split
  · simp (disch := assumption) only [midSwitch_page, h1]
  · simp (disch := assumption) only [applyEntry_page, h1]

theorem consumeNow_page (s : State) (q : Nat) (e : BitVec 64) {fl : Fld} {mm : Nat} (hevr : fl.page ≠ .evr) (hdsc : fl.page ≠
    .dsc) (hpol : fl.page ≠ .pol) (hoct : fl.page ≠ .oct) (hseq : fl.page ≠ .seq) (hmce : fl.page ≠ .mce) :
    getF (consumeNow s q e) fl mm = getF s fl mm := by
  unfold consumeNow
  repeat' (first
    | with_reducible rfl
    | simp (disch := assumption) only [getF_ite, ite_self, consumeEntry_page])

theorem queueTick_page (s : State) (q : Nat) {fl : Fld} {mm : Nat} (hevr : fl.page ≠ .evr) (hdsc : fl.page ≠ .dsc) (hpol :
    fl.page ≠ .pol) (hoct : fl.page ≠ .oct) (hseq : fl.page ≠ .seq) (hmce : fl.page ≠ .mce) :
    getF (queueTick s q) fl mm = getF s fl mm := by
  unfold queueTick
  repeat' (first
    | with_reducible rfl
    | simp (disch := assumption) only [getF_ite, ite_self, addCt_page, raise_page, putQueue_page, consumeEntry_page]
    | split)

end Sys2Proof.Machine
end

