-- ==== Sys2Proof/Laws/FrameHost.lean ====
section
/-! SUPPORT. The page frame of register and indirect accesses: a write of a page leaves the pages that `writePages` and `ixPages`
do not name. -/

namespace Sys2Proof.Machine

set_option maxRecDepth 4000 in
/-- The rows of a page are fields of that page. -/
theorem pageRows_all (p : Page) (n : Nat) : (pageRows p n).all (fun f => f.page == p) = true := by
  cases p
  case phl =>
    rw [pageRows, F.phlRows]
    split <;> rfl
  all_goals rfl

theorem pageFields_page {p : Page} {n off : Nat} {f : Fld} (h : f ∈ pageFields p n off) : f.page = p := by
  have := List.all_eq_true.1 (pageRows_all p n) f (List.mem_filter.1 h).1
  simpa using this

/-- The accepted fields of a write of a register are fields of its page. -/
def OnPage (p : Page) (acc : List (Fld × Nat)) : Prop := ∀ x ∈ acc, x.1.page = p

theorem accepted_page {p : Page} (fs : List Fld) (g : Fld → Judged) (h : ∀ f ∈ fs, f.page = p) :
    OnPage p ((fs.map (fun f => (f, g f))).filterMap (fun x => x.2.ok.map (fun y => (x.1, y)))) := by
  intro x hx
  obtain ⟨a, ha, hb⟩ := List.mem_filterMap.1 hx
  obtain ⟨f, hf, rfl⟩ := List.mem_map.1 ha
  obtain ⟨y, _, rfl⟩ := Option.map_eq_some_iff.1 hb
  exact h f hf

/-- The fields of a word of an indirect space are fields of its page. -/
theorem ixFields_page {p : Page} {sp a : Nat} {f : Fld} (h : f ∈ ixFields p sp a) : f.page = p := by
  have hall : (ixFields p sp a).all (fun f => f.page == p) = true := by
    unfold ixFields
    extract_lets j w
    clear_value j w
    repeat' (first | rfl | split)
  simpa using List.all_eq_true.1 hall f h


/-! Writes of a page. -/

theorem refuse_page (s : State) (ini : Initiator) (p : Page) (n : Nat) (ix : Bool) (a : Nat) (l : List Reason) {fl : Fld} {mm : Nat}
    (h : fl.page ≠ p) : getF (refuse s ini p n ix a l) fl mm = getF s fl mm := by
  unfold refuse
  split
  · rfl
  · simp (disch := assumption) only [raiseIf_page, raise_page, setF_page]

theorem ackEvents_page (s : State) (p : Page) (n : Nat) {fl : Fld} {mm : Nat} (h : fl.page ≠ p) :
    getF (ackEvents s p n) fl mm = getF s fl mm := by
  unfold ackEvents
  split <;> simp (disch := assumption) only [raise_page, setF_page]

theorem headWrite_page (s : State) (p : Page) (n off o k : Nat) (acc : List (Fld × Nat)) {fl : Fld} {mm : Nat} (h : fl.page ≠ p) :
    getF (headWrite s p n off o k acc) fl mm = getF s fl mm := by
  unfold headWrite
  repeat' (first | with_reducible rfl | simp (disch := assumption) only [ackEvents_page, maskEvents_page, forceEvents_page] | split)

theorem stores_page {p : Page} (n : Nat) (acc : List (Fld × Nat)) (ha : OnPage p acc) (s : State) {fl : Fld} {mm : Nat}
    (h : fl.page ≠ p) : getF (acc.foldl (fun s x => storeF s n x) s) fl mm = getF s fl mm := by
  induction acc generalizing s with
  | nil => rfl
  | cons x l ih =>
    rw [List.foldl_cons, ih (fun y hy => ha y (List.mem_cons_of_mem _ hy))]
    unfold storeF
    split
    · rfl
    · exact setF_page _ _ _ _ (by rw [ha x List.mem_cons_self]; exact h)

theorem setAcc_page {p : Page} (n : Nat) (acc : List (Fld × Nat)) (ha : OnPage p acc) (s : State) {fl : Fld} {mm : Nat}
    (h : fl.page ≠ p) : getF (acc.foldl (fun s x => setF s x.1 n x.2) s) fl mm = getF s fl mm := by
  induction acc generalizing s with
  | nil => rfl
  | cons x l ih =>
    rw [List.foldl_cons, ih (fun y hy => ha y (List.mem_cons_of_mem _ hy))]
    exact setF_page _ _ _ _ (by rw [ha x List.mem_cons_self]; exact h)

/-! Indirect words. -/

theorem mem_ixPages (p : Page) : p ∈ ixPages p := by cases p <;> decide

theorem commitWide_ixPages (s : State) (p : Page) (n sp e : Nat) (v : BitVec 192) {fl : Fld} {mm : Nat} (h : fl.page ∉ ixPages p) :
    getF (commitWide s p n sp e v) fl mm = getF s fl mm := by
  unfold commitWide
  split <;> simp only [ixPages, List.mem_cons, List.not_mem_nil, or_false, not_or] at h
  · exact commitConfig_page _ _ _ _ h
  · exact commitChar_page _ _ _ _ h.2.2.1
  · exact commitSeg_page _ _ _ _ h
  · exact commitMword_page _ _ _ _ h
  · exact commitStream_page _ _ _ h
  · exact getF_setWide ..

theorem writeStaged_page (s : State) (ini : Initiator) (p : Page) (n sp a v : Nat) {fl : Fld} {mm : Nat} (h : fl.page ∉ ixPages p) :
    getF (writeStaged s ini p n sp a v) fl mm = getF s fl mm := by
  have hp : fl.page ≠ p := fun e => h (e ▸ mem_ixPages p)
  unfold writeStaged
  extract_lets w i e s0 x why x1 s1
  have h0 : getF s0 fl mm = getF s fl mm := by
    simp only [s0]; split
    · rfl
    · exact loadStage_page ..
  have h1 : getF s1 fl mm = getF s fl mm := (refuse_page _ _ _ _ _ _ _ hp).trans h0
  split
  · rw [commitWide_ixPages _ _ _ _ _ _ h, setStage_page, h1]
  · rw [setStage_page, h1]

theorem ixEffect_ixPages (s : State) (p : Page) (n sp a : Nat) (acc : List (Fld × Nat)) (old : Fld → Nat) {fl : Fld} {mm : Nat}
    (h : fl.page ∉ ixPages p) : getF (ixEffect s p n sp a acc old) fl mm = getF s fl mm := by
  unfold ixEffect
  extract_lets j c got s1 s2
  split
  · rfl
  · split <;> simp only [ixPages, List.mem_cons, List.not_mem_nil, or_false, not_or] at h
    · exact pmuCfgWrite_page _ _ _ _ _ _ h.2.1 h.2.2.1 h.2.2.2
    · exact pmuForceSet_page _ _ _ h.2.1 h.2.2.1 h.2.2.2
    · split
      · rfl
      · exact applyDeskew_page _ _ h.2.2.1
    · have h1 : getF s1 fl mm = getF s fl mm := by
        simp only [s1]; split
        · rfl
        · exact monOff_page _ _ _ _ h.1
      have h2 : getF s2 fl mm = getF s fl mm := by
        simp only [s2]; split
        · exact h1
        · exact (monOff_page _ _ _ _ h.1).trans h1
      split
      · exact (refreshLevee_page ..).trans h2
      · exact h2
    · exact fltDisable_page _ _ h.1 h.2
    · rfl

theorem writeFields_page (s : State) (ini : Initiator) (p : Page) (n sp a v : Nat) {fl : Fld} {mm : Nat} (h : fl.page ∉ ixPages p) :
    getF (writeFields s ini p n sp a v) fl mm = getF s fl mm := by
  have hp : fl.page ≠ p := fun e => h (e ▸ mem_ixPages p)
  unfold writeFields
  extract_lets z fs js acc old s1 s2
  have hz : getF z fl mm = getF s fl mm := by
    simp only [z]; split
    · next e =>
      rw [e.1] at h
      simp only [ixPages, List.mem_cons, List.not_mem_nil, or_false, not_or] at h
      exact pmuNowDue_page _ h.2.1 h.2.2.1 h.2.2.2
    · rfl
  rw [ixEffect_ixPages _ _ _ _ _ _ _ h]
  refine (refuse_page _ _ _ _ _ _ _ hp).trans ?_
  rw [← hz]
  simp only [s1]
  split
  · rfl
  · exact setAcc_page n _ (accepted_page _ _ (fun f hf => ixFields_page hf)) _ hp

theorem writeIx_page (s : State) (ini : Initiator) (p : Page) (n sp a v : Nat) {fl : Fld} {mm : Nat} (h : fl.page ∉ ixPages p) :
    getF (writeIx s ini p n sp a v) fl mm = getF s fl mm := by
  have hp : fl.page ≠ p := fun e => h (e ▸ mem_ixPages p)
  unfold writeIx
  extract_lets z
  split
  · exact raise_page _ _ _ _ hp
  · split
    · rfl
    · split
      · rfl
      · split
        · exact writeStaged_page _ _ _ _ _ _ _ h
        · split
          · split
            · exact refuse_page _ _ _ _ _ _ _ hp
            · exact getF_setWide ..
          · exact writeFields_page _ _ _ _ _ _ _ h

theorem completeOne_page (s : State) (p : Page) (n : Nat) {fl : Fld} {mm : Nat} (h : fl.page ∉ ixPages p) :
    getF (completeOne s p n) fl mm = getF s fl mm := by
  unfold completeOne
  split
  · rfl
  · extract_lets s1
    split
    · rw [track_page, writeIx_page _ _ _ _ _ _ _ h]; exact setPosted_page ..
    · exact setPosted_page ..

theorem completeN_page (k : Nat) (s : State) (p : Page) (n : Nat) {fl : Fld} {mm : Nat} (h : fl.page ∉ ixPages p) :
    getF (completeN k s p n) fl mm = getF s fl mm := by
  induction k generalizing s with
  | zero => rfl
  | succ k ih => rw [completeN, ih]; exact completeOne_page _ _ _ h

theorem postIx_page (s : State) (ini : Initiator) (p : Page) (n v : Nat) {fl : Fld} {mm : Nat} (h : fl.page ∉ ixPages p) :
    getF (postIx s ini p n v) fl mm = getF s fl mm := by
  have hp : fl.page ≠ p := fun e => h (e ▸ mem_ixPages p)
  unfold postIx
  extract_lets s1 a x
  refine (setF_page _ _ _ _ hp).trans ((setPosted_page ..).trans ?_)
  simp only [s1]; split
  · exact completeOne_page _ _ _ h
  · rfl

theorem readIx_page (s : State) (ini : Initiator) (p : Page) (n : Nat) {fl : Fld} {mm : Nat} (h : fl.page ∉ ixPages p) :
    getF (readIx s ini p n).2 fl mm = getF s fl mm := by
  have hp : fl.page ≠ p := fun e => h (e ▸ mem_ixPages p)
  unfold readIx
  extract_lets s1 sp a z s2 r b
  have h1 : getF s1 fl mm = getF s fl mm := completeN_page _ _ _ _ h
  refine (track_page ..).trans ((setF_page _ _ _ _ hp).trans ?_)
  refine Eq.trans ?_ h1
  simp only [r]; split
  · exact raise_page _ _ _ _ hp
  · split
    · rfl
    · simp only [s2]; split
      · rfl
      · exact loadStage_page ..

theorem readReg_page (s : State) (ini : Initiator) (p : Page) (n off : Nat) {fl : Fld} {mm : Nat} (h : fl.page ∉ ixPages p) :
    getF (readReg s ini p n off).2 fl mm = getF s fl mm := by
  unfold readReg
  split
  · exact readIx_page _ _ _ _ h
  · extract_lets s1
    simp only [s1]
    split
    · next e => rw [e.1] at h; exact bdnCapture_page _ (by simpa [ixPages] using h)
    · rfl

theorem pageReadReq_page (s : State) (ini : Initiator) (p : Page) (n off : Nat) {fl : Fld} {mm : Nat} (h : fl.page ∉ ixPages p) :
    getF (pageReadReq s ini p n off).2 fl mm = getF s fl mm := by
  unfold pageReadReq
  split
  · exact readReg_page _ _ _ _ _ h
  · rfl
  · rfl

/-! Registers. -/

theorem polWrite_off (s : State) (p off v : Nat) (acc : List (Fld × Nat)) {fl : Fld} {mm : Nat} (h : ¬ off < 0x040)
    (hw : fl.page ∉ writePages .pol off) : getF (polWrite s p off v acc) fl mm = getF s fl mm := by
  have h0 : ¬ (off = 0x030 ∨ off = 0x034) := by omega
  simp only [writePages, h0, h, if_false, runPages] at hw
  unfold polWrite
  split
  · rfl
  · by_cases e : off = 0x040
    · simp only [e, if_true, List.mem_cons, List.not_mem_nil, or_false, not_or] at hw ⊢
      obtain ⟨_, _, _, _, _, _, _, _, _, _, _⟩ := hw
      simp (disch := assumption) only [runctl_page]
    · by_cases e1 : off = 0x044
      · simp [e1] at hw ⊢
        obtain ⟨_, _, _, _, _, _, _⟩ := hw
        simp (disch := assumption) only [octmapSet_page]
      · by_cases e2 : off = 0x048
        · simp [e2] at hw ⊢
          obtain ⟨_, _, _, _, _, _, _⟩ := hw
          simp (disch := assumption) only [octmapSet_page]
        · by_cases e3 : off = 0x04C
          · simp [e3] at hw ⊢
            obtain ⟨_, _, _⟩ := hw
            simp (disch := assumption) only [dsmapSet_page]
          · by_cases e4 : off = 0x0C0
            · simp [e4, pmuReg] at hw ⊢
              obtain ⟨_, _, _⟩ := hw
              refine forAll_page (fun _ _ => ?_) _ _
              split
              · simp (disch := assumption) only [pmuctl_page]
              · rfl
            · by_cases e5 : off = 0x0E8
              · simp [e5, pmuReg] at hw ⊢
                obtain ⟨_, _⟩ := hw
                simp (disch := assumption) only [pushEntry_page]
              · simp only [e, e1, e2, e3, e4, e5, if_false, or_self] at hw ⊢
                split
                · exact faultSources_page ..
                · split
                  · exact clearSet_page ..
                  · rfl

theorem pageWrite_off (s : State) (ini : Initiator) (p : Page) (n off v : Nat) (acc : List (Fld × Nat)) (old : Fld → Nat) {fl : Fld}
    {mm : Nat} (h : ¬ off < 0x040) (hw : fl.page ∉ writePages p off) :
    getF (pageWrite s ini p n off v acc old) fl mm = getF s fl mm := by
  have h0 : ¬ (off = 0x030 ∨ off = 0x034) := by omega
  cases p
  case pol => exact polWrite_off _ _ _ _ _ h hw
  all_goals
    simp only [writePages, h0, h, if_false, runPages, List.mem_cons, List.not_mem_nil, or_false, not_or] at hw
    simp only [pageWrite]
  · obtain ⟨_, _, _, _, _, _, _, _, _, _, _⟩ := hw
    simp (disch := assumption) only [devWrite_page]
  · obtain ⟨_, _, _, _, _, _, _, _, _, _, _, _, _⟩ := hw
    simp (disch := assumption) only [fltWrite_page]
  · exact hkpWrite_page _ _ _ _ hw
  · exact clkWrite_page _ _ _ _ _ hw.1 hw.2
  · exact evrWrite_page ..
  · exact bglWrite_page _ _ hw
  · exact phlWrite_page _ _ _ _ _ hw
  · exact nvmWrite_page _ _ _ hw
  · exact secWrite_page _ _ _ _ hw
  · exact sluWrite_page _ _ _ _ hw
  · exact memWrite_page _ _ _ hw
  · exact dscWrite_page _ _ _ _ hw.1 hw.2.1 hw.2.2
  · exact acqWrite_page _ _ _ _ _ hw.2 hw.1
  · exact octWrite_page ..
  · exact seqWrite_page _ _ _ hw.1 hw.2
  · exact mceWrite_page _ _ _ hw.1 hw.2
  · refine cdiWrite_page _ _ _ ?_
    split at hw <;> simp only [List.mem_cons, List.not_mem_nil, or_false, not_or] at hw
    · exact hw.2.2
    · exact hw

/-- Orders that a write of a register of the unit finds due write the pages that the write may write. -/
theorem pmuReg_page (s : State) {p : Page} {off : Nat} (e : pmuReg p off = true) {fl : Fld} {mm : Nat} (h : fl.page ∉ writePages p off) :
    getF (pmuNowDue s) fl mm = getF s fl mm := by
  have e' := e
  simp only [pmuReg, Bool.or_eq_true, Bool.and_eq_true, beq_iff_eq, decide_eq_true_eq] at e'
  have hp : fl.page ∉ [Page.pol, .oct, .cdi] := by
    rcases e' with ⟨⟨rfl, h1⟩, h2⟩ | ⟨rfl, rfl⟩
    · have h3 : ¬ (off = 0x030 ∨ off = 0x034) := by omega
      have h4 : ¬ off < 0x040 := by omega
      have h5 : ¬ off = 0x040 := by omega
      have h6 : ¬ (off = 0x044 ∨ off = 0x048) := by omega
      have h7 : ¬ off = 0x04C := by omega
      simpa only [writePages, h3, h4, h5, h6, h7, if_false, e, if_true] using h
    · simpa [writePages, pmuReg] using h
  simp only [List.mem_cons, List.not_mem_nil, or_false, not_or] at hp
  exact pmuNowDue_page _ hp.1 hp.2.1 hp.2.2

theorem mem_writePages (p : Page) (off : Nat) : p ∈ writePages p off := by
  unfold writePages
  split
  · exact mem_ixPages p
  · split
    · exact List.mem_singleton.2 rfl
    · cases p <;> simp only [runPages] <;> (repeat' split) <;> simp

theorem writeReg_page (s : State) (ini : Initiator) (p : Page) (n off v : Nat) {fl : Fld} {mm : Nat} (h : fl.page ∉ writePages p off) :
    getF (writeReg s ini p n off v) fl mm = getF s fl mm := by
  have hp : fl.page ≠ p := fun e => h (e ▸ mem_writePages p off)
  unfold writeReg
  split
  · next e => exact postIx_page _ _ _ _ _ (by simpa [writePages, e] using h)
  · extract_lets fs s0 js acc old s1 s2 s3 s4
    have h0 : getF s0 fl mm = getF s fl mm := by
      simp only [s0]; split
      · next e =>
        simp only [Bool.and_eq_true, decide_eq_true_eq] at e
        exact completeN_page _ _ _ _ (by simpa [writePages, e.1] using h)
      · split
        · next e => exact pmuReg_page s e h
        · rfl
    have h1 : getF s1 fl mm = getF s fl mm :=
      (stores_page n _ (accepted_page _ _ (fun f hf => pageFields_page hf)) _ hp).trans h0
    have h2 : getF s2 fl mm = getF s fl mm := (refuse_page _ _ _ _ _ _ _ hp).trans h1
    have h3 : getF s3 fl mm = getF s fl mm := (headWrite_page _ _ _ _ _ _ _ hp).trans h2
    have h4 : getF s4 fl mm = getF s fl mm := by
      simp only [s4]; split
      · exact (track_page ..).trans h3
      · exact h3
    split
    · exact h4
    · next e => exact (pageWrite_off _ _ _ _ _ _ _ _ e h).trans h4

theorem hostWrite_page (s : State) (ini : Initiator) (p : Page) (n off v : Nat) {fl : Fld} {mm : Nat} (h : fl.page ∉ writePages p off) :
    getF (hostWrite s ini p n off v) fl mm = getF s fl mm := by
  unfold hostWrite pageWriteReq
  split
  · exact writeReg_page _ _ _ _ _ _ h
  · rfl
  · rfl

theorem hostModify_page (s : State) (ini : Initiator) (f : Fld) (n v : Nat) {fl : Fld} {mm : Nat} (h : fl.page ∉ writePages f.page f.off) :
    getF (hostModify s ini f n v) fl mm = getF s fl mm := hostWrite_page _ _ _ _ _ _ h

theorem hostIx_page (s : State) (ini : Initiator) (p : Page) (n sp a v : Nat) {fl : Fld} {mm : Nat} (h : fl.page ∉ ixPages p) :
    getF (hostIx s ini p n sp a v) fl mm = getF s fl mm := by
  unfold hostIx
  exact (completeN_page _ _ _ _ h).trans ((hostWrite_page _ _ _ _ _ _ h).trans (hostWrite_page _ _ _ _ _ _ h))

end Sys2Proof.Machine
end

