-- ==== Sys2Proof/Laws/Inert.lean ====
section
/-! SUPPORT. What the operations never write, part 1: the named parts of the state, reports, levels, timing, NVM records, the
    Sluice, acquisition, the parametric unit, the TDC. Each operation has one lemma: it leaves the queue, the OTP,
the lifecycle target, the TAP, the mailboxes and DRAM as they are. -/

namespace Sys2Proof.Machine

/-- What a command rarely writes: the queue, the OTP, the TAP, the mailboxes and DRAM. -/
def inert (s : State) : List Instr × Otp × Option Nat × Jtag × List Host.Cell × List Host.Cell :=
  (s.pending, s.otp, s.sec.lcTo, s.jtag, s.mbox, s.dram)

theorem inert_ite (c : Prop) [Decidable c] (a b : State) : inert (if c then a else b) = if c then inert a else inert b :=
  apply_ite inert c a b

theorem forAll_inert {f : State → Nat → State} (h : ∀ s n, inert (f s n) = inert s) (l : List Nat) (s : State) :
    inert (forAll l s f) = inert s := by
  unfold forAll
  induction l generalizing s with
  | nil => rfl
  | cons n l ih => rw [List.foldl_cons, ih, h]

theorem foldl_inert {α : Type} {f : State → α → State} (h : ∀ s a, inert (f s a) = inert s) (l : List α) (s : State) :
    inert (l.foldl f s) = inert s := by
  induction l generalizing s with
  | nil => rfl
  | cons n l ih => rw [List.foldl_cons, ih, h]

/-- An update of other fields leaves the inert part. -/
theorem inert_upd (t : State) (regs : Store Word) (wide : Store (BitVec 192)) (stage : Store Stage) (posted : Store (List
    Posted)) (strms : Store Strm) (acqs : Store AcqU) (chans : Store Chan) (pols : Store Pol) (queues : Store DacQ) (dss :
    Store Ds) (bnds : Store Bnd) (dies : Store Die) (flts : Store Flt) (fltBad : List Nat) (rtr : Router) (clk : Clk) (bgl :
    Bgl) (hkp : Hkp) (pwr : Pwr) (nvm : Nvm) (ports : Store Port) (smb : Smb) (dramBad : List Nat) (pool : Store (List
    (BitVec 64))) (ret : Option Word) (bdn : BitVec 64) (clkSteps : Nat) (holds : Nat) (free : Nat) (cyc : List (Nat × Nat))
    :
    inert (State.mk regs wide stage posted strms acqs chans pols queues dss bnds dies flts fltBad t.dram rtr clk bgl hkp pwr
        nvm t.otp t.sec ports smb t.jtag t.mbox dramBad pool ret bdn clkSteps holds free cyc t.pending) = inert t := rfl

theorem inert_updSec (t : State) (regs : Store Word) (wide : Store (BitVec 192)) (stage : Store Stage) (posted : Store (List
    Posted)) (strms : Store Strm) (acqs : Store AcqU) (chans : Store Chan) (pols : Store Pol) (queues : Store DacQ) (dss :
    Store Ds) (bnds : Store Bnd) (dies : Store Die) (flts : Store Flt) (fltBad : List Nat) (rtr : Router) (clk : Clk) (bgl :
    Bgl) (hkp : Hkp) (pwr : Pwr) (nvm : Nvm) (ports : Store Port) (smb : Smb) (dramBad : List Nat) (pool : Store (List
    (BitVec 64))) (ret : Option Word) (bdn : BitVec 64) (clkSteps : Nat) (holds : Nat) (free : Nat) (cyc : List (Nat × Nat))
    (a : Store SecP) (b : Option FwImage) (c : Bool) (d : List Nat) (e : List Byte) :
    inert (State.mk regs wide stage posted strms acqs chans pols queues dss bnds dies flts fltBad t.dram rtr clk bgl hkp pwr
        nvm t.otp ⟨a, b, c, d, e, t.sec.lcTo⟩ ports smb t.jtag t.mbox dramBad pool ret bdn clkSteps holds free cyc t.pending)
        = inert t := rfl

theorem freeW_inert (s : State) : inert (freeW s).2 = inert s := rfl

theorem freeB_inert (s : State) : inert (freeB s).2 = inert s := rfl

theorem setF_inert (s : State) (f : Fld) (n v : Nat) :
    inert (setF s f n v) = inert s := by
  unfold setF
  repeat' (first
    | with_reducible rfl
    | simp only [inert_upd])

theorem addCt_inert (s : State) (f : Fld) (n k : Nat) :
    inert (addCt s f n k) = inert s := by
  unfold addCt
  repeat' (first
    | with_reducible rfl
    | simp only [setF_inert])

theorem set64_inert (s : State) (lo hi : Fld) (n : Nat) (v : BitVec 64) :
    inert (set64 s lo hi n v) = inert s := by
  unfold set64
  repeat' (first
    | with_reducible rfl
    | simp only [setF_inert])

theorem setWide_inert (s : State) (p : Page) (n sp e : Nat) (v : BitVec 192) :
    inert (setWide s p n sp e v) = inert s := by
  unfold setWide
  repeat' (first
    | with_reducible rfl
    | simp only [inert_upd])

theorem setChan_inert (s : State) (c : Nat) (x : Chan) :
    inert (setChan s c x) = inert s := by
  unfold setChan
  repeat' (first
    | with_reducible rfl
    | simp only [inert_upd])

theorem setPol_inert (s : State) (p : Nat) (x : Pol) :
    inert (setPol s p x) = inert s := by
  unfold setPol
  repeat' (first
    | with_reducible rfl
    | simp only [inert_upd])

theorem setAcq_inert (s : State) (p : Nat) (x : AcqU) :
    inert (setAcq s p x) = inert s := by
  unfold setAcq
  repeat' (first
    | with_reducible rfl
    | simp only [inert_upd])

theorem setStrm_inert (s : State) (k : Nat) (x : Strm) :
    inert (setStrm s k x) = inert s := by
  unfold setStrm
  repeat' (first
    | with_reducible rfl
    | simp only [inert_upd])

theorem setDs_inert (s : State) (d : Nat) (x : Ds) :
    inert (setDs s d x) = inert s := by
  unfold setDs
  repeat' (first
    | with_reducible rfl
    | simp only [inert_upd])

theorem setBnd_inert (s : State) (b : Nat) (x : Bnd) :
    inert (setBnd s b x) = inert s := by
  unfold setBnd
  repeat' (first
    | with_reducible rfl
    | simp only [inert_upd])

theorem setDie_inert (s : State) (d : Nat) (x : Die) :
    inert (setDie s d x) = inert s := by
  unfold setDie
  repeat' (first
    | with_reducible rfl
    | simp only [inert_upd])

theorem setQueue_inert (s : State) (q : Nat) (x : DacQ) :
    inert (setQueue s q x) = inert s := by
  unfold setQueue
  repeat' (first
    | with_reducible rfl
    | simp only [inert_upd])

theorem reach_inert (s : State) (t : Stamp) :
    inert (reach s t) = inert s := by
  unfold reach
  repeat' (first
    | with_reducible rfl
    | simp only [inert_ite, ite_self, inert_upd])

theorem cycle_inert (s : State) :
    inert (cycle s) = inert s := by
  unfold cycle
  repeat' (first
    | with_reducible rfl
    | simp only [inert_upd])

theorem report_inert (s : State) (p : Page) (n bit : Nat) :
    inert (report s p n bit) = inert s := by
  unfold report
  repeat' (first
    | with_reducible rfl
    | simp only [inert_ite, ite_self, inert_upd])

theorem countEvt_inert (s : State) (p : Page) (n : Nat) :
    inert (countEvt s p n) = inert s := by
  unfold countEvt
  repeat' (first
    | with_reducible rfl
    | simp only [inert_ite, ite_self, inert_upd, setF_inert])

theorem raise_inert (s : State) (p : Page) (n bit : Nat) :
    inert (raise s p n bit) = inert s := by
  unfold raise
  repeat' (first
    | with_reducible rfl
    | simp only [inert_ite, ite_self, setF_inert, report_inert, countEvt_inert])

theorem raiseIf_inert (c : Bool) (s : State) (p : Page) (n bit : Nat) :
    inert (raiseIf c s p n bit) = inert s := by
  unfold raiseIf
  repeat' (first
    | with_reducible rfl
    | simp only [inert_ite, ite_self, raise_inert])

theorem setRs_inert (s : State) (p : Nat) (r : RS) :
    inert (setRs s p r) = inert s := by
  unfold setRs
  repeat' (first
    | with_reducible rfl
    | simp only [setF_inert])

theorem setB_inert (s : State) (b : Nat) (fs fm : Fld) (v : Nat) :
    inert (setB s b fs fm v) = inert s := by
  unfold setB
  repeat' (first
    | with_reducible rfl
    | simp only [inert_ite, ite_self, setF_inert])

theorem launch_inert (s : State) (e : Ev) :
    inert (launch s e) = inert s := by
  unfold launch
  repeat' (first
    | with_reducible rfl
    | simp only [inert_upd])

theorem setLive_inert (s : State) (src : Nat) (v : Bool) :
    inert (setLive s src v) = inert s := by
  unfold setLive
  repeat' (first
    | with_reducible rfl
    | simp only [inert_upd])

theorem setCorr_inert (s : State) (src : Nat) (v : Bool) :
    inert (setCorr s src v) = inert s := by
  unfold setCorr
  repeat' (first
    | with_reducible rfl
    | simp only [inert_upd])

theorem forwardEv_inert (s : State) (e : Ev) :
    inert (forwardEv s e) = inert s := by
  unfold forwardEv
  repeat' (first
    | with_reducible rfl
    | simp only [inert_upd, launch_inert])

theorem correct_inert (s : State) (src : Nat) (t : Stamp) :
    inert (correct s src t) = inert s := by
  unfold correct
  repeat' (first
    | with_reducible rfl
    | simp only [inert_ite, ite_self, setCorr_inert, forwardEv_inert])

theorem uncorrect_inert (s : State) (src : Nat) (t : Stamp) :
    inert (uncorrect s src t) = inert s := by
  unfold uncorrect
  repeat' (first
    | with_reducible rfl
    | simp only [inert_ite, ite_self, inert_upd]
    | split)

theorem dieEvent_inert (s : State) (e : Ev) :
    inert (dieEvent s e) = inert s := by
  unfold dieEvent
  repeat' (first
    | with_reducible rfl
    | simp only [inert_ite, ite_self, addCt_inert, raise_inert, setLive_inert, forwardEv_inert, correct_inert,
        uncorrect_inert])

theorem setFlt_inert (s : State) (f : Nat) (x : Flt) :
    inert (setFlt s f x) = inert s := by
  unfold setFlt
  repeat' (first
    | with_reducible rfl
    | simp only [inert_upd])

theorem owe_inert (s : State) (f : Nat) :
    inert (owe s f) = inert s := by
  unfold owe
  repeat' (first
    | with_reducible rfl
    | simp only [setFlt_inert])

theorem causeOn_inert (s : State) (f : Nat) (names : List Nat) :
    inert (causeOn s f names) = inert s := by
  unfold causeOn
  repeat' (first
    | with_reducible rfl
    | simp only [inert_ite, ite_self, setFlt_inert])

theorem causeOff_inert (s : State) (f : Nat) :
    inert (causeOff s f) = inert s := by
  unfold causeOff
  repeat' (first
    | with_reducible rfl
    | simp only [setFlt_inert])

theorem causeDrop_inert (s : State) (f : Nat) :
    inert (causeDrop s f) = inert s := by
  unfold causeDrop
  repeat' (first
    | with_reducible rfl
    | simp only [setFlt_inert])

theorem muteStart_inert (s : State) (p k : Nat) (t : Stamp) :
    inert (muteStart s p k t) = inert s := by
  unfold muteStart
  repeat' (first
    | with_reducible rfl
    | simp only [inert_ite, ite_self, setPol_inert])

theorem muteStarts_inert (s : State) (p : Nat) (f : Nat → Bool) (t : Stamp) :
    inert (muteStarts s p f t) = inert s := by
  unfold muteStarts
  repeat' (first
    | with_reducible rfl
    | simp only [inert_ite, ite_self, muteStart_inert]
    | refine (forAll_inert (fun _ _ => ?_) _ _).trans ?_)

theorem refreshLevee_inert (s : State) (p : Nat) :
    inert (refreshLevee s p) = inert s := by
  unfold refreshLevee
  repeat' (first
    | with_reducible rfl
    | simp only [inert_ite, ite_self, causeOn_inert, causeOff_inert])

theorem putQueue_inert (s : State) (q : Nat) (x : DacQ) :
    inert (putQueue s q x) = inert s := by
  unfold putQueue
  repeat' (first
    | with_reducible rfl
    | simp only [inert_ite, ite_self, setF_inert, setQueue_inert])

theorem emptyQueue_inert (s : State) (q : Nat) :
    inert (emptyQueue s q) = inert s := by
  unfold emptyQueue
  repeat' (first
    | with_reducible rfl
    | simp only [putQueue_inert])

theorem suspendQueue_inert (s : State) (q : Nat) (v : Bool) :
    inert (suspendQueue s q v) = inert s := by
  unfold suspendQueue
  repeat' (first
    | with_reducible rfl
    | simp only [putQueue_inert])

theorem pushEntry_inert (s : State) (q : Nat) (e : BitVec 64) :
    inert (pushEntry s q e) = inert s := by
  unfold pushEntry
  repeat' (first
    | with_reducible rfl
    | simp only [inert_ite, ite_self, addCt_inert, raise_inert, putQueue_inert])

theorem pushStaged_inert (s : State) (p k : Nat) :
    inert (pushStaged s p k) = inert s := by
  unfold pushStaged
  repeat' (first
    | with_reducible rfl
    | simp only [inert_ite, ite_self, raise_inert, pushEntry_inert])

theorem pushLset_inert (s : State) (p : Nat) (ls : BitVec 4) :
    inert (pushLset s p ls) = inert s := by
  unfold pushLset
  repeat' (first
    | with_reducible rfl
    | simp only [inert_ite, ite_self, setPol_inert, pushEntry_inert])

theorem applyDac_inert (s : State) (c d code : Nat) (g : Bool) :
    inert (applyDac s c d code g) = inert s := by
  unfold applyDac
  repeat' (first
    | with_reducible rfl
    | simp only [setF_inert])

theorem applyLset_inert (s : State) (l c : Nat) :
    inert (applyLset s l c) = inert s := by
  unfold applyLset
  repeat' (first
    | with_reducible rfl
    | simp only [applyDac_inert]
    | refine (forAll_inert (fun _ _ => ?_) _ _).trans ?_)

theorem gainSwitch_inert (s : State) (q : Nat) (sw : Bool) :
    inert (gainSwitch s q sw) = inert s := by
  unfold gainSwitch
  repeat' (first
    | with_reducible rfl
    | simp only [inert_ite, ite_self, putQueue_inert])

theorem levelOp_inert (s : State) (q : Nat) (cs : List Nat) (f : State → Nat → State) (hf : ∀ s n, inert (f s n) = inert s) :
    inert (levelOp s q cs f) = inert s := by
  unfold levelOp
  repeat' (first
    | with_reducible rfl
    | simp only [gainSwitch_inert, hf]
    | refine (forAll_inert (fun _ _ => ?_) _ _).trans ?_)

theorem applyFaultChan_inert (s : State) (c : Nat) :
    inert (applyFaultChan s c) = inert s := by
  unfold applyFaultChan
  repeat' (first
    | with_reducible rfl
    | simp only [applyDac_inert]
    | refine (forAll_inert (fun _ _ => ?_) _ _).trans ?_)

theorem applyFaultDacs_inert (s : State) (o : Nat) :
    inert (applyFaultDacs s o) = inert s := by
  unfold applyFaultDacs
  repeat' (first
    | with_reducible rfl
    | simp only [applyFaultChan_inert]
    | refine (forAll_inert (fun _ _ => ?_) _ _).trans ?_
    | refine (levelOp_inert _ _ _ _ (fun _ _ => ?_)).trans ?_
    | split)

theorem applyPwrupDacs_inert (s : State) (o : Nat) :
    inert (applyPwrupDacs s o) = inert s := by
  unfold applyPwrupDacs
  repeat' (first
    | with_reducible rfl
    | simp only [applyDac_inert]
    | refine (forAll_inert (fun _ _ => ?_) _ _).trans ?_)

theorem startDacs_inert (s : State) (o : Nat) :
    inert (startDacs s o) = inert s := by
  unfold startDacs
  repeat' (first
    | with_reducible rfl
    | simp only [inert_ite, ite_self, applyFaultDacs_inert, applyPwrupDacs_inert])

theorem dsLimit_inert (s : State) (d cause : Nat) :
    inert (dsLimit s d cause) = inert s := by
  unfold dsLimit
  repeat' (first
    | with_reducible rfl
    | simp only [setF_inert, raise_inert])

theorem dsCause_inert (s : State) (d : Nat) :
    inert (dsCause s d) = inert s := by
  unfold dsCause
  repeat' (first
    | with_reducible rfl
    | simp only [inert_ite, ite_self, causeOn_inert, causeOff_inert])

theorem clipDs_inert (s : State) (d : Nat) (clip : Bool) :
    inert (clipDs s d clip) = inert s := by
  unfold clipDs
  repeat' (first
    | with_reducible rfl
    | simp only [inert_ite, ite_self, setF_inert, dsLimit_inert, dsCause_inert])

theorem applySp_inert (s : State) (d : Nat) :
    inert (applySp s d) = inert s := by
  unfold applySp
  repeat' (first
    | with_reducible rfl
    | simp only [setF_inert, clipDs_inert])

theorem setPoint_inert (s : State) (d code : Nat) (g : Bool) :
    inert (setPoint s d code g) = inert s := by
  unfold setPoint
  repeat' (first
    | with_reducible rfl
    | simp only [setDs_inert, applySp_inert])

theorem setDsOn_inert (s : State) (d : Nat) (v : Bool) :
    inert (setDsOn s d v) = inert s := by
  unfold setDsOn
  repeat' (first
    | with_reducible rfl
    | simp only [setF_inert])

theorem dsMonOff_inert (s : State) (d : Nat) (t : Stamp) :
    inert (dsMonOff s d t) = inert s := by
  unfold dsMonOff
  repeat' (first
    | with_reducible rfl
    | simp only [inert_ite, ite_self, setDs_inert, dieEvent_inert])

theorem dsOff_inert (s : State) (d : Nat) (t : Stamp) :
    inert (dsOff s d t) = inert s := by
  unfold dsOff
  repeat' (first
    | with_reducible rfl
    | simp only [setF_inert, setDs_inert, dsCause_inert, setDsOn_inert, dsMonOff_inert])

theorem opErr_inert (s : State) (q : Nat) :
    inert (opErr s q) = inert s := by
  unfold opErr
  repeat' (first
    | with_reducible rfl
    | simp only [inert_ite, ite_self, addCt_inert, raise_inert])

theorem stampQueue_inert (s : State) (q : Nat) (t : Stamp) :
    inert (stampQueue s q t) = inert s := by
  unfold stampQueue
  repeat' (first
    | with_reducible rfl
    | simp only [inert_ite, ite_self, setF_inert, set64_inert])

theorem levelMute_inert (s : State) (q : Nat) (lsw : Bool) (t : Stamp) :
    inert (levelMute s q lsw t) = inert s := by
  unfold levelMute
  repeat' (first
    | with_reducible rfl
    | simp only [muteStarts_inert])

theorem dsMute_inert (s : State) (q : Nat) (t : Stamp) :
    inert (dsMute s q t) = inert s := by
  unfold dsMute
  repeat' (first
    | with_reducible rfl
    | simp only [muteStarts_inert]
    | split)

theorem applyEntry_inert (s : State) (q : Nat) (e : BitVec 64) (t : Stamp) :
    inert (applyEntry s q e t) = inert s := by
  unfold applyEntry
  repeat' (first
    | with_reducible rfl
    | simp only [inert_ite, ite_self, setF_inert, applyDac_inert, applyLset_inert, gainSwitch_inert, setPoint_inert,
        setDsOn_inert, dsOff_inert, opErr_inert, levelMute_inert, dsMute_inert]
    | refine (levelOp_inert _ _ _ _ (fun _ _ => ?_)).trans ?_
    | split)

theorem showRamp_inert (s : State) (d : Nat) (v : Bool) :
    inert (showRamp s d v) = inert s := by
  unfold showRamp
  repeat' (first
    | with_reducible rfl
    | simp only [setF_inert, setDs_inert])

theorem rampEnd_inert (s : State) (d : Nat) :
    inert (rampEnd s d) = inert s := by
  unfold rampEnd
  repeat' (first
    | with_reducible rfl
    | simp only [inert_ite, ite_self, setPoint_inert, setDsOn_inert, dsOff_inert, showRamp_inert])

theorem faultRamp_inert (s : State) (d : Nat) :
    inert (faultRamp s d) = inert s := by
  unfold faultRamp
  repeat' (first
    | with_reducible rfl
    | simp only [inert_ite, ite_self, setF_inert, setDs_inert, gainSwitch_inert, clipDs_inert, showRamp_inert,
        rampEnd_inert])

theorem dikeQueues_inert (s : State) (p : Nat) :
    inert (dikeQueues s p) = inert s := by
  unfold dikeQueues
  repeat' (first
    | with_reducible rfl
    | simp only [setF_inert, emptyQueue_inert, suspendQueue_inert, faultRamp_inert]
    | refine (forAll_inert (fun _ _ => ?_) _ _).trans ?_)

theorem releaseQueues_inert (s : State) (p : Nat) :
    inert (releaseQueues s p) = inert s := by
  unfold releaseQueues
  repeat' (first
    | with_reducible rfl
    | simp only [setDs_inert, suspendQueue_inert]
    | refine (forAll_inert (fun _ _ => ?_) _ _).trans ?_)

theorem takeDs_inert (s : State) (p d : Nat) :
    inert (takeDs s p d) = inert s := by
  unfold takeDs
  repeat' (first
    | with_reducible rfl
    | simp only [setF_inert, suspendQueue_inert])

theorem dropDs_inert (s : State) (d : Nat) :
    inert (dropDs s d) = inert s := by
  unfold dropDs
  repeat' (first
    | with_reducible rfl
    | simp only [setF_inert, emptyQueue_inert, suspendQueue_inert, dsMonOff_inert, faultRamp_inert])

theorem commitChar_inert (s : State) (o e : Nat) (v : BitVec 192) :
    inert (commitChar s o e v) = inert s := by
  unfold commitChar
  repeat' (first
    | with_reducible rfl
    | simp only [setF_inert, setWide_inert, raise_inert]
    | split)

theorem commitConfig_inert (s : State) (p t : Nat) (v : BitVec 192) :
    inert (commitConfig s p t v) = inert s := by
  unfold commitConfig
  repeat' (first
    | with_reducible rfl
    | simp only [inert_ite, setF_inert, setWide_inert, raise_inert]
    | split)

theorem clearSet_inert (s : State) (p t : Nat) :
    inert (clearSet s p t) = inert s := by
  unfold clearSet
  repeat' (first
    | with_reducible rfl
    | simp only [setWide_inert]
    | refine (forAll_inert (fun _ _ => ?_) _ _).trans ?_)

theorem clearSpace_inert (s : State) (pg : Page) (n sp : Nat) :
    inert (clearSpace s pg n sp) = inert s := by
  unfold clearSpace
  repeat' (first
    | with_reducible rfl
    | simp only [inert_upd])

theorem takeDeskew_inert (s : State) (ch : Nat) :
    inert (takeDeskew s ch) = inert s := by
  unfold takeDeskew
  repeat' (first
    | with_reducible rfl
    | simp only [setF_inert, setChan_inert, raiseIf_inert])

theorem applyDeskew_inert (s : State) (ch : Nat) :
    inert (applyDeskew s ch) = inert s := by
  unfold applyDeskew
  repeat' (first
    | with_reducible rfl
    | simp only [inert_ite, ite_self, setChan_inert, takeDeskew_inert])

theorem dueDeskew_inert (s : State) (ch : Nat) :
    inert (dueDeskew s ch) = inert s := by
  unfold dueDeskew
  repeat' (first
    | with_reducible rfl
    | simp only [inert_ite, ite_self, takeDeskew_inert])

theorem deskewRound_inert (s : State) :
    inert (deskewRound s) = inert s := by
  unfold deskewRound
  repeat' (first
    | with_reducible rfl
    | simp only [inert_ite, ite_self, setChan_inert, applyDeskew_inert]
    | refine (forAll_inert (fun _ _ => ?_) _ _).trans ?_)

theorem takePdly_inert (s : State) (p : Nat) :
    inert (takePdly s p) = inert s := by
  unfold takePdly
  repeat' (first
    | with_reducible rfl
    | simp only [setChan_inert, applyDeskew_inert]
    | refine (forAll_inert (fun _ _ => ?_) _ _).trans ?_)

theorem selfcalStart_inert (s : State) (d : Nat) :
    inert (selfcalStart s d) = inert s := by
  unfold selfcalStart
  repeat' (first
    | with_reducible rfl
    | simp only [setF_inert, setDie_inert])

theorem selfcalLeave_inert (s : State) (o : Nat) :
    inert (selfcalLeave s o) = inert s := by
  unfold selfcalLeave
  repeat' (first
    | with_reducible rfl
    | simp only [inert_ite, ite_self, setF_inert, setDie_inert])

theorem calChan_inert (s : State) (t0 : Nat) (rs : List CalResult) (c : Nat) :
    inert (calChan s t0 rs c) = inert s := by
  unfold calChan
  repeat' (first
    | with_reducible rfl
    | simp only [setF_inert, setChan_inert, applyDeskew_inert, freeW_inert]
    | split)

theorem programRec_inert (s : State) (r : NvmRecord) :
    inert (programRec s r) = inert s := by
  unfold programRec
  repeat' (first
    | with_reducible rfl
    | simp only [inert_upd, setF_inert])

theorem putRec_inert (s : State) (typ : Nat) (payload : List Byte) :
    inert (putRec s typ payload) = inert s := by
  unfold putRec
  repeat' (first
    | with_reducible rfl
    | simp only [set64_inert, programRec_inert])

theorem rescue_inert (s : State) (n k : Nat) : inert (rescue s n k) = inert s := by
  induction k generalizing s with
  | zero => rfl
  | succ k ih => unfold rescue; split <;> simp only [ih, putRec_inert]

theorem makeRoom_inert (s : State) (typ n : Nat) : inert (makeRoom s typ n) = inert s := by
  unfold makeRoom
  split <;> simp only [rescue_inert]

theorem writeRec_inert (s : State) (typ : Nat) (payload : List Byte) : inert (writeRec s typ payload) = inert s := by
  simp only [writeRec, putRec_inert, makeRoom_inert]

theorem loadFields_inert (l : List (Fld × Nat)) (bs : List Byte) (s : State) : inert (loadFields l bs s) = inert s := by
  induction l generalizing s bs with
  | nil => rfl
  | cons x l ih => simp only [loadFields, ih, setF_inert]

theorem loadCal_inert (s : State) (bs : List Byte) : inert (loadCal s bs) = inert s := by
  unfold loadCal
  extract_lets n s1 s2 s3
  have h1 : inert s1 = inert s := loadFields_inert ..
  have h2 : inert s2 = inert s := (forAll_inert (fun _ _ => setChan_inert ..) _ _).trans h1
  have h3 : inert s3 = inert s := (loadFields_inert ..).trans h2
  exact (forAll_inert (fun _ _ => applyDeskew_inert ..) _ _).trans h3

theorem parityMade_inert (s : State) (f : Nat) :
    inert (parityMade s f) = inert s := by
  unfold parityMade
  repeat' (first
    | with_reducible rfl
    | simp only [inert_upd])

theorem setFltCfg_inert (s : State) (f v : Nat) :
    inert (setFltCfg s f v) = inert s := by
  unfold setFltCfg
  repeat' (first
    | with_reducible rfl
    | simp only [inert_ite, ite_self, setF_inert, parityMade_inert])

theorem thrSet_inert (s : State) (b : Bool) (v : Nat) :
    inert (thrSet s b v) = inert s := by
  unfold thrSet
  repeat' (first
    | with_reducible rfl
    | simp only [inert_ite, ite_self, setF_inert, raise_inert])

theorem applyDefault_inert (s : State) (a v : Nat) :
    inert (applyDefault s a v) = inert s := by
  unfold applyDefault
  repeat' (first
    | with_reducible rfl
    | simp only [inert_ite, ite_self, setF_inert, thrSet_inert]
    | refine (foldl_inert (fun _ _ => ?_) _ _).trans ?_
    | split)

theorem defaultDacs_inert (s : State) :
    inert (defaultDacs s) = inert s := by
  unfold defaultDacs
  repeat' (first
    | with_reducible rfl
    | simp only [setF_inert]
    | refine (forAll_inert (fun _ _ => ?_) _ _).trans ?_)

theorem applyDefaults_inert (n : Nat) (bs : List Byte) (s : State) : inert (applyDefaults n bs s) = inert s := by
  induction n generalizing s bs with
  | zero => rfl
  | succ n ih => simp only [applyDefaults, ih, applyDefault_inert]

theorem applyRecords_inert (s : State) : inert (applyRecords s) = inert s := by
  unfold applyRecords
  extract_lets s1 s2 s3
  have h1 : inert s1 = inert s := by
    simp only [s1]; split
    · exact loadCal_inert ..
    · rfl
  have h2 : inert s2 = inert s := by
    rw [← h1]; simp only [s2]; split
    · exact loadFields_inert ..
    · exact defaultDacs_inert _
  have h3 : inert s3 = inert s := by
    rw [← h2]; simp only [s3]; split
    · exact forAll_inert (fun _ _ => setFltCfg_inert ..) _ _
    · rfl
  rw [← h3]
  split
  · exact applyDefaults_inert ..
  · rfl

theorem applyPwrup_inert (s : State) :
    inert (applyPwrup s) = inert s := by
  unfold applyPwrup
  repeat' (first
    | with_reducible rfl
    | simp only [startDacs_inert, setPoint_inert, setDsOn_inert]
    | refine (forAll_inert (fun _ _ => ?_) _ _).trans ?_)

theorem selectRecords_inert (s : State) :
    inert (selectRecords s) = inert s := by
  unfold selectRecords
  repeat' (first
    | with_reducible rfl
    | simp only [inert_upd, setF_inert, addCt_inert, set64_inert, raiseIf_inert])

theorem faultRecord_inert (s : State) (src : Nat) (t : Stamp) (react : Nat) (ps : List Nat) (limited : Bool) :
    inert (faultRecord s src t react ps limited) = inert s := by
  unfold faultRecord
  repeat' (first
    | with_reducible rfl
    | simp only [inert_ite, ite_self, inert_upd, addCt_inert, raise_inert, writeRec_inert])

theorem nvmBusy_inert (s : State) (op : NvmOp) :
    inert (nvmBusy s op) = inert s := by
  unfold nvmBusy
  repeat' (first
    | with_reducible rfl
    | simp only [inert_upd, setF_inert])

theorem nvmIdle_inert (s : State) :
    inert (nvmIdle s) = inert s := by
  unfold nvmIdle
  repeat' (first
    | with_reducible rfl
    | simp only [inert_upd, setF_inert]
    | refine (foldl_inert (fun _ _ => ?_) _ _).trans ?_)

theorem wrReject_inert (s : State) (why : Nat) :
    inert (wrReject s why) = inert s := by
  unfold wrReject
  repeat' (first
    | with_reducible rfl
    | simp only [setF_inert, raise_inert])

theorem wrRom_inert (s : State) :
    inert (wrRom s) = inert s := by
  unfold wrRom
  repeat' (first
    | with_reducible rfl
    | simp only [wrReject_inert, freeW_inert])

theorem recordGo_inert (s : State) (port : Nat) :
    inert (recordGo s port) = inert s := by
  unfold recordGo
  repeat' (first
    | with_reducible rfl
    | simp only [inert_ite, ite_self, setF_inert, nvmBusy_inert, wrReject_inert, wrRom_inert])

theorem calsaveGo_inert (s : State) :
    inert (calsaveGo s) = inert s := by
  unfold calsaveGo
  repeat' (first
    | with_reducible rfl
    | simp only [inert_ite, ite_self, setF_inert, nvmBusy_inert, wrReject_inert, wrRom_inert])

theorem writeDone_inert (s : State) (ok : Bool) :
    inert (writeDone s ok) = inert s := by
  unfold writeDone
  repeat' (first
    | with_reducible rfl
    | simp only [inert_ite, ite_self, raise_inert, writeRec_inert, nvmIdle_inert, wrReject_inert]
    | split)

theorem refreshSlot_inert (s : State) (b : Bool) :
    inert (refreshSlot s b) = inert s := by
  unfold refreshSlot
  repeat' (first
    | with_reducible rfl
    | simp only [inert_ite, ite_self, inert_upd, setF_inert])

theorem rewrite_inert (l : List NvmRecord) (m : List (Nat × Nat)) (s : State) : inert (rewrite l m s) = inert s := by
  induction l generalizing s m with
  | nil => rfl
  | cons r l ih => simp only [rewrite, ih, writeRec_inert]

theorem refreshRecs_inert (s : State) (f : NvmRecord → Bool) : inert (refreshRecs s f) = inert s := by
  simp only [refreshRecs, inert_upd, rewrite_inert]

theorem refreshEnd_inert (s : State) :
    inert (refreshEnd s) = inert s := by
  unfold refreshEnd
  repeat' (first
    | with_reducible rfl
    | simp only [raise_inert, nvmIdle_inert, refreshSlot_inert, refreshRecs_inert]
    | split)

theorem refreshGo_inert (s : State) :
    inert (refreshGo s) = inert s := by
  unfold refreshGo
  repeat' (first
    | with_reducible rfl
    | simp only [inert_ite, ite_self, setF_inert, nvmBusy_inert])

theorem freed_inert (s : State) (k : Nat) (gs : List Gran) :
    inert (freed s k gs) = inert s := by
  unfold freed
  repeat' (first
    | with_reducible rfl
    | simp only [inert_upd])

theorem grant_inert (s : State) (k : Nat) :
    inert (grant s k) = inert s := by
  unfold grant
  repeat' (first
    | with_reducible rfl
    | simp only [inert_upd, setStrm_inert])

theorem handOff_inert (s : State) (k : Nat) (flush : Bool) :
    inert (handOff s k flush) = inert s := by
  unfold handOff
  repeat' (first
    | with_reducible rfl
    | simp only [setStrm_inert]
    | split)

theorem retain_inert (s : State) (k : Nat) :
    inert (retain s k) = inert s := by
  unfold retain
  repeat' (first
    | with_reducible rfl
    | simp only [inert_ite, ite_self, setStrm_inert, handOff_inert]
    | split)

theorem queueGran_inert (k : Nat) (s : State) (g : Gran) :
    inert (queueGran k s g) = inert s := by
  unfold queueGran
  repeat' (first
    | with_reducible rfl
    | simp only [setStrm_inert])

theorem discard_inert (s : State) (k : Nat) (gs : List Gran) :
    inert (discard s k gs) = inert s := by
  unfold discard
  repeat' (first
    | with_reducible rfl
    | simp only [freed_inert])

theorem padOut_inert (s : State) (k : Nat) :
    inert (padOut s k) = inert s := by
  unfold padOut
  repeat' (first
    | with_reducible rfl
    | simp only [setStrm_inert]
    | split)

theorem dropRec_inert (s : State) (k : Nat) :
    inert (dropRec s k) = inert s := by
  unfold dropRec
  repeat' (first
    | with_reducible rfl
    | simp only [addCt_inert, setStrm_inert, raise_inert])

theorem reuse_inert (s : State) (k : Nat) :
    inert (reuse s k) = inert s := by
  unfold reuse
  repeat' (first
    | with_reducible rfl
    | simp only [setAcq_inert, setStrm_inert, discard_inert])

theorem putWords_inert (s : State) (k : Nat) (ws : List (BitVec 64)) :
    inert (putWords s k ws) = inert s := by
  unfold putWords
  repeat' (first
    | with_reducible rfl
    | simp only [inert_ite, ite_self, setStrm_inert, grant_inert, handOff_inert, retain_inert, padOut_inert, dropRec_inert,
        reuse_inert]
    | split)

theorem takeSeq_inert (s : State) (k : Nat) :
    inert (takeSeq s k) = inert s := by
  unfold takeSeq
  repeat' (first
    | with_reducible rfl
    | simp only [setStrm_inert])

theorem appendRec_inert (s : State) (k : Nat) (r : Record) :
    inert (appendRec s k r) = inert s := by
  unfold appendRec
  repeat' (first
    | with_reducible rfl
    | simp only [inert_ite, ite_self, putWords_inert, takeSeq_inert])

theorem appendFlush_inert (s : State) (k : Nat) (r : Record) :
    inert (appendFlush s k r) = inert s := by
  unfold appendFlush
  repeat' (first
    | with_reducible rfl
    | simp only [inert_ite, ite_self, handOff_inert, retain_inert, appendRec_inert])

theorem freeGran_inert (s : State) (k idx : Nat) :
    inert (freeGran s k idx) = inert s := by
  unfold freeGran
  repeat' (first
    | with_reducible rfl
    | simp only [inert_ite, ite_self, addCt_inert, setStrm_inert, freed_inert])

theorem setDflog_inert (s : State) (k d : Nat) :
    inert (setDflog s k d) = inert s := by
  unfold setDflog
  repeat' (first
    | with_reducible rfl
    | simp only [inert_ite, ite_self, setF_inert, handOff_inert, retain_inert])

theorem reclaim_inert (s : State) (p : Nat) :
    inert (reclaim s p) = inert s := by
  unfold reclaim
  repeat' (first
    | with_reducible rfl
    | simp only [setStrm_inert, freed_inert]
    | refine (forAll_inert (fun _ _ => ?_) _ _).trans ?_)

theorem clearDflog_inert (s : State) (p : Nat) :
    inert (clearDflog s p) = inert s := by
  unfold clearDflog
  repeat' (first
    | with_reducible rfl
    | simp only [setStrm_inert, setDflog_inert]
    | refine (forAll_inert (fun _ _ => ?_) _ _).trans ?_)

theorem restartStreams_inert (s : State) (p : Nat) :
    inert (restartStreams s p) = inert s := by
  unfold restartStreams
  repeat' (first
    | with_reducible rfl
    | simp only [setStrm_inert, clearDflog_inert]
    | refine (forAll_inert (fun _ _ => ?_) _ _).trans ?_)

theorem setAstate_inert (s : State) (p v : Nat) :
    inert (setAstate s p v) = inert s := by
  unfold setAstate
  repeat' (first
    | with_reducible rfl
    | simp only [setF_inert])

theorem runEnd_inert (s : State) (p : Nat) (t : Stamp) :
    inert (runEnd s p t) = inert s := by
  unfold runEnd
  repeat' (first
    | with_reducible rfl
    | simp only [setAcq_inert])

theorem countFlog_inert (s : State) (p n : Nat) :
    inert (countFlog s p n) = inert s := by
  unfold countFlog
  repeat' (first
    | with_reducible rfl
    | simp only [inert_ite, ite_self, addCt_inert, setPol_inert])

theorem putItem_inert (s : State) (p src : Nat) (r : Record) (t : Stamp) :
    inert (putItem s p src r t) = inert s := by
  unfold putItem
  repeat' (first
    | with_reducible rfl
    | simp only [inert_ite, ite_self, setAcq_inert, takeSeq_inert, appendRec_inert])

theorem flushScope_inert (s : State) (p o : Nat) :
    inert (flushScope s p o) = inert s := by
  unfold flushScope
  repeat' (first
    | with_reducible rfl
    | simp only [inert_ite, ite_self, setAcq_inert, putItem_inert])

theorem flushScopes_inert (s : State) (p : Nat) :
    inert (flushScopes s p) = inert s := by
  unfold flushScopes
  repeat' (first
    | with_reducible rfl
    | simp only [flushScope_inert]
    | refine (forAll_inert (fun _ _ => ?_) _ _).trans ?_)

theorem cutStrm_inert (s : State) (k : Nat) (c : Stamp) :
    inert (cutStrm s k c) = inert s := by
  unfold cutStrm
  repeat' (first
    | with_reducible rfl
    | simp only [setStrm_inert])

theorem markAll_inert (s : State) (p cause : Nat) (t : Stamp) (src : Option Nat) (vwi : Nat) :
    inert (markAll s p cause t src vwi) = inert s := by
  unfold markAll
  repeat' (first
    | with_reducible rfl
    | simp only [inert_ite, ite_self, appendRec_inert, appendFlush_inert]
    | refine (forAll_inert (fun _ _ => ?_) _ _).trans ?_
    | split)

theorem closeEvent_inert (s : State) (p : Nat) (c : Stamp) :
    inert (closeEvent s p c) = inert s := by
  unfold closeEvent
  repeat' (first
    | with_reducible rfl
    | simp only [inert_upd]
    | split)

theorem closeRec_inert (s : State) (p cause : Nat) (c : Stamp) :
    inert (closeRec s p cause c) = inert s := by
  unfold closeRec
  repeat' (first
    | with_reducible rfl
    | simp only [inert_ite, ite_self, setAcq_inert, raise_inert, appendFlush_inert, setAstate_inert, flushScopes_inert,
        cutStrm_inert, closeEvent_inert]
    | refine (forAll_inert (fun _ _ => ?_) _ _).trans ?_
    | split)

theorem armUnit_inert (s : State) (p : Nat) (a : Stamp) :
    inert (armUnit s p a) = inert s := by
  unfold armUnit
  repeat' (first
    | with_reducible rfl
    | simp only [setAcq_inert, setAstate_inert])

theorem completeRec_inert (s : State) (p : Nat) :
    inert (completeRec s p) = inert s := by
  unfold completeRec
  repeat' (first
    | with_reducible rfl
    | simp only [inert_ite, setAcq_inert, putWords_inert, setAstate_inert, closeRec_inert, armUnit_inert]
    | refine (foldl_inert (fun _ _ => ?_) _ _).trans ?_
    | split)

theorem endRec_inert (s : State) (p : Nat) :
    inert (endRec s p) = inert s := by
  unfold endRec
  repeat' (first
    | with_reducible rfl
    | simp only [inert_ite, ite_self, closeRec_inert, completeRec_inert]
    | split)

theorem dropRetained_inert (s : State) (k : Nat) :
    inert (dropRetained s k) = inert s := by
  unfold dropRetained
  repeat' (first
    | with_reducible rfl
    | simp only [inert_ite, ite_self, setStrm_inert, retain_inert, discard_inert])

theorem endRun_inert (s : State) (p : Nat) (t : Stamp) :
    inert (endRun s p t) = inert s := by
  unfold endRun
  repeat' (first
    | with_reducible rfl
    | simp only [inert_ite, setAcq_inert, raise_inert, appendFlush_inert, setAstate_inert, flushScopes_inert, markAll_inert,
        dropRetained_inert]
    | refine (forAll_inert (fun _ _ => ?_) _ _).trans ?_
    | split)

theorem acqArmed_inert (s : State) (p : Nat) :
    inert (acqArmed s p) = inert s := by
  unfold acqArmed
  repeat' (first
    | with_reducible rfl
    | simp only [inert_ite, ite_self, setF_inert, setAcq_inert, clearDflog_inert, restartStreams_inert, setAstate_inert]
    | refine (foldl_inert (fun _ _ => ?_) _ _).trans ?_)

theorem acqStart_inert (s : State) (p : Nat) (t : Stamp) :
    inert (acqStart s p t) = inert s := by
  unfold acqStart
  repeat' (first
    | with_reducible rfl
    | simp only [inert_ite, ite_self, setAcq_inert, markAll_inert, armUnit_inert])

theorem noteMask_inert (s : State) (p n : Nat) (t0 : Stamp) :
    inert (noteMask s p n t0) = inert s := by
  unfold noteMask
  repeat' (first
    | with_reducible rfl
    | simp only [inert_ite, ite_self, addCt_inert, setAcq_inert, raise_inert])

theorem claimConvs_inert (s : State) (p : Nat) (ts : List Stamp) (o c : Stamp) :
    inert (claimConvs s p ts o c) = inert s := by
  unfold claimConvs
  repeat' (first
    | with_reducible rfl
    | simp only [setAcq_inert, noteMask_inert]
    | refine (foldl_inert (fun _ _ => ?_) _ _).trans ?_)

theorem claim_inert (s : State) (p j : Nat) (w : OpenRec) (kind : TrigKind) : inert (claim s p j w kind) = inert s := by
  unfold claim
  extract_lets k s1 x ts late cl0 fs okc cl s2 s3 s4 y s5 u s6 s7
  have h1 : inert s1 = inert s := retain_inert ..
  have h2 : inert s2 = inert s := (discard_inert ..).trans ((setStrm_inert ..).trans h1)
  have h3 : inert s3 = inert s := by
    simp only [s3]; split
    · exact (reuse_inert ..).trans h2
    · exact h2
  have h4 : inert s4 = inert s := (appendRec_inert ..).trans h3
  have h5 : inert s5 = inert s := by
    simp only [s5]; split
    · exact h4
    · exact (foldl_inert (fun _ _ => queueGran_inert ..) _ _).trans ((handOff_inert ..).trans ((setStrm_inert ..).trans h4))
  have h6 : inert s6 = inert s := (setAcq_inert ..).trans h5
  have h7 : inert s7 = inert s := by
    simp only [s7]; split
    · exact (claimConvs_inert ..).trans h6
    · exact h6
  split
  · exact (countFlog_inert ..).trans ((setAcq_inert ..).trans h7)
  · exact h7

theorem accept_inert (s : State) (p : Nat) (t : Stamp) (kind : TrigKind) :
    inert (accept s p t kind) = inert s := by
  unfold accept
  repeat' (first
    | with_reducible rfl
    | simp only [addCt_inert, set64_inert, setAcq_inert, raise_inert, launch_inert, setAstate_inert, putItem_inert,
        claim_inert]
    | refine (forAll_inert (fun _ _ => ?_) _ _).trans ?_
    | refine (foldl_inert (fun _ _ => ?_) _ _).trans ?_)

theorem ignoreTrig_inert (s : State) (p : Nat) :
    inert (ignoreTrig s p) = inert s := by
  unfold ignoreTrig
  repeat' (first
    | with_reducible rfl
    | simp only [addCt_inert, raise_inert])

theorem forceTrig_inert (s : State) (p : Nat) :
    inert (forceTrig s p) = inert s := by
  unfold forceTrig
  repeat' (first
    | with_reducible rfl
    | simp only [inert_ite, ite_self, addCt_inert, raise_inert, accept_inert])

theorem trigger_inert (s : State) (p : Nat) (t : Stamp) (kind : TrigKind) (vwi : Nat) :
    inert (trigger s p t kind vwi) = inert s := by
  unfold trigger
  repeat' (first
    | with_reducible rfl
    | simp only [inert_ite, ite_self, markAll_inert, accept_inert, ignoreTrig_inert, forceTrig_inert])

theorem routerTrigger_inert (s : State) (p : Nat) (e : Ev) (vwi : Nat) :
    inert (routerTrigger s p e vwi) = inert s := by
  unfold routerTrigger
  repeat' (first
    | with_reducible rfl
    | simp only [inert_ite, ite_self, trigger_inert])

theorem gateOpen_inert (s : State) (p : Nat) (t : Stamp) :
    inert (gateOpen s p t) = inert s := by
  unfold gateOpen
  repeat' (first
    | with_reducible rfl
    | simp only [inert_ite, ite_self, setAcq_inert])

theorem gateClose_inert (s : State) (p : Nat) (t : Stamp) :
    inert (gateClose s p t) = inert s := by
  unfold gateClose
  repeat' (first
    | with_reducible rfl
    | simp only [setAcq_inert]
    | split)

theorem expire_inert (s : State) (p j : Nat) (t : Stamp) :
    inert (expire s p j t) = inert s := by
  unfold expire
  repeat' (first
    | with_reducible rfl
    | simp only [inert_ite, ite_self, setAcq_inert, setStrm_inert, discard_inert])

theorem freeze_inert (s : State) (p : Nat) (t0 : Stamp) (vwi : Nat) :
    inert (freeze s p t0 vwi) = inert s := by
  unfold freeze
  repeat' (first
    | with_reducible rfl
    | simp only [inert_ite, ite_self, setAstate_inert, markAll_inert, closeRec_inert])

theorem scopeSample_inert (s : State) (p o : Nat) (t : Stamp) (b : Byte) :
    inert (scopeSample s p o t b) = inert s := by
  unfold scopeSample
  repeat' (first
    | with_reducible rfl
    | simp only [inert_ite, ite_self, setAcq_inert, flushScope_inert])

theorem setClaim_inert (s : State) (c v : Nat) :
    inert (setClaim s c v) = inert s := by
  unfold setClaim
  repeat' (first
    | with_reducible rfl
    | simp only [setF_inert])

theorem takeNew_inert (s : State) (n : PmuNew) :
    inert (takeNew s n) = inert s := by
  unfold takeNew
  repeat' (first
    | with_reducible rfl
    | simp only [setF_inert, setChan_inert, setClaim_inert])

theorem refuseBudget_inert (s : State) (p : Option Nat) (k : Nat) :
    inert (refuseBudget s p k) = inert s := by
  unfold refuseBudget
  repeat' (first
    | with_reducible rfl
    | simp only [addCt_inert, raise_inert, causeOn_inert]
    | split)

theorem showConv_inert (s : State) (p : Nat) :
    inert (showConv s p) = inert s := by
  unfold showConv
  repeat' (first
    | with_reducible rfl
    | simp only [inert_ite, ite_self, setF_inert])

theorem showConvOf_inert (s : State) (p : Option Nat) :
    inert (showConvOf s p) = inert s := by
  unfold showConvOf
  repeat' (first
    | with_reducible rfl
    | simp only [showConv_inert]
    | split)

theorem request_inert (s : State) (p : Option Nat) (k : Nat) (ns : List PmuNew) : inert (request s p k ns).1 = inert s := by
  unfold request
  split
  · exact refuseBudget_inert ..
  · exact foldl_inert takeNew_inert _ _

theorem requests_inert (s : State) (p : Option Nat) (ns : List PmuNew) :
    inert (requests s p ns) = inert s := by
  unfold requests
  repeat' (first
    | with_reducible rfl
    | simp only [inert_ite, ite_self, showConvOf_inert, request_inert]
    | refine (forAll_inert (fun _ _ => ?_) _ _).trans ?_)

theorem disconnect_inert (s : State) (c : Nat) :
    inert (disconnect s c) = inert s := by
  unfold disconnect
  repeat' (first
    | with_reducible rfl
    | simp only [setChan_inert, takeNew_inert])

theorem disconnectOct_inert (s : State) (o : Nat) :
    inert (disconnectOct s o) = inert s := by
  unfold disconnectOct
  repeat' (first
    | with_reducible rfl
    | simp only [inert_ite, ite_self, disconnect_inert]
    | refine (forAll_inert (fun _ _ => ?_) _ _).trans ?_)

theorem beginConv_inert (s : State) (c : Nat) (v : Conv) (burst : Option (Option Nat)) :
    inert (beginConv s c v burst) = inert s := by
  unfold beginConv
  repeat' (first
    | with_reducible rfl
    | simp only [inert_ite, ite_self, setChan_inert])

theorem fire_inert (s : State) (p : Nat) (t0 : Stamp) (burst : Option Nat) :
    inert (fire s p t0 burst) = inert s := by
  unfold fire
  repeat' (first
    | with_reducible rfl
    | simp only [inert_ite, ite_self, addCt_inert, raise_inert, beginConv_inert]
    | refine (forAll_inert (fun _ _ => ?_) _ _).trans ?_)

theorem order_inert (s : State) (p : Nat) (t0 : Stamp) (act : PmuAct) :
    inert (order s p t0 act) = inert s := by
  unfold order
  repeat' (first
    | with_reducible rfl
    | simp only [setPol_inert])

theorem tidyBurst_inert (s : State) (p : Nat) :
    inert (tidyBurst s p) = inert s := by
  unfold tidyBurst
  repeat' (first
    | with_reducible rfl
    | simp only [inert_ite, ite_self, setF_inert, setChan_inert]
    | refine (forAll_inert (fun _ _ => ?_) _ _).trans ?_)

theorem stopBurst_inert (s : State) (p n : Nat) :
    inert (stopBurst s p n) = inert s := by
  unfold stopBurst
  repeat' (first
    | with_reducible rfl
    | simp only [setChan_inert, setPol_inert, tidyBurst_inert]
    | refine (forAll_inert (fun _ _ => ?_) _ _).trans ?_)

theorem endBurst_inert (s : State) (p : Nat) :
    inert (endBurst s p) = inert s := by
  unfold endBurst
  repeat' (first
    | with_reducible rfl
    | simp only [setChan_inert, setPol_inert, tidyBurst_inert]
    | refine (forAll_inert (fun _ _ => ?_) _ _).trans ?_)

theorem nextConv_inert (s : State) (c : Nat) (v : Conv) (t : Stamp) :
    inert (nextConv s c v t) = inert s := by
  unfold nextConv
  repeat' (first
    | with_reducible rfl
    | simp only [inert_ite, setChan_inert, beginConv_inert]
    | split)

theorem showOps_inert (s : State) (p : Nat) :
    inert (showOps s p) = inert s := by
  unfold showOps
  repeat' (first
    | with_reducible rfl
    | simp only [inert_ite, ite_self, setF_inert])

theorem showPmu_inert (s : State) (p : Nat) :
    inert (showPmu s p) = inert s := by
  unfold showPmu
  repeat' (first
    | with_reducible rfl
    | simp only [showConv_inert, tidyBurst_inert, showOps_inert])

theorem queueOp_inert (s : State) (p : Nat) (cs : List Nat) (op : PmuOp) :
    inert (queueOp s p cs op) = inert s := by
  unfold queueOp
  repeat' (first
    | with_reducible rfl
    | simp only [inert_ite, setChan_inert, setPol_inert]
    | refine (forAll_inert (fun _ _ => ?_) _ _).trans ?_
    | split)

theorem holdClaim_inert (s : State) (n : PmuNew) :
    inert (holdClaim s n) = inert s := by
  unfold holdClaim
  repeat' (first
    | with_reducible rfl
    | simp only [setClaim_inert])

theorem applyOn_inert (k : Nat) (s : State) (r : Nat × PmuOp) :
    inert (applyOn k s r) = inert s := by
  unfold applyOn
  repeat' (first
    | with_reducible rfl
    | simp only [inert_ite, takeNew_inert, refuseBudget_inert, queueOp_inert, holdClaim_inert]
    | refine (foldl_inert (fun _ _ => ?_) _ _).trans ?_
    | split)

theorem applyOps_inert (s : State) (rs : List (Nat × PmuOp)) :
    inert (applyOps s rs) = inert s := by
  unfold applyOps
  repeat' (first
    | with_reducible rfl
    | simp only [showPmu_inert, applyOn_inert]
    | refine (forAll_inert (fun _ _ => ?_) _ _).trans ?_
    | refine (foldl_inert (fun _ _ => ?_) _ _).trans ?_)

theorem fireOrder_inert (s : State) (p : Nat) (x : Trig) :
    inert (fireOrder s p x) = inert s := by
  unfold fireOrder
  repeat' (first
    | with_reducible rfl
    | simp only [showConv_inert, fire_inert, tidyBurst_inert, stopBurst_inert]
    | split)

theorem fireRound_inert (s : State) (t : Stamp) :
    inert (fireRound s t) = inert s := by
  unfold fireRound
  repeat' (first
    | with_reducible rfl
    | simp only [setPol_inert, applyOps_inert, fireOrder_inert]
    | refine (foldl_inert (fun _ _ => ?_) _ _).trans ?_
    | split)

theorem pmuDue_inert (s : State) (t : Stamp) :
    inert (pmuDue s t) = inert s := by
  unfold pmuDue
  repeat' (first
    | with_reducible rfl
    | simp only [fireRound_inert]
    | refine (foldl_inert (fun _ _ => ?_) _ _).trans ?_)

theorem pmuNowDue_inert (s : State) :
    inert (pmuNowDue s) = inert s := by
  unfold pmuNowDue
  repeat' (first
    | with_reducible rfl
    | simp only [pmuDue_inert])

theorem pmuOp_inert (s : State) (p op : Nat) (t tc : Stamp) :
    inert (pmuOp s p op t tc) = inert s := by
  unfold pmuOp
  repeat' (first
    | with_reducible rfl
    | simp only [inert_ite, ite_self, raise_inert, order_inert]
    | split)

theorem endsBurst_inert (s : State) (p : Nat) (t : Stamp) :
    inert (endsBurst s p t) = inert s := by
  unfold endsBurst
  repeat' (first
    | with_reducible rfl
    | simp only [order_inert, pmuNowDue_inert])

theorem pmuctl_inert (s : State) (p b : Nat) :
    inert (pmuctl s p b) = inert s := by
  unfold pmuctl
  repeat' (first
    | with_reducible rfl
    | simp only [inert_ite, ite_self, setF_inert, pmuNowDue_inert, pmuOp_inert]
    | split)

theorem runOps_inert (s : State) (p : Nat) (cs : List Nat) :
    inert (runOps s p cs) = inert s := by
  unfold runOps
  repeat' (first
    | with_reducible rfl
    | simp only [setChan_inert, requests_inert]
    | refine (forAll_inert (fun _ _ => ?_) _ _).trans ?_)

theorem pmuCfgWrite_inert (s : State) (c : Nat) (mode range : Nat) (en conn : Bool) :
    inert (pmuCfgWrite s c mode range en conn) = inert s := by
  unfold pmuCfgWrite
  repeat' (first
    | with_reducible rfl
    | simp only [inert_ite, ite_self, setF_inert, setChan_inert, takeNew_inert, disconnect_inert, showPmu_inert,
        queueOp_inert, pmuNowDue_inert, runOps_inert, request_inert]
    | split)

theorem pmuForceSet_inert (s0 : State) (c code : Nat) :
    inert (pmuForceSet s0 c code) = inert s0 := by
  unfold pmuForceSet
  repeat' (first
    | with_reducible rfl
    | simp only [pmuNowDue_inert, request_inert])

theorem latchOne_inert (s : State) (base p c t : Nat) (rs : List ConvResult) :
    inert (latchOne s base p c t rs) = inert s := by
  unfold latchOne
  repeat' (first
    | with_reducible rfl
    | simp only [setF_inert, addCt_inert, setChan_inert, raiseIf_inert]
    | split)

theorem samples_inert (s : State) (base p : Nat) (t0 : Stamp) (burst : Bool) (xs : List (Nat × Nat)) (rs : List ConvResult) :
    inert (samples s base p t0 burst xs rs) = inert s := by
  unfold samples
  repeat' (first
    | with_reducible rfl
    | simp only [inert_ite, ite_self, setAcq_inert, putItem_inert, noteMask_inert]
    | refine (forAll_inert (fun _ _ => ?_) _ _).trans ?_)

theorem release_inert (s : State) (p : Nat) (cs : List Nat) (t : Stamp) :
    inert (release s p cs t) = inert s := by
  unfold release
  repeat' (first
    | with_reducible rfl
    | simp only [setChan_inert, nextConv_inert, showPmu_inert, runOps_inert]
    | refine (forAll_inert (fun _ _ => ?_) _ _).trans ?_
    | split)

theorem latchAll_inert (s0 : State) (p : Nat) (t0 : Stamp) (rs : List ConvResult) :
    inert (latchAll s0 p t0 rs) = inert s0 := by
  unfold latchAll
  extract_lets z single burst xs s s1 u s2 s3 s4
  have hz : inert z = inert s0 := pmuDue_inert ..
  have h0 : inert s = inert s0 := (reach_inert ..).trans hz
  have h1 : inert s1 = inert s0 := by
    refine (samples_inert ..).trans ?_
    split
    · exact h0
    · exact (samples_inert ..).trans h0
  have h2 : inert s2 = inert s0 := by
    simp only [s2]; split
    · exact (setAcq_inert ..).trans h1
    · exact h1
  have h3 : inert s3 = inert s0 := (foldl_inert (fun _ _ => latchOne_inert ..) _ _).trans h2
  clear_value s3
  have h4 : inert s4 = inert s0 := h3
  split
  · exact hz
  · exact (showPmu_inert ..).trans ((release_inert ..).trans h4)

theorem returnAll_inert (s0 : State) (p : Nat) (t0 : Stamp) :
    inert (returnAll s0 p t0) = inert s0 := by
  unfold returnAll
  repeat' (first
    | with_reducible rfl
    | simp only [inert_ite, ite_self, reach_inert, pmuDue_inert, release_inert])

theorem rangeDone_inert (s0 : State) (c : Nat) (t : Stamp) :
    inert (rangeDone s0 c t) = inert s0 := by
  unfold rangeDone
  repeat' (first
    | with_reducible rfl
    | simp only [inert_ite, ite_self, setChan_inert, reach_inert, setClaim_inert, pmuDue_inert])

theorem setTdc_inert (s : State) (c : Nat) (x : Tdc) :
    inert (setTdc s c x) = inert s := by
  unfold setTdc
  repeat' (first
    | with_reducible rfl
    | simp only [setChan_inert])

theorem closeTdcRec_inert (s : State) (c : Nat) :
    inert (closeTdcRec s c) = inert s := by
  unfold closeTdcRec
  repeat' (first
    | with_reducible rfl
    | simp only [putItem_inert, setTdc_inert]
    | split)

theorem acqStamp_inert (s : State) (c : Nat) (e : Stamp × Bool) :
    inert (acqStamp s c e) = inert s := by
  unfold acqStamp
  repeat' (first
    | with_reducible rfl
    | simp only [inert_ite, ite_self, setTdc_inert, closeTdcRec_inert])

theorem popFifo_inert (s : State) (c : Nat) :
    inert (popFifo s c) = inert s := by
  unfold popFifo
  repeat' (first
    | with_reducible rfl
    | simp only [inert_ite, ite_self, setTdc_inert, closeTdcRec_inert, acqStamp_inert]
    | split)

theorem drainDie_inert (d n : Nat) (s : State) : inert (drainDie d n s) = inert s := by
  induction n generalizing s with
  | zero => rfl
  | succ n ih => unfold drainDie; extract_lets; split <;> simp only [ih, setDie_inert, popFifo_inert]

theorem drainUntil_inert (s : State) (d : Nat) (t : Stamp) : inert (drainUntil s d t) = inert s := by
  unfold drainUntil
  extract_lets x n s1
  split
  · exact (setDie_inert ..).trans (drainDie_inert ..)
  · rfl

theorem drainOut_inert (cs : List Nat) (d n : Nat) (s : State) : inert (drainOut cs d n s) = inert s := by
  induction n generalizing s with
  | zero => rfl
  | succ n ih =>
    unfold drainOut
    split
    · rfl
    · exact (ih _).trans ((setDie_inert ..).trans (drainDie_inert ..))

theorem drainChans_inert (cs : List Nat) (s : State) (d : Nat) : inert (drainChans cs s d) = inert s := by
  unfold drainChans
  exact (forAll_inert (fun _ _ => closeTdcRec_inert ..) _ _).trans
    ((reach_inert ..).trans ((drainOut_inert ..).trans (drainUntil_inert ..)))

theorem pushFifo_inert (s : State) (c : Nat) (e : Stamp × Bool) :
    inert (pushFifo s c e) = inert s := by
  unfold pushFifo
  repeat' (first
    | with_reducible rfl
    | simp only [inert_ite, ite_self, addCt_inert, raise_inert, setTdc_inert, drainUntil_inert])

theorem tdcArm_inert (s : State) (c : Nat) (t : Stamp) :
    inert (tdcArm s c t) = inert s := by
  unfold tdcArm
  repeat' (first
    | with_reducible rfl
    | simp only [inert_ite, raise_inert, setTdc_inert]
    | split)

theorem tdcOff_inert (s : State) (c : Nat) :
    inert (tdcOff s c) = inert s := by
  unfold tdcOff
  repeat' (first
    | with_reducible rfl
    | simp only [inert_ite, ite_self, setTdc_inert, closeTdcRec_inert, drainUntil_inert])

theorem tdcCut_inert (s : State) (c : Nat) :
    inert (tdcCut s c) = inert s := by
  unfold tdcCut
  repeat' (first
    | with_reducible rfl
    | simp only [inert_ite, ite_self, raise_inert, tdcOff_inert])

theorem intervalResult_inert (s : State) (p a b : Nat) (ts te : Stamp16) (stepped : Bool) :
    inert (intervalResult s p a b ts te stepped) = inert s := by
  unfold intervalResult
  repeat' (first
    | with_reducible rfl
    | simp only [addCt_inert, putItem_inert])

theorem unpaired_inert (s : State) (p b : Nat) (w : PairWait) :
    inert (unpaired s p b w) = inert s := by
  unfold unpaired
  repeat' (first
    | with_reducible rfl
    | simp only [addCt_inert, raise_inert, setTdc_inert])

theorem noStart_inert (s : State) (p : Nat) :
    inert (noStart s p) = inert s := by
  unfold noStart
  repeat' (first
    | with_reducible rfl
    | simp only [addCt_inert, raise_inert])

theorem pairStamp_inert (s : State) (p a b : Nat) (start : Bool) (t : Stamp16) :
    inert (pairStamp s p a b start t) = inert s := by
  unfold pairStamp
  repeat' (first
    | with_reducible rfl
    | simp only [inert_ite, ite_self, setTdc_inert, intervalResult_inert, unpaired_inert, noStart_inert]
    | refine (foldl_inert (fun _ _ => ?_) _ _).trans ?_
    | split)

theorem freqEdge_inert (s : State) (c : Nat) (t : Stamp16) :
    inert (freqEdge s c t) = inert s := by
  unfold freqEdge
  repeat' (first
    | with_reducible rfl
    | simp only [inert_ite, ite_self, addCt_inert, raise_inert, setTdc_inert])

theorem edgeStamp_inert (s : State) (c : Nat) (rising : Bool) (t : Stamp) (t16 : Stamp16) :
    inert (edgeStamp s c rising t t16) = inert s := by
  unfold edgeStamp
  repeat' (first
    | with_reducible rfl
    | simp only [inert_ite, dieEvent_inert, setTdc_inert, pushFifo_inert, tdcOff_inert, noStart_inert, pairStamp_inert]
    | refine (forAll_inert (fun _ _ => ?_) _ _).trans ?_
    | split)

theorem tdcTime_inert (s : State) (c : Nat) (t0 : Stamp) (sub : BitVec 4) : inert (tdcTime s c t0 sub).2 = inert s := by
  unfold tdcTime
  dsimp only
  split <;> rfl

theorem tdcEdge_inert (s : State) (c : Nat) (high rising : Bool) (t0 : Stamp) (sub : BitVec 4) :
    inert (tdcEdge s c high rising t0 sub) = inert s := by
  have h := tdcTime_inert s c t0 sub
  unfold tdcEdge
  repeat' (first
    | with_reducible rfl
    | simp only [inert_ite, ite_self, raise_inert, addCt_inert, freqEdge_inert, edgeStamp_inert, h])

theorem freqResult_inert (s : State) (c : Nat) :
    inert (freqResult s c) = inert s := by
  unfold freqResult
  repeat' (first
    | with_reducible rfl
    | simp only [setF_inert, addCt_inert, putItem_inert, freeB_inert]
    | split)

end Sys2Proof.Machine
end

