-- ==== Sys2Proof/Laws/InertRun.lean ====
section
/-! SUPPORT. What the operations never write, part 2: pins, vector memory, runs, faults, clocks, the router, Bugle, polders,
    sampling. Each operation has one lemma: it leaves the queue, the OTP,
the lifecycle target, the TAP, the mailboxes and DRAM as they are. -/

namespace Sys2Proof.Machine

theorem monOff_inert (s : State) (c : Nat) (high : Bool) (t : Stamp) :
    inert (monOff s c high t) = inert s := by
  unfold monOff
  repeat' (first
    | with_reducible rfl
    | simp only [inert_ite, ite_self, setChan_inert, dieEvent_inert])

theorem levOff_inert (s : State) (c : Nat) (t : Stamp) :
    inert (levOff s c t) = inert s := by
  unfold levOff
  repeat' (first
    | with_reducible rfl
    | simp only [monOff_inert])

theorem setPstate_inert (s : State) (o v : Nat) :
    inert (setPstate s o v) = inert s := by
  unfold setPstate
  repeat' (first
    | with_reducible rfl
    | simp only [setF_inert])

theorem octOff_inert (s : State) (o : Nat) :
    inert (octOff s o) = inert s := by
  unfold octOff
  repeat' (first
    | with_reducible rfl
    | simp only [setChan_inert, setClaim_inert, tdcCut_inert, levOff_inert]
    | refine (forAll_inert (fun _ _ => ?_) _ _).trans ?_)

theorem octDeskew_inert (s : State) (o : Nat) :
    inert (octDeskew s o) = inert s := by
  unfold octDeskew
  repeat' (first
    | with_reducible rfl
    | simp only [dueDeskew_inert]
    | refine (forAll_inert (fun _ _ => ?_) _ _).trans ?_)

theorem octSafe_inert (s : State) (o : Nat) :
    inert (octSafe s o) = inert s := by
  unfold octSafe
  repeat' (first
    | with_reducible rfl
    | simp only [inert_ite, ite_self, applyFaultDacs_inert, setPstate_inert, octOff_inert, octDeskew_inert])

theorem octIdle_inert (s : State) (o : Nat) :
    inert (octIdle s o) = inert s := by
  unfold octIdle
  repeat' (first
    | with_reducible rfl
    | simp only [inert_ite, ite_self, setF_inert, setChan_inert, selfcalLeave_inert, setPstate_inert, octDeskew_inert,
        octSafe_inert]
    | refine (forAll_inert (fun _ _ => ?_) _ _).trans ?_
    | split)

theorem octActive_inert (s : State) (o : Nat) :
    inert (octActive s o) = inert s := by
  unfold octActive
  repeat' (first
    | with_reducible rfl
    | simp only [setPstate_inert])

theorem octHiz_inert (s : State) (o : Nat) : inert (octHiz s o) = inert s := by
  unfold octHiz
  extract_lets s1 s2
  have h1 : inert s1 = inert s :=
    (forAll_inert (fun _ _ => setChan_inert ..) _ _).trans ((octOff_inert ..).trans (selfcalLeave_inert ..))
  have h2 : inert s2 = inert s := (setF_inert ..).trans h1
  split
  · exact (showPmu_inert ..).trans h2
  · exact h2

theorem octBack_inert (s : State) (o : Nat) :
    inert (octBack s o) = inert s := by
  unfold octBack
  repeat' (first
    | with_reducible rfl
    | simp only [octSafe_inert, octIdle_inert, octActive_inert]
    | split)

theorem pinRails_inert (s : State) :
    inert (pinRails s) = inert s := by
  unfold pinRails
  repeat' (first
    | with_reducible rfl
    | simp only [inert_ite, ite_self, octHiz_inert, octBack_inert]
    | refine (forAll_inert (fun _ _ => ?_) _ _).trans ?_)

theorem failLatch_inert (s : State) (p : Nat) :
    inert (failLatch s p) = inert s := by
  unfold failLatch
  repeat' (first
    | with_reducible rfl
    | simp only [inert_ite, ite_self, setBnd_inert, setB_inert]
    | split)

theorem firstFail_inert (s : State) (p : Nat) (r : VecRef) (t : Nat) :
    inert (firstFail s p r t) = inert s := by
  unfold firstFail
  repeat' (first
    | with_reducible rfl
    | simp only [inert_ite, ite_self, setF_inert, set64_inert, raise_inert])

theorem sofReached_inert (s : State) (p : Nat) :
    inert (sofReached s p) = inert s := by
  unfold sofReached
  repeat' (first
    | with_reducible rfl
    | simp only [inert_ite, ite_self, setPol_inert])

theorem failCount_inert (s : State) (p c : Nat) (r : VecRef) (tc : Nat) (t : Stamp) :
    inert (failAt.failCount s p c r tc t) = inert s := by
  simp only [failAt.failCount, inert_ite, ite_self, failLatch_inert, dieEvent_inert, firstFail_inert, addCt_inert]

theorem failAt_inert (s : State) (c : Nat) (r : VecRef) (t : Stamp) : inert (failAt s c r t) = inert s := by
  unfold failAt
  repeat' (first | with_reducible rfl | (simp only [setPol_inert, addCt_inert, sofReached_inert, failCount_inert]) | split)

theorem logFail_inert (s : State) (p : Nat) (f : FailVec) :
    inert (logFail s p f) = inert s := by
  unfold logFail
  repeat' (first
    | with_reducible rfl
    | simp only [inert_ite, ite_self, setAcq_inert, countFlog_inert, putItem_inert])

theorem flushFails_inert (s : State) (p : Nat) :
    inert (flushFails s p) = inert s := by
  unfold flushFails
  repeat' (first
    | with_reducible rfl
    | simp only [setPol_inert, logFail_inert]
    | refine (foldl_inert (fun _ _ => ?_) _ _).trans ?_)

theorem flushAllFails_inert (s : State) (p : Nat) :
    inert (flushAllFails s p) = inert s := by
  unfold flushAllFails
  repeat' (first
    | with_reducible rfl
    | simp only [setPol_inert, logFail_inert]
    | refine (foldl_inert (fun _ _ => ?_) _ _).trans ?_)

theorem strobe_inert (s : State) (c : Nat) (e : Expect) (r : VecRef) (t : Stamp) :
    inert (strobe s c e r t) = inert s := by
  unfold strobe
  repeat' (first
    | with_reducible rfl
    | simp only [inert_ite, ite_self, failAt_inert])

theorem winFail_inert (s : State) (c : Nat) (w : Win) (t : Stamp) :
    inert (winFail s c w t) = inert s := by
  unfold winFail
  repeat' (first
    | with_reducible rfl
    | simp only [setChan_inert, failAt_inert])

theorem settleViol_inert (s : State) (c : Nat) (t : Stamp) :
    inert (settleViol s c t) = inert s := by
  unfold settleViol
  repeat' (first
    | with_reducible rfl
    | simp only [inert_ite, ite_self, setChan_inert, winFail_inert, freeB_inert]
    | split)

theorem winOpen_inert (s : State) (c : Nat) (e : Expect) (r : VecRef) (t : Stamp) :
    inert (winOpen s c e r t) = inert s := by
  unfold winOpen
  repeat' (first
    | with_reducible rfl
    | simp only [setChan_inert, settleViol_inert])

theorem winClose_inert (s : State) (c : Nat) (t : Stamp) :
    inert (winClose s c t) = inert s := by
  unfold winClose
  repeat' (first
    | with_reducible rfl
    | simp only [setChan_inert, settleViol_inert])

theorem playChar_inert (s : State) (ch t c per : Nat) (r : VecRef) (park : Bool) :
    inert (playChar s ch t c per r park) = inert s := by
  unfold playChar
  repeat' (first
    | with_reducible rfl
    | simp only [inert_ite, ite_self, addCt_inert, setChan_inert, raise_inert]
    | refine (foldl_inert (fun _ _ => ?_) _ _).trans ?_
    | split)

theorem parkPeriod_inert (s : State) (ch p : Nat) :
    inert (parkPeriod s ch p) = inert s := by
  unfold parkPeriod
  repeat' (first
    | with_reducible rfl
    | simp only [setChan_inert, playChar_inert]
    | split)

theorem driveEdge_inert (s : State) (c : Nat) (d : Drv) (t : Stamp) :
    inert (driveEdge s c d t) = inert s := by
  unfold driveEdge
  repeat' (first
    | with_reducible rfl
    | simp only [inert_ite, ite_self, addCt_inert, setChan_inert, raise_inert])

theorem playEdge_inert (s : State) (c : Nat) (e : Edge) :
    inert (playEdge s c e) = inert s := by
  unfold playEdge
  repeat' (first
    | with_reducible rfl
    | simp only [inert_ite, ite_self, addCt_inert, setChan_inert, raise_inert, tdcArm_inert, strobe_inert, winOpen_inert,
        winClose_inert, driveEdge_inert]
    | split)

theorem layAll_inert (s : State) (c p : Nat) :
    inert (layAll s c p) = inert s := by
  unfold layAll
  repeat' (first
    | with_reducible rfl
    | simp only [inert_ite, ite_self, setChan_inert, parkPeriod_inert]
    | refine (foldl_inert (fun _ _ => ?_) _ _).trans ?_
    | split)

theorem setPark_inert (s : State) (p t : Nat) (a : Stamp) (b : Option Stamp) (quiet : Bool) :
    inert (setPark s p t a b quiet) = inert s := by
  unfold setPark
  repeat' (first
    | with_reducible rfl
    | simp only [setChan_inert, layAll_inert]
    | refine (forAll_inert (fun _ _ => ?_) _ _).trans ?_)

theorem endPark_inert (s : State) (p : Nat) (b : Stamp) :
    inert (endPark s p b) = inert s := by
  unfold endPark
  repeat' (first
    | with_reducible rfl
    | simp only [setChan_inert]
    | refine (forAll_inert (fun _ _ => ?_) _ _).trans ?_
    | split)

theorem leavePark_inert (s : State) (c : Nat) (t : Stamp) :
    inert (leavePark s c t) = inert s := by
  unfold leavePark
  repeat' (first
    | with_reducible rfl
    | simp only [inert_ite, ite_self, setChan_inert]
    | split)

theorem layPark_inert (f : Nat) (s : State) (c p : Nat) : inert (layPark f s c p) = inert s := by
  induction f generalizing s with
  | zero => rfl
  | succ f ih =>
    unfold layPark
    repeat' (first | with_reducible rfl | (simp only [ih, parkPeriod_inert]) | split)

theorem nextEdge_inert (s : State) (c : Nat) : inert (nextEdge s c) = inert s := by
  unfold nextEdge
  extract_lets s0
  have h0 : inert s0 = inert s := by
    simp only [s0]; split
    · exact layPark_inert ..
    · rfl
  split
  · exact h0
  · next e es he =>
    extract_lets s1 u s2 s3
    have h1 : inert s1 = inert s := (pmuDue_inert ..).trans h0
    have h2 : inert s2 = inert s := (leavePark_inert ..).trans ((setChan_inert ..).trans h1)
    have h3 : inert s3 = inert s := (playEdge_inert ..).trans h2
    split
    · exact (flushFails_inert ..).trans h3
    · exact h3

theorem winBroken_inert (s : State) (c : Nat) (w : Win) (det : Bool) (t : Stamp) :
    inert (winBroken s c w det t) = inert s := by
  unfold winBroken
  repeat' (first
    | with_reducible rfl
    | simp only [inert_ite, ite_self, setChan_inert, winFail_inert])

theorem midBroken_inert (s : State) (c : Nat) (t : Stamp) :
    inert (midBroken s c t) = inert s := by
  unfold midBroken
  repeat' (first
    | with_reducible rfl
    | simp only [inert_ite, ite_self, winBroken_inert]
    | split)

theorem comparatorTransition_inert (s : State) (c : Nat) (high rising : Bool) (t0 : Stamp) (sub : BitVec 4) (det : Bool) :
    inert (comparatorTransition s c high rising t0 sub det) = inert s := by
  unfold comparatorTransition
  repeat' (first
    | with_reducible rfl
    | simp only [inert_ite, ite_self, setF_inert, tdcEdge_inert, settleViol_inert, winBroken_inert]
    | split)

theorem lockSpan_inert (s : State) (b : Nat) (x : Span) :
    inert (lockSpan s b x) = inert s := by
  unfold lockSpan
  repeat' (first
    | with_reducible rfl
    | simp only [inert_ite, ite_self, addCt_inert, setBnd_inert])

theorem unlock_inert (s : State) (b : Nat) (f : Span → Bool) :
    inert (unlock s b f) = inert s := by
  unfold unlock
  repeat' (first
    | with_reducible rfl
    | simp only [setBnd_inert])

theorem noteSeen_inert (s : State) (b va : Nat) (compact : Bool) :
    inert (noteSeen s b va compact) = inert s := by
  unfold noteSeen
  repeat' (first
    | with_reducible rfl
    | simp only [setBnd_inert])

theorem showFree_inert (s : State) :
    inert (showFree s) = inert s := by
  unfold showFree
  repeat' (first
    | with_reducible rfl
    | simp only [setF_inert])

theorem cacheAlloc_inert (s : State) (b noct : Nat) :
    inert (cacheAlloc s b noct) = inert s := by
  unfold cacheAlloc
  repeat' (first
    | with_reducible rfl
    | simp only [setF_inert, setBnd_inert, raiseIf_inert, showFree_inert])

theorem keepPoison_inert (s : State) (b : Nat) (kept : Nat → Bool) :
    inert (keepPoison s b kept) = inert s := by
  unfold keepPoison
  repeat' (first
    | with_reducible rfl
    | simp only [inert_ite, ite_self, addCt_inert, setBnd_inert, raise_inert])

theorem cacheFree_inert (s : State) (b : Nat) :
    inert (cacheFree s b) = inert s := by
  unfold cacheFree
  repeat' (first
    | with_reducible rfl
    | simp only [inert_ite, ite_self, setF_inert, setBnd_inert, showFree_inert, keepPoison_inert])

theorem eccAddr_inert (s : State) (a : Nat) (ue cache : Bool) :
    inert (eccAddr s a ue cache) = inert s := by
  unfold eccAddr
  repeat' (first
    | with_reducible rfl
    | simp only [setF_inert])

theorem eccCe_inert (s : State) (a : Nat) (cache : Bool) :
    inert (eccCe s a cache) = inert s := by
  unfold eccCe
  repeat' (first
    | with_reducible rfl
    | simp only [addCt_inert, raise_inert, eccAddr_inert])

theorem eccUe_inert (s : State) (a : Nat) (cache : Bool) :
    inert (eccUe s a cache) = inert s := by
  unfold eccUe
  repeat' (first
    | with_reducible rfl
    | simp only [inert_ite, ite_self, inert_upd, addCt_inert, raise_inert, causeOn_inert, eccAddr_inert])

theorem eccErrs_inert (s : State) (ce ue : List EccErr) :
    inert (eccErrs s ce ue) = inert s := by
  unfold eccErrs
  repeat' (first
    | with_reducible rfl
    | simp only [eccCe_inert, eccUe_inert]
    | refine (foldl_inert (fun _ _ => ?_) _ _).trans ?_)

theorem setVa_inert (s : State) (m v : Nat) :
    inert (setVa s m v) = inert s := by
  unfold setVa
  repeat' (first
    | with_reducible rfl
    | simp only [setF_inert])

theorem leadRegained_inert (s : State) (b : Nat) :
    inert (leadRegained s b) = inert s := by
  unfold leadRegained
  repeat' (first
    | with_reducible rfl
    | simp only [inert_ite, ite_self, setBnd_inert])

theorem fetched_inert (s : State) (b : Nat) (ws : List (Nat × Bool)) (found : List EccErr) :
    inert (fetched s b ws found) = inert s := by
  unfold fetched
  repeat' (first
    | with_reducible rfl
    | simp only [setBnd_inert, eccErrs_inert])

theorem jumpLead_inert (s : State) (b : Nat) (fixed : Bool) :
    inert (jumpLead s b fixed) = inert s := by
  unfold jumpLead
  repeat' (first
    | with_reducible rfl
    | simp only [inert_ite, ite_self, setBnd_inert, leadRegained_inert, fetched_inert])

theorem preloadGo_inert (s : State) (b : Nat) :
    inert (preloadGo s b) = inert s := by
  unfold preloadGo
  repeat' (first
    | with_reducible rfl
    | simp only [inert_ite, ite_self, setF_inert, setBnd_inert, raise_inert, showFree_inert, keepPoison_inert])

theorem invalidate_inert (s : State) (a n : Nat) :
    inert (invalidate s a n) = inert s := by
  unfold invalidate
  repeat' (first
    | with_reducible rfl
    | simp only [inert_ite, ite_self, setBnd_inert, keepPoison_inert]
    | refine (forAll_inert (fun _ _ => ?_) _ _).trans ?_)

theorem growCredit_inert (s : State) (b : Nat) :
    inert (growCredit s b) = inert s := by
  unfold growCredit
  repeat' (first
    | with_reducible rfl
    | simp only [setBnd_inert])

theorem clearLatches_inert (s : State) (b : Nat) :
    inert (clearLatches s b) = inert s := by
  unfold clearLatches
  repeat' (first
    | with_reducible rfl
    | simp only [setBnd_inert, setB_inert])

theorem clearLatch_inert (s : State) (b code : Nat) :
    inert (clearLatch s b code) = inert s := by
  unfold clearLatch
  repeat' (first
    | with_reducible rfl
    | simp only [inert_ite, ite_self, setBnd_inert, setB_inert])

theorem setLatch_inert (s : State) (b code : Nat) :
    inert (setLatch s b code) = inert s := by
  unfold setLatch
  repeat' (first
    | with_reducible rfl
    | simp only [setB_inert])

theorem rejudgeFailAll_inert (s : State) (b : Nat) :
    inert (rejudgeFailAll s b) = inert s := by
  unfold rejudgeFailAll
  repeat' (first
    | with_reducible rfl
    | simp only [inert_ite, ite_self, setB_inert])

theorem setCause_inert (s : State) (b sq me : Nat) :
    inert (setCause s b sq me) = inert s := by
  unfold setCause
  repeat' (first
    | with_reducible rfl
    | simp only [inert_ite, ite_self, setF_inert])

theorem setIssuing_inert (s : State) (b : Nat) (v : Bool) :
    inert (setIssuing s b v) = inert s := by
  unfold setIssuing
  repeat' (first
    | with_reducible rfl
    | simp only [setB_inert])

theorem engArm_inert (s : State) (m : Nat) (mem : List Nat) :
    inert (engArm s m mem) = inert s := by
  unfold engArm
  repeat' (first
    | with_reducible rfl
    | simp only [inert_ite, setF_inert, launch_inert, setVa_inert]
    | refine (forAll_inert (fun _ _ => ?_) _ _).trans ?_
    | split)

theorem reserve_inert (s : State) (b a : Nat) (mem : List Nat) :
    inert (reserve s b a mem) = inert s := by
  unfold reserve
  repeat' (first
    | with_reducible rfl
    | simp only [inert_ite, ite_self, setF_inert, setBnd_inert, setB_inert, cacheAlloc_inert, clearLatches_inert,
        setCause_inert, engArm_inert])

theorem releaseBnd_inert (s : State) (b : Nat) :
    inert (releaseBnd s b) = inert s := by
  unfold releaseBnd
  repeat' (first
    | with_reducible rfl
    | simp only [inert_ite, ite_self, setF_inert, setPol_inert, setBnd_inert, setB_inert, cacheFree_inert, setIssuing_inert]
    | refine (forAll_inert (fun _ _ => ?_) _ _).trans ?_)

theorem clearRun_inert (s : State) (p : Nat) : inert (clearRun s p) = inert s := by
  unfold clearRun
  extract_lets s1
  have h1 : inert s1 = inert s := foldl_inert (fun _ _ => setF_inert ..) _ _
  refine (forAll_inert (fun _ _ => ?_) _ _).trans h1
  refine (forAll_inert (fun _ _ => ?_) _ _).trans (setF_inert ..)
  simp only [setF_inert]

theorem reclaimEnd_inert (s : State) (p : Nat) :
    inert (reclaimEnd s p) = inert s := by
  unfold reclaimEnd
  repeat' (first
    | with_reducible rfl
    | simp only [inert_ite, addCt_inert, setPol_inert, raise_inert, handOff_inert, endRun_inert]
    | refine (forAll_inert (fun _ _ => ?_) _ _).trans ?_
    | split)

theorem armPol_inert (s : State) (p b : Nat) :
    inert (armPol s p b) = inert s := by
  unfold armPol
  repeat' (first
    | with_reducible rfl
    | simp only [setPol_inert, setRs_inert, takePdly_inert, acqArmed_inert, clearRun_inert, reclaimEnd_inert])

theorem arm_inert (s : State) (p : Nat) :
    inert (arm s p) = inert s := by
  unfold arm
  repeat' (first
    | with_reducible rfl
    | simp only [inert_ite, setF_inert, setPol_inert, raise_inert, reserve_inert, armPol_inert]
    | refine (forAll_inert (fun _ _ => ?_) _ _).trans ?_
    | split)

theorem markRun_inert (s : State) (p cause : Nat) :
    inert (markRun s p cause) = inert s := by
  unfold markRun
  repeat' (first
    | with_reducible rfl
    | simp only [inert_ite, ite_self, markAll_inert])

theorem closeGate_inert (s : State) (p : Nat) (t : Stamp) :
    inert (closeGate s p t) = inert s := by
  unfold closeGate
  repeat' (first
    | with_reducible rfl
    | simp only [gateClose_inert])

theorem abortPins_inert (s : State) (p : Nat) :
    inert (abortPins s p) = inert s := by
  unfold abortPins
  repeat' (first
    | with_reducible rfl
    | simp only [setPol_inert, emptyQueue_inert, disconnectOct_inert, showPmu_inert, pmuNowDue_inert]
    | refine (forAll_inert (fun _ _ => ?_) _ _).trans ?_)

theorem parkOut_inert (s : State) (b p : Nat) (paused : Bool) :
    inert (parkOut s b p paused) = inert s := by
  unfold parkOut
  repeat' (first
    | with_reducible rfl
    | simp only [inert_ite, ite_self, setPark_inert])

theorem toStopping_inert (s : State) (b p : Nat) (abort : Bool) :
    inert (toStopping s b p abort) = inert s := by
  unfold toStopping
  repeat' (first
    | with_reducible rfl
    | simp only [inert_ite, ite_self, setF_inert, setPol_inert, setRs_inert, runEnd_inert, closeEvent_inert, closeRec_inert,
        endsBurst_inert, markRun_inert, closeGate_inert, abortPins_inert, parkOut_inert])

theorem endIssue_inert (s : State) (b sq me : Nat) (abort : Bool) :
    inert (endIssue s b sq me abort) = inert s := by
  unfold endIssue
  repeat' (first
    | with_reducible rfl
    | simp only [inert_ite, ite_self, setF_inert, setBnd_inert, setCause_inert, setIssuing_inert, toStopping_inert]
    | refine (forAll_inert (fun _ _ => ?_) _ _).trans ?_)

theorem stopFault_inert (s : State) (b sq me : Nat) :
    inert (stopFault s b sq me) = inert s := by
  unfold stopFault
  repeat' (first
    | with_reducible rfl
    | simp only [inert_ite, ite_self, raise_inert, causeOn_inert, endIssue_inert])

theorem vmStop_inert (s : State) (b code : Nat) :
    inert (vmStop s b code) = inert s := by
  unfold vmStop
  repeat' (first
    | with_reducible rfl
    | simp only [inert_ite, ite_self, setF_inert, setBnd_inert, raise_inert, causeOn_inert, stopFault_inert]
    | refine (forAll_inert (fun _ _ => ?_) _ _).trans ?_)

theorem wordStop_inert (s : State) (b va : Nat) (cp : Bool) (code : Nat) :
    inert (wordStop s b va cp code) = inert s := by
  unfold wordStop
  repeat' (first
    | with_reducible rfl
    | simp only [inert_ite, ite_self, addCt_inert, setBnd_inert, vmStop_inert])

theorem clearBenched_inert (s : State) (p : Nat) :
    inert (clearBenched s p) = inert s := by
  unfold clearBenched
  repeat' (first
    | with_reducible rfl
    | simp only [inert_ite, setF_inert]
    | refine (forAll_inert (fun _ _ => ?_) _ _).trans ?_
    | split)

theorem endCmds_inert (s : State) (p : Nat) :
    inert (endCmds s p) = inert s := by
  unfold endCmds
  repeat' (first
    | with_reducible rfl
    | simp only [setF_inert]
    | refine (foldl_inert (fun _ _ => ?_) _ _).trans ?_)

theorem cancelRestart_inert (s : State) (p : Nat) :
    inert (cancelRestart s p) = inert s := by
  unfold cancelRestart
  repeat' (first
    | with_reducible rfl
    | simp only [inert_ite, ite_self, setF_inert, raise_inert])

theorem dikePins_inert (s : State) (p : Nat) :
    inert (dikePins s p) = inert s := by
  unfold dikePins
  repeat' (first
    | with_reducible rfl
    | simp only [setPol_inert, dikeQueues_inert, disconnectOct_inert, endBurst_inert, showPmu_inert, octSafe_inert]
    | refine (forAll_inert (fun _ _ => ?_) _ _).trans ?_)

theorem leaveBnd_inert (s : State) (b p cause : Nat) :
    inert (leaveBnd s b p cause) = inert s := by
  unfold leaveBnd
  repeat' (first
    | with_reducible rfl
    | simp only [inert_ite, ite_self, setPol_inert, rejudgeFailAll_inert, setCause_inert, releaseBnd_inert])

theorem dikeBench_inert (s : State) (p : Nat) :
    inert (dikeBench s p) = inert s := by
  unfold dikeBench
  repeat' (first
    | with_reducible rfl
    | simp only [inert_ite, ite_self, setF_inert, raise_inert, markRun_inert])

theorem dikeRecords_inert (s : State) (p : Nat) :
    inert (dikeRecords s p) = inert s := by
  unfold dikeRecords
  repeat' (first
    | with_reducible rfl
    | simp only [setPol_inert, setAcq_inert, reclaim_inert, runEnd_inert, closeRec_inert])

theorem dikeState_inert (s : State) (p src : Nat) :
    inert (dikeState s p src) = inert s := by
  unfold dikeState
  repeat' (first
    | with_reducible rfl
    | simp only [setF_inert, setPol_inert, raise_inert, setRs_inert, endCmds_inert, cancelRestart_inert])

theorem dikeAgain_inert (s : State) (p src : Nat) :
    inert (dikeAgain s p src) = inert s := by
  unfold dikeAgain
  repeat' (first
    | with_reducible rfl
    | simp only [inert_ite, ite_self, setF_inert, setPol_inert, freeB_inert]
    | split)

theorem dikeEntry_inert (s : State) (p src : Nat) :
    inert (dikeEntry s p src) = inert s := by
  unfold dikeEntry
  repeat' (first
    | with_reducible rfl
    | simp only [markRun_inert, clearBenched_inert, dikePins_inert, leaveBnd_inert, dikeBench_inert, dikeRecords_inert,
        dikeState_inert, dikeAgain_inert]
    | split)

theorem benchOut_inert (s : State) (b p : Nat) (toDike : Bool) :
    inert (benchOut s b p toDike) = inert s := by
  unfold benchOut
  repeat' (first
    | with_reducible rfl
    | simp only [inert_ite, ite_self, setPol_inert, setAcq_inert, runEnd_inert, closeEvent_inert, closeRec_inert,
        endsBurst_inert, closeGate_inert, parkOut_inert, toStopping_inert, leaveBnd_inert])

theorem disarm_inert (s : State) (p : Nat) (abort : Bool) :
    inert (disarm s p abort) = inert s := by
  unfold disarm
  repeat' (first
    | with_reducible rfl
    | simp only [inert_ite, ite_self, setRs_inert, endsBurst_inert, abortPins_inert, endCmds_inert])

theorem benchTo_inert (s : State) (p : Nat) (toDike : Bool) :
    inert (benchTo s p toDike) = inert s := by
  unfold benchTo
  repeat' (first
    | with_reducible rfl
    | simp only [inert_ite, ite_self, setF_inert, setPol_inert, raise_inert, markRun_inert, clearBenched_inert,
        leaveBnd_inert, dikeEntry_inert, benchOut_inert, disarm_inert]
    | split)

theorem bench_inert (s : State) (p : Nat) :
    inert (bench s p) = inert s := by
  unfold bench
  repeat' (first
    | with_reducible rfl
    | simp only [benchTo_inert])

theorem stopAll_inert (s : State) (p : Nat) (abort : Bool) :
    inert (stopAll s p abort) = inert s := by
  unfold stopAll
  repeat' (first
    | with_reducible rfl
    | simp only [inert_ite, setCause_inert, releaseBnd_inert, endIssue_inert, clearBenched_inert, disarm_inert]
    | refine (forAll_inert (fun _ _ => ?_) _ _).trans ?_
    | split)

theorem firstWord_inert (s : State) (p : Nat) (t : Stamp) :
    inert (firstWord s p t) = inert s := by
  unfold firstWord
  repeat' (first
    | with_reducible rfl
    | simp only [raise_inert, acqStart_inert, octActive_inert]
    | refine (forAll_inert (fun _ _ => ?_) _ _).trans ?_)

theorem playWord_inert (s : State) (b p va tset : Nat) (cp : Bool) (es : List (BitVec 192)) (vwi per : Nat) (t : Stamp) :
    inert (playWord s b p va tset cp es vwi per t) = inert s := by
  unfold playWord
  repeat' (first
    | with_reducible rfl
    | simp only [inert_ite, playChar_inert]
    | refine (forAll_inert (fun _ _ => ?_) _ _).trans ?_
    | split)

theorem insertIdle_inert (s : State) (b n : Nat) :
    inert (insertIdle s b n) = inert s := by
  unfold insertIdle
  repeat' (first
    | with_reducible rfl
    | simp only [inert_ite, addCt_inert, setBnd_inert, setPark_inert]
    | refine (forAll_inert (fun _ _ => ?_) _ _).trans ?_
    | split)

theorem afterWord_inert (s : State) (b : Nat) (streamed safe thr : Bool) :
    inert (afterWord s b streamed safe thr) = inert s := by
  unfold afterWord
  repeat' (first
    | with_reducible rfl
    | simp only [inert_ite, ite_self, addCt_inert, setBnd_inert, leadRegained_inert, vmStop_inert, insertIdle_inert])

theorem takeOvl_inert (f : Nat) (s : State) (b vwi : Nat) (acc : List (BitVec 192)) :
    inert (takeOvl f s b vwi acc).1 = inert s := by
  induction f generalizing s acc with
  | zero => rfl
  | succ f ih =>
    unfold takeOvl
    repeat' (first | with_reducible rfl | (simp only [ih, raise_inert, addCt_inert, setBnd_inert]) | split)

theorem issueWord_inert (s : State) (b : Nat) (w : WordOp) :
    inert (issueWord s b w) = inert s := by
  unfold issueWord
  repeat' (first
    | with_reducible rfl
    | simp only [inert_ite, ite_self, setF_inert, setBnd_inert, muteStarts_inert, pushLset_inert, dueDeskew_inert,
        gateOpen_inert, gateClose_inert, noteSeen_inert, growCredit_inert, setIssuing_inert, firstWord_inert, playWord_inert,
        takeOvl_inert]
    | refine (forAll_inert (fun _ _ => ?_) _ _).trans ?_
    | split)

theorem startRun_inert (s : State) (b : Nat) :
    inert (startRun s b) = inert s := by
  unfold startRun
  repeat' (first
    | with_reducible rfl
    | simp only [addCt_inert, setBnd_inert, setRs_inert, leadRegained_inert]
    | refine (forAll_inert (fun _ _ => ?_) _ _).trans ?_)

theorem takePause_inert (s : State) (b : Nat) (tol : Bool) :
    inert (takePause s b tol) = inert s := by
  unfold takePause
  repeat' (first
    | with_reducible rfl
    | simp only [inert_ite, ite_self, setF_inert, setBnd_inert, raise_inert, setRs_inert, flushFails_inert, winClose_inert,
        setPark_inert, setIssuing_inert, markRun_inert]
    | refine (forAll_inert (fun _ _ => ?_) _ _).trans ?_)

theorem resumeRun_inert (s : State) (b : Nat) :
    inert (resumeRun s b) = inert s := by
  unfold resumeRun
  repeat' (first
    | with_reducible rfl
    | simp only [inert_ite, setF_inert, addCt_inert, setBnd_inert, setRs_inert, endPark_inert, setIssuing_inert,
        markRun_inert, endCmds_inert, insertIdle_inert]
    | refine (forAll_inert (fun _ _ => ?_) _ _).trans ?_
    | split)

theorem setFstate_inert (s : State) (f v : Nat) :
    inert (setFstate s f v) = inert s := by
  unfold setFstate
  repeat' (first
    | with_reducible rfl
    | simp only [setF_inert])

theorem hubSource_inert (s : State) (src : Nat) (v : Bool) :
    inert (hubSource s src v) = inert s := by
  unfold hubSource
  repeat' (first
    | with_reducible rfl
    | simp only [inert_ite, ite_self, launch_inert, setLive_inert])

theorem faultSources_inert (s : State) :
    inert (faultSources s) = inert s := by
  unfold faultSources
  repeat' (first
    | with_reducible rfl
    | simp only [hubSource_inert]
    | refine (forAll_inert (fun _ _ => ?_) _ _).trans ?_)

theorem shutSource_inert (s : State) :
    inert (shutSource s) = inert s := by
  unfold shutSource
  repeat' (first
    | with_reducible rfl
    | simp only [hubSource_inert])

theorem preloadDrop_inert (s : State) (b : Nat) :
    inert (preloadDrop s b) = inert s := by
  unfold preloadDrop
  repeat' (first
    | with_reducible rfl
    | simp only [inert_ite, ite_self, setF_inert, setBnd_inert])

theorem setEmbank_inert (s : State) (v : Bool) :
    inert (setEmbank s v) = inert s := by
  unfold setEmbank
  repeat' (first
    | with_reducible rfl
    | simp only [setF_inert])

theorem embank_inert (s : State) (cause f : Nat) (t : Stamp) :
    inert (embank s cause f t) = inert s := by
  unfold embank
  repeat' (first
    | with_reducible rfl
    | simp only [inert_ite, ite_self, inert_upd, setF_inert, set64_inert, raise_inert, applyFaultDacs_inert, faultRamp_inert,
        faultRecord_inert, dikeEntry_inert, preloadDrop_inert, setEmbank_inert]
    | refine (forAll_inert (fun _ _ => ?_) _ _).trans ?_
    | split)

theorem setIso_inert (s : State) (d : Nat) (v : Bool) :
    inert (setIso s d v) = inert s := by
  unfold setIso
  repeat' (first
    | with_reducible rfl
    | simp only [setF_inert]
    | refine (forAll_inert (fun _ _ => ?_) _ _).trans ?_)

theorem isolate_inert (s : State) (d f : Nat) (t : Stamp) (names : List Nat) :
    inert (isolate s d f t names) = inert s := by
  unfold isolate
  repeat' (first
    | with_reducible rfl
    | simp only [inert_ite, raise_inert, causeDrop_inert, faultRecord_inert, octSafe_inert, setIso_inert]
    | refine (forAll_inert (fun _ _ => ?_) _ _).trans ?_
    | split)

theorem endIso_inert (s : State) :
    inert (endIso s) = inert s := by
  unfold endIso
  repeat' (first
    | with_reducible rfl
    | simp only [inert_ite, ite_self, setIso_inert]
    | refine (forAll_inert (fun _ _ => ?_) _ _).trans ?_)

theorem takeReaction_inert (s : State) (f : Nat) (t : Stamp) :
    inert (takeReaction s f t) = inert s := by
  unfold takeReaction
  repeat' (first
    | with_reducible rfl
    | simp only [inert_ite, ite_self, dikeEntry_inert, embank_inert, isolate_inert]
    | refine (forAll_inert (fun _ _ => ?_) _ _).trans ?_
    | split)

theorem occurrence_inert (s : State) (f : Nat) (t : Stamp) :
    inert (occurrence s f t) = inert s := by
  unfold occurrence
  repeat' (first
    | with_reducible rfl
    | simp only [setF_inert, addCt_inert, set64_inert, raise_inert, setFlt_inert, setFstate_inert, takeReaction_inert])

theorem occur_inert (s : State) (f : Nat) (t : Stamp) :
    inert (occur s f t) = inert s := by
  unfold occur
  repeat' (first
    | with_reducible rfl
    | simp only [inert_ite, ite_self, setFlt_inert, causeOff_inert, causeDrop_inert, setFstate_inert, faultSources_inert,
        takeReaction_inert, occurrence_inert]
    | split)

theorem senseGone_inert (s : State) (f : Nat) :
    inert (senseGone s f) = inert s := by
  unfold senseGone
  repeat' (first
    | with_reducible rfl
    | simp only [inert_ite, inert_upd, setF_inert, setChan_inert, setDs_inert, causeOff_inert, dsCause_inert]
    | refine (forAll_inert (fun _ _ => ?_) _ _).trans ?_
    | split)

theorem toQuiet_inert (s : State) (f : Nat) :
    inert (toQuiet s f) = inert s := by
  unfold toQuiet
  repeat' (first
    | with_reducible rfl
    | simp only [inert_ite, ite_self, setFlt_inert, setFstate_inert, faultSources_inert])

theorem quietEnd_inert (s : State) (f : Nat) :
    inert (quietEnd s f) = inert s := by
  unfold quietEnd
  repeat' (first
    | with_reducible rfl
    | simp only [inert_ite, ite_self, raise_inert, setFlt_inert, faultRecord_inert, setFstate_inert])

theorem fltDisable_inert (s : State) (f : Nat) :
    inert (fltDisable s f) = inert s := by
  unfold fltDisable
  repeat' (first
    | with_reducible rfl
    | simp only [inert_ite, ite_self, setFlt_inert, causeDrop_inert, setFstate_inert, faultSources_inert, endIso_inert])

theorem clearSource_inert (s : State) (f : Nat) :
    inert (clearSource s f) = inert s := by
  unfold clearSource
  repeat' (first
    | with_reducible rfl
    | simp only [inert_ite, ite_self, setFlt_inert, setFstate_inert, occur_inert]
    | split)

theorem clearSelf_inert (s : State) :
    inert (clearSelf s) = inert s := by
  unfold clearSelf
  repeat' (first
    | with_reducible rfl
    | simp only [inert_upd, setF_inert, setFltCfg_inert, fltDisable_inert]
    | refine (forAll_inert (fun _ _ => ?_) _ _).trans ?_
    | split)

theorem clrGo_inert (s : State) : inert (clrGo s) = inert s := by
  unfold clrGo
  extract_lets s1 l
  have h1 : inert s1 = inert s := by
    simp only [s1]; split
    · exact clearSelf_inert ..
    · rfl
  split
  · exact h1
  · exact (faultSources_inert ..).trans ((endIso_inert ..).trans ((forAll_inert (fun _ _ => clearSource_inert ..) _ _).trans
      h1))

theorem selfErr_inert (s : State) (t : Stamp) :
    inert (selfErr s t) = inert s := by
  unfold selfErr
  repeat' (first
    | with_reducible rfl
    | simp only [setF_inert, raise_inert, faultRecord_inert, faultSources_inert, embank_inert])

theorem exitGo_inert (s : State) :
    inert (exitGo s) = inert s := by
  unfold exitGo
  repeat' (first
    | with_reducible rfl
    | simp only [inert_ite, ite_self, setF_inert, raise_inert, faultSources_inert, setEmbank_inert])

theorem wantStep_inert (s : State) (r : Option Nat) :
    inert (wantStep s r) = inert s := by
  unfold wantStep
  repeat' (first
    | with_reducible rfl
    | simp only [inert_upd])

theorem ratioChanged_inert (s : State) (age : Bool) :
    inert (ratioChanged s age) = inert s := by
  unfold ratioChanged
  repeat' (first
    | with_reducible rfl
    | simp only [inert_ite, ite_self, wantStep_inert])

theorem clkStep_inert (s : State) :
    inert (clkStep s) = inert s := by
  unfold clkStep
  repeat' (first
    | with_reducible rfl
    | simp only [inert_upd])

theorem holdMark_inert (s : State) :
    inert (holdMark s) = inert s := by
  unfold holdMark
  repeat' (first
    | with_reducible rfl
    | simp only [inert_upd])

theorem setOnhold_inert (s : State) (k : Nat) (v : Bool) :
    inert (setOnhold s k v) = inert s := by
  unfold setOnhold
  repeat' (first
    | with_reducible rfl
    | simp only [setF_inert])

theorem switchAll_inert (s : State) :
    inert (switchAll s) = inert s := by
  unfold switchAll
  repeat' (first
    | with_reducible rfl
    | simp only [setOnhold_inert]
    | refine (forAll_inert (fun _ _ => ?_) _ _).trans ?_)

theorem switchBack_inert (s : State) :
    inert (switchBack s) = inert s := by
  unfold switchBack
  repeat' (first
    | with_reducible rfl
    | simp only [setOnhold_inert]
    | refine (forAll_inert (fun _ _ => ?_) _ _).trans ?_)

theorem outdivSet_inert (s : State) (k n p q : Nat) :
    inert (outdivSet s k n p q) = inert s := by
  unfold outdivSet
  repeat' (first
    | with_reducible rfl
    | simp only [inert_ite, ite_self, inert_upd, setF_inert, raise_inert, setOnhold_inert])

theorem outEnSet_inert (s : State) (k : Nat) :
    inert (outEnSet s k) = inert s := by
  unfold outEnSet
  repeat' (first
    | with_reducible rfl
    | simp only [setOnhold_inert])

theorem xcalFail_inert (s : State) :
    inert (xcalFail s) = inert s := by
  unfold xcalFail
  repeat' (first
    | with_reducible rfl
    | simp only [setF_inert, raise_inert])

theorem xcalBreak_inert (s : State) :
    inert (xcalBreak s) = inert s := by
  unfold xcalBreak
  repeat' (first
    | with_reducible rfl
    | simp only [inert_ite, ite_self, xcalFail_inert])

theorem loadLfsr_inert (s : State) :
    inert (loadLfsr s) = inert s := by
  unfold loadLfsr
  repeat' (first
    | with_reducible rfl
    | simp only [inert_upd])

theorem modCycle_inert (s : State) (r : Nat) :
    inert (modCycle s r) = inert s := by
  unfold modCycle
  repeat' (first
    | with_reducible rfl
    | simp only [inert_upd])

theorem modLost_inert (s : State) (r : Nat) :
    inert (modLost s r) = inert s := by
  unfold modLost
  repeat' (first
    | with_reducible rfl
    | simp only [inert_upd, freeW_inert, freeB_inert])

theorem modTick_inert (s : State) :
    inert (modTick s) = inert s := by
  unfold modTick
  repeat' (first
    | with_reducible rfl
    | simp only [inert_ite, ite_self, inert_upd, modCycle_inert, modLost_inert]
    | split)

theorem acquire_inert (s : State) (bclk : Bool) :
    inert (acquire s bclk) = inert s := by
  unfold acquire
  repeat' (first
    | with_reducible rfl
    | simp only [inert_upd, setF_inert, clkStep_inert, switchAll_inert])

theorem loseLock_inert (s : State) :
    inert (loseLock s) = inert s := by
  unfold loseLock
  repeat' (first
    | with_reducible rfl
    | simp only [inert_ite, ite_self, addCt_inert, raise_inert, causeOn_inert, holdMark_inert, xcalBreak_inert,
        acquire_inert])

theorem steer_inert (s : State) (bclk hold : Bool) :
    inert (steer s bclk hold) = inert s := by
  unfold steer
  repeat' (first
    | with_reducible rfl
    | simp only [setF_inert])

theorem measureB_inert (s : State) :
    inert (measureB s) = inert s := by
  unfold measureB
  repeat' (first
    | with_reducible rfl
    | simp only [inert_upd, freeW_inert])

theorem enterHoldover_inert (s : State) :
    inert (enterHoldover s) = inert s := by
  unfold enterHoldover
  repeat' (first
    | with_reducible rfl
    | simp only [inert_ite, ite_self, inert_upd, wantStep_inert, clkStep_inert, holdMark_inert, steer_inert, measureB_inert])

theorem leaveRef_inert (s : State) :
    inert (leaveRef s) = inert s := by
  unfold leaveRef
  repeat' (first
    | with_reducible rfl
    | simp only [inert_ite, ite_self, loseLock_inert, enterHoldover_inert])

theorem judgePhase_inert (s : State) (e : Int) :
    inert (judgePhase s e) = inert s := by
  unfold judgePhase
  repeat' (first
    | with_reducible rfl
    | simp only [inert_ite, ite_self, inert_upd, setF_inert, raiseIf_inert])

theorem phaseDue_inert (s : State) :
    inert (phaseDue s) = inert s := by
  unfold phaseDue
  repeat' (first
    | with_reducible rfl
    | simp only [inert_ite, ite_self, inert_upd, judgePhase_inert, freeW_inert])

theorem lockWindow_inert (s : State) (d : BitVec 16) :
    inert (lockWindow s d) = inert s := by
  unfold lockWindow
  repeat' (first
    | with_reducible rfl
    | simp only [inert_ite, ite_self, setF_inert, loseLock_inert])

theorem declareLock_inert (s : State) :
    inert (declareLock s) = inert s := by
  unfold declareLock
  repeat' (first
    | with_reducible rfl
    | simp only [inert_ite, ite_self, inert_upd, setF_inert, addCt_inert, raise_inert, causeOff_inert, clkStep_inert,
        switchBack_inert, loadLfsr_inert, enterHoldover_inert, phaseDue_inert])

theorem relockGo_inert (s : State) :
    inert (relockGo s) = inert s := by
  unfold relockGo
  repeat' (first
    | with_reducible rfl
    | simp only [inert_ite, ite_self, setF_inert, holdMark_inert, xcalBreak_inert, acquire_inert])

theorem refselSet_inert (s : State) :
    inert (refselSet s) = inert s := by
  unfold refselSet
  repeat' (first
    | with_reducible rfl
    | simp only [inert_ite, ite_self, wantStep_inert, acquire_inert, leaveRef_inert]
    | split)

theorem dropBclk_inert (s : State) :
    inert (dropBclk s) = inert s := by
  unfold dropBclk
  repeat' (first
    | with_reducible rfl
    | simp only [inert_ite, ite_self, wantStep_inert, acquire_inert, leaveRef_inert])

theorem endHoldover_inert (s : State) :
    inert (endHoldover s) = inert s := by
  unfold endHoldover
  repeat' (first
    | with_reducible rfl
    | simp only [inert_ite, ite_self, inert_upd, holdMark_inert, steer_inert, phaseDue_inert])

theorem phstepGo_inert (s : State) :
    inert (phstepGo s) = inert s := by
  unfold phstepGo
  repeat' (first
    | with_reducible rfl
    | simp only [setF_inert])

theorem shiftSpans_inert (s : State) (x : Stamp) :
    inert (shiftSpans s x) = inert s := by
  unfold shiftSpans
  repeat' (first
    | with_reducible rfl
    | simp only [inert_upd])

theorem passStarts_inert (s : State) (t0 t1 : Stamp) :
    inert (passStarts s t0 t1) = inert s := by
  unfold passStarts
  repeat' (first
    | with_reducible rfl
    | simp only [inert_ite, ite_self, setPol_inert, raise_inert]
    | refine (forAll_inert (fun _ _ => ?_) _ _).trans ?_
    | split)

theorem bsyncReset_inert (s : State) :
    inert (bsyncReset s) = inert s := by
  unfold bsyncReset
  repeat' (first
    | with_reducible rfl
    | simp only [inert_upd, clkStep_inert, switchAll_inert])

theorem bdnCapture_inert (s : State) :
    inert (bdnCapture s) = inert s := by
  unfold bdnCapture
  repeat' (first
    | with_reducible rfl
    | simp only [setF_inert])

theorem reachUp_inert (s : State) (t : Stamp) :
    inert (reachUp s t) = inert s := by
  unfold reachUp
  repeat' (first
    | with_reducible rfl
    | simp only [reach_inert])

theorem driveLine_inert (s : State) (k : Nat) (v : Bool) :
    inert (driveLine s k v) = inert s := by
  unfold driveLine
  repeat' (first
    | with_reducible rfl
    | simp only [inert_upd])

theorem lineEvent_inert (s : State) (k : Nat) (t : Stamp) :
    inert (lineEvent s k t) = inert s := by
  unfold lineEvent
  repeat' (first
    | with_reducible rfl
    | simp only [inert_ite, ite_self, inert_upd, addCt_inert, raise_inert, driveLine_inert])

theorem linesEvent_inert (s : State) (src : Nat) (ord : Bool) (t : Stamp) :
    inert (linesEvent s src ord t) = inert s := by
  unfold linesEvent
  repeat' (first
    | with_reducible rfl
    | simp only [inert_ite, ite_self, lineEvent_inert]
    | refine (forAll_inert (fun _ _ => ?_) _ _).trans ?_)

theorem lineConfig_inert (s : State) (k : Nat) :
    inert (lineConfig s k) = inert s := by
  unfold lineConfig
  repeat' (first
    | with_reducible rfl
    | simp only [inert_upd, driveLine_inert])

theorem refreshRoute_inert (s : State) (k : Nat) :
    inert (refreshRoute s k) = inert s := by
  unfold refreshRoute
  repeat' (first
    | with_reducible rfl
    | simp only [inert_ite, ite_self, causeOn_inert, causeOff_inert])

theorem latchEvent_inert (s : State) (src : Nat) (pol : Bool) :
    inert (latchEvent s src pol) = inert s := by
  unfold latchEvent
  repeat' (first
    | with_reducible rfl
    | simp only [inert_ite, ite_self, setLatch_inert]
    | refine (forAll_inert (fun _ _ => ?_) _ _).trans ?_)

theorem startEvent_inert (s : State) (src : Nat) (pol : Bool) (t : Stamp) :
    inert (startEvent s src pol t) = inert s := by
  unfold startEvent
  repeat' (first
    | with_reducible rfl
    | simp only [inert_ite, ite_self, setPol_inert]
    | refine (forAll_inert (fun _ _ => ?_) _ _).trans ?_
    | split)

theorem muteEvent_inert (s : State) (src : Nat) (pol : Bool) (t : Stamp) :
    inert (muteEvent s src pol t) = inert s := by
  unfold muteEvent
  repeat' (first
    | with_reducible rfl
    | simp only [inert_ite, ite_self, muteStart_inert]
    | refine (forAll_inert (fun _ _ => ?_) _ _).trans ?_)

theorem deliverPrompt_inert (s : State) (e : Ev) :
    inert (deliverPrompt s e) = inert s := by
  unfold deliverPrompt
  repeat' (first
    | with_reducible rfl
    | simp only [inert_ite, ite_self, inert_upd, refreshLevee_inert, linesEvent_inert, refreshRoute_inert, latchEvent_inert,
        startEvent_inert, muteEvent_inert]
    | refine (forAll_inert (fun _ _ => ?_) _ _).trans ?_
    | split)

theorem ringWrite_inert (s : State) (w0 : Stamp) (w1 : Nat) : inert (ringWrite s w0 w1) = inert s := by
  unfold ringWrite
  extract_lets wr s1 r v s2
  split
  · rfl
  · split
    · exact (show inert s1 = inert s by simp only [s1, raise_inert, addCt_inert])
    · exact (show inert s2 = inert s by simp only [s2, setF_inert, setWide_inert])

theorem deliverOrdered_inert (s : State) (e : Ev) (late : Bool) :
    inert (deliverOrdered s e late) = inert s := by
  unfold deliverOrdered
  repeat' (first
    | with_reducible rfl
    | simp only [inert_ite, ite_self, inert_upd, routerTrigger_inert, linesEvent_inert, ringWrite_inert]
    | refine (forAll_inert (fun _ _ => ?_) _ _).trans ?_
    | split)

theorem promptEvent_inert (s : State) (e : Ev) :
    inert (promptEvent s e) = inert s := by
  unfold promptEvent
  repeat' (first
    | with_reducible rfl
    | simp only [inert_ite, ite_self, deliverPrompt_inert])

theorem hold_inert (s : State) (h : Held) :
    inert (hold s h) = inert s := by
  unfold hold
  repeat' (first
    | with_reducible rfl
    | simp only [inert_upd])

theorem orderedEvent_inert (s : State) (e : Ev) (late : Bool) :
    inert (orderedEvent s e late) = inert s := by
  unfold orderedEvent
  repeat' (first
    | with_reducible rfl
    | simp only [inert_ite, ite_self, deliverOrdered_inert, hold_inert])

theorem monEvent_inert (s : State) (e : Ev) (late : Bool) :
    inert (monEvent s e late) = inert s := by
  unfold monEvent
  repeat' (first
    | with_reducible rfl
    | simp only [addCt_inert, setPol_inert, deliverPrompt_inert, deliverOrdered_inert]
    | split)

theorem startHeld_inert (s : State) (t : Stamp) :
    inert (startHeld s t) = inert s := by
  unfold startHeld
  repeat' (first
    | with_reducible rfl
    | simp only [muteEvent_inert]
    | refine (foldl_inert (fun _ _ => ?_) _ _).trans ?_)

theorem holdMon_inert (s : State) (e : Ev) :
    inert (holdMon s e) = inert s := by
  unfold holdMon
  repeat' (first
    | with_reducible rfl
    | simp only [inert_upd, hold_inert])

theorem muteEnd_inert (s : State) (p k : Nat) (c : Stamp) :
    inert (muteEnd s p k c) = inert s := by
  unfold muteEnd
  repeat' (first
    | with_reducible rfl
    | simp only [inert_ite, ite_self, setPol_inert, hold_inert]
    | refine (foldl_inert (fun _ _ => ?_) _ _).trans ?_
    | split)

theorem hostEvent_inert (s : State) (k act code : Nat) :
    inert (hostEvent s k act code) = inert s := by
  unfold hostEvent
  repeat' (first
    | with_reducible rfl
    | simp only [inert_ite, ite_self, launch_inert])

theorem echoState_inert (s : State) :
    inert (echoState s) = inert s := by
  unfold echoState
  repeat' (first
    | with_reducible rfl
    | simp only [setF_inert, hubSource_inert])

theorem startSlew_inert (s : State) (e : Int) :
    inert (startSlew s e) = inert s := by
  unfold startSlew
  repeat' (first
    | with_reducible rfl
    | simp only [inert_ite, ite_self, inert_upd, setF_inert])

theorem stepCount_inert (s : State) (x : Stamp) :
    inert (stepCount s x) = inert s := by
  unfold stepCount
  repeat' (first
    | with_reducible rfl
    | simp only [inert_upd, clkStep_inert, shiftSpans_inert])

theorem loadPreset_inert (s : State) (d e : Int) :
    inert (loadPreset s d e) = inert s := by
  unfold loadPreset
  repeat' (first
    | with_reducible rfl
    | simp only [inert_ite, ite_self, setF_inert, addCt_inert, raise_inert, passStarts_inert, startSlew_inert,
        stepCount_inert])

theorem bsyncDue_inert (s : State) (d : Int) :
    inert (bsyncDue s d) = inert s := by
  unfold bsyncDue
  repeat' (first
    | with_reducible rfl
    | simp only [inert_ite, ite_self, setF_inert, bsyncReset_inert])

theorem frameMeasure_inert (s : State) (pherr : Int) :
    inert (frameMeasure s pherr) = inert s := by
  unfold frameMeasure
  repeat' (first
    | with_reducible rfl
    | simp only [inert_ite, ite_self, inert_upd, judgePhase_inert])

theorem xcalSample_inert (s : State) (r : Int) :
    inert (xcalSample s r) = inert s := by
  unfold xcalSample
  repeat' (first
    | with_reducible rfl
    | simp only [inert_ite, ite_self, inert_upd])

theorem useFrame_inert (s : State) (v : Nat) (tm : Stamp) (resid : BitVec 4) (pherr : Bool) :
    inert (useFrame s v tm resid pherr) = inert s := by
  unfold useFrame
  repeat' (first
    | with_reducible rfl
    | simp only [inert_ite, ite_self, launch_inert, reachUp_inert, loadPreset_inert, bsyncDue_inert, frameMeasure_inert,
        xcalSample_inert])

theorem markerEdge_inert (s : State) (tm : Stamp) :
    inert (markerEdge s tm) = inert s := by
  unfold markerEdge
  repeat' (first
    | with_reducible rfl
    | simp only [inert_ite, ite_self, inert_upd])

theorem goodEcho_inert (s : State) (r : Int) :
    inert (goodEcho s r) = inert s := by
  unfold goodEcho
  repeat' (first
    | with_reducible rfl
    | simp only [inert_ite, ite_self, inert_upd, setF_inert])

theorem badEcho_inert (s : State) :
    inert (badEcho s) = inert s := by
  unfold badEcho
  repeat' (first
    | with_reducible rfl
    | simp only [inert_ite, ite_self, inert_upd, setF_inert, addCt_inert, raise_inert, phaseDue_inert])

theorem xcalGo_inert (s : State) :
    inert (xcalGo s) = inert s := by
  unfold xcalGo
  repeat' (first
    | with_reducible rfl
    | simp only [inert_ite, ite_self, inert_upd, setF_inert, xcalFail_inert])

theorem ignored_inert (s : State) (p : Nat) :
    inert (ignored s p) = inert s := by
  unfold ignored
  repeat' (first
    | with_reducible rfl
    | simp only [raise_inert])

theorem takeOct_inert (s : State) (p o : Nat) :
    inert (takeOct s p o) = inert s := by
  unfold takeOct
  repeat' (first
    | with_reducible rfl
    | simp only [inert_ite, ite_self, setF_inert, clearSpace_inert, octSafe_inert, octIdle_inert])

theorem dropOct_inert (s : State) (o : Nat) :
    inert (dropOct s o) = inert s := by
  unfold dropOct
  repeat' (first
    | with_reducible rfl
    | simp only [setF_inert, emptyQueue_inert, clearSpace_inert, disconnectOct_inert, octOff_inert, octSafe_inert]
    | split)

theorem takeDsmap_inert (s : State) (p v : Nat) :
    inert (takeDsmap s p v) = inert s := by
  unfold takeDsmap
  repeat' (first
    | with_reducible rfl
    | simp only [inert_ite, ite_self, setF_inert, raise_inert, refreshLevee_inert, takeDs_inert, dropDs_inert]
    | refine (forAll_inert (fun _ _ => ?_) _ _).trans ?_
    | refine (foldl_inert (fun _ _ => ?_) _ _).trans ?_
    | split)

theorem form_inert (s : State) (p : Nat) :
    inert (form s p) = inert s := by
  unfold form
  repeat' (first
    | with_reducible rfl
    | simp only [setF_inert, emptyQueue_inert, suspendQueue_inert, faultRamp_inert, dikeBench_inert, dikeRecords_inert,
        dikeState_inert, takeDsmap_inert]
    | refine (forAll_inert (fun _ _ => ?_) _ _).trans ?_)

theorem dissolve_inert (s : State) (p : Nat) :
    inert (dissolve s p) = inert s := by
  unfold dissolve
  repeat' (first
    | with_reducible rfl
    | simp only [setF_inert, setPol_inert, setRs_inert, emptyQueue_inert, dropDs_inert, endBurst_inert, showPmu_inert]
    | refine (forAll_inert (fun _ _ => ?_) _ _).trans ?_)

theorem octmapSet_inert (s : State) (p : Nat) (hi : Bool) (v : Nat) :
    inert (octmapSet s p hi v) = inert s := by
  unfold octmapSet
  repeat' (first
    | with_reducible rfl
    | simp only [inert_ite, ite_self, setF_inert, raise_inert, refreshLevee_inert, showPmu_inert, takeOct_inert,
        dropOct_inert, form_inert, dissolve_inert]
    | refine (forAll_inert (fun _ _ => ?_) _ _).trans ?_
    | refine (foldl_inert (fun _ _ => ?_) _ _).trans ?_
    | split)

theorem dsmapSet_inert (s : State) (p v : Nat) :
    inert (dsmapSet s p v) = inert s := by
  unfold dsmapSet
  repeat' (first
    | with_reducible rfl
    | simp only [inert_ite, ite_self, setF_inert, takeDsmap_inert])

theorem judgeRun_inert (s : State) (p : Nat) :
    inert (judgeRun s p) = inert s := by
  unfold judgeRun
  repeat' (first
    | with_reducible rfl
    | simp only [inert_ite, ite_self, setF_inert, raise_inert, arm_inert, ignored_inert])

theorem cmdRun_inert (s : State) (p : Nat) (scope : Bool) :
    inert (cmdRun s p scope) = inert s := by
  unfold cmdRun
  repeat' (first
    | with_reducible rfl
    | simp only [inert_ite, setF_inert, ignored_inert, judgeRun_inert]
    | refine (forAll_inert (fun _ _ => ?_) _ _).trans ?_
    | split)

theorem showStop_inert (s : State) (p : Nat) (abort : Bool) :
    inert (showStop s p abort) = inert s := by
  unfold showStop
  repeat' (first
    | with_reducible rfl
    | simp only [inert_ite, ite_self, setF_inert])

theorem cmdStop_inert (s : State) (p : Nat) (scope abort : Bool) :
    inert (cmdStop s p scope abort) = inert s := by
  unfold cmdStop
  repeat' (first
    | with_reducible rfl
    | simp only [inert_ite, ite_self, cancelRestart_inert, bench_inert, stopAll_inert, ignored_inert, showStop_inert]
    | refine (forAll_inert (fun _ _ => ?_) _ _).trans ?_
    | split)

theorem cmdPause_inert (s : State) (p : Nat) (scope : Bool) :
    inert (cmdPause s p scope) = inert s := by
  unfold cmdPause
  repeat' (first
    | with_reducible rfl
    | simp only [inert_ite, ite_self, setF_inert, setBnd_inert, ignored_inert]
    | split)

theorem cmdResume_inert (s : State) (p : Nat) (scope : Bool) :
    inert (cmdResume s p scope) = inert s := by
  unfold cmdResume
  repeat' (first
    | with_reducible rfl
    | simp only [inert_ite, setF_inert, resumeRun_inert, ignored_inert]
    | refine (forAll_inert (fun _ _ => ?_) _ _).trans ?_
    | split)

theorem cmdDike_inert (s : State) (p : Nat) (scope : Bool) :
    inert (cmdDike s p scope) = inert s := by
  unfold cmdDike
  repeat' (first
    | with_reducible rfl
    | simp only [inert_ite, dikeEntry_inert, ignored_inert]
    | refine (forAll_inert (fun _ _ => ?_) _ _).trans ?_
    | split)

theorem cmdRelease_inert (s : State) (p : Nat) (scope : Bool) :
    inert (cmdRelease s p scope) = inert s := by
  unfold cmdRelease
  repeat' (first
    | with_reducible rfl
    | simp only [inert_ite, ite_self, setF_inert, setPol_inert, ignored_inert]
    | refine (forAll_inert (fun _ _ => ?_) _ _).trans ?_
    | split)

theorem runctl_inert (s : State) (p v : Nat) (scope : Bool) :
    inert (runctl s p v scope) = inert s := by
  unfold runctl
  repeat' (first
    | with_reducible rfl
    | simp only [inert_ite, ite_self, ignored_inert, cmdRun_inert, cmdStop_inert, cmdPause_inert, cmdResume_inert,
        cmdDike_inert, cmdRelease_inert])

theorem releaseNow_inert (s : State) (p : Nat) :
    inert (releaseNow s p) = inert s := by
  unfold releaseNow
  repeat' (first
    | with_reducible rfl
    | simp only [inert_ite, setF_inert, setPol_inert, raise_inert, setRs_inert, releaseQueues_inert, octIdle_inert,
        ignored_inert]
    | refine (forAll_inert (fun _ _ => ?_) _ _).trans ?_
    | split)

theorem lastItems_inert (s : State) (p : Nat) :
    inert (lastItems s p) = inert s := by
  unfold lastItems
  repeat' (first
    | with_reducible rfl
    | simp only [flushScopes_inert, drainChans_inert, flushAllFails_inert, winClose_inert]
    | refine (forAll_inert (fun _ _ => ?_) _ _).trans ?_)

theorem finish_inert (s : State) (p : Nat) :
    inert (finish s p) = inert s := by
  unfold finish
  repeat' (first
    | with_reducible rfl
    | simp only [setRs_inert, endRec_inert, endRun_inert, octIdle_inert, endCmds_inert, lastItems_inert]
    | refine (forAll_inert (fun _ _ => ?_) _ _).trans ?_)

theorem endBenched_inert (s : State) (p : Nat) :
    inert (endBenched s p) = inert s := by
  unfold endBenched
  repeat' (first
    | with_reducible rfl
    | simp only [inert_ite, ite_self, clearBenched_inert, dikeEntry_inert, lastItems_inert, finish_inert])

theorem endStopping_inert (s : State) (p : Nat) (g : List Nat) :
    inert (endStopping s p g) = inert s := by
  unfold endStopping
  repeat' (first
    | with_reducible rfl
    | simp only [inert_ite, ite_self, setF_inert, raise_inert, releaseBnd_inert, arm_inert, clearBenched_inert,
        dikeEntry_inert, lastItems_inert, finish_inert]
    | refine (forAll_inert (fun _ _ => ?_) _ _).trans ?_
    | split)

theorem stopOrBench_inert (s : State) (p : Nat) (one : Bool) :
    inert (stopOrBench s p one) = inert s := by
  unfold stopOrBench
  repeat' (first
    | with_reducible rfl
    | simp only [inert_ite, ite_self, cancelRestart_inert, bench_inert, stopAll_inert]
    | refine (forAll_inert (fun _ _ => ?_) _ _).trans ?_
    | split)

theorem spwEval_inert (z s : State) (k : Nat) : inert (spwEval z s k) = inert s := by
  unfold spwEval
  repeat' (first
    | with_reducible rfl
    | simp only [inert_ite, ite_self, addCt_inert, raise_inert, setDflog_inert, flushScopes_inert, setStrm_inert])

theorem acqctlSet_inert (s : State) (p : Nat) (en : Bool) (mode : Nat) (strig rtrig : Bool) :
    inert (acqctlSet s p en mode strig rtrig) = inert s := by
  unfold acqctlSet
  repeat' (first
    | with_reducible rfl
    | simp only [inert_ite, ite_self, setF_inert, restartStreams_inert, setAstate_inert, flushScopes_inert])

theorem becameFull_inert (old s : State) : inert (becameFull old s) = inert s := raiseIf_inert ..

theorem spillrdSet_inert (s : State) (hi : Bool) (v : Nat) :
    inert (spillrdSet s hi v) = inert s := by
  unfold spillrdSet
  repeat' (first
    | with_reducible rfl
    | simp only [inert_ite, ite_self, setF_inert, raise_inert, becameFull_inert])

end Sys2Proof.Machine
end

