-- ==== Sys2Proof/Laws/InertPage.lean ====
section
/-! SUPPORT. What the operations never write, part 3: the link, engines, security, thermal, power, sequencers, the fabric,
    indirect access and the DAC queues. Each operation has one lemma: it leaves the queue, the OTP,
the lifecycle target, the TAP, the mailboxes and DRAM as they are. -/

namespace Sys2Proof.Machine

theorem setPort_inert (s : State) (p : Nat) (x : Port) :
    inert (setPort s p x) = inert s := by
  unfold setPort
  repeat' (first
    | with_reducible rfl
    | simp only [inert_upd])

theorem setL_inert (s : State) (p v : Nat) :
    inert (setL s p v) = inert s := by
  unfold setL
  repeat' (first
    | with_reducible rfl
    | simp only [setF_inert])

theorem setLocks_inert (s : State) (p m : Nat) :
    inert (setLocks s p m) = inert s := by
  unfold setLocks
  repeat' (first
    | with_reducible rfl
    | simp only [setF_inert]
    | refine (forAll_inert (fun _ _ => ?_) _ _).trans ?_)

theorem setSess_inert (s : State) (p v : Nat) :
    inert (setSess s p v) = inert s := by
  unfold setSess
  repeat' (first
    | with_reducible rfl
    | simp only [setF_inert]
    | refine (forAll_inert (fun _ _ => ?_) _ _).trans ?_)

theorem setEpoch_inert (s : State) (p v : Nat) :
    inert (setEpoch s p v) = inert s := by
  unfold setEpoch
  repeat' (first
    | with_reducible rfl
    | simp only [setF_inert]
    | refine (forAll_inert (fun _ _ => ?_) _ _).trans ?_)

theorem lowerSess_inert (s : State) (p v : Nat) :
    inert (lowerSess s p v) = inert s := by
  unfold lowerSess
  repeat' (first
    | with_reducible rfl
    | simp only [setSess_inert])

theorem nextEpoch_inert (s : State) (p : Nat) :
    inert (nextEpoch s p) = inert s := by
  unfold nextEpoch
  repeat' (first
    | with_reducible rfl
    | simp only [setPort_inert, setEpoch_inert])

theorem showRoles_inert (s : State) :
    inert (showRoles s) = inert s := by
  unfold showRoles
  repeat' (first
    | with_reducible rfl
    | simp only [setF_inert])

theorem enterDetect_inert (s : State) (p : Nat) :
    inert (enterDetect s p) = inert s := by
  unfold enterDetect
  repeat' (first
    | with_reducible rfl
    | simp only [inert_ite, setF_inert, setPort_inert, setL_inert, setLocks_inert]
    | refine (forAll_inert (fun _ _ => ?_) _ _).trans ?_
    | split)

theorem startRetrain_inert (s : State) (p : Nat) :
    inert (startRetrain s p) = inert s := by
  unfold startRetrain
  repeat' (first
    | with_reducible rfl
    | simp only [inert_ite, ite_self, setPort_inert, setL_inert, setLocks_inert])

theorem endTrial_inert (s : State) (p : Nat) :
    inert (endTrial s p) = inert s := by
  unfold endTrial
  repeat' (first
    | with_reducible rfl
    | simp only [setF_inert, setPort_inert, setL_inert, setLocks_inert])

theorem lockEnd_inert (s : State) (p : Nat) :
    inert (lockEnd s p) = inert s := by
  unfold lockEnd
  repeat' (first
    | with_reducible rfl
    | simp only [inert_ite, ite_self, setPort_inert, setL_inert, setLocks_inert, enterDetect_inert, endTrial_inert])

theorem tell_inert (s : State) (p : Nat) (l : List Lctl) :
    inert (tell s p l) = inert s := by
  unfold tell
  repeat' (first
    | with_reducible rfl
    | simp only [setPort_inert])

theorem giveCredit_inert (s : State) (p : Nat) (l : List (CreditClass × Nat)) :
    inert (giveCredit s p l) = inert s := by
  unfold giveCredit
  repeat' (first
    | with_reducible rfl
    | simp only [setPort_inert])

theorem firstGrants_inert (s : State) (p : Nat) :
    inert (firstGrants s p) = inert s := by
  unfold firstGrants
  repeat' (first
    | with_reducible rfl
    | simp only [inert_ite, ite_self, inert_upd, setPort_inert, giveCredit_inert])

theorem negotiated_inert (s : State) (p : Nat) (ts : TsFields) :
    inert (negotiated s p ts) = inert s := by
  unfold negotiated
  repeat' (first
    | with_reducible rfl
    | simp only [inert_ite, setF_inert, setPort_inert, setL_inert, showRoles_inert, firstGrants_inert]
    | refine (forAll_inert (fun _ _ => ?_) _ _).trans ?_
    | split)

theorem sendPkt_inert (s : State) (p : Nat) (k : TxPkt) :
    inert (sendPkt s p k) = inert s := by
  unfold sendPkt
  repeat' (first
    | with_reducible rfl
    | simp only [setPort_inert])

theorem useCredit_inert (s : State) (p : Nat) (l : List (CreditClass × Nat)) :
    inert (useCredit s p l) = inert s := by
  unfold useCredit
  repeat' (first
    | with_reducible rfl
    | simp only [setF_inert, setPort_inert]
    | refine (foldl_inert (fun _ _ => ?_) _ _).trans ?_
    | split)

theorem passOn_inert (p : Nat) (s : State) (k : TxPkt) :
    inert (passOn p s k) = inert s := by
  unfold passOn
  repeat' (first
    | with_reducible rfl
    | simp only [inert_ite, ite_self, setPort_inert, giveCredit_inert, sendPkt_inert, useCredit_inert])

theorem drainWait_inert (s : State) (p : Nat) :
    inert (drainWait s p) = inert s := by
  unfold drainWait
  repeat' (first
    | with_reducible rfl
    | simp only [inert_ite, setPort_inert, tell_inert, passOn_inert]
    | refine (foldl_inert (fun _ _ => ?_) _ _).trans ?_
    | split)

theorem requeue_inert (s : State) (k idx : Nat) :
    inert (requeue s k idx) = inert s := by
  unfold requeue
  repeat' (first
    | with_reducible rfl
    | simp only [setStrm_inert])

theorem discardPkt_inert (p : Nat) (s : State) (k : TxPkt) :
    inert (discardPkt p s k) = inert s := by
  unfold discardPkt
  repeat' (first
    | with_reducible rfl
    | simp only [inert_ite, ite_self, raise_inert, sendPkt_inert, requeue_inert]
    | split)

theorem discardWait_inert (p : Nat) (s : State) (k : TxPkt) :
    inert (discardWait p s k) = inert s := by
  unfold discardWait
  repeat' (first
    | with_reducible rfl
    | simp only [inert_ite, ite_self, giveCredit_inert, discardPkt_inert])

theorem goDown_inert (s : State) (p : Nat) : inert (goDown s p) = inert s := by
  unfold goDown
  extract_lets x up s1 s2 s3 s4 s5
  have h1 : inert s1 = inert s := (setL_inert ..).trans (setPort_inert ..)
  have h2 : inert s2 = inert s :=
    (foldl_inert (fun _ _ => discardWait_inert ..) _ _).trans ((foldl_inert (fun _ _ => discardPkt_inert ..) _ _).trans h1)
  have h3 : inert s3 = inert s := ((foldl_inert (fun _ _ => setF_inert ..) _ _).trans (setLocks_inert ..)).trans h2
  have h4 : inert s4 = inert s := by
    simp only [s4]; split
    · exact (forAll_inert (fun _ _ => setF_inert ..) _ _).trans h3
    · exact h3
  have h5 : inert s5 = inert s := (raise_inert ..).trans h4
  split
  · exact h4
  · split
    · exact (setPort_inert ..).trans ((setF_inert ..).trans h5)
    · exact h5

theorem narrow_inert (s : State) (p m : Nat) :
    inert (narrow s p m) = inert s := by
  unfold narrow
  repeat' (first
    | with_reducible rfl
    | simp only [setF_inert])

theorem replay_inert (s : State) (p : Nat) :
    inert (replay s p) = inert s := by
  unfold replay
  repeat' (first
    | with_reducible rfl
    | simp only [inert_ite, ite_self, addCt_inert, raise_inert, setPort_inert, startRetrain_inert])

theorem narrowed_inert (s : State) (p m : Nat) :
    inert (narrowed s p m) = inert s := by
  unfold narrowed
  repeat' (first
    | with_reducible rfl
    | simp only [addCt_inert, raise_inert, setPort_inert, narrow_inert])

theorem degrade_inert (s : State) (p m : Nat) :
    inert (degrade s p m) = inert s := by
  unfold degrade
  repeat' (first
    | with_reducible rfl
    | simp only [replay_inert, narrowed_inert])

theorem retrainGo_inert (s : State) (p : Nat) :
    inert (retrainGo s p) = inert s := by
  unfold retrainGo
  repeat' (first
    | with_reducible rfl
    | simp only [inert_ite, ite_self, setF_inert, startRetrain_inert])

theorem ackedPkt_inert (s : State) (k : TxPkt) :
    inert (ackedPkt s k) = inert s := by
  unfold ackedPkt
  repeat' (first
    | with_reducible rfl
    | simp only [inert_ite, ite_self, setF_inert, freeGran_inert]
    | split)

theorem retrained_inert (s : State) (p : Nat) (r : BitVec 12) :
    inert (retrained s p r) = inert s := by
  unfold retrained
  repeat' (first
    | with_reducible rfl
    | simp only [inert_ite, ite_self, setF_inert, addCt_inert, raise_inert, setPort_inert, setL_inert, lowerSess_inert,
        nextEpoch_inert, replay_inert, narrowed_inert, ackedPkt_inert]
    | refine (foldl_inert (fun _ _ => ?_) _ _).trans ?_)

theorem csChanged_inert (s : State) (m : Nat) :
    inert (csChanged s m) = inert s := by
  unfold csChanged
  repeat' (first
    | with_reducible rfl
    | simp only [inert_ite, ite_self, setF_inert, raise_inert])

theorem commitMword_inert (s : State) (m a : Nat) (v : BitVec 192) :
    inert (commitMword s m a v) = inert s := by
  unfold commitMword
  repeat' (first
    | with_reducible rfl
    | simp only [inert_ite, ite_self, setF_inert, setWide_inert, raise_inert, csChanged_inert])

theorem consume_inert (s : State) (m code : Nat) :
    inert (consume s m code) = inert s := by
  unfold consume
  repeat' (first
    | with_reducible rfl
    | simp only [inert_ite, ite_self, clearLatch_inert])

theorem setLoops_inert (s : State) (m : Nat) (l : List LoopLv) :
    inert (setLoops s m l) = inert s := by
  unfold setLoops
  repeat' (first
    | with_reducible rfl
    | simp only [setF_inert, setBnd_inert])

theorem setCalls_inert (s : State) (m : Nat) (l : List (BitVec 14 × BitVec 40)) :
    inert (setCalls s m l) = inert s := by
  unfold setCalls
  repeat' (first
    | with_reducible rfl
    | simp only [setF_inert, setBnd_inert])

theorem setCnt_inert (s : State) (m k v : Nat) :
    inert (setCnt s m k v) = inert s := by
  unfold setCnt
  repeat' (first
    | with_reducible rfl
    | simp only [setF_inert])

theorem setUpc_inert (s : State) (m a : Nat) :
    inert (setUpc s m a) = inert s := by
  unfold setUpc
  repeat' (first
    | with_reducible rfl
    | simp only [setF_inert])

theorem engFault_inert (s : State) (m c : Nat) :
    inert (engFault s m c) = inert s := by
  unfold engFault
  repeat' (first
    | with_reducible rfl
    | simp only [setF_inert, stopFault_inert])

theorem popLoop_inert (s : State) (m : Nat) :
    inert (popLoop s m) = inert s := by
  unfold popLoop
  repeat' (first
    | with_reducible rfl
    | simp only [unlock_inert, setLoops_inert])

theorem branch_inert (s : State) (m nxt : Nat) (cs : List (Nat × Bool)) :
    inert (branch s m nxt cs) = inert s := by
  unfold branch
  repeat' (first
    | with_reducible rfl
    | simp only [inert_ite, ite_self, consume_inert, setUpc_inert]
    | refine (foldl_inert (fun _ _ => ?_) _ _).trans ?_)

theorem setFlag_inert (s : State) (m k : Nat) (v : Bool) (t : Stamp) :
    inert (setFlag s m k v t) = inert s := by
  unfold setFlag
  repeat' (first
    | with_reducible rfl
    | simp only [inert_ite, setF_inert, launch_inert]
    | refine (forAll_inert (fun _ _ => ?_) _ _).trans ?_
    | split)

theorem flgDo_inert (s : State) (m flg : Nat) (t : Stamp) :
    inert (flgDo s m flg t) = inert s := by
  unfold flgDo
  repeat' (first
    | with_reducible rfl
    | simp only [inert_ite, ite_self, setFlag_inert])

theorem engEvent_inert (s : State) (m i act : Nat) (code : BitVec 4) (t : Stamp) :
    inert (engEvent s m i act code t) = inert s := by
  unfold engEvent
  repeat' (first
    | with_reducible rfl
    | simp only [launch_inert]
    | split)

theorem capTrig_inert (s : State) (b : Nat) (t : Stamp) :
    inert (capTrig s b t) = inert s := by
  unfold capTrig
  repeat' (first
    | with_reducible rfl
    | simp only [inert_ite, ite_self, trigger_inert]
    | refine (forAll_inert (fun _ _ => ?_) _ _).trans ?_)

theorem capMark_inert (s : State) (b : Nat) (t : Stamp) :
    inert (capMark s b t) = inert s := by
  unfold capMark
  repeat' (first
    | with_reducible rfl
    | simp only [markAll_inert]
    | refine (forAll_inert (fun _ _ => ?_) _ _).trans ?_)

theorem microPmu_inert (s : State) (mem : List Nat) (op : Nat) (t : Stamp) :
    inert (microPmu s mem op t) = inert s := by
  unfold microPmu
  repeat' (first
    | with_reducible rfl
    | simp only [pmuOp_inert]
    | refine (forAll_inert (fun _ _ => ?_) _ _).trans ?_)

theorem firstActs_inert (s : State) (m v : Nat) (t : Stamp) :
    inert (firstActs s m v t) = inert s := by
  unfold firstActs
  repeat' (first
    | with_reducible rfl
    | simp only [inert_ite, ite_self, pushStaged_inert, flgDo_inert, engEvent_inert, capTrig_inert, capMark_inert,
        microPmu_inert]
    | refine (forAll_inert (fun _ _ => ?_) _ _).trans ?_)

theorem leaveWord_inert (s : State) (m : Nat) (e : WordEnd) :
    inert (leaveWord s m e) = inert s := by
  unfold leaveWord
  repeat' (first
    | with_reducible rfl
    | simp only [setF_inert, setBnd_inert])

/-- What an engine operation answers keeps the inert part, in the next state and in the state of a fault. -/
def resInert (r : EngRes) (s : State) : Prop :=
  (∀ t, r = .ok t → inert t = inert s) ∧ ∀ c, r = .error c → inert c.2 = inert s

theorem resInert_ok {t s : State} (h : inert t = inert s) : resInert (.ok t) s :=
  ⟨fun _ e => (by cases e; exact h), fun _ e => (by cases e)⟩

theorem resInert_error (c : Nat) (s : State) : resInert (.error (c, s)) s :=
  ⟨fun _ e => (by cases e), fun _ e => (by cases e; rfl)⟩

theorem lopBegin_inert (s : State) (m k n nxt : Nat) (r : Bool) : resInert (lopBegin s m k n nxt r) s := by
  unfold lopBegin
  extract_lets y va s1 len
  have h : inert s1 = inert s := (setLoops_inert ..).trans (setCnt_inert ..)
  split
  · exact resInert_error ..
  · refine resInert_ok ?_
    split
    · exact (lockSpan_inert ..).trans h
    · exact h

theorem lopDo_inert (s : State) (m lop k imm nxt : Nat) : resInert (lopDo s m lop k imm nxt) s := by
  unfold lopDo
  split
  all_goals first
    | exact lopBegin_inert ..
    | exact resInert_ok (setCnt_inert ..)
    | exact resInert_ok rfl
    | (split
       · exact resInert_error ..
       · exact resInert_ok (popLoop_inert ..))

theorem loopTest_inert (s : State) (m nxt : Nat) : resInert (loopTest s m nxt) s := by
  unfold loopTest
  split
  · exact resInert_error ..
  · next l _ =>
    extract_lets back c
    have hb : ∀ t, inert (back t) = inert t := by
      intro t
      simp only [back]
      split <;> simp only [jumpLead_inert, setVa_inert, setUpc_inert]
    refine resInert_ok ?_
    split
    · exact hb _
    · split
      · simp only [setUpc_inert, popLoop_inert]
      · exact (hb _).trans (setCnt_inert ..)

theorem doCall_inert (s : State) (m nxt : Nat) : resInert (doCall s m nxt) s := by
  unfold doCall
  extract_lets
  split
  · exact resInert_error ..
  · exact resInert_ok (by simp only [setUpc_inert, setCalls_inert])

theorem doReturn_inert (s : State) (m : Nat) (r : Bool) : resInert (doReturn s m r) s := by
  unfold doReturn
  split
  · exact resInert_error ..
  · exact resInert_ok (by split <;> simp only [jumpLead_inert, setVa_inert, setUpc_inert, setCalls_inert])

theorem bmodeDo_inert (s : State) (m bm nxt : Nat) (cs : List (Nat × Bool)) (r : Bool) : resInert (bmodeDo s m bm nxt cs r) s
    := by
  unfold bmodeDo
  split
  · exact resInert_ok (setUpc_inert ..)
  · exact doReturn_inert ..
  · exact doCall_inert ..
  · exact loopTest_inert ..
  · exact resInert_ok (branch_inert ..)

theorem resInert_trans {r : EngRes} {s t : State} (h : resInert r t) (e : inert t = inert s) : resInert r s :=
  ⟨fun _ x => (h.1 _ x).trans e, fun _ x => (h.2 _ x).trans e⟩

theorem lastActs_inert (s : State) (m v : Nat) (cs : List (Nat × Bool)) : resInert (lastActs s m v cs) s := by
  have h := lopDo_inert s m (mwLop v) (mwLsel v) (mwImm v) (mwNxt v)
  unfold lastActs
  split
  · next c e => rw [← e]; exact h
  · next t e => exact resInert_trans (bmodeDo_inert ..) (h.1 _ e)

theorem resolveWord_inert (s : State) (m : Nat) : inert (resolveWord s m) = inert s := by
  unfold resolveWord
  extract_lets b y v
  split
  · rfl
  · exact (setUpc_inert ..).trans (setBnd_inert ..)
  · split
    · next e => exact ((lastActs_inert ..).1 _ e).trans (setBnd_inert ..)
    · next e => exact (engFault_inert ..).trans (((lastActs_inert ..).2 _ e).trans (setBnd_inert ..))

theorem consumeAll_inert (s : State) (m v : Nat) (cs : List (Nat × Bool)) :
    inert (consumeAll s m v cs) = inert s := by
  unfold consumeAll
  repeat' (first
    | with_reducible rfl
    | simp only [inert_ite, ite_self, consume_inert]
    | refine (foldl_inert (fun _ _ => ?_) _ _).trans ?_
    | split)

theorem engIssue_inert (s : State) (m vop imm k tset lset cap : Nat) : inert (engIssue s m vop imm k tset lset cap).1 = inert
    s := by
  unfold engIssue
  extract_lets b w s0 cp
  have h0 : inert s0 = inert s := by
    simp only [s0]; split
    · rfl
    · exact (jumpLead_inert ..).trans (setVa_inert ..)
  split
  · exact (setVa_inert ..).trans ((wordStop_inert ..).trans h0)
  · exact (setVa_inert ..).trans ((setBnd_inert ..).trans ((issueWord_inert ..).trans h0))

theorem issueMicroword_inert (s : State) (m : Nat) : inert (issueMicroword s m) = inert s := by
  unfold issueMicroword
  repeat' (first
    | with_reducible rfl
    | (simp only [inert_ite, ite_self, setF_inert, addCt_inert, raise_inert, setBnd_inert, endIssue_inert, engFault_inert,
        consume_inert, consumeAll_inert, firstActs_inert, leaveWord_inert, afterWord_inert, resolveWord_inert,
            engIssue_inert])
    | split)
  rename_i e
  refine ((lastActs_inert ..).2 _ e).trans ?_
  simp only [inert_ite, ite_self, consume_inert, consumeAll_inert, firstActs_inert, engIssue_inert]

theorem parityMet_inert (s : State) (m : Nat) :
    inert (parityMet s m) = inert s := by
  unfold parityMet
  repeat' (first
    | with_reducible rfl
    | simp only [inert_ite, ite_self, addCt_inert, setBnd_inert])

theorem engReady_inert (s t : State) (m : Nat) (h : engReady s m = some t) : inert t = inert s := by
  unfold engReady at h
  split at h
  · dsimp only at h
    split at h
    · cases h; exact resolveWord_inert ..
    · cases h
  · cases h

theorem engStep_inert (s : State) (m : Nat) (f : State → EngRes) (hf : ∀ s, resInert (f s) s) :
    inert (engStep s m f) = inert s := by
  unfold engStep
  split
  · rfl
  · next e =>
    split
    · next h => exact ((hf _).1 _ h).trans (engReady_inert _ _ _ e)
    · next h => exact (engFault_inert ..).trans (((hf _).2 _ h).trans (engReady_inert _ _ _ e))

theorem engAct_inert (s : State) (m : Nat) (f : State → State) (hf : ∀ s, inert (f s) = inert s) :
    inert (engAct s m f) = inert s := by
  unfold engAct
  split
  · next e => exact (hf _).trans (engReady_inert _ _ _ e)
  · rfl

theorem engVop_inert (s : State) (m vop imm k tset : Nat) : inert (engVop s m vop imm k tset) = inert s := by
  unfold engVop
  refine engAct_inert _ _ _ (fun s => ?_)
  extract_lets b w streamed i
  have h : inert i.1 = inert s := engIssue_inert ..
  split
  · exact (afterWord_inert ..).trans h
  · exact h

theorem setSec_inert (s : State) (p : Nat) (x : SecP) :
    inert (setSec s p x) = inert s := by
  unfold setSec
  repeat' (first
    | with_reducible rfl
    | simp only [inert_updSec])

theorem showLc_inert (s : State) :
    inert (showLc s) = inert s := by
  unfold showLc
  repeat' (first
    | with_reducible rfl
    | simp only [setF_inert])

theorem chreqGo_inert (s : State) (p : Nat) :
    inert (chreqGo s p) = inert s := by
  unfold chreqGo
  repeat' (first
    | with_reducible rfl
    | simp only [inert_upd, setF_inert, setSec_inert]
    | refine (forAll_inert (fun _ _ => ?_) _ _).trans ?_)

theorem authGo_inert (s : State) (p : Nat) :
    inert (authGo s p) = inert s := by
  unfold authGo
  repeat' (first
    | with_reducible rfl
    | simp only [setF_inert, setSec_inert])

theorem authEnd_inert (s : State) (p : Nat) :
    inert (authEnd s p) = inert s := by
  unfold authEnd
  repeat' (first
    | with_reducible rfl
    | simp only [inert_ite, ite_self, setF_inert, raise_inert, setSess_inert, setSec_inert]
    | split)

theorem mbRun_inert (s : State) (p st : Nat) (reply : List Byte) (flash : Option FwImage) :
    inert (mbRun s p st reply flash) = inert s := by
  unfold mbRun
  repeat' (first
    | with_reducible rfl
    | simp only [setF_inert, setSec_inert])

theorem mbReplyRun_inert (s : State) (p : Nat) (r : Option (List Byte)) :
    inert (mbReplyRun s p r) = inert s := by
  unfold mbReplyRun
  repeat' (first
    | with_reducible rfl
    | simp only [mbRun_inert, freeW_inert]
    | split)

theorem fwTake_inert (s : State) (p : Nat) (bs : List Byte) :
    inert (fwTake s p bs) = inert s := by
  unfold fwTake
  repeat' (first
    | with_reducible rfl
    | simp only [inert_ite, ite_self, mbRun_inert]
    | split)

theorem fwPiece_inert (s : State) (p : Nat) :
    inert (fwPiece s p) = inert s := by
  unfold fwPiece
  repeat' (first
    | with_reducible rfl
    | simp only [inert_ite, ite_self, inert_updSec, mbRun_inert, fwTake_inert])

theorem mbGo_inert (s : State) (p : Nat) (priv : Bool) :
    inert (mbGo s p priv) = inert s := by
  unfold mbGo
  repeat' (first
    | with_reducible rfl
    | simp only [inert_ite, ite_self, inert_updSec, setF_inert, setSec_inert, mbRun_inert, mbReplyRun_inert, fwTake_inert,
        fwPiece_inert])

theorem flashSlot_inert (s : State) (b : Bool) (x : FwImage) :
    inert (flashSlot s b x) = inert s := by
  unfold flashSlot
  repeat' (first
    | with_reducible rfl
    | simp only [inert_upd, setF_inert])

theorem setSens_inert (s : State) (i : Nat) (x : Sens) :
    inert (setSens s i x) = inert s := by
  unfold setSens
  repeat' (first
    | with_reducible rfl
    | simp only [inert_upd])

theorem showFailmap_inert (s : State) :
    inert (showFailmap s) = inert s := by
  unfold showFailmap
  repeat' (first
    | with_reducible rfl
    | simp only [setF_inert])

theorem judgeSensor_inert (rd : Nat → Int) (why : Nat → Nat) (s : State) (i : Nat) :
    inert (judgeSensor rd why s i) = inert s := by
  unfold judgeSensor
  repeat' (first
    | with_reducible rfl
    | simp only [inert_ite, ite_self, setF_inert, addCt_inert, raise_inert, setSens_inert])

theorem substitute_inert (s : State) (i : Nat) :
    inert (substitute s i) = inert s := by
  unfold substitute
  repeat' (first
    | with_reducible rfl
    | simp only [inert_ite, setF_inert]
    | split)

theorem showMax_inert (s : State) :
    inert (showMax s) = inert s := by
  unfold showMax
  repeat' (first
    | with_reducible rfl
    | simp only [setF_inert, hubSource_inert])

theorem setActivity_inert (s : State) (a : Nat) :
    inert (setActivity s a) = inert s := by
  unfold setActivity
  repeat' (first
    | with_reducible rfl
    | simp only [inert_ite, ite_self, inert_upd, setF_inert, setBnd_inert, raise_inert, hubSource_inert]
    | refine (forAll_inert (fun _ _ => ?_) _ _).trans ?_
    | split)

theorem setEarly_inert (s : State) (v : Bool) :
    inert (setEarly s v) = inert s := by
  unfold setEarly
  repeat' (first
    | with_reducible rfl
    | simp only [setF_inert, hubSource_inert])

theorem rateOfRise_inert (s : State) (rise : Bool) :
    inert (rateOfRise s rise) = inert s := by
  unfold rateOfRise
  repeat' (first
    | with_reducible rfl
    | simp only [inert_ite, ite_self, inert_upd, raise_inert, causeOff_inert, setEarly_inert])

theorem throttle_inert (s : State) (began : Bool) :
    inert (throttle s began) = inert s := by
  unfold throttle
  repeat' (first
    | with_reducible rfl
    | simp only [inert_ite, ite_self, inert_upd, setF_inert, setActivity_inert])

theorem shutdown_inert (s : State) (t : Stamp) :
    inert (shutdown s t) = inert s := by
  unfold shutdown
  repeat' (first
    | with_reducible rfl
    | simp only [inert_ite, ite_self, inert_upd, setF_inert, raise_inert, causeOn_inert, causeOff_inert, writeRec_inert,
        shutSource_inert])

theorem levelCause_inert (s : State) (f : Nat) (v : Bool) :
    inert (levelCause s f v) = inert s := by
  unfold levelCause
  repeat' (first
    | with_reducible rfl
    | simp only [inert_ite, ite_self, causeOn_inert, causeOff_inert])

theorem rails_inert (s : State) (smp : List (BitVec 16)) (out : List Nat) :
    inert (rails s smp out) = inert s := by
  unfold rails
  repeat' (first
    | with_reducible rfl
    | simp only [inert_upd, setF_inert, raiseIf_inert, hubSource_inert, levelCause_inert]
    | refine (forAll_inert (fun _ _ => ?_) _ _).trans ?_)

theorem dieIntegrity_inert (s : State) :
    inert (dieIntegrity s) = inert s := by
  unfold dieIntegrity
  repeat' (first
    | with_reducible rfl
    | simp only [levelCause_inert]
    | refine (forAll_inert (fun _ _ => ?_) _ _).trans ?_)

theorem dieTemps_inert (s : State) :
    inert (dieTemps s) = inert s := by
  unfold dieTemps
  repeat' (first
    | with_reducible rfl
    | simp only [inert_ite, ite_self, setF_inert, freeB_inert]
    | refine (forAll_inert (fun _ _ => ?_) _ _).trans ?_)

theorem ck0Servo_inert (s : State) :
    inert (ck0Servo s) = inert s := by
  unfold ck0Servo
  repeat' (first
    | with_reducible rfl
    | simp only [inert_ite, setF_inert, freeW_inert]
    | refine (forAll_inert (fun _ _ => ?_) _ _).trans ?_
    | split)

theorem dsMeas_inert (s : State) (smp : List (BitVec 16)) :
    inert (dsMeas s smp) = inert s := by
  unfold dsMeas
  repeat' (first
    | with_reducible rfl
    | simp only [setF_inert]
    | refine (forAll_inert (fun _ _ => ?_) _ _).trans ?_)

theorem thackGo_inert (s : State) :
    inert (thackGo s) = inert s := by
  unfold thackGo
  repeat' (first
    | with_reducible rfl
    | simp only [inert_ite, ite_self, inert_upd, setF_inert])

theorem thackEnd_inert (s : State) :
    inert (thackEnd s) = inert s := by
  unfold thackEnd
  repeat' (first
    | with_reducible rfl
    | simp only [inert_ite, inert_upd, setF_inert, raise_inert, writeRec_inert]
    | refine (forAll_inert (fun _ _ => ?_) _ _).trans ?_
    | split)

theorem sensclrGo_inert (s : State) :
    inert (sensclrGo s) = inert s := by
  unfold sensclrGo
  repeat' (first
    | with_reducible rfl
    | simp only [inert_ite, ite_self, setF_inert, hubSource_inert, setSens_inert, showFailmap_inert]
    | refine (forAll_inert (fun _ _ => ?_) _ _).trans ?_)

theorem cutWrite_inert (s : State) :
    inert (cutWrite s) = inert s := by
  unfold cutWrite
  repeat' (first
    | with_reducible rfl
    | simp only [inert_upd, programRec_inert, makeRoom_inert]
    | split)

theorem romClock_inert (s : State) :
    inert (romClock s) = inert s := by
  unfold romClock
  repeat' (first
    | with_reducible rfl
    | simp only [inert_ite, ite_self, acquire_inert])

theorem thermalStart_inert (s : State) :
    inert (thermalStart s) = inert s := by
  unfold thermalStart
  repeat' (first
    | with_reducible rfl
    | simp only [inert_ite, ite_self, raise_inert, setFlt_inert, faultRecord_inert, setFstate_inert, faultSources_inert,
        embank_inert])

theorem loadRecords_inert (s : State) :
    inert (loadRecords s) = inert s := by
  unfold loadRecords
  repeat' (first
    | with_reducible rfl
    | simp only [applyRecords_inert, selectRecords_inert, fltDisable_inert]
    | refine (forAll_inert (fun _ _ => ?_) _ _).trans ?_)

theorem hubLevels_inert (s : State) :
    inert (hubLevels s) = inert s := by
  unfold hubLevels
  repeat' (first
    | with_reducible rfl
    | simp only [hubSource_inert, faultSources_inert, shutSource_inert]
    | refine (foldl_inert (fun _ _ => ?_) _ _).trans ?_)

theorem resetGo_inert (s : State) :
    inert (resetGo s) = inert s := by
  unfold resetGo
  repeat' (first
    | with_reducible rfl
    | simp only [setF_inert, dikeEntry_inert]
    | refine (forAll_inert (fun _ _ => ?_) _ _).trans ?_)

theorem resetFaults_inert (s : State) :
    inert (resetFaults s) = inert s := by
  unfold resetFaults
  repeat' (first
    | with_reducible rfl
    | simp only [inert_ite, ite_self, inert_upd, setFstate_inert, endIso_inert]
    | refine (forAll_inert (fun _ _ => ?_) _ _).trans ?_)

theorem resetParts_inert (s : State) :
    inert (resetParts s) = inert s := by
  unfold resetParts
  repeat' (first
    | with_reducible rfl
    | simp only [inert_upd, octSafe_inert, resetFaults_inert]
    | refine (forAll_inert (fun _ _ => ?_) _ _).trans ?_)

theorem finishNvm_inert (s : State) :
    inert (finishNvm s) = inert s := by
  unfold finishNvm
  repeat' (first
    | with_reducible rfl
    | simp only [writeDone_inert, refreshEnd_inert, thackEnd_inert])

theorem wdtEnd_inert (s : State) :
    inert (wdtEnd s) = inert s := by
  unfold wdtEnd
  repeat' (first
    | with_reducible rfl
    | simp only [inert_upd])

theorem clkApplied_inert (s t : State) :
    inert (clkApplied s t) = inert t := by
  unfold clkApplied
  repeat' (first
    | with_reducible rfl
    | simp only [inert_ite, ite_self, refselSet_inert, ratioChanged_inert])

theorem resetDone_inert (s : State) :
    inert (resetDone s) = inert s := by
  unfold resetDone
  repeat' (first
    | with_reducible rfl
    | simp only [inert_ite, ite_self, setF_inert, addCt_inert, raise_inert, applyPwrup_inert, lowerSess_inert,
        clkApplied_inert, loadRecords_inert, hubLevels_inert, resetParts_inert, finishNvm_inert, wdtEnd_inert]
    | refine (forAll_inert (fun _ _ => ?_) _ _).trans ?_)

theorem commitSeg_inert (s : State) (n e : Nat) (v : BitVec 192) :
    inert (commitSeg s n e v) = inert s := by
  unfold commitSeg
  repeat' (first
    | with_reducible rfl
    | simp only [inert_ite, ite_self, setF_inert, setWide_inert, raise_inert])

theorem enterEntry_inert (s : State) (q e jc : Nat) :
    inert (enterEntry s q e jc) = inert s := by
  unfold enterEntry
  repeat' (first
    | with_reducible rfl
    | simp only [inert_ite, ite_self, setF_inert, addCt_inert, setBnd_inert, lockSpan_inert, unlock_inert, jumpLead_inert,
        clearLatch_inert])

theorem passSeen_inert (s : State) (q e : Nat) :
    inert (passSeen s q e) = inert s := by
  unfold passSeen
  repeat' (first
    | with_reducible rfl
    | simp only [setBnd_inert])

theorem segWord_inert (s : State) (q : Nat) :
    inert (segWord s q) = inert s := by
  unfold segWord
  repeat' (first
    | with_reducible rfl
    | simp only [inert_ite, ite_self, setF_inert, setBnd_inert, pushStaged_inert, endIssue_inert, wordStop_inert,
        afterWord_inert, issueWord_inert, passSeen_inert]
    | refine (forAll_inert (fun _ _ => ?_) _ _).trans ?_
    | split)

theorem refuse_inert (s : State) (ini : Initiator) (p : Page) (n : Nat) (ix : Bool) (a : Nat) (l : List Reason) :
    inert (refuse s ini p n ix a l) = inert s := by
  unfold refuse
  repeat' (first
    | with_reducible rfl
    | simp only [setF_inert, raise_inert, raiseIf_inert]
    | split)

theorem ackEvents_inert (s : State) (p : Page) (n : Nat) :
    inert (ackEvents s p n) = inert s := by
  unfold ackEvents
  repeat' (first
    | with_reducible rfl
    | simp only [inert_ite, ite_self, setF_inert, raise_inert])

theorem maskEvents_inert (s : State) (p : Page) (n old : Nat) :
    inert (maskEvents s p n old) = inert s := by
  unfold maskEvents
  repeat' (first
    | with_reducible rfl
    | simp only [inert_ite, ite_self, report_inert]
    | refine (forAll_inert (fun _ _ => ?_) _ _).trans ?_)

theorem storeF_inert (s : State) (n : Nat) (x : Fld × Nat) :
    inert (storeF s n x) = inert s := by
  unfold storeF
  repeat' (first
    | with_reducible rfl
    | simp only [inert_ite, ite_self, setF_inert])

theorem sessGo_inert (s : State) (ini : Initiator) (p : Nat) (acc : List (Fld × Nat)) :
    inert (sessGo s ini p acc) = inert s := by
  unfold sessGo
  repeat' (first
    | with_reducible rfl
    | simp only [inert_ite, ite_self, setF_inert, setSess_inert]
    | split)

theorem devWrite_inert (s : State) (off : Nat) (acc : List (Fld × Nat)) :
    inert (devWrite s off acc) = inert s := by
  unfold devWrite
  repeat' (first
    | with_reducible rfl
    | simp only [inert_ite, ite_self, setF_inert, resetGo_inert]
    | split)

theorem fltWrite_inert (s : State) (acc : List (Fld × Nat)) :
    inert (fltWrite s acc) = inert s := by
  unfold fltWrite
  repeat' (first
    | with_reducible rfl
    | simp only [inert_ite, ite_self, clrGo_inert, exitGo_inert])

theorem hkpWrite_inert (s : State) (off v : Nat) (acc : List (Fld × Nat)) :
    inert (hkpWrite s off v acc) = inert s := by
  unfold hkpWrite
  repeat' (first
    | with_reducible rfl
    | simp only [inert_ite, ite_self, thrSet_inert, thackGo_inert, sensclrGo_inert])

theorem clkWrite_inert (s : State) (off v : Nat) (acc : List (Fld × Nat)) (old : Fld → Nat) :
    inert (clkWrite s off v acc old) = inert s := by
  unfold clkWrite
  repeat' (first
    | with_reducible rfl
    | simp only [inert_ite, ite_self, ratioChanged_inert, outdivSet_inert, outEnSet_inert, relockGo_inert, refselSet_inert,
        phstepGo_inert])

theorem evrWrite_inert (s : State) (off : Nat) (acc : List (Fld × Nat)) :
    inert (evrWrite s off acc) = inert s := by
  unfold evrWrite
  repeat' (first
    | with_reducible rfl
    | simp only [inert_ite, ite_self, lineConfig_inert, refreshRoute_inert, hostEvent_inert])

theorem bglWrite_inert (s : State) (acc : List (Fld × Nat)) :
    inert (bglWrite s acc) = inert s := by
  unfold bglWrite
  repeat' (first
    | with_reducible rfl
    | simp only [inert_ite, ite_self, setF_inert, xcalGo_inert])

theorem phlWrite_inert (s : State) (ini : Initiator) (n off : Nat) (acc : List (Fld × Nat)) :
    inert (phlWrite s ini n off acc) = inert s := by
  unfold phlWrite
  repeat' (first
    | with_reducible rfl
    | simp only [inert_ite, ite_self, retrainGo_inert, sessGo_inert])

theorem nvmWrite_inert (s : State) (ini : Initiator) (acc : List (Fld × Nat)) :
    inert (nvmWrite s ini acc) = inert s := by
  unfold nvmWrite
  repeat' (first
    | with_reducible rfl
    | simp only [inert_ite, ite_self, recordGo_inert, calsaveGo_inert, refreshGo_inert])

theorem sluWrite_inert (s : State) (off v : Nat) (acc : List (Fld × Nat)) :
    inert (sluWrite s off v acc) = inert s := by
  unfold sluWrite
  repeat' (first
    | with_reducible rfl
    | simp only [inert_ite, ite_self, spillrdSet_inert])

theorem memWrite_inert (s : State) (off : Nat) (acc : List (Fld × Nat)) :
    inert (memWrite s off acc) = inert s := by
  unfold memWrite
  repeat' (first
    | with_reducible rfl
    | simp only [inert_ite, ite_self, preloadGo_inert])

theorem dscWrite_inert (s : State) (n off : Nat) (acc : List (Fld × Nat)) :
    inert (dscWrite s n off acc) = inert s := by
  unfold dscWrite
  repeat' (first
    | with_reducible rfl
    | simp only [inert_ite, ite_self, refreshLevee_inert, pushEntry_inert, clipDs_inert, applySp_inert, dsMonOff_inert]
    | split)

theorem polWrite_inert (s : State) (p off v : Nat) (acc : List (Fld × Nat)) :
    inert (polWrite s p off v acc) = inert s := by
  unfold polWrite
  repeat' (first
    | with_reducible rfl
    | simp only [inert_ite, ite_self, pushEntry_inert, clearSet_inert, pmuctl_inert, faultSources_inert, octmapSet_inert,
        dsmapSet_inert, runctl_inert]
    | refine (forAll_inert (fun _ _ => ?_) _ _).trans ?_
    | split)

theorem acqWrite_inert (s : State) (p off v : Nat) (acc : List (Fld × Nat)) :
    inert (acqWrite s p off v acc) = inert s := by
  unfold acqWrite
  repeat' (first
    | with_reducible rfl
    | simp only [inert_ite, ite_self, acqctlSet_inert])

theorem octWrite_inert (s : State) (o off : Nat) (acc : List (Fld × Nat)) :
    inert (octWrite s o off acc) = inert s := by
  unfold octWrite
  repeat' (first
    | with_reducible rfl
    | simp only [inert_ite, ite_self, setChan_inert])

theorem seqWrite_inert (s : State) (n : Nat) (acc : List (Fld × Nat)) :
    inert (seqWrite s n acc) = inert s := by
  unfold seqWrite
  repeat' (first
    | with_reducible rfl
    | simp only [inert_ite, ite_self, clearLatches_inert])

theorem mceWrite_inert (s : State) (m : Nat) (acc : List (Fld × Nat)) :
    inert (mceWrite s m acc) = inert s := by
  unfold mceWrite
  repeat' (first
    | with_reducible rfl
    | simp only [inert_ite, ite_self, setF_inert, clearLatches_inert, csChanged_inert])

theorem cdiWrite_inert (s : State) (d : Nat) (acc : List (Fld × Nat)) :
    inert (cdiWrite s d acc) = inert s := by
  unfold cdiWrite
  repeat' (first
    | with_reducible rfl
    | simp only [inert_ite, ite_self, setF_inert, selfcalStart_inert])

theorem forceEvents_inert (s : State) (p : Page) (n old : Nat) :
    inert (forceEvents s p n old) = inert s := by
  unfold forceEvents
  repeat' (first
    | with_reducible rfl
    | simp only [inert_ite, ite_self, owe_inert, shutSource_inert]
    | refine (forAll_inert (fun _ _ => ?_) _ _).trans ?_)

theorem headWrite_inert (s : State) (p : Page) (n off oldMask oldForce : Nat) (acc : List (Fld × Nat)) :
    inert (headWrite s p n off oldMask oldForce acc) = inert s := by
  unfold headWrite
  repeat' (first
    | with_reducible rfl
    | simp only [inert_ite, ite_self, ackEvents_inert, maskEvents_inert, forceEvents_inert])

theorem commitStream_inert (s : State) (k : Nat) (v : BitVec 192) :
    inert (commitStream s k v) = inert s := by
  unfold commitStream
  repeat' (first
    | with_reducible rfl
    | simp only [inert_ite, ite_self, setF_inert, setWide_inert, raise_inert])

theorem commitWide_inert (s : State) (p : Page) (n sp e : Nat) (v : BitVec 192) :
    inert (commitWide s p n sp e v) = inert s := by
  unfold commitWide
  repeat' (first
    | with_reducible rfl
    | simp only [setWide_inert, commitChar_inert, commitConfig_inert, commitMword_inert, commitSeg_inert, commitStream_inert]
    | split)

theorem setStage_inert (s : State) (p : Page) (n sp : Nat) (x : Stage) :
    inert (setStage s p n sp x) = inert s := by
  unfold setStage
  repeat' (first
    | with_reducible rfl
    | simp only [inert_upd])

theorem loadStage_inert (s : State) (p : Page) (n sp e : Nat) :
    inert (loadStage s p n sp e) = inert s := by
  unfold loadStage
  repeat' (first
    | with_reducible rfl
    | simp only [setStage_inert])

theorem track_inert (s : State) (p : Page) (n sp a : Nat) :
    inert (track s p n sp a) = inert s := by
  unfold track
  repeat' (first
    | with_reducible rfl
    | simp only [inert_ite, ite_self, loadStage_inert])

theorem setPosted_inert (s : State) (p : Page) (n : Nat) (l : List Posted) :
    inert (setPosted s p n l) = inert s := by
  unfold setPosted
  repeat' (first
    | with_reducible rfl
    | simp only [inert_upd])

theorem ixEffect_inert (s : State) (p : Page) (n sp a : Nat) (acc : List (Fld × Nat)) (old : Fld → Nat) :
    inert (ixEffect s p n sp a acc old) = inert s := by
  unfold ixEffect
  repeat' (first
    | with_reducible rfl
    | simp only [inert_ite, ite_self, refreshLevee_inert, applyDeskew_inert, parityMade_inert, pmuCfgWrite_inert,
        pmuForceSet_inert, monOff_inert, fltDisable_inert]
    | split)

theorem writeStaged_inert (s : State) (ini : Initiator) (p : Page) (n sp a v : Nat) :
    inert (writeStaged s ini p n sp a v) = inert s := by
  unfold writeStaged
  repeat' (first
    | with_reducible rfl
    | simp only [inert_ite, ite_self, refuse_inert, commitWide_inert, setStage_inert, loadStage_inert])

theorem writeFields_inert (s0 : State) (ini : Initiator) (p : Page) (n sp a v : Nat) :
    inert (writeFields s0 ini p n sp a v) = inert s0 := by
  unfold writeFields
  repeat' (first
    | with_reducible rfl
    | simp only [inert_ite, ite_self, setF_inert, pmuNowDue_inert, refuse_inert, ixEffect_inert]
    | refine (foldl_inert (fun _ _ => ?_) _ _).trans ?_
    | split)

theorem writeIx_inert (s : State) (ini : Initiator) (p : Page) (n sp a v : Nat) :
    inert (writeIx s ini p n sp a v) = inert s := by
  unfold writeIx
  repeat' (first
    | with_reducible rfl
    | simp only [inert_ite, setWide_inert, raise_inert, refuse_inert, writeStaged_inert, writeFields_inert]
    | split)

theorem completeOne_inert (s : State) (p : Page) (n : Nat) :
    inert (completeOne s p n) = inert s := by
  unfold completeOne
  repeat' (first
    | with_reducible rfl
    | simp only [inert_ite, ite_self, track_inert, setPosted_inert, writeIx_inert]
    | split)

theorem completeN_inert (k : Nat) (s : State) (p : Page) (n : Nat) : inert (completeN k s p n) = inert s := by
  induction k generalizing s with
  | zero => rfl
  | succ k ih => simp only [completeN, ih, cycle_inert, completeOne_inert]

theorem completeAll_inert (s : State) (p : Page) (n : Nat) : inert (completeAll s p n) = inert s := completeN_inert ..

theorem postIx_inert (s : State) (ini : Initiator) (p : Page) (n v : Nat) :
    inert (postIx s ini p n v) = inert s := by
  unfold postIx
  repeat' (first
    | with_reducible rfl
    | simp only [inert_ite, ite_self, setF_inert, cycle_inert, setPosted_inert, completeOne_inert])

theorem onPage_inert (s : State) (pg : PageRef) (s' : State) (h : inert s' = inert s) : inert (onPage s pg s') = inert s :=
    by
  unfold onPage
  split
  · exact h
  · rfl

theorem hostErrs_inert (s : State) (a n : Nat) :
    inert (hostErrs s a n) = inert s := by
  unfold hostErrs
  repeat' (first
    | with_reducible rfl
    | simp only [inert_upd, eccErrs_inert])

theorem crcErr_inert (s : State) (p : Nat) :
    inert (crcErr s p) = inert s := by
  unfold crcErr
  repeat' (first
    | with_reducible rfl
    | simp only [addCt_inert, raise_inert])

theorem complete_inert (s : State) (p : Nat) (k : Packet) (st : Nat) (data : List Word) :
    inert (complete s p k st data) = inert s := by
  unfold complete
  repeat' (first
    | with_reducible rfl
    | simp only [sendPkt_inert])

theorem remember_inert (s : State) (p : Nat) (k : Packet) (st : Nat) (data : List Word) :
    inert (remember s p k st data) = inert s := by
  unfold remember
  repeat' (first
    | with_reducible rfl
    | simp only [setPort_inert])

theorem stale_inert (s : State) (p : Nat) (k : Packet) :
    inert (stale s p k) = inert s := by
  unfold stale
  repeat' (first
    | with_reducible rfl
    | simp only [addCt_inert, raise_inert, complete_inert])

theorem turnAway_inert (s : State) (p : Nat) (k : Packet) :
    inert (turnAway s p k) = inert s := by
  unfold turnAway
  repeat' (first
    | with_reducible rfl
    | simp only [inert_ite, ite_self, crcErr_inert, complete_inert])

theorem forward_inert (s : State) (p : Nat) (k : Packet) :
    inert (forward s p k) = inert s := by
  unfold forward
  repeat' (first
    | with_reducible rfl
    | simp only [inert_ite, ite_self, raise_inert, giveCredit_inert, passOn_inert, crcErr_inert, complete_inert,
        turnAway_inert])

theorem takePkt_inert (s : State) (p : Nat) (k : Packet) :
    inert (takePkt s p k) = inert s := by
  unfold takePkt
  repeat' (first
    | with_reducible rfl
    | simp only [setPort_inert])

theorem ackUpTo_inert (s : State) (p : Nat) (a : BitVec 12) :
    inert (ackUpTo s p a) = inert s := by
  unfold ackUpTo
  repeat' (first
    | with_reducible rfl
    | simp only [inert_ite, setPort_inert, ackedPkt_inert]
    | refine (foldl_inert (fun _ _ => ?_) _ _).trans ?_
    | split)

theorem markDraining_inert (s : State) (k idx : Nat) :
    inert (markDraining s k idx) = inert s := by
  unfold markDraining
  repeat' (first
    | with_reducible rfl
    | simp only [setStrm_inert])

theorem sendCap_inert (s : State) (p k : Nat) (g : Gran) :
    inert (sendCap s p k g) = inert s := by
  unfold sendCap
  repeat' (first
    | with_reducible rfl
    | simp only [setF_inert, sendPkt_inert, markDraining_inert])

theorem takeTurn_inert (s : State) (k : Nat) :
    inert (takeTurn s k) = inert s := by
  unfold takeTurn
  repeat' (first
    | with_reducible rfl
    | simp only [inert_ite, setStrm_inert]
    | refine (forAll_inert (fun _ _ => ?_) _ _).trans ?_
    | split)

theorem ackDraining_inert (s : State) (k : Nat) :
    inert (ackDraining s k) = inert s := by
  unfold ackDraining
  repeat' (first
    | with_reducible rfl
    | simp only [inert_ite, ite_self, ackUpTo_inert]
    | refine (forAll_inert (fun _ _ => ?_) _ _).trans ?_
    | split)

theorem smbAnswer_inert (s : State) (code : Byte) (count bs : List Byte) :
    inert (smbAnswer s code count bs) = inert s := by
  unfold smbAnswer
  repeat' (first
    | with_reducible rfl
    | simp only [inert_upd])

theorem midSwitch_inert (s : State) (q : Nat) (t : Stamp) (f : State → State) (hf : ∀ s, inert (f s) = inert s) :
    inert (midSwitch s q t f) = inert s := by
  unfold midSwitch
  repeat' (first
    | with_reducible rfl
    | simp only [inert_ite, ite_self, settleViol_inert, midBroken_inert, hf]
    | refine (forAll_inert (fun _ _ => ?_) _ _).trans ?_)

theorem consumeEntry_inert (s : State) (q : Nat) (e : BitVec 64) : inert (consumeEntry s q e) = inert s := by
  unfold consumeEntry
  extract_lets t u s1
  have h1 : inert s1 = inert s := putQueue_inert ..
  refine (stampQueue_inert ..).trans ?_
  split
  · exact (midSwitch_inert _ _ _ _ (fun _ => applyEntry_inert ..)).trans h1
  · exact (applyEntry_inert ..).trans h1

theorem consumeNow_inert (s : State) (q : Nat) (e : BitVec 64) :
    inert (consumeNow s q e) = inert s := by
  unfold consumeNow
  repeat' (first
    | with_reducible rfl
    | simp only [inert_ite, ite_self, consumeEntry_inert])

theorem queueTick_inert (s : State) (q : Nat) :
    inert (queueTick s q) = inert s := by
  unfold queueTick
  repeat' (first
    | with_reducible rfl
    | simp only [inert_ite, ite_self, addCt_inert, raise_inert, putQueue_inert, consumeEntry_inert]
    | split)

end Sys2Proof.Machine
end

