-- ==== Sys2Proof/Laws/Memory.lean ====
section
/-! SUPPORT. Memory: a read after a write, and that every memory operation keeps the canonical form. -/

namespace Sys2Proof.Machine

@[simp] theorem Memory.read_write_same (m : Memory) (a : Nat) (v : Byte) : Memory.read (Memory.write m a v) a = v :=
  Store.get_put_same m 0 a v

theorem Memory.read_write_ne (m : Memory) {a b : Nat} (v : Byte) (h : b ≠ a) :
    Memory.read (Memory.write m a v) b = Memory.read m b := Store.get_put_ne m 0 0 v h

/-- One byte written keeps the canonical form. -/
theorem Memory.write_wf (m : Memory) (a : Nat) (v : Byte) (h : Memory.wf m = true) : Memory.wf (Memory.write m a v) = true :=
  Store.wf_put m (fun _ => 0) a v h

/-- Bytes written from an address on keep the canonical form. -/
theorem Memory.writeN_wf (m : Memory) (a : Nat) (vs : List Byte) (h : Memory.wf m = true) :
    Memory.wf (Memory.writeN m a vs) = true := by
  induction vs generalizing m a with
  | nil => exact h
  | cons v vs ih => exact ih _ _ (Memory.write_wf m a v h)

/-- Bytes written from `a` on leave every address outside them alone. -/
theorem Memory.read_writeN_out (m : Memory) (a b : Nat) (vs : List Byte) (h : b < a ∨ a + vs.length ≤ b) :
    Memory.read (Memory.writeN m a vs) b = Memory.read m b := by
  induction vs generalizing m a with
  | nil => rfl
  | cons v vs ih =>
    simp only [List.length_cons] at h
    simp only [Memory.writeN]
    rw [ih _ _ (by omega), Memory.read_write_ne _ _ (by omega)]

/-- Byte `i` of what was written from `a` on reads back. -/
theorem Memory.read_writeN_in (m : Memory) (a : Nat) (vs : List Byte) (i : Nat) (h : i < vs.length) :
    Memory.read (Memory.writeN m a vs) (a + i) = vs[i] := by
  induction vs generalizing m a i with
  | nil => simp at h
  | cons v vs ih =>
    cases i with
    | zero =>
      simp only [Memory.writeN, Nat.add_zero, List.getElem_cons_zero]
      rw [Memory.read_writeN_out _ _ _ _ (Or.inl (by omega)), Memory.read_write_same]
    | succ i =>
      simp only [Memory.writeN, List.getElem_cons_succ]
      have h' : i < vs.length := by simpa using h
      rw [show a + (i + 1) = a + 1 + i by omega]
      exact ih _ _ _ h'

/-- The memories of the module after reset are in canonical form. -/
theorem reset_memories_wf : Memory.wf State.reset.dram = true ∧ Memory.wf State.reset.mbox = true := by decide

end Sys2Proof.Machine
end

