-- ==== Sys2Proof/Laws/Sound.lean ====
section
/-! SUPPORT. What every operation keeps: the queue, what was blown in the OTP, and the invariant of a state. A `Sound` pair also
allows writes of the memories and of the TAP; a `Kept` pair does not. -/

namespace Sys2Proof.Machine

/-- From `s` to `t` the queue stays, the OTP only advances, and the invariant is kept. -/
structure Sound (s t : State) : Prop where
  queue : t.pending = s.pending
  otp : OtpKept s.otp t.otp
  ok : StateOk s → StateOk t

/-- Moreover the memories and the TAP stay. -/
structure Kept (s t : State) : Prop where
  queue : t.pending = s.pending
  otp : OtpKept s.otp t.otp
  life : lcOk s = true → lcOk t = true
  jtag : t.jtag = s.jtag
  mbox : t.mbox = s.mbox
  dram : t.dram = s.dram

theorem OtpKept.refl (a : Otp) : OtpKept a a := ⟨rfl, rfl, fun _ _ => rfl, fun _ h => h, le_rfl, le_rfl, id⟩

theorem OtpKept.trans {a b c : Otp} (h : OtpKept a b) (g : OtpKept b c) : OtpKept a c where
  vkh := g.vkh.trans h.vkh
  serial := g.serial.trans h.serial
  okh k n := by rw [g.okh k (by rw [h.okh k n]; exact n), h.okh k n]
  revoked k n := g.revoked k (h.revoked k n)
  arb := h.arb.trans g.arb
  lc := h.lc.trans g.lc
  seeds n := h.seeds (g.seeds n)

theorem OtpKept.of_eq {a b : Otp} (h : b = a) : OtpKept a b := h ▸ OtpKept.refl a

/-! The parts of `inert`. -/

theorem inert_pending {s t : State} (h : inert t = inert s) : t.pending = s.pending := congrArg (·.1) h
theorem inert_otp {s t : State} (h : inert t = inert s) : t.otp = s.otp := congrArg (·.2.1) h
theorem inert_lcTo {s t : State} (h : inert t = inert s) : t.sec.lcTo = s.sec.lcTo := congrArg (·.2.2.1) h
theorem inert_jtag {s t : State} (h : inert t = inert s) : t.jtag = s.jtag := congrArg (·.2.2.2.1) h
theorem inert_mbox {s t : State} (h : inert t = inert s) : t.mbox = s.mbox := congrArg (·.2.2.2.2.1) h
theorem inert_dram {s t : State} (h : inert t = inert s) : t.dram = s.dram := congrArg (·.2.2.2.2.2) h

theorem inert_lcOk {s t : State} (h : inert t = inert s) : lcOk t = lcOk s := by
  simp only [lcOk, inert_lcTo h, inert_otp h]

theorem Kept.of_inert {s t : State} (h : inert t = inert s) : Kept s t :=
  ⟨inert_pending h, OtpKept.of_eq (inert_otp h), fun k => (inert_lcOk h).trans k, inert_jtag h, inert_mbox h, inert_dram h⟩

theorem Kept.refl (s : State) : Kept s s := Kept.of_inert rfl

theorem Kept.trans {a b c : State} (h : Kept a b) (g : Kept b c) : Kept a c :=
  ⟨g.queue.trans h.queue, h.otp.trans g.otp, fun k => g.life (h.life k), g.jtag.trans h.jtag, g.mbox.trans h.mbox,
   g.dram.trans h.dram⟩

theorem Kept.inertL {a b c : State} (h : inert b = inert a) (g : Kept b c) : Kept a c := (Kept.of_inert h).trans g

theorem Kept.inertR {a b c : State} (h : Kept a b) (g : inert c = inert b) : Kept a c := h.trans (Kept.of_inert g)

theorem Kept.ite {s a b : State} {c : Prop} [Decidable c] (h : Kept s a) (g : Kept s b) : Kept s (if c then a else b) := by
  split
  · exact h
  · exact g

theorem memOk_congr {s t : State} (h : t.dram = s.dram) (g : t.mbox = s.mbox) : memOk t = memOk s := by
  simp only [memOk, h, g]

theorem Kept.sound {s t : State} (h : Kept s t) : Sound s t :=
  ⟨h.queue, h.otp, fun k => ⟨(memOk_congr h.dram h.mbox).trans k.1, h.life k.2⟩⟩

theorem Sound.of_inert {s t : State} (h : inert t = inert s) : Sound s t := (Kept.of_inert h).sound

theorem Sound.refl (s : State) : Sound s s := (Kept.refl s).sound

theorem Sound.trans {a b c : State} (h : Sound a b) (g : Sound b c) : Sound a c :=
  ⟨g.queue.trans h.queue, h.otp.trans g.otp, fun k => g.ok (h.ok k)⟩

theorem Sound.ite {s a b : State} {c : Prop} [Decidable c] (h : Sound s a) (g : Sound s b) : Sound s (if c then a else b) := by
  split
  · exact h
  · exact g

/-- A write of the memories only. -/
theorem Sound.mem {s t : State} (q : t.pending = s.pending) (o : t.otp = s.otp) (l : t.sec = s.sec)
    (m : memOk s = true → memOk t = true) : Sound s t :=
  ⟨q, OtpKept.of_eq o, fun k => ⟨m k.1, by have := k.2; simp only [lcOk, l, o] at *; exact this⟩⟩

/-! The OTP (R449, R458, R460). -/

theorem advGo_kept (s : State) : Kept s (advGo s) := by
  unfold advGo
  split
  · exact Kept.of_inert (raise_inert ..)
  · refine Kept.inertR ?_ (setF_inert ..)
    exact ⟨rfl, ⟨rfl, rfl, fun _ _ => rfl, fun _ h => h, Nat.le_max_left _ _, le_rfl, id⟩, id, rfl, rfl, rfl⟩

theorem progGo_kept (s : State) (port : Nat) : Kept s (progGo s port) := by
  unfold progGo
  extract_lets k
  split
  · exact Kept.of_inert (raise_inert ..)
  · next h =>
    refine Kept.inertR ?_ (setF_inert ..)
    refine ⟨rfl, ⟨rfl, rfl, fun j n => ?_, fun _ h => h, le_rfl, le_rfl, id⟩, id, rfl, rfl, rfl⟩
    refine Store.get_put_ne s.otp.okh [] [] (Memory.readN s.mbox (mbReq port) 32) (fun e => n ?_)
    simp only [Bool.or_eq_true, Bool.not_eq_true', not_or, Bool.not_eq_false] at h
    rw [e]
    exact List.isEmpty_iff.1 h.2

theorem revokeGo_kept (s : State) : Kept s (revokeGo s) := by
  unfold revokeGo
  refine Kept.inertR ?_ (setF_inert ..)
  refine ⟨rfl, ⟨rfl, rfl, fun _ _ => rfl, fun j h => ?_, le_rfl, le_rfl, id⟩, id, rfl, rfl, rfl⟩
  show j ∈ (if _ then _ else _)
  split
  · exact h
  · exact List.mem_cons_of_mem _ h

theorem lcGo_kept (s : State) : Kept s (lcGo s) := by
  unfold lcGo
  extract_lets t
  split
  · exact Kept.refl s
  · split
    · next h =>
      refine Kept.inertR ?_ (setF_inert ..)
      exact ⟨rfl, OtpKept.refl _, fun _ => (Bool.and_eq_true_iff.1 h).1, rfl, rfl, rfl⟩
    · exact Kept.of_inert (raise_inert ..)

theorem lcctlWrite_kept (s : State) (acc : List (Fld × Nat)) : Kept s (lcctlWrite s acc) := by
  unfold lcctlWrite
  split
  · split
    · exact Kept.refl s
    · have h : ∀ a b, inert (setF (setF s F.SEC_LCCTL_KEY 0 a) F.SEC_LCCTL_TARGET 0 b) = inert s := fun _ _ =>
        (setF_inert ..).trans (setF_inert ..)
      split
      · exact Kept.inertL (h _ _) (lcGo_kept _)
      · exact Kept.of_inert (h _ _)
  · exact Kept.refl s

theorem lcLater_lt {a b : Nat} (h : lcLater a b = true) : a ≤ b := by
  simp only [lcLater, Bool.or_eq_true, Bool.and_eq_true, beq_iff_eq] at h
  omega

/-- LC_DONE moves the lifecycle on as R460 allows; only entering Retired takes the seeds away. -/
theorem lcEnd_frame (s : State) : (lcEnd s).pending = s.pending ∧ (lcEnd s).jtag = s.jtag ∧ (lcEnd s).mbox = s.mbox ∧
    (lcEnd s).dram = s.dram ∧ (s.sec.lcTo ≠ none → (lcEnd s).sec.lcTo = none) ∧
    (lcEnd s).otp = match s.sec.lcTo with
      | none => s.otp
      | some t => { s.otp with lc := t, seeds := if t = 3 then false else s.otp.seeds } := by
  have key : ∀ (a b : State), inert b = inert a → b.pending = a.pending ∧ b.jtag = a.jtag ∧ b.mbox = a.mbox ∧
      b.dram = a.dram ∧ b.sec.lcTo = a.sec.lcTo ∧ b.otp = a.otp := fun a b h =>
    ⟨inert_pending h, inert_jtag h, inert_mbox h, inert_dram h, inert_lcTo h, inert_otp h⟩
  unfold lcEnd
  cases hl : s.sec.lcTo with
  | none => simp
  | some t =>
    simp only
    have h1 : ∀ u : State, inert (raise (setF (showLc u) F.SEC_LCCTL_GO 0 0) .sec 0 E.SEC_LC_DONE) = inert u := fun u => by
      simp only [raise_inert, setF_inert, showLc_inert]
    have h2 := key _ _ (h1 { s with sec := { s.sec with lcTo := none }, otp := { s.otp with lc := t } })
    by_cases ht : t = 3
    · simp only [ht, if_true] at h2 ⊢
      generalize raise (setF (showLc _) F.SEC_LCCTL_GO 0 0) .sec 0 E.SEC_LC_DONE = v at h2 ⊢
      have h3 := key _ _ (forAll_inert (f := fun s p => lowerSess s p 1) (fun _ _ => lowerSess_inert ..) [0, 1]
        { v with otp := { v.otp with seeds := false }, nvm := { v.nvm with recs := v.nvm.recs.filter (fun x => x.ring == 3) } })
      obtain ⟨a1, a2, a3, a4, a5, a6⟩ := h2
      obtain ⟨b1, b2, b3, b4, b5, b6⟩ := h3
      refine ⟨b1.trans a1, b2.trans a2, b3.trans a3, b4.trans a4, fun _ => b5.trans a5, b6.trans ?_⟩
      rw [a6]
    · simp only [ht, if_false] at h2 ⊢
      obtain ⟨a1, a2, a3, a4, a5, a6⟩ := h2
      exact ⟨a1, a2, a3, a4, fun _ => a5, a6⟩

theorem lcEnd_sound (s : State) (h : lcOk s = true) : Sound s (lcEnd s) := by
  obtain ⟨q, -, m, d, l, o⟩ := lcEnd_frame s
  cases hl : s.sec.lcTo with
  | none =>
    have e : lcEnd s = s := by simp only [lcEnd, hl]
    rw [e]
    exact Sound.refl s
  | some t =>
    simp only [hl] at o l
    have hlt := lcLater_lt (by simpa only [lcOk, hl] using h)
    refine ⟨q, ?_, fun k => ⟨(memOk_congr d m).trans k.1, by simp only [lcOk, l (by simp)]⟩⟩
    rw [o]
    refine ⟨rfl, rfl, fun _ _ => rfl, fun _ h => h, le_rfl, hlt, fun n => ?_⟩
    simp only at n
    split at n
    · cases n
    · exact n

/-! Register accesses (R29, R42, R393). -/

theorem secWrite_kept (s : State) (ini : Initiator) (off : Nat) (acc : List (Fld × Nat)) : Kept s (secWrite s ini off acc) := by
  unfold secWrite
  split
  · split
    · exact lcctlWrite_kept ..
    · split
      · exact advGo_kept s
      · have h : Kept s (if tookAny acc F.SEC_KEYCTL_PROG then progGo s (areaPort ini) else s) :=
          Kept.ite (progGo_kept ..) (Kept.refl s)
        exact Kept.ite (h.trans (revokeGo_kept _)) h
  · refine Kept.of_inert ?_
    simp only [inert_ite, chreqGo_inert, authGo_inert, mbGo_inert, ite_self]

theorem pageWrite_kept (s : State) (ini : Initiator) (p : Page) (n off v : Nat) (acc : List (Fld × Nat)) (old : Fld → Nat) :
    Kept s (pageWrite s ini p n off v acc old) := by
  unfold pageWrite
  split
  all_goals first
    | exact secWrite_kept ..
    | exact Kept.of_inert (by simp only [devWrite_inert, fltWrite_inert, hkpWrite_inert, clkWrite_inert, evrWrite_inert,
        bglWrite_inert, phlWrite_inert, nvmWrite_inert, sluWrite_inert, memWrite_inert, dscWrite_inert, polWrite_inert,
        acqWrite_inert, octWrite_inert, seqWrite_inert, mceWrite_inert, cdiWrite_inert])

theorem writeReg_kept (s : State) (ini : Initiator) (p : Page) (n off v : Nat) : Kept s (writeReg s ini p n off v) := by
  unfold writeReg
  split
  · exact Kept.of_inert (postIx_inert ..)
  · extract_lets fs s0 js acc old s1 s2 s3 s4
    have h0 : inert s0 = inert s := by
      simp only [s0]; split
      · exact completeAll_inert ..
      · split
        · exact pmuNowDue_inert ..
        · rfl
    have h1 : inert s1 = inert s := (foldl_inert (fun _ _ => storeF_inert ..) _ _).trans h0
    have h3 : inert s3 = inert s := (headWrite_inert ..).trans ((refuse_inert ..).trans h1)
    have h4 : inert s4 = inert s := by
      simp only [s4]; split
      · exact (track_inert ..).trans h3
      · exact h3
    split
    · exact Kept.of_inert h4
    · exact Kept.inertL h4 (pageWrite_kept ..)

theorem pageWriteReq_kept (s : State) (ini : Initiator) (p : Page) (n off v : Nat) : Kept s (pageWriteReq s ini p n off v).2 := by
  unfold pageWriteReq
  split
  · exact writeReg_kept ..
  · exact Kept.refl s
  · exact Kept.refl s

theorem busWrite_kept (s : State) (ini : Initiator) (a v : Nat) : Kept s (busWrite s ini a v).2 := by
  unfold busWrite
  split
  · exact Kept.refl s
  · split
    · exact pageWriteReq_kept ..
    · exact Kept.refl s

theorem hostWrite_kept (s : State) (ini : Initiator) (p : Page) (n off v : Nat) : Kept s (hostWrite s ini p n off v) :=
  pageWriteReq_kept ..

theorem hostModify_kept (s : State) (ini : Initiator) (f : Fld) (n v : Nat) : Kept s (hostModify s ini f n v) := hostWrite_kept ..

theorem hostIx_kept (s : State) (ini : Initiator) (p : Page) (n sp a v : Nat) : Kept s (hostIx s ini p n sp a v) := by
  unfold hostIx
  extract_lets s1
  have h1 : Kept s s1 := (hostWrite_kept ..).inertR (cycle_inert _)
  exact (h1.trans (hostWrite_kept ..)).inertR (completeAll_inert ..)

theorem onPage_kept (s : State) (pg : PageRef) {t : State} (h : Kept s t) : Kept s (onPage s pg t) := Kept.ite h (Kept.refl s)

theorem pmuWrite_kept (s : State) (i : Initiator) (c : Nat) (f : Fld) (v : Nat) : Kept s (pmuWrite s i c f v) := hostIx_kept ..

theorem mailbox_kept (s : State) (i : Initiator) (p op : Nat) : Kept s (mailbox s i p op) :=
  Kept.ite (hostWrite_kept ..) (Kept.refl s)

theorem readIx_inert (s : State) (ini : Initiator) (p : Page) (n : Nat) : inert (readIx s ini p n).2 = inert s := by
  unfold readIx
  extract_lets s1 sp a z s2 r b
  have h1 : inert s1 = inert s := completeAll_inert ..
  have h2 : inert s2 = inert s := by
    simp only [s2]; split
    · exact h1
    · exact (loadStage_inert ..).trans h1
  have hr : inert r.2 = inert s := by
    simp only [r]; split
    · exact (raise_inert ..).trans h1
    · split
      · exact h1
      · exact h2
  exact (track_inert ..).trans ((setF_inert ..).trans hr)

theorem readReg_inert (s : State) (ini : Initiator) (p : Page) (n off : Nat) : inert (readReg s ini p n off).2 = inert s := by
  unfold readReg
  split
  · exact readIx_inert ..
  · show inert (if _ then _ else _) = _
    split
    · exact bdnCapture_inert _
    · rfl

theorem pageReadReq_inert (s : State) (ini : Initiator) (p : Page) (n off : Nat) :
    inert (pageReadReq s ini p n off).2 = inert s := by
  unfold pageReadReq
  split
  · exact readReg_inert ..
  · rfl
  · rfl

theorem busRead_inert (s : State) (ini : Initiator) (a : Nat) : inert (busRead s ini a).2 = inert s := by
  unfold busRead
  split
  · rfl
  · split
    · exact pageReadReq_inert ..
    · rfl

theorem keepRead_inert (r : Option Nat × State) : inert (keepRead r) = inert r.2 := rfl

/-! Packets (R372, R379, R393). -/

theorem regReads_inert (n : Nat) (s : State) (ini : Initiator) (a : Nat) : inert (regReads n s ini a).2 = inert s := by
  induction n generalizing s a with
  | zero => rfl
  | succ n ih => exact (ih ..).trans ((busRead_inert ..).trans (cycle_inert s))

theorem regWrites_kept (ws : List Word) (s : State) (ini : Initiator) (a : Nat) : Kept s (regWrites ws s ini a) := by
  induction ws generalizing s a with
  | nil => exact Kept.refl s
  | cons w ws ih =>
    have h : Kept s (cycle s) := Kept.of_inert (cycle_inert s)
    exact (h.trans (busWrite_kept ..)).trans (ih ..)

theorem readSpan_inert (s : State) (p a n : Nat) : inert (readSpan s p a n).s = inert s := by
  unfold readSpan
  have h : ∀ c : Bool, inert (if c then ({ status := 4, data := List.replicate n 0, s := hostErrs s a n } : Answer)
      else { status := 0, data := memWords s.dram a n, s := hostErrs s a n }).s = inert s := by
    intro c
    cases c <;> exact hostErrs_inert ..
  repeat' split
  all_goals first | rfl | exact regReads_inert .. | exact h _

theorem writeSpan_kept (s : State) (p a n : Nat) (ws : List Word) : Kept s (writeSpan s p a n ws).s := by
  unfold writeSpan
  split
  · exact Kept.refl s
  · exact regWrites_kept ..

theorem perform_kept (s : State) (p : Nat) (k : Packet) : Kept s (perform s p k).s := by
  unfold perform
  split
  · exact Kept.of_inert (readSpan_inert ..)
  · exact writeSpan_kept ..

theorem serve_kept (s : State) (p : Nat) (k : Packet) : Kept s (serve s p k) := by
  unfold serve
  exact (perform_kept s p k).inertR ((complete_inert ..).trans (remember_inert ..))

theorem again_kept (s : State) (p : Nat) (k : Packet) (c : CacheE) : Kept s (again s p k c) := by
  unfold again
  extract_lets s1 r
  have h1 : inert s1 = inert s := addCt_inert ..
  exact Kept.ite (Kept.inertL h1 ((perform_kept ..).inertR (complete_inert ..))) (Kept.of_inert ((complete_inert ..).trans h1))

theorem judgeReq_kept (s : State) (p : Nat) (k : Packet) : Kept s (judgeReq s p k) := by
  unfold judgeReq
  extract_lets cur prev
  split
  · exact again_kept ..
  · exact Kept.ite (serve_kept ..) (Kept.of_inert (stale_inert ..))
  · exact Kept.ite (serve_kept ..) (Kept.of_inert (stale_inert ..))

theorem dramWrite_sound (s : State) (a : Nat) (bs : List Byte) : Sound s (dramWrite s a bs) := by
  unfold dramWrite
  extract_lets s1
  have h : inert s1 = inert s := invalidate_inert ..
  clear_value s1
  refine (Sound.of_inert h).trans (Sound.mem rfl rfl rfl fun k => ?_)
  have k1 := Bool.and_eq_true_iff.1 k
  exact Bool.and_eq_true_iff.2 ⟨Memory.writeN_wf _ _ _ k1.1, k1.2⟩

theorem mboxWrite_sound (s : State) (a : Nat) (bs : List Byte) : Sound s { s with mbox := Memory.writeN s.mbox a bs } := by
  refine Sound.mem rfl rfl rfl fun k => ?_
  have k1 := Bool.and_eq_true_iff.1 k
  exact Bool.and_eq_true_iff.2 ⟨k1.1, Memory.writeN_wf _ _ _ k1.2⟩

theorem dmaSpan_sound (s : State) (p a n : Nat) (ws : List Word) : Sound s (dmaSpan s p a n ws) := by
  unfold dmaSpan
  split
  · exact Sound.of_inert (crcErr_inert ..)
  · split
    · exact mboxWrite_sound ..
    · exact Sound.ite (dramWrite_sound ..) (Sound.of_inert (crcErr_inert ..))
    · exact Sound.of_inert (crcErr_inert ..)

theorem accepted_sound (s : State) (p : Nat) (k : Packet) : Sound s (accepted s p k) := by
  unfold accepted
  split
  · exact Sound.ite (Sound.of_inert (passOn_inert ..)) (Sound.of_inert (giveCredit_inert ..))
  · split
    · exact Sound.of_inert (forward_inert ..)
    · exact (Sound.ite (judgeReq_kept ..).sound (Sound.ite (dmaSpan_sound ..) (Sound.of_inert (crcErr_inert ..)))).trans
        (Sound.of_inert (giveCredit_inert ..))

theorem receive_sound (s : State) (p : Nat) (k : Packet) : Sound s (receive s p k) := by
  unfold receive
  extract_lets x d
  repeat' split
  all_goals first
    | exact Sound.refl s
    | exact Sound.of_inert ((tell_inert ..).trans (crcErr_inert ..))
    | exact Sound.of_inert (tell_inert ..)
    | exact (Sound.of_inert (takePkt_inert ..)).trans (accepted_sound ..)

theorem spill_sound (s : State) (k : Nat) (g : Gran) : Sound s (spill s k g) := by
  unfold spill
  extract_lets a bs s1 b
  split
  · exact Sound.refl s
  · have h : Sound s s1 := by
      simp only [s1]; split
      · exact dramWrite_sound ..
      · exact Sound.refl s
    exact h.trans (Sound.of_inert
      ((freeGran_inert ..).trans ((becameFull_inert ..).trans ((setF_inert ..).trans (setF_inert ..)))))

/-! The mailboxes, power, the TAP. -/

theorem mbEnd_sound (s : State) (p st : Nat) (reply : List Byte) : Sound s (mbEnd s p st reply) := by
  unfold mbEnd
  extract_lets a s1 s2
  have h1 : Sound s s1 := (mboxWrite_sound s (a + 4) (toBytes 4 reply.length)).trans (mboxWrite_sound _ (a + 16) reply)
  exact h1.trans (Sound.of_inert ((raise_inert ..).trans ((setF_inert ..).trans ((setF_inert ..).trans (setSec_inert ..)))))

theorem powerOn_sound (s : State) (aux : Bool) : Sound s (powerOn s aux) :=
  ⟨rfl, OtpKept.refl _, fun _ => ⟨rfl, rfl⟩⟩

theorem mainReset_sound (s : State) : Sound s (mainReset s) := by
  unfold mainReset
  extract_lets s f on _ _ _ s1
  have h : Sound _ s := Sound.of_inert (shiftSpans_inert ..)
  clear_value s
  refine h.trans (Sound.trans ?_ (Sound.of_inert (foldl_inert (fun _ _ => setF_inert ..) _ _)))
  exact ⟨rfl, OtpKept.refl _, fun k => ⟨Bool.and_eq_true_iff.2 ⟨rfl, (Bool.and_eq_true_iff.1 k.1).2⟩, rfl⟩⟩

theorem mainLost_sound (s : State) (t : Stamp) : Sound s (mainLost s t) := by
  unfold mainLost
  extract_lets s1 s2 s3 _ s4
  have h1 : inert s1 = inert s := forAll_inert (fun _ _ => dikeEntry_inert ..) _ _
  have h2 : inert s2 = inert s := (forAll_inert (fun _ _ => (dsOff_inert ..).trans (showRamp_inert ..)) _ _).trans h1
  have h3 : inert s3 = inert s := by
    refine (forAll_inert (fun _ _ => ?_) _ _).trans h2
    split
    · rfl
    · exact goDown_inert ..
  have h4 : Sound s3 s4 := by
    clear_value s3
    exact Sound.mem rfl rfl rfl fun k => Bool.and_eq_true_iff.2 ⟨rfl, (Bool.and_eq_true_iff.1 k).2⟩
  exact ((Sound.of_inert h3).trans h4).trans
    (Sound.of_inert ((pinRails_inert _).trans ((setF_inert ..).trans (forAll_inert (fun _ _ => cacheFree_inert ..) _ _))))

theorem boundary_sound (s : State) (ir : TapIr) (pins shift : List Bool) : Sound s (boundary s ir pins shift) :=
  ⟨rfl, OtpKept.refl _, id⟩

end Sys2Proof.Machine
end

