-- ==== Sys2Proof/Laws/Claims.lean ====
section
/-! SUPPORT. Lemmas for the words that claims are made of: frames of named fields, parts of a state that stay apart, engine
operations that are reached. -/

namespace Sys2Proof.Machine

/-! Frames of named fields. -/

theorem SameBut.refl (l : List (Fld × Nat)) (s : State) : SameBut l s s := fun _ _ _ => rfl

theorem SameBut.trans {l : List (Fld × Nat)} {s t u : State} (h : SameBut l s t) (g : SameBut l t u) : SameBut l s u :=
  fun f n k => (g f n k).trans (h f n k)

/-- A change outside the registers changes no field. -/
theorem SameBut.of_regs {l : List (Fld × Nat)} {s t u : State} (h : SameBut l s t) (e : u.regs = t.regs) : SameBut l s u :=
  fun f n k => by rw [show getF u f n = getF t f n by unfold getF; rw [e]]; exact h f n k

/-- A write of a named field keeps the frame. -/
theorem SameBut.setF {l : List (Fld × Nat)} {s t : State} (h : SameBut l s t) (f : Fld) (n v : Nat) (hm : (f, n) ∈ l) :
    SameBut l s (setF t f n v) := fun g k hk => by rw [getF_setF_ne _ _ (hk (f, n) hm)]; exact h g k hk

theorem SameBut.mono {l k : List (Fld × Nat)} {s t : State} (h : SameBut l s t) (hs : ∀ x ∈ l, x ∈ k) : SameBut k s t :=
  fun f n hk => h f n (fun x hx => hk x (hs x hx))

/-! Parts that stay. -/

theorem Apart.of_inert {s t : State} (h : inert t = inert s) : Apart s t :=
  ⟨inert_pending h, inert_otp h, inert_jtag h, inert_mbox h, inert_dram h⟩

/-! Engine operations: an engine that may go on performs the operation; its fault is the engine's fault (R229). -/

/-- An engine whose word has no end to take goes on in the state it is in. -/
theorem engReady_of {s : State} {m : Nat} (h : mayIssue s (16 + m) = true) (g : (bndOf s (16 + m)).pend = none) :
    engReady s m = some s := by
  have e : resolveWord s m = s := by unfold resolveWord; simp only [g]
  unfold engReady; simp only [h, e, if_true]

theorem engStep_ok {s u t : State} {m : Nat} {f : State → EngRes} (h : engReady s m = some u) (e : f u = .ok t) :
    engStep s m f = t := by
  unfold engStep; simp only [h, e]

theorem engStep_error {s u : State} {m : Nat} {f : State → EngRes} {c : Nat × State} (h : engReady s m = some u)
    (e : f u = .error c) : engStep s m f = engFault c.2 m c.1 := by
  unfold engStep; simp only [h, e]

theorem engAct_of {s u : State} {m : Nat} (f : State → State) (h : engReady s m = some u) : engAct s m f = f u := by
  unfold engAct; simp only [h]

/-! The addresses of an engine. -/

theorem engVa_setVa (s : State) (m v : Nat) (h : v < 2 ^ 40) : engVa (setVa s m v) m = v := by
  unfold engVa setVa
  rw [getF_setF_same, getF_setF_tag _ _ _ _ (by decide), getF_setF_same]
  show (v % 2 ^ 32 % 2 ^ 32) + 2 ^ 32 * (v / 2 ^ 32 % 256 % 2 ^ 8) = v
  omega

theorem engUpc_setUpc (s : State) (m v : Nat) (h : v < 2 ^ 14) : engUpc (setUpc s m v) m = v := by
  unfold engUpc setUpc; rw [getF_setF_same]; exact Nat.mod_eq_of_lt h

theorem engVa_setF (s : State) (m n v : Nat) (f : Fld) (h : F.MCE_VA_LO_VA.tag ≠ f.tag) (g : F.MCE_VA_HI_VA.tag ≠ f.tag) :
    engVa (Machine.setF s f n v) m = engVa s m := by
  unfold engVa; rw [getF_setF_tag _ _ _ _ h, getF_setF_tag _ _ _ _ g]

theorem engUpc_setF (s : State) (m n v : Nat) (f : Fld) (h : F.MCE_STATE_UPC.tag ≠ f.tag) :
    engUpc (Machine.setF s f n v) m = engUpc s m := getF_setF_tag _ _ _ _ h

end Sys2Proof.Machine
end

