-- ==== Sys2Proof/Laws/RunState.lean ====
section
/-! SUPPORT. RSTATE (R58): the operations of the polder page that leave it. Together with the page frame this says of each
operation whether it can move a polder to another state. -/

namespace Sys2Proof.Machine

theorem setF_rs (s : State) (g : Fld) (n v : Nat) {m : Nat} (h : F.POL_STATE_RSTATE.tag ≠ g.tag) :
    getF (setF s g n v) F.POL_STATE_RSTATE m = getF s F.POL_STATE_RSTATE m := getF_setF_tag s n m v h

theorem addCt_rs (s : State) (g : Fld) (n k : Nat) {m : Nat} (h : F.POL_STATE_RSTATE.tag ≠ g.tag) :
    getF (addCt s g n k) F.POL_STATE_RSTATE m = getF s F.POL_STATE_RSTATE m := getF_addCt_tag s n m k h

theorem set64_rs (s : State) (a b : Fld) (n : Nat) (v : BitVec 64) {m : Nat} (h : F.POL_STATE_RSTATE.tag ≠ a.tag)
    (g : F.POL_STATE_RSTATE.tag ≠ b.tag) : getF (set64 s a b n v) F.POL_STATE_RSTATE m = getF s F.POL_STATE_RSTATE m := by
  unfold set64
  rw [setF_rs _ _ _ _ g, setF_rs _ _ _ _ h]

theorem raise_rs (s : State) (p : Page) (n b : Nat) {m : Nat} :
    getF (raise s p n b) F.POL_STATE_RSTATE m = getF s F.POL_STATE_RSTATE m :=
  getF_raise s p n b _ m (by cases p <;> decide) (by cases p <;> decide)

theorem raiseIf_rs (c : Bool) (s : State) (p : Page) (n b : Nat) {m : Nat} :
    getF (raiseIf c s p n b) F.POL_STATE_RSTATE m = getF s F.POL_STATE_RSTATE m := by
  unfold raiseIf
  split
  · exact raise_rs s p n b
  · rfl

/-- Fields other than RSTATE, all written with the same value. -/
theorem setAll_rs (l : List Fld) (n : Nat) (h : ∀ g ∈ l, F.POL_STATE_RSTATE.tag ≠ g.tag) {m : Nat} (s : State) :
    getF (l.foldl (fun s g => setF s g n 0) s) F.POL_STATE_RSTATE m = getF s F.POL_STATE_RSTATE m := by
  induction l generalizing s with
  | nil => rfl
  | cons g l ih =>
    rw [List.foldl_cons, ih (fun x hx => h x (List.mem_cons_of_mem _ hx))]
    exact setF_rs s g n 0 (h g List.mem_cons_self)

theorem putQueue_rs (s : State) (q : Nat) (x : DacQ) {mm : Nat} :
    getF (putQueue s q x) F.POL_STATE_RSTATE mm = getF s F.POL_STATE_RSTATE mm := by
  unfold putQueue
  repeat' (first
    | with_reducible rfl
    | simp (disch := first | decide | (simp only [Fld.tag, fldKey, Page.code]; omega)) only [getF_ite, ite_self, setF_rs,
        getF_setQueue])

theorem emptyQueue_rs (s : State) (q : Nat) {mm : Nat} :
    getF (emptyQueue s q) F.POL_STATE_RSTATE mm = getF s F.POL_STATE_RSTATE mm := by
  unfold emptyQueue
  repeat' (first
    | with_reducible rfl
    | simp (disch := first | decide | (simp only [Fld.tag, fldKey, Page.code]; omega)) only [putQueue_rs])

theorem suspendQueue_rs (s : State) (q : Nat) (v : Bool) {mm : Nat} :
    getF (suspendQueue s q v) F.POL_STATE_RSTATE mm = getF s F.POL_STATE_RSTATE mm := by
  unfold suspendQueue
  repeat' (first
    | with_reducible rfl
    | simp (disch := first | decide | (simp only [Fld.tag, fldKey, Page.code]; omega)) only [putQueue_rs])

theorem pushEntry_rs (s : State) (q : Nat) (e : BitVec 64) {mm : Nat} :
    getF (pushEntry s q e) F.POL_STATE_RSTATE mm = getF s F.POL_STATE_RSTATE mm := by
  unfold pushEntry
  repeat' (first
    | with_reducible rfl
    | simp (disch := first | decide | (simp only [Fld.tag, fldKey, Page.code]; omega)) only [getF_ite, ite_self, addCt_rs,
        raise_rs, putQueue_rs])

theorem pushStaged_rs (s : State) (p k : Nat) {mm : Nat} :
    getF (pushStaged s p k) F.POL_STATE_RSTATE mm = getF s F.POL_STATE_RSTATE mm := by
  unfold pushStaged
  repeat' (first
    | with_reducible rfl
    | simp (disch := first | decide | (simp only [Fld.tag, fldKey, Page.code]; omega)) only [getF_ite, ite_self, raise_rs,
        pushEntry_rs])

theorem pushLset_rs (s : State) (p : Nat) (ls : BitVec 4) {mm : Nat} :
    getF (pushLset s p ls) F.POL_STATE_RSTATE mm = getF s F.POL_STATE_RSTATE mm := by
  unfold pushLset
  repeat' (first
    | with_reducible rfl
    | simp (disch := first | decide | (simp only [Fld.tag, fldKey, Page.code]; omega)) only [getF_ite, ite_self, getF_setPol,
        pushEntry_rs])

theorem gainSwitch_rs (s : State) (q : Nat) (sw : Bool) {mm : Nat} :
    getF (gainSwitch s q sw) F.POL_STATE_RSTATE mm = getF s F.POL_STATE_RSTATE mm := by
  unfold gainSwitch
  repeat' (first
    | with_reducible rfl
    | simp (disch := first | decide | (simp only [Fld.tag, fldKey, Page.code]; omega)) only [getF_ite, ite_self,
        putQueue_rs])

theorem levelOp_rs (s : State) (q : Nat) (cs : List Nat) (f : State → Nat → State) {mm : Nat} (hf : ∀ s n, getF (f s n)
    F.POL_STATE_RSTATE mm = getF s F.POL_STATE_RSTATE mm) :
    getF (levelOp s q cs f) F.POL_STATE_RSTATE mm = getF s F.POL_STATE_RSTATE mm := by
  unfold levelOp
  repeat' (first
    | with_reducible rfl
    | simp (disch := first | decide | (simp only [Fld.tag, fldKey, Page.code]; omega)) only [hf, gainSwitch_rs]
    | refine (forAll_page (fun _ _ => ?_) _ _).trans ?_)

theorem applyFaultDacs_rs (s : State) (o : Nat) {mm : Nat} :
    getF (applyFaultDacs s o) F.POL_STATE_RSTATE mm = getF s F.POL_STATE_RSTATE mm := by
  unfold applyFaultDacs
  repeat' (first
    | with_reducible rfl
    | simp (disch := first | decide | (simp only [Fld.tag, fldKey, Page.code]; omega)) only [applyFaultChan_page]
    | refine (levelOp_rs _ _ _ _ (fun _ _ => ?_)).trans ?_
    | refine (forAll_page (fun _ _ => ?_) _ _).trans ?_
    | split)

theorem startDacs_rs (s : State) (o : Nat) {mm : Nat} :
    getF (startDacs s o) F.POL_STATE_RSTATE mm = getF s F.POL_STATE_RSTATE mm := by
  unfold startDacs
  repeat' (first
    | with_reducible rfl
    | simp (disch := first | decide | (simp only [Fld.tag, fldKey, Page.code]; omega)) only [getF_ite, ite_self,
        applyFaultDacs_rs, applyPwrupDacs_page])

theorem opErr_rs (s : State) (q : Nat) {mm : Nat} :
    getF (opErr s q) F.POL_STATE_RSTATE mm = getF s F.POL_STATE_RSTATE mm := by
  unfold opErr
  repeat' (first
    | with_reducible rfl
    | simp (disch := first | decide | (simp only [Fld.tag, fldKey, Page.code]; omega)) only [getF_ite, ite_self, addCt_rs,
        raise_rs])

theorem stampQueue_rs (s : State) (q : Nat) (t : Stamp) {mm : Nat} :
    getF (stampQueue s q t) F.POL_STATE_RSTATE mm = getF s F.POL_STATE_RSTATE mm := by
  unfold stampQueue
  repeat' (first
    | with_reducible rfl
    | simp (disch := first | decide | (simp only [Fld.tag, fldKey, Page.code]; omega)) only [getF_ite, ite_self, setF_rs,
        set64_rs])

theorem applyEntry_rs (s : State) (q : Nat) (e : BitVec 64) (t : Stamp) {mm : Nat} :
    getF (applyEntry s q e t) F.POL_STATE_RSTATE mm = getF s F.POL_STATE_RSTATE mm := by
  have hd (l : List Nat) : getF (levelOp s q l (fun s c => applyDac s c (qeDac e) (qeCode e) (qeG e))) F.POL_STATE_RSTATE mm
      = getF s F.POL_STATE_RSTATE mm :=
    levelOp_rs _ _ _ _ (fun _ _ => applyDac_page _ _ _ _ _ (by decide))
  have hs (l : List Nat) : getF (levelOp s q l (fun s c => applyLset s (qeLset e) c)) F.POL_STATE_RSTATE mm = getF s
      F.POL_STATE_RSTATE mm :=
    levelOp_rs _ _ _ _ (fun _ _ => applyLset_page _ _ _ (by decide))
  unfold applyEntry
  extract_lets cs snt d
  split
  · rfl
  split
  · rfl
  · split
    · simp (disch := first | decide | (simp only [Fld.tag, fldKey, Page.code]; omega)) only [opErr_rs]
    · split
      · simp (disch := first | decide | (simp only [Fld.tag, fldKey, Page.code]; omega)) only [levelMute_page, hd]
      · simp (disch := first | decide | (simp only [Fld.tag, fldKey, Page.code]; omega)) only [opErr_rs]
  · split
    · simp (disch := first | decide | (simp only [Fld.tag, fldKey, Page.code]; omega)) only [opErr_rs]
    · simp (disch := first | decide | (simp only [Fld.tag, fldKey, Page.code]; omega)) only [levelMute_page, hd]
  · simp (disch := first | decide | (simp only [Fld.tag, fldKey, Page.code]; omega)) only [levelMute_page, setF_rs, hs]
  · simp (disch := first | decide | (simp only [Fld.tag, fldKey, Page.code]; omega)) only [dsMute_page, gainSwitch_rs,
      setPoint_page]
  · rw [dsMute_page]
    split
    · rfl
    · simp (disch := first | decide | (simp only [Fld.tag, fldKey, Page.code]; omega)) only [setDsOn_page]
  · simp (disch := first | decide | (simp only [Fld.tag, fldKey, Page.code]; omega)) only [dsMute_page, dsOff_page]
  · simp (disch := first | decide | (simp only [Fld.tag, fldKey, Page.code]; omega)) only [opErr_rs]

theorem faultRamp_rs (s : State) (d : Nat) {mm : Nat} :
    getF (faultRamp s d) F.POL_STATE_RSTATE mm = getF s F.POL_STATE_RSTATE mm := by
  unfold faultRamp
  repeat' (first
    | with_reducible rfl
    | simp (disch := first | decide | (simp only [Fld.tag, fldKey, Page.code]; omega)) only [getF_ite, ite_self, setF_rs,
        getF_setDs, gainSwitch_rs, clipDs_page, showRamp_page, rampEnd_page])

theorem dikeQueues_rs (s : State) (p : Nat) {mm : Nat} :
    getF (dikeQueues s p) F.POL_STATE_RSTATE mm = getF s F.POL_STATE_RSTATE mm := by
  unfold dikeQueues
  repeat' (first
    | with_reducible rfl
    | simp (disch := first | decide | (simp only [Fld.tag, fldKey, Page.code]; omega)) only [setF_rs, emptyQueue_rs,
        suspendQueue_rs, faultRamp_rs]
    | refine (forAll_page (fun _ _ => ?_) _ _).trans ?_)

theorem releaseQueues_rs (s : State) (p : Nat) {mm : Nat} :
    getF (releaseQueues s p) F.POL_STATE_RSTATE mm = getF s F.POL_STATE_RSTATE mm := by
  unfold releaseQueues
  repeat' (first
    | with_reducible rfl
    | simp (disch := first | decide | (simp only [Fld.tag, fldKey, Page.code]; omega)) only [getF_setDs, suspendQueue_rs]
    | refine (forAll_page (fun _ _ => ?_) _ _).trans ?_)

theorem takeDs_rs (s : State) (p d : Nat) {mm : Nat} :
    getF (takeDs s p d) F.POL_STATE_RSTATE mm = getF s F.POL_STATE_RSTATE mm := by
  unfold takeDs
  repeat' (first
    | with_reducible rfl
    | simp (disch := first | decide | (simp only [Fld.tag, fldKey, Page.code]; omega)) only [setF_rs, suspendQueue_rs])

theorem dropDs_rs (s : State) (d : Nat) {mm : Nat} :
    getF (dropDs s d) F.POL_STATE_RSTATE mm = getF s F.POL_STATE_RSTATE mm := by
  unfold dropDs
  repeat' (first
    | with_reducible rfl
    | simp (disch := first | decide | (simp only [Fld.tag, fldKey, Page.code]; omega)) only [setF_rs, emptyQueue_rs,
        suspendQueue_rs, dsMonOff_page, faultRamp_rs])

theorem commitConfig_rs (s : State) (p t : Nat) (v : BitVec 192) {mm : Nat} :
    getF (commitConfig s p t v) F.POL_STATE_RSTATE mm = getF s F.POL_STATE_RSTATE mm := by
  unfold commitConfig
  repeat' (first
    | with_reducible rfl
    | simp (disch := first | decide | (simp only [Fld.tag, fldKey, Page.code]; omega)) only [getF_ite, setF_rs, raise_rs,
        getF_setWide]
    | split)

theorem applyPwrup_rs (s : State) {mm : Nat} :
    getF (applyPwrup s) F.POL_STATE_RSTATE mm = getF s F.POL_STATE_RSTATE mm := by
  unfold applyPwrup
  repeat' (first
    | with_reducible rfl
    | simp (disch := first | decide | (simp only [Fld.tag, fldKey, Page.code]; omega)) only [startDacs_rs, setPoint_page,
        setDsOn_page]
    | refine (forAll_page (fun _ _ => ?_) _ _).trans ?_)

theorem countFlog_rs (s : State) (p n : Nat) {mm : Nat} :
    getF (countFlog s p n) F.POL_STATE_RSTATE mm = getF s F.POL_STATE_RSTATE mm := by
  unfold countFlog
  repeat' (first
    | with_reducible rfl
    | simp (disch := first | decide | (simp only [Fld.tag, fldKey, Page.code]; omega)) only [getF_ite, ite_self, addCt_rs,
        getF_setPol])

theorem claim_rs (s : State) (p j : Nat) (w : OpenRec) (kind : TrigKind) {mm : Nat} :
    getF (claim s p j w kind) F.POL_STATE_RSTATE mm = getF s F.POL_STATE_RSTATE mm := by
  unfold claim
  extract_lets k s1 x ts late cl0 fs okc cl s2 s3 s4 y s5 u s6 s7
  have h1 : getF s1 F.POL_STATE_RSTATE mm = getF s F.POL_STATE_RSTATE mm := by
    simp (disch := first | decide | (simp only [Fld.tag, fldKey, Page.code]; omega)) only [s1, retain_page]
  have h2 : getF s2 F.POL_STATE_RSTATE mm = getF s F.POL_STATE_RSTATE mm := by
    simp (disch := first | decide | (simp only [Fld.tag, fldKey, Page.code]; omega)) only [s2, discard_page, getF_setStrm,
        h1]
  have h3 : getF s3 F.POL_STATE_RSTATE mm = getF s F.POL_STATE_RSTATE mm := by
    simp only [s3]; split
    · simp (disch := first | decide | (simp only [Fld.tag, fldKey, Page.code]; omega)) only [reuse_page, h2]
    · exact h2
  have h4 : getF s4 F.POL_STATE_RSTATE mm = getF s F.POL_STATE_RSTATE mm := by
    simp (disch := first | decide | (simp only [Fld.tag, fldKey, Page.code]; omega)) only [s4, appendRec_page, h3]
  have h5 : getF s5 F.POL_STATE_RSTATE mm = getF s F.POL_STATE_RSTATE mm := by
    simp only [s5]; split
    · exact h4
    · refine (foldl_page (fun _ _ => ?_) _ _).trans ?_
      · simp (disch := first | decide | (simp only [Fld.tag, fldKey, Page.code]; omega)) only [queueGran_page]
      · simp (disch := first | decide | (simp only [Fld.tag, fldKey, Page.code]; omega)) only [handOff_page, getF_setStrm,
          h4]
  have h6 : getF s6 F.POL_STATE_RSTATE mm = getF s F.POL_STATE_RSTATE mm := (getF_setAcq ..).trans h5
  have h7 : getF s7 F.POL_STATE_RSTATE mm = getF s F.POL_STATE_RSTATE mm := by
    simp only [s7]; split
    · simp (disch := first | decide | (simp only [Fld.tag, fldKey, Page.code]; omega)) only [claimConvs_page, h6]
    · exact h6
  split
  · simp (disch := first | decide | (simp only [Fld.tag, fldKey, Page.code]; omega)) only [countFlog_rs, getF_setAcq, h7]
  · exact h7

theorem accept_rs (s : State) (p : Nat) (t : Stamp) (kind : TrigKind) {mm : Nat} :
    getF (accept s p t kind) F.POL_STATE_RSTATE mm = getF s F.POL_STATE_RSTATE mm := by
  unfold accept
  repeat' (first
    | with_reducible rfl
    | simp (disch := first | decide | (simp only [Fld.tag, fldKey, Page.code]; omega)) only [addCt_rs, set64_rs, raise_rs,
        getF_setAcq, getF_launch, setAstate_page, putItem_page, claim_rs]
    | refine (forAll_page (fun _ _ => ?_) _ _).trans ?_
    | refine (foldl_page (fun _ _ => ?_) _ _).trans ?_)

theorem forceTrig_rs (s : State) (p : Nat) {mm : Nat} :
    getF (forceTrig s p) F.POL_STATE_RSTATE mm = getF s F.POL_STATE_RSTATE mm := by
  unfold forceTrig
  repeat' (first
    | with_reducible rfl
    | simp (disch := first | decide | (simp only [Fld.tag, fldKey, Page.code]; omega)) only [getF_ite, ite_self, addCt_rs,
        raise_rs, accept_rs])

theorem trigger_rs (s : State) (p : Nat) (t : Stamp) (kind : TrigKind) (vwi : Nat) {mm : Nat} :
    getF (trigger s p t kind vwi) F.POL_STATE_RSTATE mm = getF s F.POL_STATE_RSTATE mm := by
  unfold trigger
  repeat' (first
    | with_reducible rfl
    | simp (disch := first | decide | (simp only [Fld.tag, fldKey, Page.code]; omega)) only [getF_ite, ite_self,
        markAll_page, accept_rs, ignoreTrig_page, forceTrig_rs])

theorem routerTrigger_rs (s : State) (p : Nat) (e : Ev) (vwi : Nat) {mm : Nat} :
    getF (routerTrigger s p e vwi) F.POL_STATE_RSTATE mm = getF s F.POL_STATE_RSTATE mm := by
  unfold routerTrigger
  repeat' (first
    | with_reducible rfl
    | simp (disch := first | decide | (simp only [Fld.tag, fldKey, Page.code]; omega)) only [getF_ite, ite_self, trigger_rs])

theorem refuseBudget_rs (s : State) (p : Option Nat) (k : Nat) {mm : Nat} :
    getF (refuseBudget s p k) F.POL_STATE_RSTATE mm = getF s F.POL_STATE_RSTATE mm := by
  unfold refuseBudget
  repeat' (first
    | with_reducible rfl
    | simp (disch := first | decide | (simp only [Fld.tag, fldKey, Page.code]; omega)) only [addCt_rs, raise_rs,
        causeOn_page]
    | split)

theorem showConv_rs (s : State) (p : Nat) {mm : Nat} :
    getF (showConv s p) F.POL_STATE_RSTATE mm = getF s F.POL_STATE_RSTATE mm := by
  unfold showConv
  repeat' (first
    | with_reducible rfl
    | simp (disch := first | decide | (simp only [Fld.tag, fldKey, Page.code]; omega)) only [getF_ite, ite_self, setF_rs])

theorem showConvOf_rs (s : State) (p : Option Nat) {mm : Nat} :
    getF (showConvOf s p) F.POL_STATE_RSTATE mm = getF s F.POL_STATE_RSTATE mm := by
  unfold showConvOf
  repeat' (first
    | with_reducible rfl
    | simp (disch := first | decide | (simp only [Fld.tag, fldKey, Page.code]; omega)) only [showConv_rs]
    | split)

theorem request_rs (s : State) (p : Option Nat) (k : Nat) (ns : List PmuNew) {mm : Nat} :
    getF (request s p k ns).1 F.POL_STATE_RSTATE mm = getF s F.POL_STATE_RSTATE mm := by
  unfold request
  split
  · exact refuseBudget_rs ..
  · refine foldl_page (fun _ _ => ?_) _ _
    simp (disch := first | decide | (simp only [Fld.tag, fldKey, Page.code]; omega)) only [takeNew_page]

theorem requests_rs (s : State) (p : Option Nat) (ns : List PmuNew) {mm : Nat} :
    getF (requests s p ns) F.POL_STATE_RSTATE mm = getF s F.POL_STATE_RSTATE mm := by
  unfold requests
  repeat' (first
    | with_reducible rfl
    | simp (disch := first | decide | (simp only [Fld.tag, fldKey, Page.code]; omega)) only [getF_ite, ite_self,
        showConvOf_rs, request_rs]
    | refine (forAll_page (fun _ _ => ?_) _ _).trans ?_)

theorem fire_rs (s : State) (p : Nat) (t0 : Stamp) (burst : Option Nat) {mm : Nat} :
    getF (fire s p t0 burst) F.POL_STATE_RSTATE mm = getF s F.POL_STATE_RSTATE mm := by
  unfold fire
  repeat' (first
    | with_reducible rfl
    | simp (disch := first | decide | (simp only [Fld.tag, fldKey, Page.code]; omega)) only [getF_ite, ite_self, addCt_rs,
        raise_rs, beginConv_page]
    | refine (forAll_page (fun _ _ => ?_) _ _).trans ?_)

theorem tidyBurst_rs (s : State) (p : Nat) {mm : Nat} :
    getF (tidyBurst s p) F.POL_STATE_RSTATE mm = getF s F.POL_STATE_RSTATE mm := by
  unfold tidyBurst
  repeat' (first
    | with_reducible rfl
    | simp (disch := first | decide | (simp only [Fld.tag, fldKey, Page.code]; omega)) only [getF_ite, ite_self, setF_rs,
        getF_setChan]
    | refine (forAll_page (fun _ _ => ?_) _ _).trans ?_)

theorem stopBurst_rs (s : State) (p n : Nat) {mm : Nat} :
    getF (stopBurst s p n) F.POL_STATE_RSTATE mm = getF s F.POL_STATE_RSTATE mm := by
  unfold stopBurst
  repeat' (first
    | with_reducible rfl
    | simp (disch := first | decide | (simp only [Fld.tag, fldKey, Page.code]; omega)) only [getF_setChan, getF_setPol,
        tidyBurst_rs]
    | refine (forAll_page (fun _ _ => ?_) _ _).trans ?_)

theorem endBurst_rs (s : State) (p : Nat) {mm : Nat} :
    getF (endBurst s p) F.POL_STATE_RSTATE mm = getF s F.POL_STATE_RSTATE mm := by
  unfold endBurst
  repeat' (first
    | with_reducible rfl
    | simp (disch := first | decide | (simp only [Fld.tag, fldKey, Page.code]; omega)) only [getF_setChan, getF_setPol,
        tidyBurst_rs]
    | refine (forAll_page (fun _ _ => ?_) _ _).trans ?_)

theorem showOps_rs (s : State) (p : Nat) {mm : Nat} :
    getF (showOps s p) F.POL_STATE_RSTATE mm = getF s F.POL_STATE_RSTATE mm := by
  unfold showOps
  repeat' (first
    | with_reducible rfl
    | simp (disch := first | decide | (simp only [Fld.tag, fldKey, Page.code]; omega)) only [getF_ite, ite_self, setF_rs])

theorem showPmu_rs (s : State) (p : Nat) {mm : Nat} :
    getF (showPmu s p) F.POL_STATE_RSTATE mm = getF s F.POL_STATE_RSTATE mm := by
  unfold showPmu
  repeat' (first
    | with_reducible rfl
    | simp (disch := first | decide | (simp only [Fld.tag, fldKey, Page.code]; omega)) only [showConv_rs, tidyBurst_rs,
        showOps_rs])

theorem applyOn_rs (k : Nat) (s : State) (r : Nat × PmuOp) {mm : Nat} :
    getF (applyOn k s r) F.POL_STATE_RSTATE mm = getF s F.POL_STATE_RSTATE mm := by
  unfold applyOn
  repeat' (first
    | with_reducible rfl
    | simp (disch := first | decide | (simp only [Fld.tag, fldKey, Page.code]; omega)) only [getF_ite, takeNew_page,
        refuseBudget_rs, queueOp_page, holdClaim_page]
    | refine (foldl_page (fun _ _ => ?_) _ _).trans ?_
    | split)

theorem applyOps_rs (s : State) (rs : List (Nat × PmuOp)) {mm : Nat} :
    getF (applyOps s rs) F.POL_STATE_RSTATE mm = getF s F.POL_STATE_RSTATE mm := by
  unfold applyOps
  repeat' (first
    | with_reducible rfl
    | simp (disch := first | decide | (simp only [Fld.tag, fldKey, Page.code]; omega)) only [showPmu_rs, applyOn_rs]
    | refine (forAll_page (fun _ _ => ?_) _ _).trans ?_
    | refine (foldl_page (fun _ _ => ?_) _ _).trans ?_)

theorem fireOrder_rs (s : State) (p : Nat) (x : Trig) {mm : Nat} :
    getF (fireOrder s p x) F.POL_STATE_RSTATE mm = getF s F.POL_STATE_RSTATE mm := by
  unfold fireOrder
  repeat' (first
    | with_reducible rfl
    | simp (disch := first | decide | (simp only [Fld.tag, fldKey, Page.code]; omega)) only [showConv_rs, fire_rs,
        tidyBurst_rs, stopBurst_rs]
    | split)

theorem fireRound_rs (s : State) (t : Stamp) {mm : Nat} :
    getF (fireRound s t) F.POL_STATE_RSTATE mm = getF s F.POL_STATE_RSTATE mm := by
  unfold fireRound
  repeat' (first
    | with_reducible rfl
    | simp (disch := first | decide | (simp only [Fld.tag, fldKey, Page.code]; omega)) only [getF_setPol, applyOps_rs,
        fireOrder_rs]
    | refine (foldl_page (fun _ _ => ?_) _ _).trans ?_
    | split)

theorem pmuDue_rs (s : State) (t : Stamp) {mm : Nat} :
    getF (pmuDue s t) F.POL_STATE_RSTATE mm = getF s F.POL_STATE_RSTATE mm := by
  unfold pmuDue
  repeat' (first
    | with_reducible rfl
    | simp (disch := first | decide | (simp only [Fld.tag, fldKey, Page.code]; omega)) only [fireRound_rs]
    | refine (foldl_page (fun _ _ => ?_) _ _).trans ?_)

theorem pmuNowDue_rs (s : State) {mm : Nat} :
    getF (pmuNowDue s) F.POL_STATE_RSTATE mm = getF s F.POL_STATE_RSTATE mm := by
  unfold pmuNowDue
  repeat' (first
    | with_reducible rfl
    | simp (disch := first | decide | (simp only [Fld.tag, fldKey, Page.code]; omega)) only [pmuDue_rs])

theorem pmuOp_rs (s : State) (p op : Nat) (t tc : Stamp) {mm : Nat} :
    getF (pmuOp s p op t tc) F.POL_STATE_RSTATE mm = getF s F.POL_STATE_RSTATE mm := by
  unfold pmuOp
  repeat' (first
    | with_reducible rfl
    | simp (disch := first | decide | (simp only [Fld.tag, fldKey, Page.code]; omega)) only [getF_ite, ite_self, raise_rs,
        order_page]
    | split)

theorem endsBurst_rs (s : State) (p : Nat) (t : Stamp) {mm : Nat} :
    getF (endsBurst s p t) F.POL_STATE_RSTATE mm = getF s F.POL_STATE_RSTATE mm := by
  unfold endsBurst
  repeat' (first
    | with_reducible rfl
    | simp (disch := first | decide | (simp only [Fld.tag, fldKey, Page.code]; omega)) only [order_page, pmuNowDue_rs])

theorem pmuctl_rs (s : State) (p b : Nat) {mm : Nat} :
    getF (pmuctl s p b) F.POL_STATE_RSTATE mm = getF s F.POL_STATE_RSTATE mm := by
  unfold pmuctl
  repeat' (first
    | with_reducible rfl
    | simp (disch := first | decide | (simp only [Fld.tag, fldKey, Page.code]; omega)) only [getF_ite, ite_self, setF_rs,
        pmuNowDue_rs, pmuOp_rs]
    | split)

theorem runOps_rs (s : State) (p : Nat) (cs : List Nat) {mm : Nat} :
    getF (runOps s p cs) F.POL_STATE_RSTATE mm = getF s F.POL_STATE_RSTATE mm := by
  unfold runOps
  repeat' (first
    | with_reducible rfl
    | simp (disch := first | decide | (simp only [Fld.tag, fldKey, Page.code]; omega)) only [getF_setChan, requests_rs]
    | refine (forAll_page (fun _ _ => ?_) _ _).trans ?_)

theorem pmuCfgWrite_rs (s : State) (c : Nat) (mode range : Nat) (en conn : Bool) {mm : Nat} :
    getF (pmuCfgWrite s c mode range en conn) F.POL_STATE_RSTATE mm = getF s F.POL_STATE_RSTATE mm := by
  unfold pmuCfgWrite
  repeat' (first
    | with_reducible rfl
    | simp (disch := first | decide | (simp only [Fld.tag, fldKey, Page.code]; omega)) only [getF_ite, ite_self, setF_rs,
        getF_setChan, takeNew_page, disconnect_page, showPmu_rs, queueOp_page, pmuNowDue_rs, runOps_rs, request_rs]
    | split)

theorem pmuForceSet_rs (s0 : State) (c code : Nat) {mm : Nat} :
    getF (pmuForceSet s0 c code) F.POL_STATE_RSTATE mm = getF s0 F.POL_STATE_RSTATE mm := by
  unfold pmuForceSet
  repeat' (first
    | with_reducible rfl
    | simp (disch := first | decide | (simp only [Fld.tag, fldKey, Page.code]; omega)) only [pmuNowDue_rs, request_rs])

theorem latchOne_rs (s : State) (base p c t : Nat) (rs : List ConvResult) {mm : Nat} :
    getF (latchOne s base p c t rs) F.POL_STATE_RSTATE mm = getF s F.POL_STATE_RSTATE mm := by
  unfold latchOne
  repeat' (first
    | with_reducible rfl
    | simp (disch := first | decide | (simp only [Fld.tag, fldKey, Page.code]; omega)) only [setF_rs, addCt_rs, raiseIf_rs,
        getF_setChan]
    | split)

theorem release_rs (s : State) (p : Nat) (cs : List Nat) (t : Stamp) {mm : Nat} :
    getF (release s p cs t) F.POL_STATE_RSTATE mm = getF s F.POL_STATE_RSTATE mm := by
  unfold release
  repeat' (first
    | with_reducible rfl
    | simp (disch := first | decide | (simp only [Fld.tag, fldKey, Page.code]; omega)) only [getF_setChan, nextConv_page,
        showPmu_rs, runOps_rs]
    | refine (forAll_page (fun _ _ => ?_) _ _).trans ?_
    | split)

theorem latchAll_rs (s0 : State) (p : Nat) (t0 : Stamp) (rs : List ConvResult) {mm : Nat} :
    getF (latchAll s0 p t0 rs) F.POL_STATE_RSTATE mm = getF s0 F.POL_STATE_RSTATE mm := by
  unfold latchAll
  extract_lets z single burst xs s s1 u s2 s3 s4
  have hz : getF z F.POL_STATE_RSTATE mm = getF s0 F.POL_STATE_RSTATE mm := by
    simp (disch := first | decide | (simp only [Fld.tag, fldKey, Page.code]; omega)) only [z, pmuDue_rs]
  have h0 : getF s F.POL_STATE_RSTATE mm = getF s0 F.POL_STATE_RSTATE mm := (getF_reach ..).trans hz
  have h1 : getF s1 F.POL_STATE_RSTATE mm = getF s0 F.POL_STATE_RSTATE mm := by
    simp (disch := first | decide | (simp only [Fld.tag, fldKey, Page.code]; omega)) only [s1, samples_page]
    split
    · exact h0
    · simp (disch := first | decide | (simp only [Fld.tag, fldKey, Page.code]; omega)) only [samples_page, h0]
  have h2 : getF s2 F.POL_STATE_RSTATE mm = getF s0 F.POL_STATE_RSTATE mm := by
    simp only [s2]; split
    · exact (getF_setAcq ..).trans h1
    · exact h1
  have h3 : getF s3 F.POL_STATE_RSTATE mm = getF s0 F.POL_STATE_RSTATE mm := by
    refine (foldl_page (fun _ _ => ?_) _ _).trans h2
    simp (disch := first | decide | (simp only [Fld.tag, fldKey, Page.code]; omega)) only [latchOne_rs]
  clear_value s3
  have h4 : getF s4 F.POL_STATE_RSTATE mm = getF s0 F.POL_STATE_RSTATE mm := h3
  split
  · exact hz
  · simp (disch := first | decide | (simp only [Fld.tag, fldKey, Page.code]; omega)) only [showPmu_rs, release_rs, h4]

theorem returnAll_rs (s0 : State) (p : Nat) (t0 : Stamp) {mm : Nat} :
    getF (returnAll s0 p t0) F.POL_STATE_RSTATE mm = getF s0 F.POL_STATE_RSTATE mm := by
  unfold returnAll
  repeat' (first
    | with_reducible rfl
    | simp (disch := first | decide | (simp only [Fld.tag, fldKey, Page.code]; omega)) only [getF_ite, ite_self, getF_reach,
        pmuDue_rs, release_rs])

theorem rangeDone_rs (s0 : State) (c : Nat) (t : Stamp) {mm : Nat} :
    getF (rangeDone s0 c t) F.POL_STATE_RSTATE mm = getF s0 F.POL_STATE_RSTATE mm := by
  unfold rangeDone
  repeat' (first
    | with_reducible rfl
    | simp (disch := first | decide | (simp only [Fld.tag, fldKey, Page.code]; omega)) only [getF_ite, ite_self,
        getF_setChan, getF_reach, setClaim_page, pmuDue_rs])

theorem tdcArm_rs (s : State) (c : Nat) (t : Stamp) {mm : Nat} :
    getF (tdcArm s c t) F.POL_STATE_RSTATE mm = getF s F.POL_STATE_RSTATE mm := by
  unfold tdcArm
  repeat' (first
    | with_reducible rfl
    | simp (disch := first | decide | (simp only [Fld.tag, fldKey, Page.code]; omega)) only [getF_ite, raise_rs, setTdc_page]
    | split)

theorem intervalResult_rs (s : State) (p a b : Nat) (ts te : Stamp16) (stepped : Bool) {mm : Nat} :
    getF (intervalResult s p a b ts te stepped) F.POL_STATE_RSTATE mm = getF s F.POL_STATE_RSTATE mm := by
  unfold intervalResult
  repeat' (first
    | with_reducible rfl
    | simp (disch := first | decide | (simp only [Fld.tag, fldKey, Page.code]; omega)) only [addCt_rs, putItem_page])

theorem unpaired_rs (s : State) (p b : Nat) (w : PairWait) {mm : Nat} :
    getF (unpaired s p b w) F.POL_STATE_RSTATE mm = getF s F.POL_STATE_RSTATE mm := by
  unfold unpaired
  repeat' (first
    | with_reducible rfl
    | simp (disch := first | decide | (simp only [Fld.tag, fldKey, Page.code]; omega)) only [addCt_rs, raise_rs,
        setTdc_page])

theorem noStart_rs (s : State) (p : Nat) {mm : Nat} :
    getF (noStart s p) F.POL_STATE_RSTATE mm = getF s F.POL_STATE_RSTATE mm := by
  unfold noStart
  repeat' (first
    | with_reducible rfl
    | simp (disch := first | decide | (simp only [Fld.tag, fldKey, Page.code]; omega)) only [addCt_rs, raise_rs])

theorem pairStamp_rs (s : State) (p a b : Nat) (start : Bool) (t : Stamp16) {mm : Nat} :
    getF (pairStamp s p a b start t) F.POL_STATE_RSTATE mm = getF s F.POL_STATE_RSTATE mm := by
  unfold pairStamp
  repeat' (first
    | with_reducible rfl
    | simp (disch := first | decide | (simp only [Fld.tag, fldKey, Page.code]; omega)) only [getF_ite, ite_self, setTdc_page,
        intervalResult_rs, unpaired_rs, noStart_rs]
    | refine (foldl_page (fun _ _ => ?_) _ _).trans ?_
    | split)

theorem edgeStamp_rs (s : State) (c : Nat) (rising : Bool) (t : Stamp) (t16 : Stamp16) {mm : Nat} :
    getF (edgeStamp s c rising t t16) F.POL_STATE_RSTATE mm = getF s F.POL_STATE_RSTATE mm := by
  unfold edgeStamp
  repeat' (first
    | with_reducible rfl
    | simp (disch := first | decide | (simp only [Fld.tag, fldKey, Page.code]; omega)) only [getF_ite, dieEvent_page,
        setTdc_page, pushFifo_page, tdcOff_page, noStart_rs, pairStamp_rs]
    | refine (forAll_page (fun _ _ => ?_) _ _).trans ?_
    | split)

theorem tdcEdge_rs (s : State) (c : Nat) (high rising : Bool) (t0 : Stamp) (sub : BitVec 4) {mm : Nat} :
    getF (tdcEdge s c high rising t0 sub) F.POL_STATE_RSTATE mm = getF s F.POL_STATE_RSTATE mm := by
  have h := tdcTime_page s c t0 sub (fl := F.POL_STATE_RSTATE) (mm := mm)
  unfold tdcEdge
  repeat' (first
    | with_reducible rfl
    | simp (disch := first | decide | (simp only [Fld.tag, fldKey, Page.code]; omega)) only [getF_ite, ite_self, raise_rs,
        addCt_rs, freqEdge_page, edgeStamp_rs, h])

theorem freqResult_rs (s : State) (c : Nat) {mm : Nat} :
    getF (freqResult s c) F.POL_STATE_RSTATE mm = getF s F.POL_STATE_RSTATE mm := by
  unfold freqResult
  repeat' (first
    | with_reducible rfl
    | simp (disch := first | decide | (simp only [Fld.tag, fldKey, Page.code]; omega)) only [setF_rs, addCt_rs, freeB_page,
        putItem_page]
    | split)

theorem octSafe_rs (s : State) (o : Nat) {mm : Nat} :
    getF (octSafe s o) F.POL_STATE_RSTATE mm = getF s F.POL_STATE_RSTATE mm := by
  unfold octSafe
  repeat' (first
    | with_reducible rfl
    | simp (disch := first | decide | (simp only [Fld.tag, fldKey, Page.code]; omega)) only [getF_ite, ite_self,
        applyFaultDacs_rs, setPstate_page, octOff_page, octDeskew_page])

theorem octIdle_rs (s : State) (o : Nat) {mm : Nat} :
    getF (octIdle s o) F.POL_STATE_RSTATE mm = getF s F.POL_STATE_RSTATE mm := by
  unfold octIdle
  repeat' (first
    | with_reducible rfl
    | simp (disch := first | decide | (simp only [Fld.tag, fldKey, Page.code]; omega)) only [getF_ite, ite_self, setF_rs,
        getF_setChan, selfcalLeave_page, setPstate_page, octDeskew_page, octSafe_rs]
    | refine (forAll_page (fun _ _ => ?_) _ _).trans ?_
    | split)

theorem octHiz_rs (s : State) (o : Nat) {mm : Nat} : getF (octHiz s o) F.POL_STATE_RSTATE mm = getF s F.POL_STATE_RSTATE mm
    := by
  unfold octHiz
  extract_lets s1 s2
  have h1 : getF s1 F.POL_STATE_RSTATE mm = getF s F.POL_STATE_RSTATE mm := by
    refine (forAll_page (fun _ _ => getF_setChan ..) _ _).trans ?_
    simp (disch := first | decide | (simp only [Fld.tag, fldKey, Page.code]; omega)) only [octOff_page, selfcalLeave_page]
  have h2 : getF s2 F.POL_STATE_RSTATE mm = getF s F.POL_STATE_RSTATE mm := (setF_rs _ _ _ _ (by decide)).trans h1
  split
  · simp (disch := first | decide | (simp only [Fld.tag, fldKey, Page.code]; omega)) only [showPmu_rs, h2]
  · exact h2

theorem octBack_rs (s : State) (o : Nat) {mm : Nat} :
    getF (octBack s o) F.POL_STATE_RSTATE mm = getF s F.POL_STATE_RSTATE mm := by
  unfold octBack
  repeat' (first
    | with_reducible rfl
    | simp (disch := first | decide | (simp only [Fld.tag, fldKey, Page.code]; omega)) only [octSafe_rs, octIdle_rs,
        octActive_page]
    | split)

theorem pinRails_rs (s : State) {mm : Nat} :
    getF (pinRails s) F.POL_STATE_RSTATE mm = getF s F.POL_STATE_RSTATE mm := by
  unfold pinRails
  repeat' (first
    | with_reducible rfl
    | simp (disch := first | decide | (simp only [Fld.tag, fldKey, Page.code]; omega)) only [getF_ite, ite_self, octHiz_rs,
        octBack_rs]
    | refine (forAll_page (fun _ _ => ?_) _ _).trans ?_)

theorem firstFail_rs (s : State) (p : Nat) (r : VecRef) (t : Nat) {mm : Nat} :
    getF (firstFail s p r t) F.POL_STATE_RSTATE mm = getF s F.POL_STATE_RSTATE mm := by
  unfold firstFail
  repeat' (first
    | with_reducible rfl
    | simp (disch := first | decide | (simp only [Fld.tag, fldKey, Page.code]; omega)) only [getF_ite, ite_self, setF_rs,
        set64_rs, raise_rs])

theorem failCount_rs (s : State) (p c : Nat) (r : VecRef) (tc : Nat) (t : Stamp) {mm : Nat} :
    getF (failAt.failCount s p c r tc t) F.POL_STATE_RSTATE mm = getF s F.POL_STATE_RSTATE mm := by
  simp (disch := first | decide | (simp only [Fld.tag, fldKey, Page.code]; omega)) only [failAt.failCount, getF_ite,
      ite_self, failLatch_page, dieEvent_page, firstFail_rs, addCt_rs]

theorem failAt_rs (s : State) (c : Nat) (r : VecRef) (t : Stamp) {mm : Nat} :
    getF (failAt s c r t) F.POL_STATE_RSTATE mm = getF s F.POL_STATE_RSTATE mm := by
  unfold failAt
  repeat' (first
    | with_reducible rfl
    | simp (disch := first | decide | (simp only [Fld.tag, fldKey, Page.code]; omega)) only [getF_setPol, addCt_rs,
        sofReached_page, failCount_rs]
    | split)

theorem logFail_rs (s : State) (p : Nat) (f : FailVec) {mm : Nat} :
    getF (logFail s p f) F.POL_STATE_RSTATE mm = getF s F.POL_STATE_RSTATE mm := by
  unfold logFail
  repeat' (first
    | with_reducible rfl
    | simp (disch := first | decide | (simp only [Fld.tag, fldKey, Page.code]; omega)) only [getF_ite, ite_self, getF_setAcq,
        countFlog_rs, putItem_page])

theorem flushFails_rs (s : State) (p : Nat) {mm : Nat} :
    getF (flushFails s p) F.POL_STATE_RSTATE mm = getF s F.POL_STATE_RSTATE mm := by
  unfold flushFails
  repeat' (first
    | with_reducible rfl
    | simp (disch := first | decide | (simp only [Fld.tag, fldKey, Page.code]; omega)) only [getF_setPol, logFail_rs]
    | refine (foldl_page (fun _ _ => ?_) _ _).trans ?_)

theorem flushAllFails_rs (s : State) (p : Nat) {mm : Nat} :
    getF (flushAllFails s p) F.POL_STATE_RSTATE mm = getF s F.POL_STATE_RSTATE mm := by
  unfold flushAllFails
  repeat' (first
    | with_reducible rfl
    | simp (disch := first | decide | (simp only [Fld.tag, fldKey, Page.code]; omega)) only [getF_setPol, logFail_rs]
    | refine (foldl_page (fun _ _ => ?_) _ _).trans ?_)

theorem strobe_rs (s : State) (c : Nat) (e : Expect) (r : VecRef) (t : Stamp) {mm : Nat} :
    getF (strobe s c e r t) F.POL_STATE_RSTATE mm = getF s F.POL_STATE_RSTATE mm := by
  unfold strobe
  repeat' (first
    | with_reducible rfl
    | simp (disch := first | decide | (simp only [Fld.tag, fldKey, Page.code]; omega)) only [getF_ite, ite_self, failAt_rs])

theorem winFail_rs (s : State) (c : Nat) (w : Win) (t : Stamp) {mm : Nat} :
    getF (winFail s c w t) F.POL_STATE_RSTATE mm = getF s F.POL_STATE_RSTATE mm := by
  unfold winFail
  repeat' (first
    | with_reducible rfl
    | simp (disch := first | decide | (simp only [Fld.tag, fldKey, Page.code]; omega)) only [getF_setChan, failAt_rs])

theorem settleViol_rs (s : State) (c : Nat) (t : Stamp) {mm : Nat} :
    getF (settleViol s c t) F.POL_STATE_RSTATE mm = getF s F.POL_STATE_RSTATE mm := by
  unfold settleViol
  repeat' (first
    | with_reducible rfl
    | simp (disch := first | decide | (simp only [Fld.tag, fldKey, Page.code]; omega)) only [getF_ite, ite_self, freeB_page,
        getF_setChan, winFail_rs]
    | split)

theorem winOpen_rs (s : State) (c : Nat) (e : Expect) (r : VecRef) (t : Stamp) {mm : Nat} :
    getF (winOpen s c e r t) F.POL_STATE_RSTATE mm = getF s F.POL_STATE_RSTATE mm := by
  unfold winOpen
  repeat' (first
    | with_reducible rfl
    | simp (disch := first | decide | (simp only [Fld.tag, fldKey, Page.code]; omega)) only [getF_setChan, settleViol_rs])

theorem winClose_rs (s : State) (c : Nat) (t : Stamp) {mm : Nat} :
    getF (winClose s c t) F.POL_STATE_RSTATE mm = getF s F.POL_STATE_RSTATE mm := by
  unfold winClose
  repeat' (first
    | with_reducible rfl
    | simp (disch := first | decide | (simp only [Fld.tag, fldKey, Page.code]; omega)) only [getF_setChan, settleViol_rs])

theorem playEdge_rs (s : State) (c : Nat) (e : Edge) {mm : Nat} :
    getF (playEdge s c e) F.POL_STATE_RSTATE mm = getF s F.POL_STATE_RSTATE mm := by
  unfold playEdge
  repeat' (first
    | with_reducible rfl
    | simp (disch := first | decide | (simp only [Fld.tag, fldKey, Page.code]; omega)) only [getF_ite, ite_self, addCt_rs,
        raise_rs, getF_setChan, tdcArm_rs, strobe_rs, winOpen_rs, winClose_rs, driveEdge_page]
    | split)

theorem nextEdge_rs (s : State) (c : Nat) {mm : Nat} : getF (nextEdge s c) F.POL_STATE_RSTATE mm = getF s F.POL_STATE_RSTATE
    mm := by
  unfold nextEdge
  extract_lets s0
  have h0 : getF s0 F.POL_STATE_RSTATE mm = getF s F.POL_STATE_RSTATE mm := by
    simp only [s0]; split
    · simp (disch := first | decide | (simp only [Fld.tag, fldKey, Page.code]; omega)) only [layPark_page]
    · rfl
  split
  · exact h0
  · next e es he =>
    extract_lets s1 u s2 s3
    have h1 : getF s1 F.POL_STATE_RSTATE mm = getF s F.POL_STATE_RSTATE mm := by
      simp (disch := first | decide | (simp only [Fld.tag, fldKey, Page.code]; omega)) only [s1, pmuDue_rs, h0]
    have h2 : getF s2 F.POL_STATE_RSTATE mm = getF s F.POL_STATE_RSTATE mm := by
      simp (disch := first | decide | (simp only [Fld.tag, fldKey, Page.code]; omega)) only [s2, leavePark_page,
          getF_setChan, h1]
    have h3 : getF s3 F.POL_STATE_RSTATE mm = getF s F.POL_STATE_RSTATE mm := by
      simp (disch := first | decide | (simp only [Fld.tag, fldKey, Page.code]; omega)) only [s3, playEdge_rs, h2]
    split
    · simp (disch := first | decide | (simp only [Fld.tag, fldKey, Page.code]; omega)) only [flushFails_rs, h3]
    · exact h3

theorem winBroken_rs (s : State) (c : Nat) (w : Win) (det : Bool) (t : Stamp) {mm : Nat} :
    getF (winBroken s c w det t) F.POL_STATE_RSTATE mm = getF s F.POL_STATE_RSTATE mm := by
  unfold winBroken
  repeat' (first
    | with_reducible rfl
    | simp (disch := first | decide | (simp only [Fld.tag, fldKey, Page.code]; omega)) only [getF_ite, ite_self,
        getF_setChan, winFail_rs])

theorem midBroken_rs (s : State) (c : Nat) (t : Stamp) {mm : Nat} :
    getF (midBroken s c t) F.POL_STATE_RSTATE mm = getF s F.POL_STATE_RSTATE mm := by
  unfold midBroken
  repeat' (first
    | with_reducible rfl
    | simp (disch := first | decide | (simp only [Fld.tag, fldKey, Page.code]; omega)) only [getF_ite, ite_self,
        winBroken_rs]
    | split)

theorem comparatorTransition_rs (s : State) (c : Nat) (high rising : Bool) (t0 : Stamp) (sub : BitVec 4) (det : Bool) {mm :
    Nat} :
    getF (comparatorTransition s c high rising t0 sub det) F.POL_STATE_RSTATE mm = getF s F.POL_STATE_RSTATE mm := by
  unfold comparatorTransition
  repeat' (first
    | with_reducible rfl
    | simp (disch := first | decide | (simp only [Fld.tag, fldKey, Page.code]; omega)) only [getF_ite, ite_self, setF_rs,
        tdcEdge_rs, settleViol_rs, winBroken_rs]
    | split)

theorem clearRun_rs (s : State) (p : Nat) {mm : Nat} : getF (clearRun s p) F.POL_STATE_RSTATE mm = getF s F.POL_STATE_RSTATE
    mm := by
  unfold clearRun
  extract_lets s1
  refine (forAll_page (fun _ _ => ?_) _ _).trans (setAll_rs _ p (by decide) s)
  refine (forAll_page (fun _ _ => ?_) _ _).trans (setF_rs _ _ _ _ (by decide))
  simp (disch := first | decide | (simp only [Fld.tag, fldKey, Page.code]; omega)) only [setF_rs]

theorem abortPins_rs (s : State) (p : Nat) {mm : Nat} :
    getF (abortPins s p) F.POL_STATE_RSTATE mm = getF s F.POL_STATE_RSTATE mm := by
  unfold abortPins
  repeat' (first
    | with_reducible rfl
    | simp (disch := first | decide | (simp only [Fld.tag, fldKey, Page.code]; omega)) only [getF_setPol, emptyQueue_rs,
        disconnectOct_page, showPmu_rs, pmuNowDue_rs]
    | refine (forAll_page (fun _ _ => ?_) _ _).trans ?_)

theorem clearBenched_rs (s : State) (p : Nat) {mm : Nat} :
    getF (clearBenched s p) F.POL_STATE_RSTATE mm = getF s F.POL_STATE_RSTATE mm := by
  unfold clearBenched
  repeat' (first
    | with_reducible rfl
    | simp (disch := first | decide | (simp only [Fld.tag, fldKey, Page.code]; omega)) only [getF_ite, setF_rs]
    | refine (forAll_page (fun _ _ => ?_) _ _).trans ?_
    | split)

theorem endCmds_rs (s : State) (p : Nat) {mm : Nat} : getF (endCmds s p) F.POL_STATE_RSTATE mm = getF s F.POL_STATE_RSTATE mm
    := by
  unfold endCmds
  exact setAll_rs _ p (by decide) s

theorem cancelRestart_rs (s : State) (p : Nat) {mm : Nat} :
    getF (cancelRestart s p) F.POL_STATE_RSTATE mm = getF s F.POL_STATE_RSTATE mm := by
  unfold cancelRestart
  repeat' (first
    | with_reducible rfl
    | simp (disch := first | decide | (simp only [Fld.tag, fldKey, Page.code]; omega)) only [getF_ite, ite_self, setF_rs,
        raise_rs])

theorem dikePins_rs (s : State) (p : Nat) {mm : Nat} :
    getF (dikePins s p) F.POL_STATE_RSTATE mm = getF s F.POL_STATE_RSTATE mm := by
  unfold dikePins
  repeat' (first
    | with_reducible rfl
    | simp (disch := first | decide | (simp only [Fld.tag, fldKey, Page.code]; omega)) only [getF_setPol, dikeQueues_rs,
        disconnectOct_page, endBurst_rs, showPmu_rs, octSafe_rs]
    | refine (forAll_page (fun _ _ => ?_) _ _).trans ?_)

theorem dikeBench_rs (s : State) (p : Nat) {mm : Nat} :
    getF (dikeBench s p) F.POL_STATE_RSTATE mm = getF s F.POL_STATE_RSTATE mm := by
  unfold dikeBench
  repeat' (first
    | with_reducible rfl
    | simp (disch := first | decide | (simp only [Fld.tag, fldKey, Page.code]; omega)) only [getF_ite, ite_self, setF_rs,
        raise_rs, markRun_page])

theorem dikeAgain_rs (s : State) (p src : Nat) {mm : Nat} :
    getF (dikeAgain s p src) F.POL_STATE_RSTATE mm = getF s F.POL_STATE_RSTATE mm := by
  unfold dikeAgain
  repeat' (first
    | with_reducible rfl
    | simp (disch := first | decide | (simp only [Fld.tag, fldKey, Page.code]; omega)) only [getF_ite, ite_self, setF_rs,
        freeB_page, getF_setPol]
    | split)

theorem firstWord_rs (s : State) (p : Nat) (t : Stamp) {mm : Nat} :
    getF (firstWord s p t) F.POL_STATE_RSTATE mm = getF s F.POL_STATE_RSTATE mm := by
  unfold firstWord
  repeat' (first
    | with_reducible rfl
    | simp (disch := first | decide | (simp only [Fld.tag, fldKey, Page.code]; omega)) only [raise_rs, acqStart_page,
        octActive_page]
    | refine (forAll_page (fun _ _ => ?_) _ _).trans ?_)

theorem takeOvl_rs (f : Nat) (s : State) (b vwi : Nat) (acc : List (BitVec 192)) {mm : Nat} :
    getF (takeOvl f s b vwi acc).1 F.POL_STATE_RSTATE mm = getF s F.POL_STATE_RSTATE mm := by
  induction f generalizing s acc with
  | zero => rfl
  | succ f ih =>
    unfold takeOvl
    repeat' (first | with_reducible rfl | simp (disch := first | decide | (simp only [Fld.tag, fldKey, Page.code]; omega))
        only [ih, raise_rs, addCt_rs, getF_setBnd] | split)

theorem issueWord_rs (s : State) (b : Nat) (w : WordOp) {mm : Nat} : getF (issueWord s b w) F.POL_STATE_RSTATE mm = getF s
    F.POL_STATE_RSTATE mm := by
  unfold issueWord
  extract_lets y a cp per mem t streamed s1 s2 s3 s4 g o d s5 s6 s7 z act
  have h1 : getF s1 F.POL_STATE_RSTATE mm = getF s F.POL_STATE_RSTATE mm := by
    simp only [s1]; split
    · rfl
    · refine forAll_page (fun _ _ => ?_) _ _
      simp (disch := first | decide | (simp only [Fld.tag, fldKey, Page.code]; omega)) only [firstWord_rs]
  have h2 : getF s2 F.POL_STATE_RSTATE mm = getF s F.POL_STATE_RSTATE mm := by
    rw [← h1]; simp only [s2]; split
    · refine forAll_page (fun _ _ => ?_) _ _
      simp (disch := first | decide | (simp only [Fld.tag, fldKey, Page.code]; omega)) only [muteStarts_page]
    · rfl
  have h3 : getF s3 F.POL_STATE_RSTATE mm = getF s F.POL_STATE_RSTATE mm := by
    rw [← h2]; refine forAll_page (fun _ _ => ?_) _ _
    split <;> simp (disch := first | decide | (simp only [Fld.tag, fldKey, Page.code]; omega)) only [gateOpen_page,
        gateClose_page]
  have h4 : getF s4 F.POL_STATE_RSTATE mm = getF s F.POL_STATE_RSTATE mm := by
    rw [← h3]; refine forAll_page (fun _ _ => ?_) _ _
    simp (disch := first | decide | (simp only [Fld.tag, fldKey, Page.code]; omega)) only [pushLset_rs]
  have hg : getF o.1 F.POL_STATE_RSTATE mm = getF s F.POL_STATE_RSTATE mm := by
    rw [← h4]; simp (disch := first | decide | (simp only [Fld.tag, fldKey, Page.code]; omega)) only [o, g, takeOvl_rs,
        growCredit_page]
  have hd : getF d F.POL_STATE_RSTATE mm = getF s F.POL_STATE_RSTATE mm := by
    rw [← hg]; refine forAll_page (fun _ _ => forAll_page (fun _ _ => ?_) _ _) _ _
    simp (disch := first | decide | (simp only [Fld.tag, fldKey, Page.code]; omega)) only [dueDeskew_page]
  have h5 : getF s5 F.POL_STATE_RSTATE mm = getF s F.POL_STATE_RSTATE mm := by
    refine (forAll_page (fun _ _ => ?_) _ _).trans hd
    simp (disch := first | decide | (simp only [Fld.tag, fldKey, Page.code]; omega)) only [playWord_page]
  have h6 : getF s6 F.POL_STATE_RSTATE mm = getF s F.POL_STATE_RSTATE mm := by
    rw [← h5]; refine forAll_page (fun _ _ => ?_) _ _
    simp (disch := first | decide | (simp only [Fld.tag, fldKey, Page.code]; omega)) only [setF_rs]
  rw [← h6]
  simp (disch := first | decide | (simp only [Fld.tag, fldKey, Page.code]; omega)) only [s7, setIssuing_page, getF_setBnd,
      noteSeen_page]

theorem isolate_rs (s : State) (d f : Nat) (t : Stamp) (names : List Nat) {mm : Nat} :
    getF (isolate s d f t names) F.POL_STATE_RSTATE mm = getF s F.POL_STATE_RSTATE mm := by
  unfold isolate
  repeat' (first
    | with_reducible rfl
    | simp (disch := first | decide | (simp only [Fld.tag, fldKey, Page.code]; omega)) only [getF_ite, raise_rs,
        causeDrop_page, faultRecord_page, octSafe_rs, setIso_page]
    | refine (forAll_page (fun _ _ => ?_) _ _).trans ?_
    | split)

theorem passStarts_rs (s : State) (t0 t1 : Stamp) {mm : Nat} :
    getF (passStarts s t0 t1) F.POL_STATE_RSTATE mm = getF s F.POL_STATE_RSTATE mm := by
  unfold passStarts
  repeat' (first
    | with_reducible rfl
    | simp (disch := first | decide | (simp only [Fld.tag, fldKey, Page.code]; omega)) only [getF_ite, ite_self, raise_rs,
        getF_setPol]
    | refine (forAll_page (fun _ _ => ?_) _ _).trans ?_
    | split)

theorem deliverOrdered_rs (s : State) (e : Ev) (late : Bool) {mm : Nat} :
    getF (deliverOrdered s e late) F.POL_STATE_RSTATE mm = getF s F.POL_STATE_RSTATE mm := by
  unfold deliverOrdered
  repeat' (first
    | with_reducible rfl
    | simp (disch := first | decide | (simp only [Fld.tag, fldKey, Page.code]; omega)) only [getF_ite, ite_self, getF_upd,
        routerTrigger_rs, linesEvent_page, ringWrite_page]
    | refine (forAll_page (fun _ _ => ?_) _ _).trans ?_
    | split)

theorem orderedEvent_rs (s : State) (e : Ev) (late : Bool) {mm : Nat} :
    getF (orderedEvent s e late) F.POL_STATE_RSTATE mm = getF s F.POL_STATE_RSTATE mm := by
  unfold orderedEvent
  repeat' (first
    | with_reducible rfl
    | simp (disch := first | decide | (simp only [Fld.tag, fldKey, Page.code]; omega)) only [getF_ite, ite_self,
        deliverOrdered_rs, hold_page])

theorem monEvent_rs (s : State) (e : Ev) (late : Bool) {mm : Nat} :
    getF (monEvent s e late) F.POL_STATE_RSTATE mm = getF s F.POL_STATE_RSTATE mm := by
  unfold monEvent
  repeat' (first
    | with_reducible rfl
    | simp (disch := first | decide | (simp only [Fld.tag, fldKey, Page.code]; omega)) only [addCt_rs, getF_setPol,
        deliverPrompt_page, deliverOrdered_rs]
    | split)

theorem loadPreset_rs (s : State) (d e : Int) {mm : Nat} :
    getF (loadPreset s d e) F.POL_STATE_RSTATE mm = getF s F.POL_STATE_RSTATE mm := by
  unfold loadPreset
  repeat' (first
    | with_reducible rfl
    | simp (disch := first | decide | (simp only [Fld.tag, fldKey, Page.code]; omega)) only [getF_ite, ite_self, setF_rs,
        addCt_rs, raise_rs, passStarts_rs, startSlew_page, stepCount_page])

theorem useFrame_rs (s : State) (v : Nat) (tm : Stamp) (resid : BitVec 4) (pherr : Bool) {mm : Nat} :
    getF (useFrame s v tm resid pherr) F.POL_STATE_RSTATE mm = getF s F.POL_STATE_RSTATE mm := by
  unfold useFrame
  split
  · rfl
  · extract_lets ta s1 d left s2 s3
    clear_value ta d left
    have h1 : getF s1 F.POL_STATE_RSTATE mm = getF s F.POL_STATE_RSTATE mm :=
      (getF_launch (reachUp s ta) _ F.POL_STATE_RSTATE mm).trans (reachUp_page s ta)
    have h2 : getF s2 F.POL_STATE_RSTATE mm = getF s F.POL_STATE_RSTATE mm := by
      simp (disch := first | decide | (simp only [Fld.tag, fldKey, Page.code]; omega)) only [s2, frameMeasure_page,
          xcalSample_page, h1]
    have h3 : getF s3 F.POL_STATE_RSTATE mm = getF s F.POL_STATE_RSTATE mm := by
      simp (disch := first | decide | (simp only [Fld.tag, fldKey, Page.code]; omega)) only [s3, bsyncDue_page, h2]
    simp (disch := first | decide | (simp only [Fld.tag, fldKey, Page.code]; omega)) only [loadPreset_rs, h3]

theorem ignored_rs (s : State) (p : Nat) {mm : Nat} :
    getF (ignored s p) F.POL_STATE_RSTATE mm = getF s F.POL_STATE_RSTATE mm := by
  unfold ignored
  repeat' (first
    | with_reducible rfl
    | simp (disch := first | decide | (simp only [Fld.tag, fldKey, Page.code]; omega)) only [raise_rs])

theorem takeOct_rs (s : State) (p o : Nat) {mm : Nat} :
    getF (takeOct s p o) F.POL_STATE_RSTATE mm = getF s F.POL_STATE_RSTATE mm := by
  unfold takeOct
  repeat' (first
    | with_reducible rfl
    | simp (disch := first | decide | (simp only [Fld.tag, fldKey, Page.code]; omega)) only [getF_ite, ite_self, setF_rs,
        clearSpace_page, octSafe_rs, octIdle_rs])

theorem dropOct_rs (s : State) (o : Nat) {mm : Nat} :
    getF (dropOct s o) F.POL_STATE_RSTATE mm = getF s F.POL_STATE_RSTATE mm := by
  unfold dropOct
  repeat' (first
    | with_reducible rfl
    | simp (disch := first | decide | (simp only [Fld.tag, fldKey, Page.code]; omega)) only [setF_rs, emptyQueue_rs,
        clearSpace_page, disconnectOct_page, octOff_page, octSafe_rs]
    | split)

theorem takeDsmap_rs (s : State) (p v : Nat) {mm : Nat} :
    getF (takeDsmap s p v) F.POL_STATE_RSTATE mm = getF s F.POL_STATE_RSTATE mm := by
  unfold takeDsmap
  repeat' (first
    | with_reducible rfl
    | simp (disch := first | decide | (simp only [Fld.tag, fldKey, Page.code]; omega)) only [getF_ite, ite_self, setF_rs,
        raise_rs, refreshLevee_page, takeDs_rs, dropDs_rs]
    | refine (forAll_page (fun _ _ => ?_) _ _).trans ?_
    | refine (foldl_page (fun _ _ => ?_) _ _).trans ?_
    | split)

theorem dsmapSet_rs (s : State) (p v : Nat) {mm : Nat} :
    getF (dsmapSet s p v) F.POL_STATE_RSTATE mm = getF s F.POL_STATE_RSTATE mm := by
  unfold dsmapSet
  repeat' (first
    | with_reducible rfl
    | simp (disch := first | decide | (simp only [Fld.tag, fldKey, Page.code]; omega)) only [getF_ite, ite_self, setF_rs,
        takeDsmap_rs])

theorem showStop_rs (s : State) (p : Nat) (abort : Bool) {mm : Nat} :
    getF (showStop s p abort) F.POL_STATE_RSTATE mm = getF s F.POL_STATE_RSTATE mm := by
  unfold showStop
  repeat' (first
    | with_reducible rfl
    | simp (disch := first | decide | (simp only [Fld.tag, fldKey, Page.code]; omega)) only [getF_ite, setF_rs]
    | split)

theorem cmdPause_rs (s : State) (p : Nat) (scope : Bool) {mm : Nat} :
    getF (cmdPause s p scope) F.POL_STATE_RSTATE mm = getF s F.POL_STATE_RSTATE mm := by
  unfold cmdPause
  repeat' (first
    | with_reducible rfl
    | simp (disch := first | decide | (simp only [Fld.tag, fldKey, Page.code]; omega)) only [getF_ite, ite_self, setF_rs,
        getF_setBnd, ignored_rs]
    | split)

theorem cmdRelease_rs (s : State) (p : Nat) (scope : Bool) {mm : Nat} :
    getF (cmdRelease s p scope) F.POL_STATE_RSTATE mm = getF s F.POL_STATE_RSTATE mm := by
  unfold cmdRelease
  repeat' (first
    | with_reducible rfl
    | simp (disch := first | decide | (simp only [Fld.tag, fldKey, Page.code]; omega)) only [getF_ite, ite_self, setF_rs,
        getF_setPol, ignored_rs]
    | refine (forAll_page (fun _ _ => ?_) _ _).trans ?_
    | split)

theorem lastItems_rs (s : State) (p : Nat) {mm : Nat} :
    getF (lastItems s p) F.POL_STATE_RSTATE mm = getF s F.POL_STATE_RSTATE mm := by
  unfold lastItems
  repeat' (first
    | with_reducible rfl
    | simp (disch := first | decide | (simp only [Fld.tag, fldKey, Page.code]; omega)) only [flushScopes_page,
        drainChans_page, flushAllFails_rs, winClose_rs]
    | refine (forAll_page (fun _ _ => ?_) _ _).trans ?_)

theorem capTrig_rs (s : State) (b : Nat) (t : Stamp) {mm : Nat} :
    getF (capTrig s b t) F.POL_STATE_RSTATE mm = getF s F.POL_STATE_RSTATE mm := by
  unfold capTrig
  repeat' (first
    | with_reducible rfl
    | simp (disch := first | decide | (simp only [Fld.tag, fldKey, Page.code]; omega)) only [getF_ite, ite_self, trigger_rs]
    | refine (forAll_page (fun _ _ => ?_) _ _).trans ?_)

theorem microPmu_rs (s : State) (mem : List Nat) (op : Nat) (t : Stamp) {mm : Nat} :
    getF (microPmu s mem op t) F.POL_STATE_RSTATE mm = getF s F.POL_STATE_RSTATE mm := by
  unfold microPmu
  repeat' (first
    | with_reducible rfl
    | simp (disch := first | decide | (simp only [Fld.tag, fldKey, Page.code]; omega)) only [pmuOp_rs]
    | refine (forAll_page (fun _ _ => ?_) _ _).trans ?_)

theorem firstActs_rs (s : State) (m v : Nat) (t : Stamp) {mm : Nat} :
    getF (firstActs s m v t) F.POL_STATE_RSTATE mm = getF s F.POL_STATE_RSTATE mm := by
  unfold firstActs
  repeat' (first
    | with_reducible rfl
    | simp (disch := first | decide | (simp only [Fld.tag, fldKey, Page.code]; omega)) only [getF_ite, ite_self,
        pushStaged_rs, flgDo_page, engEvent_page, capTrig_rs, capMark_page, microPmu_rs]
    | refine (forAll_page (fun _ _ => ?_) _ _).trans ?_)

theorem dscWrite_rs (s : State) (n off : Nat) (acc : List (Fld × Nat)) {mm : Nat} :
    getF (dscWrite s n off acc) F.POL_STATE_RSTATE mm = getF s F.POL_STATE_RSTATE mm := by
  unfold dscWrite
  repeat' (first
    | with_reducible rfl
    | simp (disch := first | decide | (simp only [Fld.tag, fldKey, Page.code]; omega)) only [getF_ite, ite_self,
        refreshLevee_page, pushEntry_rs, clipDs_page, applySp_page, dsMonOff_page]
    | split)

theorem commitWide_rs (s : State) (p : Page) (n sp e : Nat) (v : BitVec 192) {mm : Nat} :
    getF (commitWide s p n sp e v) F.POL_STATE_RSTATE mm = getF s F.POL_STATE_RSTATE mm := by
  unfold commitWide
  repeat' (first
    | with_reducible rfl
    | simp (disch := first | decide | (simp only [Fld.tag, fldKey, Page.code]; omega)) only [getF_setWide, commitChar_page,
        commitConfig_rs, commitMword_page, commitSeg_page, commitStream_page]
    | split)

theorem ixEffect_rs (s : State) (p : Page) (n sp a : Nat) (acc : List (Fld × Nat)) (old : Fld → Nat) {mm : Nat} :
    getF (ixEffect s p n sp a acc old) F.POL_STATE_RSTATE mm = getF s F.POL_STATE_RSTATE mm := by
  unfold ixEffect
  repeat' (first
    | with_reducible rfl
    | simp (disch := first | decide | (simp only [Fld.tag, fldKey, Page.code]; omega)) only [getF_ite, ite_self,
        refreshLevee_page, applyDeskew_page, parityMade_page, pmuCfgWrite_rs, pmuForceSet_rs, monOff_page, fltDisable_page]
    | split)

theorem midSwitch_rs (s : State) (q : Nat) (t : Stamp) (f : State → State) {mm : Nat} (hf : ∀ s, getF (f s)
    F.POL_STATE_RSTATE mm = getF s F.POL_STATE_RSTATE mm) :
    getF (midSwitch s q t f) F.POL_STATE_RSTATE mm = getF s F.POL_STATE_RSTATE mm := by
  unfold midSwitch
  repeat' (first
    | with_reducible rfl
    | simp (disch := first | decide | (simp only [Fld.tag, fldKey, Page.code]; omega)) only [getF_ite, ite_self, hf,
        settleViol_rs, midBroken_rs]
    | refine (forAll_page (fun _ _ => ?_) _ _).trans ?_)

theorem consumeEntry_rs (s : State) (q : Nat) (e : BitVec 64) {mm : Nat} :
    getF (consumeEntry s q e) F.POL_STATE_RSTATE mm = getF s F.POL_STATE_RSTATE mm := by
  unfold consumeEntry
  extract_lets t u s1
  have h1 : getF s1 F.POL_STATE_RSTATE mm = getF s F.POL_STATE_RSTATE mm := by
    simp (disch := first | decide | (simp only [Fld.tag, fldKey, Page.code]; omega)) only [s1, putQueue_rs]
  have ha (s : State) : getF (applyEntry s q e t) F.POL_STATE_RSTATE mm = getF s F.POL_STATE_RSTATE mm := by
    simp (disch := first | decide | (simp only [Fld.tag, fldKey, Page.code]; omega)) only [applyEntry_rs]
  simp (disch := first | decide | (simp only [Fld.tag, fldKey, Page.code]; omega)) only [stampQueue_rs]
  split
  · simp (disch := first | decide | (simp only [Fld.tag, fldKey, Page.code]; omega)) only [midSwitch_rs _ _ _ _ ha, h1]
  · simp (disch := first | decide | (simp only [Fld.tag, fldKey, Page.code]; omega)) only [applyEntry_rs, h1]

theorem consumeNow_rs (s : State) (q : Nat) (e : BitVec 64) {mm : Nat} :
    getF (consumeNow s q e) F.POL_STATE_RSTATE mm = getF s F.POL_STATE_RSTATE mm := by
  unfold consumeNow
  repeat' (first
    | with_reducible rfl
    | simp (disch := first | decide | (simp only [Fld.tag, fldKey, Page.code]; omega)) only [getF_ite, ite_self,
        consumeEntry_rs])

theorem queueTick_rs (s : State) (q : Nat) {mm : Nat} :
    getF (queueTick s q) F.POL_STATE_RSTATE mm = getF s F.POL_STATE_RSTATE mm := by
  unfold queueTick
  repeat' (first
    | with_reducible rfl
    | simp (disch := first | decide | (simp only [Fld.tag, fldKey, Page.code]; omega)) only [getF_ite, ite_self, addCt_rs,
        raise_rs, putQueue_rs, consumeEntry_rs]
    | split)

end Sys2Proof.Machine
end

