-- ==== Sys2Proof/Tests/Slice0.lean ====
section
/-! SUPPORT. Tests: the checks of WellFormed refuse an ill-formed command each; for every obligation with hypotheses, states and
operands that meet them, clause by clause; what commands do on small states, with values from the manual. -/

namespace Sys2Proof.Tests
open Sys2Proof Sys2Proof.Machine
set_option Elab.async false

/-! Small states. -/

/-- A firmware image of SVN `n` with nothing in it. -/
def image (n : BitVec 8) : FwImage :=
  { minor := 0, major := 0, svn := n, lcmask := 0, key := [], digest := [], sig := [], body := [] }

/-- The fields listed take their values. -/
def sets (l : List (Fld × Nat × Nat)) (s : State) : State := l.foldl (fun s x => setF s x.1 x.2.1 x.2.2) s

/-- A module with both supplies that has started up. -/
def up : State :=
  sets [(F.DEV_STATE_MAINPWR, 0, 1), (F.DEV_STATE_BOOT, 0, 4), (F.NVM_STATE_LOADED, 0, 1)]
    { State.reset with pwr := { aux := true, otp := true, img := true, phy := true }, clk := { first := true }, dies := [(0, { inited := true })] }

/-- Polder 63 owns octet 0, which it holds active, and is in state `r`. -/
def formed (r : RS) : State :=
  setRs (sets [(F.OCT_STATE_OWNED, 0, 1), (F.OCT_STATE_OWNER, 0, 63), (F.OCT_STATE_PSTATE, 0, 2), (F.POL_BIND_SEQSEL, 63, 0)] up) 63 r

/-- Polder 63 in state `r` plays from binding `b`. -/
def bound (b : Nat) (r : RS) : State :=
  setB (setB (setBnd (setPol (setF (formed r) F.POL_BIND_SEQSEL 63 b) 63 { bind := some b }) b { noct := 1 })
    b F.SEQ_STATE_RESERVED F.MCE_STATE_RESERVED 1) b F.SEQ_STATE_ANCHOR F.MCE_STATE_ANCHOR 63

/-- Polders 62 and 63 are one consort, in state `r`. -/
def pair (r : RS) : State :=
  setRs (sets [(F.OCT_STATE_OWNED, 1, 1), (F.OCT_STATE_OWNER, 1, 62), (F.POL_BIND_SEQSEL, 62, 0), (F.POL_CSRT_CEN, 62, 1),
    (F.POL_CSRT_CEN, 63, 1)]
    (formed r)) 62 r

/-- The consort of 62 and 63 plays from binding 0. -/
def pairBound (r : RS) : State :=
  sets [(F.SEQ_STATE_RESERVED, 0, 1), (F.SEQ_STATE_ANCHOR, 0, 62)]
    (setPol (setPol (pair r) 62 { bind := some 0 }) 63 { bind := some 0 })

/-- Fields of a state changed. -/
def but (s : State) (l : List (Fld × Nat × Nat)) : State := sets l s

/-- The next state. -/
def nx : Host.Outcome State Fault Refusal → State
  | .next t => t
  | _ => State.reset

/-- A packet of TYPE `typ` for `len` words at `a`, its HOP and EPOCH, with its CRC. -/
def pkt (seq : BitVec 12) (typ : BitVec 4) (len : BitVec 11) (a : LinkAddr) (ws : List Word) (hop : BitVec 3 := 0)
    (epoch : BitVec 8 := 0) : Packet :=
  let h := packHeader typ false hop 0 epoch 0 len a 0
  { seq := seq, header := h, payload := ws, crc := pktCrc seq h ws }

/-! WellFormed: an ill-formed command for each check. -/

theorem test_wf_page : Instr.wf (.evtAckWrite .mp ⟨.seq, 16⟩ 0) = false ∧ Instr.wf (.evtAckWrite .mp ⟨.seq, 15⟩ 0) = true := by
  decide
theorem test_wf_packet_len : Instr.wf (.wr 0 (pkt 0 2 2 0 [0])) = false ∧ Instr.wf (.wr 0 (pkt 0 2 1 0 [0])) = true := by decide
theorem test_wf_packet_max : Instr.wf (.rd 0 (pkt 0 1 1025 0 [])) = false ∧ Instr.wf (.rd 0 (pkt 0 1 1024 0 [])) = true := by decide
theorem test_wf_packet_type : Instr.wf (.rd 0 (pkt 0 2 0 0 [])) = false := by decide
theorem test_wf_scan : Instr.wf (.extest [true] []) = false := by decide
theorem test_wf_conv : Instr.wf (.conversionLatch 0 0 [⟨0, 0, false⟩, ⟨0, 1, false⟩]) = false := by decide
theorem test_wf_cal : Instr.wf (.selfcalDone 0 0 [⟨3, 0, 0⟩, ⟨3, 1, 1⟩]) = false := by decide
theorem test_wf_round : Instr.wf (.housekeepingRound [] [] 0) = false := by decide

/-! The hypotheses of the statements can be met. The machine and its registers. -/

theorem test_meets_StepRunsFrontCommand : State.reset.pending = [] ∧ getF State.reset F.DEV_STATE_MAINPWR 0 = 0 ∧
    getF up F.DEV_STATE_MAINPWR 0 ≠ 0 ∧ up.pending = [] := by decide +kernel

theorem test_meets_StepKeepsStateOk : memOk State.reset = true ∧ lcOk State.reset = true ∧
    (nx (step { up with pending := [.epochWrap] })).bdn = BitVec.ofNat 64 (2 ^ 54) := by decide +kernel

/-- StepsKeepFuses and CommandFrames: a command that reaches the OTP, and one that does not. -/
theorem test_meets_StepsKeepFuses : memOk up = true ∧ lcOk up = true ∧ mayBlow (.revoke .mp 3) = true ∧ mayBlow .epochWrap = false ∧
    (nx (step { up with pending := [.revoke .mp 3] })).otp.revoked = [3] := by decide +kernel

theorem test_meets_CommandFrames : F.POL_STATE_RSTATE.page ∉ pagesOf (.evtAckWrite .mp ⟨.oct, 63⟩ 0) ∧
    mayDram (.evtAckWrite .mp ⟨.oct, 63⟩ 0) = false ∧ mayMbox (.evtAckWrite .mp ⟨.oct, 63⟩ 0) = false ∧
    mayTap (.evtAckWrite .mp ⟨.oct, 63⟩ 0) = false := by decide

/-- RegisterAccesses: addresses of no page, not aligned; EVT_MASK of the last polder; a write of an Observer. -/
theorem test_meets_RegisterAccesses : locate 0x10000 = none ∧ locate 0xFFFFFF = none ∧
    mayWrite up .mp .pol 63 0x01C = true ∧ F.EVT_MASK .pol ∈ pageFields .pol 63 0x01C ∧ (F.EVT_MASK .pol).ty = .rw ∧
    (F.EVT_MASK .pol).priv = false ∧ anySession (F.EVT_MASK .pol) = false ∧ servedPage up .pol 63 0x01C = .yes ∧
    observer (but up [(F.PHL_STATE_SESS, 0, 0)]) .ph0 = true ∧
    servedPage (but up [(F.PHL_STATE_SESS, 0, 0)]) .pol 63 0x01C = .yes := by decide +kernel

/-- LOCK with its bits clear and set, and FORCE. -/
theorem test_meets_RegisterAccesses_lock : mayWrite up .mp .oct 63 0x028 = true ∧
    (1 &&& lockMask' .oct) &&& getF up (F.LOCK .oct) 63 = 0 ∧
    (1 &&& lockMask' .oct) &&& getF (but up [(F.LOCK .oct, 63, 1)]) (F.LOCK .oct) 63 ≠ 0 ∧
    mayWrite up .mp .oct 63 0x024 = true := by decide +kernel

theorem test_meets_EventAcknowledge : servedPage up .cdi 7 0x018 = .yes ∧ observer up .mp = false ∧
    (0xFFFF : Word).toNat % 65536 = getF (but up [(F.EVT_SEQ .cdi, 7, 65535)]) (F.EVT_SEQ .cdi) 7 ∧
    (1 : Word).toNat % 65536 ≠ getF up (F.EVT_SEQ .cdi) 7 := by decide +kernel

/-- A posted write of the boot processor. -/
def post (sp a : Nat) : Posted := { ini := .mp, space := sp, addr := a, val := 5, next := a + 1 }

/-- IndirectAccess: no, fifteen and sixteen writes wait; the first and the last word of the space, and the one beyond. -/
theorem test_meets_IndirectAccess :
    let w (n : Nat) : State := { up with posted := [(wideKey .acq 63 0 0, List.replicate n (post 1 0))] }
    mayWrite up .mp .acq 63 0x030 = true ∧ postedOf up .acq 63 = [] ∧ servedPage (w 15) .acq 63 0x034 = .yes ∧
    (postedOf (w 15) .acq 63).length < 16 ∧ 16 ≤ (postedOf (w 16) .acq 63).length ∧ 1023 < (ixSize .acq 1).1 ∧
    (ixSize .acq 1).1 ≤ 1024 ∧ (ixSize .acq 1).2 = 1 := by decide +kernel

theorem test_meets_PostedWrites :
    let w (a : Nat) (s : State) : State := { s with posted := [(wideKey .acq 63 0 0, [post 1 a])] }
    postedOf (w 1024 up) .acq 63 = post 1 1024 :: [] ∧ servedPage (w 1024 up) .acq 63 0x034 = .yes ∧ (ixSize .acq 1).1 ≤ 1024 ∧
    observer (w 1023 up) .mp = false ∧ isSet (w 1023 up) F.FLT_STATE_EMBANK 0 = false ∧ polBusy (w 1023 up) 63 = false ∧
    polBusy (w 1023 (bound 0 .armed)) 63 = true := by decide +kernel

/-! Polders and runs. -/

/-- RunCommand: a run that may arm, one refused for want of a binding, a consort, a restart, the ignored states. -/
theorem test_meets_RunCommand_arms : mayWrite (formed .idle) .mp .pol 63 0x040 = true ∧ getF (formed .idle) F.POL_RUNCTL_RUN 63 = 0 ∧
    consort (scopeSet (formed .idle) 63 false) 63 = [63] ∧ rsOf (scopeSet (formed .idle) 63 false) 63 = .idle ∧
    armErr (scopeSet (formed .idle) 63 false) 63 = 0 ∧
    armErr (scopeSet (but (formed .idle) [(F.POL_BIND_SEQSEL, 63, 20)]) 63 false) 63 ≠ 0 := by decide +kernel

theorem test_meets_RunCommand_consort : mayWrite (pair .idle) .mp .pol 63 0x040 = true ∧
    consort (scopeSet (pair .idle) 63 true) 63 = [62, 63] ∧ armErr (scopeSet (pair .idle) 63 true) 63 = 0 ∧
    ∀ q ∈ consort (scopeSet (pair .idle) 63 true) 63, (rsOf (scopeSet (pair .idle) 63 true) q).busy = false := by decide +kernel

theorem test_meets_RunCommand_ignored : mayWrite (bound 0 .stopping) .mp .pol 63 0x040 = true ∧
    rsOf (scopeSet (bound 0 .stopping) 63 false) 63 = .stopping ∧
    isSet (scopeSet (bound 0 .stopping) 63 false) F.POL_STATE_BENCHED 63 = false ∧
    mayWrite up .mp .pol 63 0x040 = true ∧ rsOf (scopeSet up 63 false) 63 = .off ∧
    rsOf (scopeSet (bound 0 .paused) 63 false) 63 = .paused := by decide +kernel

/-- RunCommand: a RUN that passes while member 62 runs. -/
theorem test_meets_RunCommand_busy :
    let s : State := but (pairBound .running) [(F.POL_STATE_RSTATE, 63, RS.code .idle)]
    let z : State := scopeSet s 63 true
    mayWrite s .mp .pol 63 0x040 = true ∧ getF s F.POL_RUNCTL_RUN 63 = 0 ∧ rsOf z 63 = .idle ∧ armErr z 63 = 0 ∧
    62 ∈ consort z 63 ∧ (rsOf z 62).busy = true := by decide +kernel

/-- StopAndBench: while armed, while running, nothing to stop; one member of a consort. -/
theorem test_meets_StopAndBench :
    let z (r : RS) : State := scopeSet (bound 0 r) 63 false
    mayWrite (bound 0 .armed) .mp .pol 63 0x040 = true ∧ getF (bound 0 .armed) F.POL_RUNCTL_STOP 63 = 0 ∧
    getF (bound 0 .armed) F.POL_RUNCTL_ABORT 63 = 0 ∧ (consort (z .armed) 63).length = 1 ∧
    bindOf (z .armed) 63 = some 0 ∧
    (∃ q ∈ (active (z .armed) 63).filter (fun q => (rsOf (z .armed) q).busy), rsOf (z .armed) q ≠ .stopping) ∧
    (∀ q ∈ bndMem (z .armed) 0, rsOf (z .armed) q = .armed) ∧
    (∃ q ∈ bndMem (z .running) 0, rsOf (z .running) q ≠ .armed) ∧
    (active (scopeSet (formed .idle) 63 false) 63).filter (fun q => (rsOf (scopeSet (formed .idle) 63 false) q).busy) = [] := by
  decide +kernel

/-- StopAndBench: members that stop already, with a restart pending and without. -/
theorem test_meets_StopAndBench_restart :
    let s (r : Nat) : State := but (bound 0 .stopping) [(F.POL_STATE_RESTART_PENDING, 63, r)]
    let act (r : Nat) : List Nat := (active (scopeSet (s r) 63 false) 63).filter (fun q => (rsOf (scopeSet (s r) 63 false) q).busy)
    mayWrite (s 1) .mp .pol 63 0x040 = true ∧ act 0 = [63] ∧ act 1 = [63] ∧ rsOf (scopeSet (s 1) 63 false) 63 = .stopping ∧
    isSet (scopeSet (s 0) 63 false) F.POL_STATE_RESTART_PENDING 63 = false ∧
    isSet (scopeSet (s 1) 63 false) F.POL_STATE_RESTART_PENDING 63 = true := by decide +kernel

theorem test_meets_StopAndBench_member :
    let z (r : RS) : State := scopeSet (pairBound r) 63 false
    mayWrite (pairBound .armed) .mp .pol 63 0x040 = true ∧ 2 ≤ (consort (z .armed) 63).length ∧
    isSet (z .armed) F.POL_STATE_BENCHED 63 = false ∧ rsOf (z .armed) 63 = .armed ∧ rsOf (z .running) 63 = .running ∧
    getF (pairBound .armed) F.POL_RUNCTL_STOP 63 = 0 ∧ getF (pairBound .armed) F.POL_RUNCTL_ABORT 63 = 0 := by decide +kernel

theorem test_meets_PauseAndResume :
    let z (r : RS) : State := scopeSet (bound 16 r) 63 false
    let full (n : Nat) : State := setBnd (sets [(F.MEM_VBASE_HI_BASE 16, 0, 4), (F.MEM_VLIMIT_HI_LIM 16, 0, 4),
      (F.MEM_VLIMIT_LO_LIM 16, 0, 1)] (z .paused)) 16 { noct := 1, lead := n }
    mayWrite (bound 16 .running) .mp .pol 63 0x040 = true ∧ getF (bound 16 .running) F.POL_RUNCTL_PAUSE 63 = 0 ∧
    getF (bound 16 .running) F.POL_RUNCTL_RESUME 63 = 0 ∧ bindOf (z .running) 63 = some 16 ∧
    (∀ q ∈ bndMem (z .running) 16, rsOf (z .running) q = .running) ∧ (∃ q ∈ bndMem (z .paused) 16, rsOf (z .paused) q ≠ .running) ∧
    guardWords (full 65535) 16 ≤ leadOf (full 65535) 16 ∧ leadOf (full 0) 16 < guardWords (full 0) 16 ∧
    leadOf (full 0) 16 < spanLeft (full 0) 16 ∧ (∀ q ∈ bndMem (full 0) 16, rsOf (full 0) q = .paused) ∧
    (consort (scopeSet (pair .running) 63 false) 63).length = 2 := by decide +kernel

theorem test_meets_DikeAndRelease :
    let z : State := scopeSet (formed .idle) 63 true
    let d : State := scopeSet (formed .dike) 63 true
    let r : State := setPol (formed .dike) 63 { releasing := true }
    mayWrite (formed .idle) .mp .pol 63 0x040 = true ∧ (consort z 63).filter (dikeable z) ≠ [] ∧
    (consort (scopeSet up 63 true) 63).filter (dikeable (scopeSet up 63 true)) = [] ∧
    (consort d 63).filter (fun q => rsOf d q == .dike) ≠ [] ∧ releasable d 63 = true ∧
    releasable (but d [(F.FLT_STATE_EMBANK, 0, 1)]) 63 = false ∧ rsOf r 63 = .dike ∧ (polOf r 63).releasing = true := by
  decide +kernel

/-- A sequencer whose first entry has one word. -/
def seqAt (r : RS) : State :=
  let s := sets [(F.SEQ_TRANGE_TLIMIT 0, 0, 7), (F.MEM_VBASE_HI_BASE 0, 0, 4), (F.MEM_VLIMIT_HI_LIM 0, 0, 5)] (bound 0 r)
  setWide s .seq 0 1 0 (BitVec.ofNat 192 (2 ^ 34))

theorem test_meets_BindingStartsAndEnds :
    let a : State := setBnd (seqAt .armed) 0 { noct := 1, goto := some (0, 0), lead := 65535 }
    let b : State := setBnd (bound 0 .armed) 0 { noct := 1, goto := some (1, 0), lead := 65535 }
    reserved a 0 = true ∧ bndMem a 0 = [63] ∧ rsOf a 63 = .armed ∧ startMet a 0 = true ∧ entryStop a 0 0 = none ∧
    startMet b 0 = true ∧ entryStop b 0 1 ≠ none := by decide +kernel

theorem test_meets_BindingStartsAndEnds_pause :
    let r : State := setBnd (bound 16 .running) 16 { noct := 1, due := some true }
    let p : State := setBnd (sets [(F.MEM_VLIMIT_HI_LIM 16, 0, 1), (F.MEM_PFCFG_AUTORES 16, 0, 1), (F.POL_STATE_PAUSE_CAUSE, 63, 2)]
      (bound 16 .paused)) 16 { noct := 1, lead := 65536 }
    (bndOf r 16).due = some true ∧ (∀ q ∈ bndMem r 16, rsOf r q = .running ∧ played r q (bndOf r 16).vstart = true) ∧
    bndPaused p 16 = true ∧ (∀ q ∈ bndMem p 16, getF p F.POL_STATE_PAUSE_CAUSE q = 2) ∧
    isSet p (F.MEM_PFCFG_AUTORES 16) 0 = true ∧ leadFull p 16 = true := by decide +kernel

theorem test_meets_BindingStartsAndEnds_ends :
    let s : State := pairBound .stopping
    let b : State := but (bound 0 .running) [(F.POL_STATE_BENCHED, 63, 1)]
    rsOf s 63 = .stopping ∧ stopGroup s 63 = [62, 63] ∧ (∀ q ∈ stopGroup s 63, settled s q = true) ∧
    (∃ r ∈ stopGroup (but s [(F.POL_STATE_RESTART_PENDING, 62, 1)]) 63,
      isSet (but s [(F.POL_STATE_RESTART_PENDING, 62, 1)]) F.POL_STATE_RESTART_PENDING r = true) ∧
    isSet b F.POL_STATE_BENCHED 63 = true ∧ rsOf b 63 = .running ∧ settled b 63 = true := by decide +kernel

theorem test_meets_FailAndMaskActions :
    let s : State := setPol (bound 0 .running) 63 { bind := some 0, sof := true }
    let m (k : Nat) : State := setAcq (but s [(F.ACQ_MASKCFG_MASKACT, 63, k)]) 63 { maskPend := some 9 }
    let r : State := setPol up 63 { reclaim := true }
    (polOf s 63).sof = true ∧ (polOf up 63).sof = false ∧ (acqOf (m 1) 63).maskPend ≠ none ∧ (acqOf (m 2) 63).maskPend ≠ none ∧
    (acqOf up 63).maskPend = none ∧ getF (m 1) F.ACQ_MASKCFG_MASKACT 63 = 1 ∧ getF (m 2) F.ACQ_MASKCFG_MASKACT 63 = 2 ∧
    (polOf r 63).reclaim = true ∧ (polOf up 63).reclaim = false ∧ acqEn r 63 = false := by decide +kernel

/-- R96, R249, R271: STOP_ON_FAIL and MASK_ACTION stop the polder, in a consort with SOF_MODE 2 the polder alone is benched;
RECLAIM_DONE counts. -/
theorem test_stop_on_fail :
    let s : State := setPol (bound 0 .running) 63 { bind := some 0, sof := true }
    let b : State := but (setPol (pairBound .running) 63 { bind := some 0, sof := true }) [(F.POL_FAILCFG_SOF_MODE, 63, 2)]
    rsOf (nx (exec (.stopOnFail 63) s)) 63 = .stopping ∧ rsOf (nx (exec (.stopOnFail 63) b)) 62 = .running ∧
    isSet (nx (exec (.stopOnFail 63) b)) F.POL_STATE_BENCHED 63 = true := by decide +kernel
theorem test_mask_action :
    let s (k : Nat) : State := setAcq (but (bound 0 .running) [(F.ACQ_MASKCFG_MASKACT, 63, k)]) 63 { maskPend := some 9 }
    rsOf (nx (exec (.maskAction 63) (s 2))) 63 = .stopping ∧ rsOf (nx (exec (.maskAction 63) (s 1))) 63 = .running := by decide +kernel
theorem test_reclaim_done :
    getF (nx (exec (.reclaimDone 63) (setPol up 63 { reclaim := true }))) F.SLU_RECLAIMCNT_N 0 = 1 := by decide +kernel

/-! Sequencers. -/

theorem test_meets_SegmentIssue :
    let s : State := seqAt .running
    let i : State := setBnd s 0 { noct := 1, started := true, lead := 9 }
    let g (n : Nat) : State := setBnd s 0 { noct := 1, started := true, lead := 9, goto := some (n, 0) }
    reserved s 0 = true ∧ inRange s 0 0 = true ∧ 0 ∈ wanted s (entryOf s 0) ∧ 0 ∉ (bndOf s 0).ready ∧
    mayIssue i 0 = true ∧ (bndOf i 0).goto = none ∧ (bndOf i 0).since = none ∧
    mayIssue (g 0) 0 = true ∧ entryStop (g 0) 0 0 = none ∧ entryStop (g 32767) 0 32767 = some 5 ∧ 32767 < 2 ^ 15 := by decide +kernel

theorem test_meets_SegmentIssue_word :
    let s : State := setBnd (seqAt .running) 0
      { noct := 1, started := true, lead := 9 }
    issueStop s 0 0 (compact s (bndAnchor s 0) 0) = none := by decide +kernel

theorem test_meets_LatchesAndCrc :
    let c : State := but up [(F.MCE_ENGCTL_CHECK, 3, 1), (F.MCE_CSLEN_N, 3, 1)]
    let ok : State := but c [(F.MCE_CSCRC_CRC, 3, (csCrc c 3).toNat)]
    mayWrite up .mp .seq 15 0x040 = true ∧ mayWrite up .mp .mce 3 0x040 = true ∧ getF up F.MCE_ENGCTL_CHECK 3 = 0 ∧
    getB up 15 F.SEQ_SEQCTL_LCLR F.MCE_ENGCTL_LCLR = 0 ∧ getB up 19 F.SEQ_SEQCTL_LCLR F.MCE_ENGCTL_LCLR = 0 ∧
    getF ok F.MCE_ENGCTL_CHECK 3 = 1 ∧ (csCrc ok 3).toNat = getF ok F.MCE_CSCRC_CRC 3 ∧
    (csCrc c 3).toNat ≠ getF c F.MCE_CSCRC_CRC 3 := by decide +kernel

/-! Engines. -/

/-- Engine 3 issues; its binding may fetch all of DRAM up to 0x5_0000_0000. -/
def engBnd : Bnd := { noct := 1, started := true, lead := 9 }
def eng : State := setBnd (sets [(F.MEM_VBASE_HI_BASE 19, 0, 4), (F.MEM_VLIMIT_HI_LIM 19, 0, 5), (F.MCE_CSLEN_N, 3, 16384)]
  (bound 19 .running)) 19 engBnd

/-- Engine 3 with a binding of its own. -/
def engWith (x : Bnd) : State := setBnd eng 19 x

def lv : LoopLv := { start := 1, cnt := 7, va := 5, restore := true }

/-- The engine states below go on at once: no word that has issued waits for its end. -/
theorem test_meets_EngineCountersAndBegins :
    let s : State := engWith { engBnd with loops := List.replicate 7 lv }
    engReady (cycle eng) 3 = some eng ∧ engReady (cycle s) 3 = some s ∧ (bndOf s 19).loops.length < 8 := by decide +kernel

/-- EngineLoopTest: counts 0, 1 and 2. -/
theorem test_meets_EngineLoopTest :
    let s (c : Nat) : State := but (engWith { engBnd with loops := [lv] }) [(F.MCE_CNT_C 7, 3, c)]
    (∀ c < 3, engReady (cycle (s c)) 3 = some (s c)) ∧ (bndOf (s 0) 19).loops = [] ++ [lv] ∧ getF (s 0) (F.MCE_CNT_C 7) 3 = 0 ∧
    getF (s 1) (F.MCE_CNT_C 7) 3 = 1 ∧ getF (s 2) (F.MCE_CNT_C 7) 3 ≠ 1 := by decide +kernel

theorem test_meets_EngineStacksAndStops :
    let s (l k : Nat) : State := engWith { engBnd with loops := List.replicate l lv, calls := List.replicate k (3, 4) }
    let bad : State := setWide eng .mce 3 1 0 1
    engReady (cycle (s 1 15)) 3 = some (s 1 15) ∧ (bndOf (s 1 15) 19).loops = [] ++ [lv] ∧ (bndOf (s 1 15) 19).calls.length < 16 ∧
    (bndOf (s 0 1) 19).calls = [] ++ [(3, 4)] ∧ (bndOf (s 8 16) 19).loops.length = 8 ∧ (bndOf (s 8 16) 19).calls.length = 16 ∧
    (bndOf (s 0 0) 19).loops = [] ∧ (bndOf (s 0 0) 19).calls = [] ∧ engReady (cycle (s 8 16)) 3 = some (s 8 16) ∧
    engReady (cycle (s 0 0)) 3 = some (s 0 0) ∧ engReady (cycle bad) 3 = some bad ∧
    (bndOf eng 19).first = true ∧ csLen (but eng [(F.MCE_CSLEN_N, 3, 5), (F.MCE_STATE_UPC, 3, 5)]) 3 ≤
      engUpc (but eng [(F.MCE_CSLEN_N, 3, 5), (F.MCE_STATE_UPC, 3, 5)]) 3 ∧
    engUpc bad 3 < csLen bad 3 ∧ mwParityOk (mword bad 3 (engUpc bad 3)) = false := by decide +kernel

/-- EngineBranches: FAIL_ANY (code 17), a latch, supplies a 1. -/
theorem test_meets_EngineBranches :
    let s : State := but eng [(F.MCE_CDM2_M, 3, 17 * 2 ^ 15), (F.MCE_COND_FAIL_ANY, 3, 1)]
    engReady (cycle s) 3 = some s ∧ cdm s 3 15 = 17 ∧ engCond s 3 17 = true ∧ isLatch s 3 17 = true ∧
    engCond s 3 (cdm s 3 0) = false := by
  decide +kernel

theorem test_meets_EngineFlagsEventsGates : engReady (cycle eng) 3 = some eng ∧ bndMem eng 19 = [63] ∧ getFlag eng 3 0 = false ∧
    getFlag (but eng [(F.MCE_COND_FLAGS, 3, 1)]) 3 0 = true ∧ (acqOf eng 63).gate = none ∧
    (acqOf (setAcq eng 63 { gate := some 7 }) 63).gate = some 7 := by decide +kernel

/-- EngineTrigMark: a unit that waits, its fill over, and one that is OFF. -/
theorem test_meets_EngineTrigMark :
    let s : State := but eng [(F.ACQ_ACQCTL_EN, 63, 1), (F.ACQ_ACQCTL_STRIG, 63, 1), (F.ACQ_ACQCTL_MODE, 63, 2)]
    let w : State := setAcq (but s [(F.ACQ_STATE_ASTATE, 63, 3)]) 63 { runS := some 0, arm := 4096 }
    let e : State := setAcq w 63 { runS := some 0, arm := 4096, endS := some 5000 }
    engReady (cycle s) 3 = some s ∧ engReady (cycle w) 3 = some w ∧ bndMem s 19 = [63] ∧ getF s F.ACQ_ACQCTL_EN 63 = 1 ∧
    getF s F.ACQ_ACQCTL_STRIG 63 = 1 ∧
    getF s F.ACQ_ACQCTL_MODE 63 ∈ [0, 2] ∧ waiting w 63 = true ∧ earlier 4096 (fillEnd w 63) = false ∧
    earlier 4095 (fillEnd w 63) = true ∧ waiting s 63 = false ∧ beforeEnd (acqOf w 63) 4096 = true ∧
    beforeEnd (acqOf e 63) 4999 = true ∧
    beforeEnd (acqOf e 63) 5000 = false := by decide +kernel

/-- EngineVectorAddress: a word of each VOP issues. -/
theorem test_meets_EngineVectorAddress :
    let s : State := engWith { engBnd with pins := [spanAt eng 19 0 2 false] }
    engReady (cycle s) 3 = some s ∧ (bndOf s 19).since = none ∧
    (∀ x ∈ [(0, 0), (1, 0), (2, 0), (3, 0), (4, 0), (5, 1), (6, 0)], wordIssues s 3 x.1 x.2 0 = true) ∧
    unsign ((engVa s 3 : Int) + signed 1 18) 40 = 1 ∧ vtt s 3 0 + getF s (F.MCE_CNT_C 0) 3 = 0 := by decide +kernel

/-- EngineMicroword: no wait; a wait for flag F3 (code 31) that goes on, ends, times out in its second cycle (its parity bits 153 and
154 set). -/
theorem test_meets_EngineMicroword :
    let w (t : Nat) : BitVec 192 := BitVec.ofNat 192 (31 * 2 ^ 33 + t * 2 ^ 39 + 2 ^ 153 + t * 2 ^ 154)
    let s (t n : Nat) : State := setWide (engWith { engBnd with first := decide (n = 0), waitN := n }) .mce 3 1 0 (w t)
    let f : State := but (s 0 0) [(F.MCE_COND_FLAGS, 3, 8)]
    let ok (s : State) : Prop := engReady (cycle s) 3 = some s ∧ (bndOf s 19).since = none ∧ wordFault s 3 = none ∧
      mwLop (mword s 3 0) = 0 ∧ mwBmode (mword s 3 0) = 0 ∧ mwFlg (mword s 3 0) ≠ 13 ∧ engUpc s 3 = 0 ∧
      wordIssues s 3 (mwVop (mword s 3 0)) (vopDo s 3 (mwVop (mword s 3 0)) (mwImm (mword s 3 0)) (mwLsel (mword s 3 0))).1
        (mwTset (mword s 3 0)) = true
    (ok eng ∧ waitEnd eng 3 (mword eng 3 0) = .done) ∧ mwWsel (mword (s 0 0) 3 0) = 31 ∧
    (ok (s 0 0) ∧ waitEnd (s 0 0) 3 (mword (s 0 0) 3 0) = .more) ∧ (ok f ∧ waitEnd f 3 (mword f 3 0) = .done) ∧
    (ok (s 1 0) ∧ waitEnd (s 1 0) 3 (mword (s 1 0) 3 0) = .more) ∧
    (ok (s 1 1) ∧ waitEnd (s 1 1) 3 (mword (s 1 1) 3 0) = .timeout) := by
  decide +kernel

/-- EngineMicroword: a word with a parity error that a stop keeps from executing. -/
theorem test_meets_EngineMicroword_parity :
    let s : State := setRs (setWide eng .mce 3 1 0 1) 63 .stopping
    engReady (cycle s) 3 = none ∧ reserved s 19 = true ∧ bndMem s 19 = [63] ∧ rsOf s 63 = .stopping ∧ (bndOf s 19).first = true ∧
    wordFault s 3 = some 4 := by decide +kernel

/-! Pins. -/

/-- Channel 511 of octet 63, owned by polder 63 and compared. -/
def pins (x : Chan) : State :=
  setChan (sets [(F.OCT_STATE_OWNED, 63, 1), (F.OCT_STATE_OWNER, 63, 63), (F.OCT_STATE_PSTATE, 63, 2), (F.OCT_CHCFG_CMPEN 7, 63, 1)] up)
    511 x

def ref0 : VecRef := { vwi := 0, vec := 0, start := 0 }
def ref1 : VecRef := { vwi := 0, vec := 1, start := 4096 }

/-- Pins: an edge dropped for one 1,023 fine units before, one in time; a strobe; a drive delayed. -/
theorem test_meets_Pins :
    let e (t : Stamp) (a : Act) : Edge := { t := t, act := a, ref := ref1 }
    let d : Chan := { edges := [e 5119 (.drive .high)], lastEff := [(.drive .high, 4096, ref0)], lastDrive := some (.low, 5000) }
    let s : Chan := { edges := [e 5120 (.strobe .high)] }
    (chanOf (pins d) 511).park = none ∧ (chanOf (pins d) 511).edges = e 5119 (.drive .high) :: [] ∧
    dropped d (e 5119 (.drive .high)) = true ∧ dropped d (e 5120 (.drive .high)) = false ∧
    earlier 5120 ((5000 : Stamp) + BitVec.ofNat 64 (minPulse (pins d) 511)) = true ∧
    dropped s (e 5120 (.strobe .high)) = false ∧ owner (pins s) (511 / 8) = some 63 ∧ (polOf (pins s) 63).fails = [] ∧
    judged (pins s) 511 = true ∧ fails (pins s) 511 .high = true := by decide +kernel

/-- Pins: a clamp on a die that is not isolated; channel dies before BOOT 1, before the first lock and after it; rails in range and
out of range. -/
theorem test_meets_Pins_conditions : isoDie up 7 = false ∧ pstate (pins {}) 511 ≠ 0 ∧ getF up F.DEV_STATE_BOOT 0 ≠ 0 ∧
    up.clk.first = true ∧
    getF State.reset F.DEV_STATE_BOOT 0 = 0 ∧ ({ up with clk := {} } : State).clk.first = false ∧ railsBad up 63 = false ∧
    railsBad (but up [(F.HKP_X2_OOR 7, 0, 1)]) 63 = true := by decide +kernel

/-! The parametric unit. -/

/-- Polder 63 in IDLE; channel 7 of octet 0 is enabled and connected in mode `m`, range 1, and in state `x`. -/
def pmu (m : Nat) (x : Chan) : State :=
  setChan (sets [(F.OCT_X2_PMUCFG_PMUEN 7, 0, 1), (F.OCT_X2_PMUCFG_CONNECT 7, 0, 1), (F.OCT_X2_PMUCFG_MODE 7, 0, m),
    (F.OCT_X2_PMUCFG_IRANGE 7, 0, 1), (F.POL_PMUCFG_BURSTN, 63, 1)] (formed .idle)) 7 x

theorem test_meets_PmuConversions :
    let s : State := pmu 1 {}
    let b : State := pmu 1 { conv := some { t0 := 9 } }
    let d (t : Nat) : State := setPol s 63 { trigs := [{ t0 := BitVec.ofNat 64 t, act := .burst 3, n := 2 }], opN := 2 }
    (∀ t ∈ [1, 2], ∀ p < 64, ∀ y ∈ (polOf (d t) p).trigs, earlier y.t0 (now (d t) + 1) = false) ∧
    ({ t0 := 1, act := .burst 3 } : Trig).isBurst = true ∧ ({ t0 := 1, act := .stop } : Trig).isBurst = false ∧
    (chanOf (pmu 1 { conv := some { t0 := 9 }, burst := some none }) 7).burst.isSome = true ∧
    mayWrite s .mp .pol 63 0x0C0 = true ∧ (pmuChans s 63).filter (canConvert s) = [7] ∧
    getF s F.POL_PMUCTL_CONV 63 = 0 ∧ getF s F.POL_PMUCTL_BURST 63 = 0 ∧ getF s F.POL_PMUCTL_BURST_STOP 63 = 0 ∧
    busyConv s 7 = false ∧ (chanOf s 7).rangeOld = none ∧ (pmuChans b 63).filter (canConvert b) = [7] ∧ busyConv b 7 = true ∧
    getF b F.POL_PMUCTL_CONV 63 = 0 := by decide +kernel

/-- `noneDue` holds where no orders wait, and of an order stamped at the tick itself. -/
theorem test_meets_noneDue : noneDue (pmu 1 {}) (now (pmu 1 {}) + 1) ∧
    noneDue (setPol (pmu 1 {}) 63 { trigs := [{ t0 := 1, act := .conv }] }) 1 := by
  unfold noneDue
  decide +kernel

theorem test_meets_PmuResults :
    let l : State := pmu 1 { conv := some { t0 := 9 } }
    let u (n : Nat) : State := pmu 1 { conv := some { t0 := 9, latched := true, burst := true }, burst := some (some n) }
    (polOf l 63).trigs = [] ∧ latching l 63 9 false = [(7, 7)] ∧ latching l 63 9 true = [] ∧ (chanOf l 7).conv = some { t0 := 9 } ∧
    (chanOf l 7).burst = none ∧ (polOf (u 1) 63).trigs = [] ∧ 7 ∈ chansOf (u 1) 63 ∧
    (chanOf (u 1) 7).conv = some { t0 := 9, latched := true, burst := true } ∧ (chanOf (u 0) 7).burst = some (some 0) ∧
    (chanOf (u 1) 7).ops = [] ∧ (chanOf (u 1) 7).rangeOld = none ∧ pmuEn (u 1) 7 = true ∧ canConvert (u 1) 7 = true ∧
    (chanOf (u 1) 7).burst = some (some (0 + 1)) := by decide +kernel

theorem test_meets_PmuOperations :
    let claims (n : Nat) : State := but (pmu 1 {}) [(F.OCT_X2_CLAIM_I 0, 1, n), (F.OCT_X2_PMUCFG_CONNECT 7, 0, 0)]
    let sum (n : Nat) : Nat := dieClaims (claims n) 0 - getClaim (claims n) 7 + newClaim (claims n) (opNew (claims n) 7 .on)
    mayWrite (claims 0) .mp .pol 63 0x0C0 = true ∧ pmuChans (claims 0) 63 = [7] ∧ (polOf (claims 0) 63).trigs = [] ∧
    getF (claims 0) F.POL_PMUCTL_FORCE_ON 63 = 0 ∧
    getF (claims 0) F.POL_PMUCTL_FORCE_OFF 63 = 0 ∧ getF (claims 0) F.POL_PMUCTL_APPLY 63 = 0 ∧ sum 399980 = 400000 ∧
    getClaim (claims 399981) 7 < newClaim (claims 399981) (opNew (claims 399981) 7 .on) ∧ 400000 < sum 399981 ∧
    (chanOf (claims 0) 7).conv = none ∧ (chanOf (pmu 1 { conv := some { t0 := 9 } }) 7).conv ≠ none := by decide +kernel

theorem test_meets_PmuSettings :
    let on : State := but (pmu 1 {}) [(F.OCT_X2_CLAIM_I 7, 0, 200)]
    let rc : State := but (pmu 1 { reconnect := true }) [(F.OCT_X2_CLAIM_I 7, 0, 20)]
    let off : State := but (pmu 1 {}) [(F.OCT_X2_PMUCFG_CONNECT 7, 0, 0)]
    let r : State := but (pmu 1 { rangeOld := some (2, 200), waitConv := some { t0 := 3, defer := true } }) []
    mayWrite on .mp .oct 0 0x030 = true ∧ mayWrite on .mp .oct 0 0x034 = true ∧ postedOf on .oct 0 = [] ∧
    (chanOf on 7).rangeOld = none ∧ (chanOf on 7).ops = [] ∧ (chanOf on 7).conv = none ∧ owner on 0 = some 63 ∧
    (polOf on 63).trigs = [] ∧ pmuConn on 7 = true ∧ pmuConn off 7 = false ∧
    newClaim on { pmuNow on 7 with mode := 3 } ≤ getClaim on 7 ∧ newClaim on { pmuNow on 7 with range := 2 } ≤ getClaim on 7 ∧
    newClaim on { pmuNow on 7 with code := 0 } ≤ getClaim on 7 ∧ (pmuNow on 7).mode ≠ 3 ∧ (pmuNow on 7).range ≠ 2 ∧
    (chanOf rc 7).reconnect = true ∧ pmuConn rc 7 = true ∧ newClaim rc (pmuNow rc 7) ≤ getClaim rc 7 ∧ (polOf rc 63).trigs = [] ∧
    (chanOf r 7).rangeOld = some (2, 200) ∧ (chanOf r 7).waitConv = some { t0 := 3, defer := true } := by decide +kernel

/-! Levels, supplies and their queues. -/

/-- LevelEntries: also a polder with its octet on an isolated die. -/
theorem test_meets_LevelEntries : isoDie (but (formed .idle) [(F.FLT_STATE_ISO, 0, 1)]) (7 / 64) = true ∧
    isoDie (formed .idle) (7 / 64) = false ∧
    rsOf (formed .idle) 63 ≠ .off ∧ chansOf (formed .idle) 63 = [0, 1, 2, 3, 4, 5, 6, 7] ∧ (queueOf (formed .idle) 63).susp = false ∧
    (queueOf (formed .idle) 63).gain = false ∧
    (chansOf (formed .idle) 63)[(7 : BitVec 9).toNat]? = some 7 ∧ (chansOf (formed .idle) 63)[(8 : BitVec 9).toNat]? = none := by
  decide +kernel

/-- Controller 31 is owned by polder 63 and ON. -/
def dsOn : State := sets [(F.DSC_QSTAT_OWNED 7, 3, 1), (F.DSC_QSTAT_OWNER 7, 3, 63), (F.DSC_QSTAT_ON 7, 3, 1),
    (F.DSC_VMAX_CODE 7, 3, 100)] up

theorem test_meets_SupplyEntriesAndEvents : (queueOf dsOn 95).susp = false ∧ (queueOf dsOn 95).gain = false ∧
    (200 : BitVec 16).toNat ≤ 2 * getF dsOn (F.DSC_VMAX_CODE 7) 3 ∧ 2 * getF dsOn (F.DSC_VMAX_CODE 7) 3 < (201 : BitVec 16).toNat ∧
    isSet dsOn (F.DSC_QSTAT_ON 7) 3 = true ∧ (dsOf (setDs dsOn 31 { held := true }) 31).held = true ∧ isoDie dsOn 7 = false ∧
    (dsOf (setDs dsOn 31 { ramp := true }) 31).ramp = true ∧
    (dsOwner dsOn 31).isSome = true ∧ getF (but dsOn [(F.DSC_DSCFG_FRAMP 7, 3, 1)]) (F.DSC_DSCFG_FRAMP 7) 3 ≠ 0 := by decide +kernel

theorem test_meets_QueueTicksAndPushes :
    let s (q : DacQ) : State := setQueue (setQueue dsOn 95 q) 63 q
    (queueOf (s { susp := true }) 95).susp = true ∧ (queueOf (s { cont := true }) 95).cont = true ∧
    (queueOf (s { cont := true }) 95).entries = [] ∧ (queueOf (s { entries := [0], gain := true }) 95).entries = 0 :: [] ∧
    (queueOf (s { entries := [0], gain := true }) 95).gain = true ∧ mayWrite dsOn .mp .dsc 3 (F.DSC_DSCFG_DIV 7).off = true ∧
    mayWrite dsOn .mp .dsc 3 (F.DSC_QPUSH_HI_E 7).off = true ∧ queueLive (s { entries := List.replicate 255 0 }) 95 = true ∧
    (queueOf (s { entries := List.replicate 255 0 }) 95).entries.length < 256 ∧
    mayWrite (formed .idle) .mp .pol 63 F.POL_LQPUSH_HI_E.off = true ∧ queueLive (formed .idle) 63 = true ∧
    mayWrite (formed .idle) .mp .pol 63 F.POL_LQCFG_DIV.off = true := by decide +kernel

theorem test_meets_FullQueueDiscards :
    let s : State := setQueue (formed .idle) 63 { entries := List.replicate 256 0 }
    queueLive s 63 = true ∧ 256 ≤ (queueOf s 63).entries.length ∧ mayWrite s .mp .pol 63 F.POL_LQPUSH_HI_E.off = true := by
  decide +kernel

/-! Timing, maps, vector memory. -/

theorem test_meets_TimingCommands :
    let s : State := setDie up 7 { inited := true, selfcal := true, calOcts := [63] }
    mayWrite (formed .idle) .mp .pol 63 0x110 = true ∧ polBusy (formed .idle) 63 = false ∧ getF (formed .idle) F.POL_TSCTL_CLR 63 = 0 ∧
    mayWrite up .mp .cdi 7 0x090 = true ∧ getF up F.CDI_CALCTL_SELFCAL 7 = 0 ∧ (dieOf s 7).selfcal = true ∧
    511 / 8 ∈ (dieOf s 7).calOcts := by decide +kernel

theorem test_meets_PolderMaps : polBusy up 63 = false ∧ lockBit up .pol 63 0 = false ∧ up.otp.lc ≠ 3 ∧
    mayWrite up .mp .pol 63 0x044 = true ∧ mayWrite up .mp .pol 63 0x048 = true ∧ mayWrite up .mp .pol 63 0x04C = true ∧
    rsOf up 63 = .off ∧ rsOf (formed .dike) 63 ≠ .off ∧ polBusy (formed .dike) 63 = false ∧ owner (formed .dike) 0 = some 63 := by
  decide +kernel

theorem test_meets_VectorMemoryCommands :
    let p (n : Nat) : State := but (formed .idle) [(F.MEM_VBASE_HI_BASE 0, 0, 4), (F.MEM_CWIN_N 0, 0, 1), (F.MEM_PRE_LEN_N 0, 0, n)]
    let u (n : Nat) : State := setBnd (p n) 0 { noct := 1 }
    let x (n : Nat) : Span := spanAt (u n) 0 0 n false
    reserved eng 19 = true ∧ isSet eng F.FLT_STATE_EMBANK 0 = false ∧ mayWrite (p 0) .mp .mem 0 0x134 = true ∧
    reserved (p 0) 0 = false ∧
    getF (p 0) (F.MEM_PRE_VA_HI_GO 0) 0 = 0 ∧ getF (p 0) (F.MEM_PRE_LEN_N 0) 0 = 0 ∧
    (x 0).len = 0 ∧ (x 1).len ≠ 0 ∧ (x 16384).lines ≤ 4096 * 1 - ((spans (p 16384) 0).map Span.lines).sum ∧
    4096 * 1 - ((spans (p 16385) 0).map Span.lines).sum < (x 16385).lines ∧ (octsOf (p 1) (anchor (p 1) 63)).length = 1 ∧
    (List.range 64).find? (fun q => getF (p 1) F.POL_BIND_SEQSEL q == 0 && rsOf (p 1) q != .off) = some 63 ∧
    cwin (u 1) 0 = 1 ∧ 1 ≤ spareUnits (u 1) 0 / 64 ∧ (bndOf (setBnd up 0 { preload := some (x 3) }) 0).preload = some (x 3) := by
  decide +kernel

/-! Acquisition and the pool. -/

/-- The unit of polder 63 is enabled in mode `m` and waits. -/
def acq (m : Nat) (x : AcqU) : State :=
  setAcq (sets [(F.ACQ_ACQCTL_EN, 63, 1), (F.ACQ_ACQCTL_MODE, 63, m), (F.ACQ_SRCCFG_FRAME, 63, 0x40)] (formed .running)) 63 x

theorem test_meets_AcquisitionTimers :
    let s : State := but (acq 1 { runS := some 0 }) [(F.ACQ_STATE_ASTATE, 63, 3)]
    let e (t : Nat) : AcqU := { rcd := some ⟨9, 9, 99, 0⟩, endS := some (BitVec.ofNat 64 t) }
    beforeEnd (e 100) 99 = true ∧ beforeEnd (e 99) 99 = false ∧ (e 99).endS = some 99 ∧ beforeEnd (e 98) 99 = false ∧
    (e 98).endS ≠ some 99 ∧
    getF (but up [(F.ACQ_STATE_ASTATE, 63, 2)]) F.ACQ_STATE_ASTATE 63 = 2 ∧ waiting s 63 = true ∧ getF s F.ACQ_ACQCTL_MODE 63 = 1 ∧
    beforeEnd (acqOf s 63) (fillEnd s 63 + ticks (atoTicks s 63)) = true ∧
    (acqOf (acq 2 { rcd := some ⟨9, 9, 99, 0⟩ }) 63).rcd = some ⟨9, 9, 99, 0⟩ ∧ getF (acq 2 {}) F.ACQ_ACQCTL_MODE 63 = 2 ∧
    mayWrite (formed .idle) .mp .acq 63 0x040 = true ∧ polBusy (formed .idle) 63 = false ∧
    getF (formed .idle) F.ACQ_ACQCTL_EN 63 = 0 := by decide +kernel

/-- A SCOPE sample of octet 0 at tick 1: the first of its record, and the one that follows another. -/
theorem test_meets_AcquisitionTimers_scope :
    let s : State := acq 0 { runS := some 0 }
    let n : State := acq 0 { runS := some 0, scope := [(0, { start := 0, samples := List.replicate 382 0 })] }
    owner s 0 = some 63 ∧ 2 ≤ pstate s 0 ∧ admits s 63 3 1024 = true ∧ (1024 : Stamp).toNat % (1024 * 2 ^ scopeIv s 63) = 0 ∧
    (acqOf s 63).rcd = none ∧ (Store.get (acqOf s 63).scope {} 0).samples = [] ∧
    (Store.get (acqOf n 63).scope {} 0).samples.length < 383 ∧ scopeIv n 63 = 0 ∧ admits n 63 3 (382 * 1024) = true ∧
    (382 * 1024 : Stamp) = (0 : Stamp) + ticks ((Store.get (acqOf n 63).scope {} 0).samples.length * 2 ^ scopeIv n 63) := by
  decide +kernel

/-- A granule. -/
def gran (g : GState) : Gran := { idx := 5, gst := g, words := [1, 2] }

/-- PoolCommands: a stream that retains, one that fills, a Spillway that is on and off, a pointer inside the ring and at its end. -/
theorem test_meets_PoolCommands :
    let r : State := setStrm (but (acq 0 { runS := some 0 }) [(F.ACQ_SRCCFG_FRAME, 63, 0xC0)]) 255 { retained := [gran .retained] }
    let f : State := setStrm up 255 { fill := some (gran .filling) }
    let on : State := setWide up .slu 0 2 255 (BitVec.ofNat 192 (2 ^ 31))
    let off : State := setWide up .slu 0 2 255 1
    let ring : State := but up [(F.SLU_SPILLBASE_HI_BASE, 0, 4), (F.SLU_SPILLLIM_HI_LIM, 0, 4), (F.SLU_SPILLLIM_LO_LIM, 0, 2)]
    retaining r 255 = true ∧ ({ gran .filling with words := [] } : Gran).hasItem = false ∧ (strmOf f 255).fill = some (gran .filling) ∧
    retaining f 255 = false ∧
    cfgSpwEn on 255 = true ∧ cfgSpwEn off 255 = false ∧ mayWrite ring .mp .slu 0 0x064 = true ∧ mayWrite ring .mp .slu 0 0x068 = true ∧
    spillBase ring = 2 ^ 34 ∧ spillLim ring = 2 ^ 34 + 1024 := by decide +kernel

/-! Time measurement. -/

/-- Channel 7, of polder 63, with TDC `x`. -/
def tdc (x : Tdc) : State := setChan (formed .running) 7 { tdc := x }

/-- TimeMeasurement: the bounds of the calibration of R276; a window, a gate, a record that waits, a pair. -/
theorem test_meets_TimeMeasurement :
    let w (t : Stamp16) : PairWait := { start := true, chan := 6, arm := 1, t := t, iwin := 0, steps := 0, relock := false }
    let pr (l : List PairWait) : State := tdc { pairs := l }
    (chanOf (tdc { phase := .cal }) 7).tdc.phase = .cal ∧ (4 * 16384 ≤ 5 * (13108 : Int) ∧ 3 * (21845 : Int) ≤ 4 * 16384) ∧
    ¬ 4 * 16384 ≤ 5 * (13107 : Int) ∧ ¬ 3 * (21846 : Int) ≤ 4 * 16384 ∧
    (chanOf (tdc { phase := .armed, cls := 1, closeS := some 5 }) 7).tdc.closeS.isSome = true ∧
    (chanOf (tdc { gather := [(3, true)] }) 7).tdc.gather = (3, true) :: [] ∧
    (∀ k < 64, (chanOf (tdc { gather := [(3, true)] }) (64 * (7 / 64) + k)).tdc.fifo = []) ∧ owner (tdc {}) 0 = some 63 ∧
    (acqOf (tdc {}) 63).rcd = none ∧
    (chanOf (tdc { phase := .armed, cls := 2, n := 2 }) 7).tdc.cls = 2 ∧ chanOfT (pr []) 63 6 = some 6 ∧
    waitsOf (pr []) 63 6 = [] ∧ waitsOf (pr [w 16]) 63 6 = [(7, w 16)] ∧ waitsOf (pr [w 16, w 32]) 63 6 = [(7, w 16), (7, w 32)] ∧
    earlier (w 32).stop (w 16).stop = false ∧ earlier (w 16).stop (w 16).stop = false := by decide +kernel

/-! The router. -/

/-- An event of the comparator of channel 511, and of its upper monitor. -/
def evC : Ev := { src := 0x1FF, pol := true, stamp := 4096 }
def evM : Ev := { src := 0x5FE, pol := true, stamp := 4096 }

theorem test_meets_RouterDelivery :
    let s (b : Nat) : State := { up with rtr := { flight := [evC] }, bdn := BitVec.ofNat 64 b }
    (s 0).rtr.flight[0]? = some evC ∧
    earlier (tickOf (evC.stamp + holdH + 1023)) (now (reach (s 158) evC.stamp)) = false ∧
    earlier (tickOf (evC.stamp + holdH + 1023)) (now (reach (s 159) evC.stamp)) = true ∧ isMon 0x5FF = true ∧ isMon 0x1FF = false ∧
    isMon 0x61F = true ∧ isMon 0x620 = false := by decide +kernel

theorem test_meets_RouterDelivery_held :
    let s (h : Held) : State := but { up with rtr := { held := [h] } } [(F.EVR_HSCTL_EN, 0, 1)]
    let w : Pol := { mute := [(0, ⟨4096, 8192⟩)] }
    let m : State := setPol (sets [(F.OCT_STATE_OWNED, 63, 1), (F.OCT_STATE_OWNER, 63, 63), (F.OCT_X8_LVCFG_MUTE 7, 63, 1)]
      (s (.ev evM))) 63 w
    nextHeld (s (.ev evC)).rtr.held = some (.ev evC) ∧ closeOwed (s (.ev evC)) (heldT (.ev evC)) = false ∧
    nextHeld (s (.page 9 1 2 3)).rtr.held = some (.page 9 1 2 3) ∧ isSet (s (.page 9 1 2 3)) F.EVR_HSCTL_EN 0 = true ∧
    closeOwed (s (.page 9 1 2 3)) (heldT (.page 9 1 2 3)) = false ∧ orderedOf (s (.ev evC)) 0x1FF ≠ evC.pol ∧
    hostSelected (setWide (s (.ev evC)) .evr 0 1 15 (BitVec.ofNat 192 (2 ^ 31))) 0x1FF = true ∧
    (getF (s (.ev evC)) F.EVR_HSWR_IDX 0 + 1) % 4096 ≠ getF (s (.ev evC)) F.EVR_HSRD_IDX 0 ∧
    (getF (but (s (.ev evC)) [(F.EVR_HSRD_IDX, 0, 1)]) F.EVR_HSWR_IDX 0 + 1) % 4096 =
      getF (but (s (.ev evC)) [(F.EVR_HSRD_IDX, 0, 1)]) F.EVR_HSRD_IDX 0 ∧
    nextHeld m.rtr.held = some (.ev evM) ∧ closeOwed m (heldT (.ev evM)) = false ∧ isMon evM.src.toNat = true ∧
    mutedBy m 0x5FE 4096 = some 63 ∧ mutedBy m 0x5FE 8191 = some 63 ∧ mutedBy m 0x5FE 8192 = none := by decide +kernel

theorem test_meets_RouterSources :
    let s : State := setWide (sets [(F.OCT_STATE_PSTATE, 63, 2), (F.OCT_X8_LVCFG_ENH 7, 63, 1), (F.DSC_LVDS_EN 7, 3, 1)] dsOn) .evr 0 1
        47
      (BitVec.ofNat 192 (2 ^ 30))
    let live : State := { s with rtr := { live := [(0x5FE, true)] } }
    let c : State := setPol up 63 { mute := [(3, ⟨4096, 8192⟩)], frozen := [(0x5FE, some true)] }
    (chanOf s 511).levH ≠ true ∧ 2 ≤ pstate s 511 ∧ isSet s (F.OCT_X8_LVCFG_ENH (511 % 8)) (511 / 8) = true ∧
    subscribed s 0x5FE = true ∧ lastOf s 0x5FE = none ∧ fwdOf s 0x5FE ≠ true ∧ srcDie 0x5FE = some 7 ∧ isoDie s 7 = false ∧
    dieQueueLen s 7 < 1024 ∧ (dsOf s 31).lev ≠ true ∧ isSet s (F.DSC_QSTAT_ON (31 % 8)) (31 / 8) = true ∧
    isSet s (F.DSC_QSTAT_OWNED (31 % 8)) (31 / 8) = true ∧ isSet s (F.DSC_LVDS_EN (31 % 8)) (31 / 8) = true ∧
    subscribed live 0x5FE = true ∧ liveOf live 0x5FE ≠ fwdOf live 0x5FE ∧ srcDie evM.src.toNat = some 7 ∧
    dieQueueLen { s with rtr := { flight := List.replicate 1023 evM } } 7 < 1024 ∧
    1024 ≤ dieQueueLen { s with rtr := { flight := List.replicate 1024 evM } } 7 ∧ earlier 8192 8192 = false ∧
    firstClose c 63 3 = some 8192 ∧
    (0x5FE, some true) ∈ (polOf c 63).frozen ∧ stillMuted (setPol c 63 { polOf c 63 with mute := [] }) 63 0x5FE 8192 = false ∧
    promptOf c 0x5FE ≠ true ∧ mayWrite up .mp .evr 0 0x060 = true ∧ getF up F.EVR_HOSTEVT_GO 0 = 0 := by decide +kernel

/-! Clocks. -/

/-- MSTATE, the reference, REFSEL and the lock. -/
def clk (m ref sel lock : Nat) : State :=
  but up [(F.CLK_STATE_MSTATE, 0, m), (F.CLK_STATE_REFACT, 0, ref), (F.CLK_REFCFG_REFSEL, 0, sel), (F.CLK_COND_LOCKED, 0, lock)]

/-- ClockLock: each MSTATE, on the crystal and on BCLK, with and without lock; windows of 8 and 9, 16 and 17, 2 and 3; a dead
crystal. -/
theorem test_meets_ClockLock :
    let bad (s : State) : State := but s [(F.CLK_COND_XO_FAIL, 0, 1)]
    let got (s : State) : State := but s [(F.CLK_COND_BCLK_PRESENT, 0, 1), (F.CLK_STATE_BCLK_VALID, 0, 1)]
    let l (w : LockWindows) : List Nat := [w.d0, w.d1, w.d2, w.d3].map BitVec.toNat
    (isSet (clk 2 0 0 1) F.CLK_COND_XO_FAIL 0 = false ∧ locked (clk 2 0 0 1) = true ∧ onBclk (clk 2 0 0 1) = false ∧
      mstate (clk 2 0 0 1) = 2) ∧
    (mstate (clk 3 1 2 1) = 3 ∧ onBclk (clk 3 1 2 1) = true ∧ locked (clk 2 1 2 0) = false) ∧ mstate (clk 1 0 0 0) = 1 ∧ mstate up = 0 ∧
    (8 < (9 : BitVec 16).toNat ∧ (8 : BitVec 16).toNat ≤ 8 ∧ 16 < (17 : BitVec 16).toNat ∧ (16 : BitVec 16).toNat ≤ 16) ∧
    (∃ x ∈ l ⟨0, 0, 9, 0⟩, 8 < x) ∧ (∀ x ∈ l ⟨8, 3, 8, 8⟩, x ≤ 8) ∧ (∃ x ∈ l ⟨8, 3, 8, 8⟩, 2 < x) ∧ (∀ x ∈ l ⟨2, 2, 2, 2⟩, x ≤ 2) ∧
    (!onBclk (bad (clk 2 0 0 1)) && isSet (bad (clk 2 0 0 1)) F.CLK_COND_XO_FAIL 0) = true ∧
    (getF (clk 1 0 1 0) F.CLK_REFCFG_REFSEL 0 = 1 ∧ onBclk (clk 1 0 1 0) = false) ∧
    mayWrite (clk 2 0 0 1) .mp .clk 0 0x040 = true ∧ getF (clk 2 0 0 1) F.CLK_REFCFG_RELOCK 0 = 0 ∧
    (2 : BitVec 2).toNat ≠ getF (clk 2 0 0 1) F.CLK_REFCFG_REFSEL 0 ∧ (0 : BitVec 2).toNat = getF (clk 2 0 0 1) F.CLK_REFCFG_REFSEL 0 ∧
    isSet (got (clk 2 0 0 1)) F.CLK_STATE_BCLK_VALID 0 = true ∧ isSet (clk 2 0 0 1) F.CLK_STATE_BCLK_VALID 0 = false ∧
    isSet (got (clk 2 1 2 1)) F.CLK_COND_BCLK_PRESENT 0 = true ∧ isSet (got (clk 1 1 2 0)) F.CLK_COND_BCLK_PRESENT 0 = true ∧
    isSet (bad (clk 2 1 2 1)) F.CLK_COND_XO_FAIL 0 = true ∧ getF (clk 2 1 2 1) F.CLK_REFCFG_REFSEL 0 ∈ [1, 2] ∧
    getF (clk 2 0 0 1) F.CLK_REFCFG_REFSEL 0 ∉ [1, 2] ∧ 900 < (-901 : Int).natAbs ∧ (900 : Int).natAbs ≤ 900 := by decide +kernel

/-- ClockSteps: a step that waits, in holdover and out of it, the last one 10 µs before; a slew of one step; dividers at their bounds,
one whose change goes on with and without another that waits; a BSYNC reset. -/
theorem test_meets_ClockSteps :
    let x (c : Clk) : State := { up with clk := c }
    let h (sel valid : Nat) : State := but (clk 3 0 sel 1) [(F.CLK_STATE_BCLK_VALID, 0, valid)]
    (x { want := some 5 }).clk.want = some 5 ∧ mstate up ≠ 3 ∧ mstate (h 1 0) = 3 ∧
    (wantsBclk (h 1 0) = true ∧ takesBclk (h 1 0) = false) ∧
    wantsBclk (h 0 0) = false ∧ takesBclk (h 1 1) = true ∧
    (x { stepT := some 0 }).clk.stepT = some 0 ∧ (x { slew := -1 }).clk.slew ≠ 0 ∧ towards (-1) = 0 ∧
    signed (getF (but up [(F.CLK_PHREM_N, 0, 65535)]) F.CLK_PHREM_N 0) 16 ≠ 0 ∧ mayWrite up .mp .clk 0 0x058 = true ∧
    getF up F.CLK_PHSTEP_GO 0 = 0 ∧ mayWrite up .mp .clk 0 (0x070 + 8 * 4) = true ∧ mayWrite up .mp .clk 0 (0x070 + 8 * 11) = true ∧
    divRefused 4 32 0 1 = false ∧ divRefused 4 31 0 1 = true ∧ divRefused 9 16 0 1 = false ∧ divRefused 9 15 0 1 = true ∧
    divRefused 4 32 1 1 = true ∧ dividing (x { divNow := [(4, (32, 0, 1))] }) 4 = true ∧ dividing up 4 = false ∧
    dividing (x { divNow := [(4, (32, 0, 1))], divWait := [(4, (33, 0, 1))] }) 4 = true ∧
    drives (clk 2 0 0 1) = true ∧ drives up = false ∧
    (x { reset := some 4096 }).clk.reset = some 4096 ∧ (-1 : Int).natAbs ≤ 1 ∧ nvmReady up = true ∧ ageFits up 10 = true ∧
    10 ≤ ((10 : Int) - signed (getF up F.CLK_XO_AGE_F 0) 20).natAbs ∧ servedPage up .evr 0 0x040 = .yes := by decide +kernel

/-! The Bugle bus. -/

/-- A frame of version `v` with Bourdon count 0 and its two CRCs (R350). -/
def frame (v : Nat) : BitVec 160 :=
  let h := 2 ^ 152 * 0xA5 + 2 ^ 148 * v
  let a := h + 2 ^ 48 * crc16 h 24 96
  BitVec.ofNat 160 (a + crc16 a 136 32)

theorem test_meets_BugleBus : frameOk (frame 1).toNat = true ∧ frameOk (frame 2).toNat = true ∧ frameOk (frame 15).toNat = true ∧
    frameOk (frame 0).toNat = false ∧ frameVer up (frame 2).toNat = 2 ∧ crcbOk (frame 2).toNat = true := by decide +kernel

/-- BugleBus: with BCLK lost and present; an echo at the start and at the end of its window, one far from the mean, none; a frame that
measures the phase. -/
theorem test_meets_BugleBus_frames :
    let e : State := { up with bgl := { marker := some 4096 } }
    let far : State := { up with bgl := { marker := some 4096, rtts := [10000000] } }
    let m : State := but { up with clk := { first := true, meas := true } } [(F.CLK_STATE_MSTATE, 0, 2), (F.CLK_STATE_REFACT, 0, 1),
      (F.BGL_STATE_ECHO_VALID, 0, 1)]
    up.clk.lost = false ∧ ({ up with clk := { lost := true } } : State).clk.lost = true ∧ frameOk 0 = false ∧
    isSet (but up [(F.BGL_BGLCFG_ECHO_EN, 0, 1)]) F.BGL_BGLCFG_ECHO_EN 0 = true ∧
    isSet (but up [(F.BGL_BGLCFG_ECHO_EN, 0, 0)]) F.BGL_BGLCFG_ECHO_EN 0 = false ∧
    getF (but up [(F.BGL_COND_SYNC_LOST, 0, 1)]) F.BGL_COND_SYNC_LOST 0 = 1 ∧
    (isSet m F.BGL_STATE_ECHO_VALID 0 = true ∧ m.clk.meas = true ∧ onBclk m = true ∧ mstate m = 2 ∧ frameF (frame 1).toNat 39 1 = 0) ∧
    e.bgl.marker = some 4096 ∧ within (4096 + ticks 160) (4096 + ticks 256) (4096 + ticks 160) = true ∧
    within (4096 + ticks 160) (4096 + ticks 256) (4096 + ticks 256) = false ∧
    nearMean e.bgl.rtts (rttOf e 4096 (4096 + ticks 160)) = true ∧ nearMean far.bgl.rtts (rttOf far 4096 (4096 + ticks 160)) = false ∧
    getF (but up [(F.BGL_COND_SYNC_LOST, 0, 0)]) F.BGL_COND_SYNC_LOST 0 = 0 := by decide +kernel

theorem test_meets_BugleBus_lines :
    let r : State := but up [(F.BGL_STATE_SYNC, 0, 1), (F.BGL_STATE_ECHO_VALID, 0, 1), (F.CLK_COND_LOCKED, 0, 1)]
    let x (q : Nat) : State := but { up with bgl := { xn := 1, xsq := q } } [(F.BGL_STATE_XCAL_BUSY, 0, 1), (F.BGL_XCALCTL_XCALN, 0, 1)]
    let h : State := { up with bgl := { held := [⟨3, 0, true⟩] } }
    mayWrite up .mp .bgl 0 0x044 = true ∧ getF up F.BGL_SYNCCTL_REALIGN 0 = 0 ∧ liveOf up 0x703 ≠ true ∧ fwdOf up 0x703 ≠ true ∧
    lastOf up 0x703 = none ∧ h.bgl.held.find? (·.line == 3) = some ⟨3, 0, true⟩ ∧ mayWrite up .mp .bgl 0 0x060 = true ∧
    getF up F.BGL_XCALCTL_GO 0 = 0 ∧ (isSet r F.BGL_STATE_SYNC 0 && isSet r F.BGL_STATE_ECHO_VALID 0 && locked r) = true ∧
    isSet (x 16384) F.BGL_STATE_XCAL_BUSY 0 = true ∧ max 1 (getF (x 16384) F.BGL_XCALCTL_XCALN 0) ≤ (x 16384).bgl.xn ∧
    (x 16384).bgl.xsq ≤ 16384 * (x 16384).bgl.xn ∧ 16384 * (x 16385).bgl.xn < (x 16385).bgl.xsq ∧
    isSet (but up [(F.BGL_STATE_MOFS_PEND, 0, 1)]) F.BGL_STATE_MOFS_PEND 0 = true ∧ anyRunning up = false := by decide +kernel

/-! The host link. -/

/-- Port 0 in training state `l` with protocol version `v`; all four lanes locked and in the map. -/
def phl (l v : Nat) (x : Port) : State :=
  setPort (but up [(F.PHL_STATE_LSTATE, 0, l), (F.PHL_STATE_VER, 0, v), (F.PHL_STATE_LANEMAP, 0, 15), (F.PHL_LANE_LOCK 0, 0, 1),
    (F.PHL_LANE_LOCK 1, 0, 1), (F.PHL_LANE_LOCK 2, 0, 1), (F.PHL_LANE_LOCK 3, 0, 1)]) 0 x

def ts : TsFields :=
  { lane := 0, rate := false, maxver := 3, role := 0, lmask := 15, epoch := 0, nrxseq := 9, hops := 0, rt := false }

/-- Its TS block: MAXVER at bit 4, LMASK at bit 8, NRXSEQ at bit 20 (R367). -/
def tsW : BitVec 56 := 9 * 2 ^ 20 + 15 * 2 ^ 8 + 3 * 2 ^ 4

/-- LinkTraining: 64 valid headers and 63; the port in each training state, with the rail in range and out of range; the ROM in
recovery; four and fewer lanes; ALIGN blocks 100 ns apart and 1 ps more. -/
theorem test_meets_LinkTraining :
    let d : State := but up [(F.PHL_COND_LLPEND, 0, 1)]
    let rom : State := but up [(F.SEC_STATE_ROMREC, 0, 1)]
    let t5 : State := phl 5 0 { peer := some ts }
    let t7 : State := phl 7 1 { lanes := 15 }
    let al (k : Nat) : List AlignRx := [⟨0, 0, 0⟩, ⟨1, 1, 0⟩, ⟨2, 2, 0⟩, ⟨3, 3, k⟩]
    let full : State := phl 4 0 { cfgLanes := 15, peer := some ts }
    (isSet up F.DEV_STATE_MAINPWR 0 = true ∧ 2 ≤ getF up F.DEV_STATE_BOOT 0 ∧ railOk up 0 = true ∧
      railOk { up with hkp := { rails := [14] } } 0 = false ∧ isSet rom F.SEC_STATE_ROMREC 0 = true) ∧
    (locksOn (List.replicate 64 1) = true ∧ locksOn (List.replicate 63 1) = false ∧ locksOn (0 :: List.replicate 63 1) = false) ∧
    (portOf (phl 1 0 { cfgLanes := 15 }) 0).cfgLanes.testBit 3 = true ∧ (portOf (phl 1 0 { cfgLow := true }) 0).cfgLow = true ∧
    (relocks t7 0).testBit 3 = true ∧ lstate (phl 1 0 {}) 0 = 1 ∧ lstate (phl 2 0 {}) 0 = 2 ∧ lstate (phl 3 0 {}) 0 = 3 ∧
    lstate (phl 4 0 {}) 0 = 4 ∧ lstate t5 0 = 5 ∧ tsOf tsW = ts ∧ (tsOf (tsWord { ts with rt := true })).rt = true ∧
    (tsOf tsW).rt = false ∧
    (portOf t5 0).peer = some (tsOf tsW) ∧ commonLanes t5 0 ≠ 0 ∧ deskews full 0 (al 100000) = true ∧
    deskews full 0 (al 100001) = false ∧
    (lanesOf (commonLanes full 0)).length = 4 ∧ hostPort up 0 = true ∧ hostPort (but up [(F.PHL_STATE_ROLE, 1, 2)]) 1 = false ∧
    sharedSess up = false ∧ lstate (phl 6 1 {}) 0 = 6 ∧ lstate (phl 7 1 {}) 0 = 7 ∧ getF d F.PHL_COND_LLPEND 0 = 1 ∧ hostless d = true ∧
    servedPage up .phl 1 0x044 = .yes ∧ getF up F.PHL_SESSCTL_GO 1 = 0 ∧ Initiator.port .ph1 = some 1 ∧
    (0 : BitVec 2).toNat ≤ getF up F.PHL_STATE_SESS (sessPort up 1) ∧
    ¬ (2 : BitVec 2).toNat ≤ getF up F.PHL_STATE_SESS (sessPort up 1) := by decide +kernel

/-- LinkRetrain: 16 and 15 invalid headers in a window of 64, two and one ALIGN blocks missed; lanes that survive, and the last one that
fails; a retrain whose lanes are locked again, and one whose are not. -/
theorem test_meets_LinkRetrain :
    let s : State := phl 6 1 { surv := 3, lanes := 15 }
    let one : State := phl 6 1 { lanes := 8 }
    let w (n : Nat) : List (BitVec 2) := List.replicate n 0 ++ List.replicate (64 - n) 1
    let r (x : TsFields) : State := phl 7 1 { peer := some x, tries := 3 }
    (losesLock (w 16) = true ∧ losesLock (w 15) = false ∧ lossFails (.aligns 2) = true ∧ lossFails (.aligns 1) = false) ∧
    lstate s 0 = 6 ∧ (portOf s 0).surv ≠ 0 ∧ (getF s F.PHL_STATE_LANEMAP 0).testBit 3 = true ∧
    (portOf s 0).lanes &&& maskOf (fun k => k != 3) ≠ 0 ∧ (portOf one 0).lanes &&& maskOf (fun k => k != 3) = 0 ∧
    lstate (phl 3 0 {}) 0 = 3 ∧
    getF s F.PHL_STATE_LANEMAP 0 &&& (3 : BitVec 4).toNat ≠ getF s F.PHL_STATE_LANEMAP 0 ∧
    (portOf s 0).lanes &&& (3 : BitVec 4).toNat ≠ 0 ∧
    (portOf one 0).lanes &&& (3 : BitVec 4).toNat = 0 ∧
    mayWrite s .mp .phl 0 0x040 = true ∧ getF s F.PHL_PHCFG_RETRAIN 0 = 0 ∧ lstate (phl 7 1 {}) 0 = 7 ∧
    relocked (r { ts with rt := true }) 0 = true ∧ (portOf (r { ts with rt := true }) 0).tries < 4 ∧
    relocked (r ts) 0 = false := by decide +kernel

/-- LinkRequests: the next SEQ, one beyond it, one received before; a CRC that fails; the first and last words of each region; a request
below the resume point and one at it; a chain whose next module has granted credit, and none. -/
theorem test_meets_LinkRequests :
    let s : State := phl 6 3 { rxSeq := 5 }
    let d (q : BitVec 12) : Nat := ((portOf s 0).rxSeq - q).toNat
    let k : Packet := pkt 5 1 1 0 []
    let h : Packet := pkt 5 1 1 0 [] 1
    let c (n : Nat) : State := setPort (but s [(F.PHL_STATE_ROLE, 1, 2), (F.PHL_STATE_LSTATE, 1, 6)]) 1 { granted := { np := n } }
    portActive s 0 = true ∧ intact k = true ∧ intact { k with crc := k.crc + 1 } = false ∧
    (k.ptype = 1 ∧ k.hop = 0 ∧ k.len = 1 ∧ k.retry = false) ∧
    (pkt 5 2 2 0 [7, 8]).payload.length = (pkt 5 2 2 0 [7, 8]).len ∧ (pkt 5 3 2 0 [7, 8]).ptype = 3 ∧
    d 5 = 0 ∧ 2048 < d 6 ∧ 0 < d 4 ∧ d (5 - 2048) ≤ 2048 ∧ epochOf s 0 = 0 ∧ (portOf s 0).resume = none ∧
    belowResume { resume := some 5 } 4 = true ∧ belowResume { resume := some 5 } 5 = false ∧ (0xFF + 1) % 256 = epochOf s 0 ∧
    regionOf 0x0108000000 1024 = some .mailbox ∧ regionOf 0x010803FFFC 1 = some .mailbox ∧ regionOf 0x010803FFFC 2 = none ∧
    regionOf 0x0400000000 1024 = some .dram ∧ regionOf 0x07EFFFFFFC 1 = some .dram ∧ regionOf 0 16 = some .fabric ∧
    dmaLen s 0 1024 = true ∧ dmaLen (phl 6 1 {}) 0 64 = true ∧ dmaLen (phl 6 1 {}) 0 65 = false ∧ dramUp s = true ∧
    dramUp (but s [(F.DEV_STATE_BOOT, 0, 3)]) = false ∧ pagesThere s 0 16 = true ∧ isSet s F.FLT_STATE_EMBANK 0 = false ∧
    readUe s 0x0400000000 0x0400000004 [] = [] ∧ readUe { s with dramBad := [0x0400000000] } 0x0400000004 0x0400000008 [] ≠ [] ∧
    (1 : BitVec 8).toNat ≠ epochOf s 0 ∧ h.hop ≠ 0 ∧ passThrough s = false ∧ passThrough (c 1) = true ∧ portUp (c 1) 1 = true ∧
    (portOf (c 1) 1).wait = [] ∧ (∀ y ∈ rxCost h, y.2 ≤ holdsCredit (c 1) 1 y.1) ∧
    (∃ y ∈ rxCost h, holdsCredit (c 0) 1 y.1 < y.2) := by decide +kernel

def txp : TxPkt := { seq := 0, typ := 5 }

/-- LinkFlow: the SEQs about the end of the ACK's window; a packet that waits and leaves with one credit more; captures with and without
credit; events. -/
theorem test_meets_LinkFlow :
    let s : State := phl 6 3 { replay := [txp] }
    let w : State := phl 6 3 { wait := [{ txp with typ := 1 }] }
    let c : State := but (phl 6 3 {}) [(F.PHL_PHCFG_CAPEN, 0, 1), (F.PHL_PHCFG_EVSEN, 0, 1)]
    let e : State := but c [(F.EVR_HSWR_IDX, 0, 17), (F.PHL_CREDITS_EVS, 0, 1)]
    let g : State := setWide (setStrm c 255 { queue := [gran .queued] }) .slu 0 2 255 (BitVec.ofNat 192 (2 ^ 18))
    portActive s 0 = true ∧ onWay (portOf s 0).replay 2048 65536 = 1 ∧ ackHits 2047 txp = true ∧ ackHits 2048 txp = false ∧
    (portOf s 0).replay ≠ [] ∧ (portOf s 0).tries < 4 ∧ (portOf w 0).wait = [{ txp with typ := 1 }] ∧ (portOf s 0).wait = [] ∧
    (∀ y ∈ costOf 1 0, y.2 ≤ holdsCredit w 0 y.1 + if y.1 = .np then (1 : BitVec 16).toNat else 0) ∧
    carriesCap g 0 = true ∧ getF g F.PHL_CREDITS_CAP 0 = 0 ∧
    isSet g F.PHL_COND_CAPHELD 0 = false ∧ (waitingGran g 255).isSome = true ∧ drainDest g 255 = true ∧
    evsPort e = some 0 ∧ txFull e 0 (16 + 16 * 16) = false ∧ min 16 ((17 + 8192 - evsInFlight e) % 4096) = 16 ∧
    0 < getF e F.PHL_CREDITS_EVS 0 := by decide +kernel

theorem test_meets_LinkFlow_granules :
    let c (n : Nat) : State := but (phl 6 3 {}) [(F.PHL_PHCFG_CAPEN, 0, 1), (F.PHL_CREDITS_CAP, 0, n), (F.SLU_SPILLBASE_HI_BASE, 0, 4),
      (F.SLU_SPILLLIM_HI_LIM, 0, 5), (F.SLU_SPILLRD_HI_A, 0, 4), (F.SLU_SPILLWR_HI_A, 0, 4)]
    let host (n : Nat) : State := setWide (setStrm (c n) 255 { queue := [gran .queued] }) .slu 0 2 255 (BitVec.ofNat 192 (2 ^ 18))
    let ring : State := setWide (setStrm (c 1) 255 { queue := [gran .queued] }) .slu 0 2 255 0
    let full : State := but ring [(F.SLU_SPILLRD_LO_A, 0, 1)]
    isSet (host 1) F.FLT_STATE_EMBANK 0 = false ∧ waitingGran (host 1) 255 = some (gran .queued) ∧ toHost (host 1) 255 = true ∧
    capPort (host 1) = some 0 ∧ capPort (host 0) = none ∧ toHost (host 0) 255 = true ∧
    itsTurn (host 1) 255 = true ∧ itsTurn (host 0) 255 = true ∧ itsTurn ring 255 = true ∧
    itsTurn (setStrm (setWide ring .slu 0 2 254 0) 254 { queue := [gran .queued], credit := 1 }) 255 = false ∧
    waitingGran ring 255 = some (gran .queued) ∧ toHost ring 255 = false ∧ spillFull ring = false ∧ spillFull full = true ∧
    dramLo ≤ spillWr ring ∧ spillWr ring + 512 ≤ dramHi := by decide +kernel

theorem test_meets_ReplayExhausted :
    let s : State := phl 6 1 { replay := [txp], tries := 4 }
    portActive s 0 = true ∧ (portOf s 0).replay ≠ [] ∧ 4 ≤ (portOf s 0).tries := by decide +kernel

/-! Other ports, power and resets. -/

theorem test_meets_SmbusAndJtag : hostless up = true ∧ (List.replicate 41 true).length = 41 ∧
    (State.reset.pwr.aux && State.reset.pwr.otp) = false ∧ mayWrite up .jtag .pol 63 0x01C = true ∧ servedPage up .pol 63 0x01C = .yes ∧
    (up.pwr.aux && up.pwr.otp) = true := by decide +kernel

theorem test_meets_ResetsAndPower :
    let b : State := but up [(F.DEV_STATE_RSTBUSY, 0, 1)]
    let m : State := but up [(F.DEV_STATE_MAINPWR, 0, 0)]
    ({ m with pwr := { m.pwr with ran := true } } : State).pwr.ran = true ∧ m.pwr.ran = false ∧ mstate m = 0 ∧
    mayWrite up .mp .dev 0 0x064 = true ∧ lockBit up .dev 0 0 = false ∧ getF up F.DEV_RSTCTL_GO 0 = 0 ∧ up.pwr.img = true ∧
    getF up F.DEV_STATE_RSTBUSY 0 = 0 ∧ getF b F.DEV_STATE_RSTBUSY 0 = 1 ∧ State.reset.pwr.aux = false ∧ m.pwr.aux = true ∧
    getF m F.DEV_STATE_MAINPWR 0 = 0 ∧ getF up F.DEV_STATE_MAINPWR 0 = 1 ∧ getF up F.DEV_STATE_BOOT 0 ≠ 0 ∧
    getF (but up [(F.DEV_STATE_BOOT, 0, 0)]) F.DEV_STATE_BOOT 0 = 0 ∧
    getF (but up [(F.FLT_X2_FSTATE 191, 0, 3)]) (F.FLT_X2_FSTATE 191) 0 = 3 ∧
    getF (but m [(F.SEC_STATE_ROMREC, 0, 1)]) F.SEC_STATE_ROMREC 0 = 1 := by decide +kernel

theorem test_meets_ResetsAndPower_embank : getF up F.FLT_STATE_SELFERR 0 = 0 ∧ getF up (F.FLT_X1_EN 189) 0 = 1 ∧
    getF up (F.FLT_X1_REACT 189) 0 = 3 ∧ getF up (F.FLT_X2_FSTATE 189) 0 = 0 := by decide +kernel

/-! Faults. -/

/-- FaultOccurrences: the first source by its level, one that is reported, notices of a die, each reaction. -/
theorem test_meets_FaultOccurrences :
    let s (k r : Nat) : State := but { up with flts := [(k, { hw := true })] } [(F.FLT_X1_REACT k, 0, r)]
    (∀ k ∈ [0, 64, 96, 127, 191], isSet (s k 1) (F.FLT_X1_EN k) 0 = true ∧ isSet (s k 1) F.FLT_STATE_SELFERR 0 = false ∧
      getF (s k 1) (F.FLT_X2_FSTATE k) 0 = 0 ∧ causeNow (s k 1) k = true) ∧
    (fltOf ({ up with flts := [(0, { due := true })] } : State) 0).due = true ∧
    getF (but (s 0 1) [(F.FLT_X2_FSTATE 0, 0, 2)]) (F.FLT_X2_FSTATE 0) 0 = 2 ∧ reported 190 = true ∧ reported 99 = true ∧
    srcFltDie 96 = some 0 ∧ srcFltDie 127 = some 7 ∧ srcFltDie 0 = none ∧
    getF (s 96 2) (F.FLT_X1_REACT 96) 0 = 2 ∧ getF (s 191 3) (F.FLT_X1_REACT 191) 0 = 3 ∧ getF (s 0 0) (F.FLT_X1_REACT 0) 0 = 0 ∧
    getF (s 0 3) F.FLT_STATE_EMBANK 0 = 0 := by decide +kernel

theorem test_meets_FaultRecovery :
    let s (k f : Nat) (x : Flt) : State := but { up with flts := [(k, x)] } [(F.FLT_X2_FSTATE k, 0, f)]
    isSet up F.FLT_STATE_SELFERR 0 = false ∧ getF (s 191 1 {}) (F.FLT_X2_FSTATE 191) 0 = 1 ∧ (fltOf (s 191 1 {}) 191).hw = false ∧
    forced (s 191 1 {}) 191 = false ∧ sensed 191 = false ∧ getF (but up [(F.BGL_COND_SYNC_LOST, 0, 0)]) F.BGL_COND_SYNC_LOST 0 = 0 ∧
    sensed 64 = true ∧
    getF (s 64 1 { hw := true }) (F.FLT_X2_FSTATE 64) 0 = 1 ∧ getF (s 64 1 { hw := true }) (F.DSC_COND_VCLIP 0) 0 = 0 ∧
    getF (s 191 2 {}) (F.FLT_X2_FSTATE 191) 0 = 2 ∧
    (fltOf (s 191 2 {}) 191).due = false ∧ (fltOf (s 191 2 { due := true }) 191).due = true ∧ causeNow (s 191 2 {}) 191 = false ∧
    getF (s 191 3 {}) (F.FLT_X2_FSTATE 191) 0 = 3 ∧
    causeNow (s 191 3 {}) 191 = false ∧ causeNow (s 191 3 { hw := true }) 191 = true ∧ isSet up (F.FLT_X1_EN 191) 0 = true ∧
    mayWrite up .mp .flt 0 0x050 = true ∧ getF up F.FLT_CLRCTL_GO 0 = 0 := by decide +kernel

/-- The two sides of `clear`: AUTOREC with RLIM not reached, and reached. -/
theorem test_meets_FaultRecovery_quiet :
    let s (n : Nat) : State := but { up with flts := [(0, { recs := List.replicate n 0 })] }
      [(F.FLT_X2_FSTATE 0, 0, 2), (F.FLT_X1_AUTOREC 0, 0, 1), (F.FLT_RECLIM_RLIM, 0, 2), (F.FLT_RECLIM_RWIN, 0, 5)]
    getF (s 1) (F.FLT_X1_REACT 0) 0 ≠ 3 ∧ getF (but (s 1) [(F.FLT_X1_REACT 0, 0, 3)]) (F.FLT_X1_REACT 0) 0 = 3 ∧
    (recent (s 1) 0).length < 2 ∧ ¬ (recent (s 2) 0).length < 2 ∧ getF (s 1) (F.FLT_X1_AUTOREC 0) 0 = 1 := by
  decide +kernel

theorem test_meets_FaultRecovery_self :
    let e : State := but up [(F.FLT_STATE_SELFERR, 0, 1), (F.FLT_STATE_EMBANK, 0, 1), (F.DEV_STATE_EMBANK, 0, 1)]
    let x : State := but up [(F.FLT_STATE_EMBANK, 0, 1), (F.DEV_STATE_EMBANK, 0, 1)]
    isSet e F.FLT_STATE_SELFERR 0 = true ∧ mayWrite e .mp .flt 0 0x050 = true ∧ getF e F.FLT_CLRCTL_GO 0 = 0 ∧
    mayWrite x .mp .flt 0 0x040 = true ∧ getF x F.FLT_EMBCTL_EXIT 0 = 0 ∧ getF x F.FLT_STATE_EMBANK 0 = 1 ∧
    (List.range 192).any (fun j => getF x (F.FLT_X2_FSTATE j) 0 != 0 && (fltOf x j).react == 3) = false ∧
    getF x F.FLT_STATE_SELFERR 0 = 0 ∧ getF x F.DEV_STATE_BOOT 0 = 4 ∧ getF x F.DEV_STATE_THERMREC 0 = 0 ∧
    getF up F.FLT_STATE_EMBANK 0 = 0 := by decide +kernel

/-! Temperature. -/

/-- HousekeepingRound: readings at and beyond the bounds of R429, a sensor judged failing before, a rise beyond the limit, the
shutdown threshold; sensors that are sampled and not; the bounds of a rail. -/
theorem test_meets_HousekeepingRound :
    let rd (v : Int) (_ : Nat) : Int := v
    let h : State := { up with hkp := { sens := [(0, { hist := [0, 0, 0, 0], good := 0 })] } }
    let b : State := { up with hkp := { sens := [(0, { bad := true })] } }
    up.pwr.aux = true ∧ isSet up F.DEV_STATE_MAINPWR 0 = true ∧ whyFailing up (rd 1280) 0 = 0 ∧ whyFailing up (rd 1281) 0 ≠ 0 ∧
    whyFailing up (rd (-400)) 0 = 0 ∧ whyFailing up (rd (-401)) 0 ≠ 0 ∧ (sensOf up 0).bad = false ∧ (sensOf b 0).bad = true ∧
    rorExceeded (but h [(F.HKP_RORCFG_LIM, 0, 50)]) (rd 41) (fun _ => 0) = true ∧
    rorExceeded (but h [(F.HKP_RORCFG_LIM, 0, 50)]) (rd 40) (fun _ => 0) = false ∧ up.hkp.cap = none ∧
    (fltOf up 188).hw = false ∧ (fltOf ({ up with flts := [(188, { hw := true })] } : State) 188).hw = true ∧ forced up 188 = false ∧
    (sampled up 0 = true ∧ sampled (but up [(F.DEV_STATE_MAINPWR, 0, 0)]) 0 = false ∧
      sampled (but up [(F.DEV_STATE_MAINPWR, 0, 0)]) 32 = true) ∧
    railRange 0 = some (7760, 8240) ∧ railRange 8 = none ∧ 0 ∈ ({ up with hkp := { rails := [0] } } : State).hkp.rails ∧
    getF (but up [(F.HKP_X1_FAILED 3, 0, 1)]) (F.HKP_X1_FAILED 3) 0 = 1 ∧ getF up (F.HKP_X1_FAILED 3) 0 = 0 := by
  decide +kernel

/-- A committed thermal record. -/
def thermRec : FlashRec :=
  { ring := 2, pos := 0, hour := 0, r := { typ := 0x20, ver := 1, seq := 7, payload := [], commit := 0xC0A117ED, crcOk := true } }

theorem test_meets_ThermalCommands :
    let e : State := but up [(F.HKP_STATE_EARLY, 0, 1)]
    let t : State := but { up with nvm := { recs := [thermRec] } } [(F.DEV_STATE_THERMREC, 0, 1)]
    let d : State := { t with hkp := { thack := true } }
    let hot : State := { t with flts := [(188, { hw := true })] }
    getF e F.HKP_STATE_EARLY 0 = 1 ∧ e.hkp.early = false ∧ servedPage up .hkp 0 0x050 = .yes ∧ privileged up .mp = true ∧
    getF t F.HKP_THCTL_THACK 0 = 0 ∧ getF t F.DEV_STATE_THERMREC 0 = 1 ∧ causeNow t 188 = false ∧ causeNow hot 188 = true ∧
    d.hkp.thack = true ∧ unacked d = [7] ∧ getF up F.FLT_STATE_EMBANK 0 = 0 ∧ getF up F.HKP_THCTL_SENSCLR 0 = 0 ∧
    mayWrite up .mp .hkp 0 0x044 = true ∧ mayWrite up .mp .hkp 0 0x048 = true ∧
    ({ up with hkp := { cap := some 64 } } : State).hkp.cap.isSome = true ∧ up.hkp.cap = none := by decide +kernel

/-- ThermalCommands: the reset thresholds are in order; one write that keeps the order, one that breaks it by one. -/
theorem test_meets_ThermalCommands_threshold :
    let start := thr up F.HKP_THRA_THR_START
    let full := thr up F.HKP_THRA_THR_FULL
    let shut := thr up F.HKP_THRB_THR_SHUT
    let resume := thr up F.HKP_THRB_THR_RESUME
    resume < start ∧ start < full ∧ full < shut ∧ shut ≤ 1120 ∧ resume < resume + 1 ∧ resume + 1 < full ∧ ¬ resume < resume ∧
    ¬ (1121 : Int) ≤ 1120 := by decide +kernel

/-! Start-up and non-volatile records. -/

theorem test_meets_StartUp :
    let a : State := { State.reset with pwr := { aux := true } }
    let o : State := { State.reset with pwr := { aux := true, otp := true } }
    let m : State := but { up with nvm := { recs := [thermRec] } } [(F.DEV_STATE_BOOT, 0, 0)]
    a.pwr.phy = false ∧ up.pwr.phy = true ∧ a.pwr.aux = true ∧ a.pwr.otp = false ∧ o.pwr.otp = true ∧ o.pwr.img = false ∧
    getF o F.SEC_STATE_ROMREC 0 = 0 ∧
    o.nvm.slotA = none ∧ o.nvm.slotB = none ∧ m.pwr.img = true ∧ isSet m F.DEV_STATE_MAINPWR 0 = true ∧ getF m F.DEV_STATE_BOOT 0 = 0 ∧
    (unackedThermal m).isSome = true ∧ getF m (F.FLT_X2_FSTATE 188) 0 = 0 ∧ getF m F.FLT_STATE_EMBANK 0 = 0 ∧
    getF (but up [(F.DEV_STATE_BOOT, 0, 2)]) F.DEV_STATE_BOOT 0 = 2 ∧
    getF (but up [(F.DEV_STATE_BOOT, 0, 3)]) F.DEV_STATE_BOOT 0 = 3 := by
  decide +kernel

theorem test_meets_StartUp_image :
    let x (v : BitVec 16) : FwImage := { image 0 with minor := v }
    let o : State := { State.reset with pwr := { aux := true, otp := true }, nvm := { slotA := some (x 1), slotB := some (x 2) } }
    o.nvm.slotB = some (x 2) ∧ o.nvm.slotA = some (x 1) ∧ (x 1).minor.toNat < (x 2).minor.toNat := by decide +kernel

theorem test_meets_NvmOperations :
    let w : State := { up with nvm := { op := some (.write 5 [1, 2] false) } }
    let slots : Nvm := { slotA := some (image 0), slotB := some (image 0), op := some .refresh }
    let r : State := { up with nvm := slots }
    let rec' : FlashRec := { ring := 0, pos := 0, hour := 0, r := { typ := 3, ver := 1, seq := 7, payload := [9], commit := 0xC0A117ED, crcOk := true } }
    let one : State := { up with nvm := { recs := [rec'] } }
    let rom : State := but up [(F.SEC_STATE_ROMREC, 0, 1)]
    mayWrite rom .mp .nvm 0 0x040 = true ∧ mayWrite rom .mp .nvm 0 0x050 = true ∧ mayWrite rom .mp .nvm 0 0x04C = true ∧
    getF rom F.SEC_STATE_ROMREC 0 = 1 ∧ mayWrite up .mp .nvm 0 0x040 = true ∧ getF up F.NVM_WRCTL_GO 0 = 0 ∧ lenFits 2 28928 = true ∧
    lenFits 2 28927 = false ∧
    lenFits 5 8192 = true ∧ lenFits 5 8193 = false ∧ lenFits 6 65520 = true ∧ w.nvm.op.isSome = true ∧ up.nvm.op = none ∧
    up.otp.lc = 0 ∧ mayWrite up .mp .nvm 0 0x050 = true ∧ mayWrite up .mp .nvm 0 0x04C = true ∧ getF up F.NVM_CALSAVE_GO 0 = 0 ∧
    getF up F.NVM_REFRESH_GO 0 = 0 ∧ w.nvm.op = some (.write 5 [1, 2] false) ∧ r.nvm.op = some .refresh ∧ r.nvm.slotHr = none ∧
    getF (but one [(F.NVM_POH_H, 0, 8761)]) F.NVM_POH_H 0 = 8761 ∧ hourOf one 7 = 0 ∧ hourOf up 7 = 0 ∧ refreshable one = [rec'.r] ∧ nvmReady up = true ∧ one.nvm.op = none ∧
    ({ up with nvm := { slots with slotHr := some 0 } } : State).nvm.slotHr = some 0 := by decide +kernel

/-! Security. -/

theorem test_meets_FusesAndLifecycle :
    let img : FwImage := image 3
    let f : State := { up with otp := { lc := 2, okh := [(3, [1])] }, sec := { img := some img } }
    let a : State := { up with sec := { lcTo := some 3 } }
    mayWrite up .mp .sec 0 0x044 = true ∧ getF up F.SEC_ARB_ADV 0 = 0 ∧ up.otp.lc = 0 ∧ getF f F.SEC_STATE_ROMREC 0 = 0 ∧ f.otp.lc ≠ 0 ∧
    f.sec.img = some img ∧ mayWrite f .mp .sec 0 0x04C = true ∧ getF f F.SEC_KEYCTL_PROG 0 = 0 ∧ getF f F.SEC_KEYCTL_REVOKE 0 = 0 ∧
    Store.get f.otp.okh [] 3 ≠ [] ∧ Store.get f.otp.okh [] 0 = [] ∧ f.otp.lc ≠ 3 ∧ mayWrite f .mp .sec 0 0x040 = true ∧
    getF f F.SEC_LCCTL_GO 0 = 0 ∧ (3 : BitVec 2).toNat = f.otp.lc + 1 ∧ (∀ p < 64, rsOf f p = .off ∨ rsOf f p = .dike) ∧
    ¬ (∀ p < 64, rsOf (formed .idle) p = .off ∨ rsOf (formed .idle) p = .dike) ∧ a.sec.lcTo = some 3 := by decide +kernel

/-- CustodianSessions: served in each session; a verdict of each kind, the third failure before. -/
theorem test_meets_CustodianSessions :
    let s (v n : Nat) : State := { up with sec := { ports := [(1, { verdict := some v, fails := n })] } }
    servedPage up .sec 0 0x060 = .yes ∧ servedPage up .sec 0 0x0A0 = .yes ∧ getF up (F.SEC_AUTHCTL_CHREQ 1) 0 = 0 ∧
    getF up (F.SEC_AUTHCTL_GO 1) 0 = 0 ∧ (secOf (s 1 0) 1).verdict = some 1 ∧ (secOf (s 5 3) 1).fails = 3 ∧
    (secOf (s 8 2) 1).verdict = some 8 ∧ (secOf (s 8 2) 1).fails ≠ 3 ∧ getF up F.PHL_STATE_EPOCH 1 = (secOf (s 1 0) 1).goEpoch := by
  decide +kernel

/-- The request area of port 1 holds operation `op` with LEN `len`. -/
def mail (op len : Nat) : State :=
  { up with mbox := Memory.writeN [] (mbReq 1) (toBytes 4 op ++ toBytes 4 len) }

theorem test_meets_MailboxOperations :
    let cert : NvmRecord := { typ := 6, ver := 1, seq := 1, payload := [5], commit := 0xC0A117ED, crcOk := true }
    let c : State := { mail 1 0 with nvm := { loaded := [cert] } }
    let rd : State := { up with mbox := Memory.writeN [] (mbReq 1) (toBytes 4 4 ++ toBytes 4 2 ++ toBytes 8 0 ++ toBytes 2 6), nvm := c.nvm }
    let busy : State := { mail 3 12 with nvm := { op := some .refresh } }
    memOk (mail 1 0) = true ∧ mayWrite (mail 1 0) .mp .sec 0 (0x088 + 0x40) = true ∧ getF (mail 1 0) (F.SEC_MBCTL_GO 1) 0 = 0 ∧
    mbOp (mail 1 1) 1 = 1 ∧ mbLen (mail 1 1) 1 ≠ 0 ∧ mbLen c 1 = 0 ∧ loadedOf c 6 = some cert ∧ loadedOf (mail 1 0) 6 = none ∧
    mbOp (mail 2 32) 1 = 2 ∧ mbLen (mail 2 32) 1 = 32 ∧ mbLen (mail 2 31) 1 ≠ 32 ∧ (mail 2 32).otp.lc ≠ 3 ∧
    ({ mail 2 32 with otp := { lc := 3 } } : State).otp.lc = 3 ∧ mbOp (mail 3 12) 1 = 3 ∧ mbLen (mail 3 12) 1 = 12 ∧
    privileged (mail 3 12) .mp = true ∧ privileged (mail 3 12) .ph1 = false ∧ mayWrite (mail 3 12) .ph1 .sec 0 (0x088 + 0x40) = true ∧
    busy.nvm.op.isSome = true ∧ (mail 3 12).nvm.op = none ∧ getF (mail 3 12) F.SEC_STATE_ROMREC 0 = 0 ∧ mbOp rd 1 = 4 ∧
    mbLen rd 1 = 2 ∧ ofBytes (mbPay rd 1 2) = 6 ∧ 6 ∈ storeTypes ∧ loadedOf rd 6 = some cert ∧ memOk rd = true := by decide +kernel

theorem test_meets_MailboxOperations_ends :
    let r : State := but (mail 3 65520) [(F.SEC_STATE_ROMREC, 0, 1)]
    let a : State := { up with sec := { att := [1], ports := [(1, { mbStat := some 5 })] } }
    let y : FwImage := image 0
    let f : State := { up with sec := { ports := [(1, { mbStat := some 0, mbFlash := some y })] } }
    let q : State := but (mail 1 0) [(F.SEC_STATE_ROMREC, 0, 1)]
    mayWrite q .mp .sec 0 (0x088 + 0x40) = true ∧ mbOp q 1 = 1 ∧ getF q F.SEC_STATE_ROMREC 0 = 1 ∧
    getF r F.SEC_STATE_ROMREC 0 = 1 ∧ mbLen r 1 ≤ 65520 ∧ mayWrite r .mp .sec 0 (0x088 + 0x40) = true ∧
    (r.sec.recov ++ [0, 0, 0]).length < 4 ∧ a.sec.att = 1 :: [] ∧ (secOf a 1).mbStat = some 5 ∧ (secOf a 1).mbFlash = none ∧
    (secOf f 1).mbFlash = some y ∧ memOk a = true ∧ getF a F.DEV_STATE_BOOT 0 ≠ 0 ∧
    getF (but a [(F.DEV_STATE_BOOT, 0, 0)]) F.DEV_STATE_BOOT 0 = 0 ∧ memOk (but a [(F.DEV_STATE_BOOT, 0, 0)]) = true := by decide +kernel

/-! What commands do, with values from the worked examples and rules of the manual. -/

/-- R36, worked example of chapter 2: an acknowledgment of 0x0042 comes after bit 5 of POL 63 was set. -/
def acked : State :=
  let s := raise (cycle (raise (cycle (but up [(F.EVT_SEQ .pol, 63, 0x41)])) .pol 63 3)) .pol 63 5
  nx (exec (.evtAckWrite .mp ⟨.pol, 63⟩ 0x42) s)

theorem test_evt_ack_stale : getF acked (F.EVT .pol) 63 = 0x80000028 ∧ getF acked (F.EVT_SEQ .pol) 63 = 0x44 := by decide +kernel
theorem test_evt_ack_clears :
    let t := nx (exec (.evtAckWrite .mp ⟨.pol, 63⟩ 0x44) acked)
    getF t (F.EVT .pol) 63 = 0 ∧ getF t (F.EVT_SEQ .pol) 63 = 0x44 := by decide +kernel

/-- R397, R403: the page-event word of FIRST_FAIL of POL 17, and its page. -/
theorem test_page_event_word : pageWord (Page.pol.summary + 17) 3 0x42 = 0x42003212 ∧ locate 0x111094 = some ⟨.pol, 17⟩ ∧
    locate 0x608000 = none := by decide +kernel

/-- R169: VA 1,000 of a 24-octet template from 0x04_2000_0000, in full and in compact mode. -/
theorem test_word_address :
    let s := setBnd (but up [(F.MEM_VBASE_HI_BASE 0, 0, 4), (F.MEM_VBASE_LO_BASE 0, 0, 0x20000000 / 64)]) 0 { noct := 24 }
    wordAddr s 0 1000 false = 0x042005DC00 ∧ wordAddr s 0 1000 true = 0x042002EE00 := by decide +kernel

/-- R355: module B recovers the stamp that module A gave, module C stamps the departure from the hub. -/
theorem test_btrig_stamp :
    let b := but up [(F.BGL_STATE_VER, 0, 2), (F.BGL_HUBDLY_D, 0, 3932), (F.BGL_HUBDLY_TTIMED, 0, 1), (F.BGL_DCOMP_D, 0, 24614)]
    let c := but up [(F.BGL_STATE_VER, 0, 1), (F.BGL_DCOMP_D, 0, 20000)]
    btrigStamp b 0 0x0000001000046FE6 = 0x0000001000000064 ∧
    btrigStamp c 0 (0x0000001000000064 + 266076 + 20000) = 0x0000001000040C00 := by decide +kernel

/-- R150, R151: the characters of the worked example of chapter 7, under a period of 2 ticks and of 1. -/
theorem test_characters : charReason 2048 0x0080060000400200 = none ∧ charReason 2048 0x03000BB802400640 = none ∧
    charReason 2048 (0x0080000000400000 + 500 * 2 ^ 32) = some (5, 1) ∧
    charReason 2048 (0x0300000002400640 + 4200 * 2 ^ 32) = some (2, 1) ∧
    charReason 1024 0x03000BB802400640 = some (2, 1) := by decide +kernel

/-- R157: the offsets of channel 3 at 85 °C. -/
theorem test_deskew :
    let s := setChan (but up [(F.OCT_X6_DSKD_DDSK 3, 0, 65536 - 1180), (F.OCT_X6_DSKC_CDSK 3, 0, 1240), (F.OCT_X6_TCOEF_TCD 3, 0, 96),
      (F.OCT_X6_TCOEF_TCC 3, 0, 64), (F.OCT_X6_CALINFO_T0 3, 0, 45), (F.CDI_DIETEMP_T, 0, 8 * 85), (F.BGL_MOFS, 0, 7)]) 3
      { pdly := 410, tempD := 15, tempC := 10 }
    tempTarget s 3 true = 15 ∧ tempTarget s 3 false = 10 ∧ rawOffset s 3 true = -1568 ∧ rawOffset s 3 false = 1667 := by decide +kernel

/-- R432, worked example of chapter 20: A at 122.0 °C and at 123.0 °C. -/
theorem test_activity : activity (but up [(F.HKP_TMAX_T, 0, 8 * 122)]) = 152 ∧
    activity (but up [(F.HKP_TMAX_T, 0, 8 * 123)]) = 137 := by
  decide +kernel

/-- R430: TS13 fails; the substitute is 10 K above the largest of its die, 130.25 °C. -/
theorem test_substitute :
    let s := but up [(F.HKP_X1_T 12, 0, 956), (F.HKP_X1_T 14, 0, 962), (F.HKP_X1_T 15, 0, 944), (F.HKP_X1_FAILED 13, 0, 1)]
    sensVal (substitute s 13) 13 = 1042 := by decide +kernel

/-- R114, worked example of chapter 5: claims of a unit in FVMI on ±2 mA and on ±32 mA, and a forced current. -/
theorem test_claims : claimOf 1 3 0 true = 2000 ∧ claimOf 1 4 0 true = 32000 ∧ claimOf 1 4 0 false = 0 ∧ claimOf 2 3 0 true = 2000 ∧
    claimOf 2 3 131073 true = 1 ∧ claimOf 3 4 0 true = 0 := by decide +kernel

/-- R222, worked example of chapter 10: the latches of pins 0 and 2 dispatch from 0x0100 to 0x0105. -/
theorem test_dispatch :
    let s := but eng [(F.MCE_CDM0_M, 3, 0x20C41), (F.MCE_CMAP_MODE 1, 3, 1), (F.MCE_CMAP_MODE 2, 3, 1), (F.MCE_CMAP_MODE 3, 3, 1),
      (F.MCE_CMAP_MODE 4, 3, 1), (F.MCE_COND_LATCH, 3, 5)]
    let t := nx (exec (.branch16Way 3 0x0100 0 1 2 3) s)
    engUpc t 3 = 0x0105 ∧ getF t F.MCE_COND_LATCH 3 = 0 := by decide +kernel

/-- R225: the last pass pops the level; R224: DEC stays at 0. -/
theorem test_loop_test :
    let t := nx (exec (.loopTest 3 0x203) (but (engWith { engBnd with loops := [lv] }) [(F.MCE_CNT_C 7, 3, 1)]))
    engUpc t 3 = 0x203 ∧ (bndOf t 19).loops = [] := by decide +kernel
theorem test_loop_dec_zero : getF (nx (exec (.loopDec 3 7) eng)) (F.MCE_CNT_C 7) 3 = 0 := by decide +kernel

/-- R228: REL with IMM = -1 from VA 0 wraps in 40 bits, HOLD stands. -/
theorem test_rel_wraps : vopDo eng 3 5 0x3FFFF 0 = (2 ^ 40 - 1, 0) := by decide +kernel
theorem test_hold : engVa (nx (exec (.hold 3 0) (but eng [(F.MCE_VA_LO_VA, 3, 5)]))) 3 = 5 := by decide +kernel

/-- R64, R60: RUN arms and reserves; STOP of an armed polder returns it to IDLE. -/
theorem test_run_arms :
    let t := nx (exec (.run .mp 63 false) (formed .idle))
    rsOf t 63 = .armed ∧ reserved t 0 = true ∧ rsOf (nx (exec (.stop .mp 63 false) t)) 63 = .idle := by decide +kernel

/-- R64: RUN without a binding is refused with cause 1; R59: DIKE in OFF is ignored. -/
theorem test_run_refused :
    let t := nx (exec (.run .mp 63 false) (but (formed .idle) [(F.POL_BIND_SEQSEL, 63, 31)]))
    rsOf t 63 = .idle ∧ getF t F.POL_RUNINFO_ARMERR 63 = 1 := by decide +kernel
theorem test_dike_in_off : rsOf (nx (exec (.dike .mp 63 false) up)) 63 = .off := by decide +kernel

/-- R54: an octet joins a polder; one of another polder does not. -/
theorem test_octmap : owner (nx (exec (.octmapWrite .mp 62 true 0x80000000) up)) 63 = some 62 ∧
    owner (nx (exec (.octmapWrite .mp 62 false 1) (formed .dike))) 0 = some 63 := by decide +kernel

/-- R126, worked example of chapter 6: DSSET with G = 1 and CODE 40,000 is 5.0 V. -/
theorem test_dsset :
    let t := nx (exec (.dsset (.ds 31) false true 40000) (but dsOn [(F.DSC_VMAX_CODE 7, 3, 0xFFFF)]))
    getF t (F.DSC_APPLIED_CODE 7) 3 = 0x9C40 ∧ getF t (F.DSC_APPLIED_G 7) 3 = 1 := by decide +kernel
/-- R124: SET beyond the template is an operation error. -/
theorem test_set_operr : (getF (nx (exec (.set (.lvl 63) false 8 0 false 1) (formed .idle))) (F.EVT .pol) 63).testBit E.POL_LQ_OPERR =
    true := by
  decide +kernel

/-- R41: LOCK sets and stays set. -/
theorem test_lock :
    let t := nx (exec (.lockWrite .mp ⟨.dev, 0⟩ 1) up)
    getF t (F.LOCK .dev) 0 = 1 ∧ getF (nx (exec (.lockWrite .mp ⟨.dev, 0⟩ 0) t)) (F.LOCK .dev) 0 = 1 := by decide +kernel

/-- R337: OUT4 takes no ratio below 32. -/
theorem test_outdiv : (getF (nx (exec (.outdivWrite .mp 4 31 0 1) up)) (F.EVT .clk) 0).testBit E.CLK_DIV_REJECT = true ∧
    getF (nx (exec (.outdivWrite .mp 4 32 0 1) up)) (F.CLK_OUTDIV_N 4) 0 = 32 := by decide +kernel

/-- R341: the wrap of the Bourdon count; R44: BDN_LO captures it. -/
theorem test_bdn : (nx (exec .epochWrap { up with bdn := 5 })).bdn = BitVec.ofNat 64 (2 ^ 54) ∧
    getF (nx (exec (.bdnLoRead .mp) { up with bdn := BitVec.ofNat 64 (7 * 2 ^ 32 + 9) })) F.EVR_BDN_HI_T 0 = 7 := by decide +kernel

/-- R371: the header of a read of 3 words at 0x04_0000_0008 with HOP 5, TAG 0x123, EPOCH 0x45 and RETRY, written out from the layout. -/
theorem test_header :
    let h : BitVec 128 := 1 + 2 ^ 4 + 5 * 2 ^ 5 + 0x123 * 2 ^ 8 + 0x45 * 2 ^ 20 + 3 * 2 ^ 32 + 0x0400000008 * 2 ^ 48
    let k : Packet := { seq := 0, header := h, payload := [], crc := 0 }
    packHeader 1 true 5 0x123 0x45 0 3 0x0400000008 0 = h ∧ k.ptype = 1 ∧ k.retry = true ∧ k.hop = 5 ∧ k.tag = 0x123 ∧ k.epoch = 0x45 ∧
    k.len = 3 ∧ k.addr = 0x0400000008 := by decide +kernel
/-- R366: the type bytes of the control blocks. -/
theorem test_blocks : linkBlock 0xB4 = some .ts ∧ linkBlock 0xD2 = some .align ∧ linkBlock 0xE1 = some .lctl ∧
    linkBlock 0x87 = some .sop ∧
    linkBlock 0x99 = some .eop ∧ linkBlock 0x1E = some .idle ∧ linkBlock 0 = none := by decide
/-- R371, R392: a read of PAGE_ID of DEV over port 0 is answered once; a SEQ received before is acknowledged again and dropped; a CRC
that fails is NAKed. -/
theorem test_rd_answered :
    let s := phl 6 1 {}
    ((portOf (nx (exec (.rd 0 (pkt 0 1 1 0 [])) s)) 0).replay.map (fun x => (x.typ, x.status, x.len))) = [(6, 0, 1)] ∧
    (portOf (nx (exec (.rd 0 (pkt 4095 1 1 0 [])) s)) 0).replay = [] ∧
    (portOf (nx (exec (.rd 0 (pkt 4095 1 1 0 [])) s)) 0).lctl = [.ack 4095] ∧
    (portOf (nx (exec (.rd 0 { pkt 0 1 1 0 [] with crc := 0 }) s)) 0).lctl = [.nak 0] := by decide +kernel
/-- R393: DMAWR stores its words, lowest byte first. -/
theorem test_dmawr :
    let t := nx (exec (.dmawr 0 (pkt 0 3 1 0x0400000000 [0x04030201])) (phl 6 1 {}))
    Memory.read t.dram 0x0400000000 = 1 ∧ Memory.read t.dram 0x0400000003 = 4 := by decide +kernel
/-- CRC-8 (0x07) of "123456789" is 0xF4: the PEC of SMBus (R388). -/
theorem test_pec : pecOf [0x31, 0x32, 0x33, 0x34, 0x35, 0x36, 0x37, 0x38, 0x39] = 0xF4 := by decide +kernel

/-- R459, R460: ADV takes the SVN of the running image; an advance from Manufacturing to Development is allowed, to Retired not. -/
theorem test_adv :
    let f : State := { up with otp := { lc := 2 }, sec := { img := some (image 3) } }
    (nx (exec (.adv .mp) f)).otp.arb = 3 := by decide +kernel
theorem test_lifecycle : (nx (exec (.lifecycleAdvance .mp 0x5A 1) up)).sec.lcTo = some 1 ∧
    (nx (exec (.lifecycleAdvance .mp 0x5A 3) up)).sec.lcTo = none := by decide +kernel

/-- R413, worked example of chapter 19: FS069 is ACTIVE, then QUIET; the eighth recovery in the window latches it. -/
theorem test_fault :
    let s : State := but { up with flts := [(69, { hw := true })] } [(F.DSC_QSTAT_OWNED 5, 0, 1), (F.DSC_QSTAT_OWNER 5, 0, 63)]
    let t := nx (exec (.faultOccurrence 69 4096) s)
    getF t (F.FLT_X2_FSTATE 69) 0 = 1 ∧ getF (nx (exec (.faultCauseGone 69) t)) (F.FLT_X2_FSTATE 69) 0 = 2 := by decide +kernel

/-- CRC-32C of "123456789" is 0xE306_9283 (assumption log, entry 14). -/
theorem test_crc32c : crc32c [0x31, 0x32, 0x33, 0x34, 0x35, 0x36, 0x37, 0x38, 0x39] = 0xE3069283 := by decide +kernel

end Sys2Proof.Tests
end

section
/-! One step, by what the queue of waiting commands holds. -/

namespace Sys2Proof.Machine

theorem step_cons (c : Instr) (cs : List Instr) (s : State) :
    step { s with pending := c :: cs } = exec c { s with pending := cs } := rfl

theorem step_nil {s : State} (h : s.pending = []) : step s = .next (idle s) := by
  unfold step
  rw [h]

/-- Without the main supply the hub main island stands still (R341). -/
theorem idle_of_off {s : State} (h : getF s F.DEV_STATE_MAINPWR 0 = 0) : idle s = s := by
  simp [idle, isSet, h]

/-- With the main supply on, the modulator sees the Bourdon count already advanced (R330). -/
theorem idle_of_on {s : State} (h : getF s F.DEV_STATE_MAINPWR 0 ≠ 0) : idle s = modTick { s with bdn := s.bdn + 1 } := by
  simp [idle, isSet, h]

/-- Settles O1: a queue with a front command by `step_cons`, an empty one by `step_nil` and the two cases of the main supply. -/
theorem stepRunsFrontCommand : Obligations.StepRunsFrontCommand := by
  unfold Obligations.StepRunsFrontCommand
  refine ⟨step_cons, fun s hq => ?_⟩
  rw [step_nil hq]
  by_cases hoff : getF s F.DEV_STATE_MAINPWR 0 = 0
  · rw [idle_of_off hoff, if_pos hoff]
  · rw [idle_of_on hoff, if_neg hoff]

end Sys2Proof.Machine
end

section
/-! The run commands reach their meanings: a write of RUNCTL with one command bit and SCOPE, as the fabric judges it (R42, R59). -/

namespace Sys2Proof.Machine

/-! Frames of named fields: events. -/

theorem SameBut.raise {l : List (Fld × Nat)} {s t : State} (h : SameBut l s t) (p : Page) (n b : Nat) (he : (F.EVT p, n) ∈ l)
    (hs : (F.EVT_SEQ p, n) ∈ l) : SameBut l s (raise t p n b) := by
  have hc : SameBut l s (countEvt (Machine.setF t (F.EVT p) n (getF t (F.EVT p) n ||| 2 ^ b)) p n) := by
    unfold countEvt
    split
    · exact h.setF _ _ _ he
    · exact ((h.setF _ _ _ he).setF _ _ _ hs).of_regs rfl
  rcases raise_cases t p n b with e | e
  · rwa [e]
  · rw [e]
    exact fun f k hk => (getF_report ..).trans (hc f k hk)

theorem evt_ignored (s : State) (p : Nat) : (getF (ignored s p) (F.EVT .pol) p).testBit E.POL_CMD_IGNORED = true :=
  evt_raise s .pol p E.POL_CMD_IGNORED (by decide)

/-- A command that is ignored changes EVT and EVT_SEQ of its page only. -/
theorem SameBut.ignored {l : List (Fld × Nat)} {s t : State} (h : SameBut l s t) (p : Nat) (he : (F.EVT .pol, p) ∈ l)
    (hs : (F.EVT_SEQ .pol, p) ∈ l) : SameBut l s (ignored t p) :=
  h.raise .pol p _ he hs

theorem sameBut_ignored (s : State) (p : Nat) : SameBut [(F.EVT .pol, p), (F.EVT_SEQ .pol, p)] s (ignored s p) :=
  (SameBut.refl _ s).ignored p (by simp) (by simp)

/-! The write of RUNCTL. -/

/-- The command bits of RUNCTL (R59), by bit number. -/
def runCmd (j : Fin 7) : Fld :=
  [F.POL_RUNCTL_RUN, F.POL_RUNCTL_STOP, F.POL_RUNCTL_ABORT, F.POL_RUNCTL_PAUSE, F.POL_RUNCTL_RESUME, F.POL_RUNCTL_DIKE,
    F.POL_RUNCTL_RELEASE].get j

theorem pageFields_runctl (p : Nat) : pageFields .pol p 0x040 =
    [runCmd 0, runCmd 1, runCmd 2, runCmd 3, runCmd 4, runCmd 5, runCmd 6, F.POL_RUNCTL_SCOPE] := rfl

/-- What `mayWrite` says of a register of the polder page that no lock covers. -/
theorem mayWrite_runctl {s : State} {i : Initiator} {p : Nat} (h : mayWrite s i .pol p 0x040 = true) :
    servedPage s .pol p 0x040 = .yes ∧ observer s i = false ∧ isSet s F.FLT_STATE_EMBANK 0 = false := by
  unfold mayWrite at h
  simp only [Bool.and_eq_true, decide_eq_true_eq, Bool.not_eq_true', List.all_eq_true] at h
  obtain ⟨⟨hs, ho⟩, hf⟩ := h
  obtain ⟨⟨-, he⟩, -⟩ := hf F.POL_RUNCTL_SCOPE (by rw [pageFields_runctl]; simp)
  refine ⟨hs, ho, ?_⟩
  simpa [show embankOk F.POL_RUNCTL_SCOPE = false by decide] using he

/-- No run lock covers RUNCTL (R63). -/
theorem runlockedF_runctl (s : State) (p : Nat) {f : Fld} (h : f ∈ pageFields .pol p 0x040) : runlockedF s f p = false := by
  rw [pageFields_runctl] at h
  simp only [List.mem_cons, List.not_mem_nil, or_false] at h
  rcases h with rfl | rfl | rfl | rfl | rfl | rfl | rfl | rfl <;> exact Bool.and_false _

/-- A command bit is judged by itself: a 0 does nothing, a 1 is accepted unless the command still runs (R40, R42). -/
theorem judge_runCmd {s : State} {i : Initiator} (ho : observer s i = false) (he : isSet s F.FLT_STATE_EMBANK 0 = false) (j : Fin 7)
    (p : Nat) (mixed : Bool) (v : Nat) : judge s i (runCmd j) p false mixed v =
      if v = 0 then {} else if getF s (runCmd j) p = 0 then { ok := some v } else { why := [.busy] } := by
  have hc : cleanVal (runCmd j) p v = v := by
    have h : ∀ j, ¬ runCmd j = F.LOCK (runCmd j).page ∧ ¬ runCmd j = F.FORCE (runCmd j).page := by decide
    simp [cleanVal, h j]
  have ht : ∀ j, (runCmd j).ty = .sc ∧ (runCmd j).priv = false ∧ (runCmd j).page = .pol ∧ (runCmd j).space = 0 ∧
      (runCmd j).off = 0x040 := by decide
  obtain ⟨hsc, hpr, hpg, hsp, hoff⟩ := ht j
  have hl : lockedF s (runCmd j) p = false := by simp [lockedF, he, hpg, hsp, hoff]
  simp only [judge, hc, hsc, hpr, ho, hl]
  by_cases hv : v = 0 <;> by_cases hg : getF s (runCmd j) p = 0 <;> simp [hv, hg]

/-- SCOPE takes what is written. -/
theorem judge_scope {s : State} {i : Initiator} (ho : observer s i = false) (he : isSet s F.FLT_STATE_EMBANK 0 = false) (p : Nat)
    (mixed : Bool) (v : Nat) : judge s i F.POL_RUNCTL_SCOPE p false mixed v = { ok := some v } := by
  have hl : lockedF s F.POL_RUNCTL_SCOPE p = false := by simp [lockedF, he]
  simp [judge, cleanVal, hl, ho]

/-- The accepted fields of a write and their values. -/
def takenFields (js : List (Fld × Judged)) : List (Fld × Nat) := js.filterMap (fun x => x.2.ok.map (fun y => (x.1, y)))

/-- A write to a register of the polder page beyond its header, of which no field is refused: what is accepted is stored and takes
its effect. -/
theorem writeReg_pol {s : State} {i : Initiator} {p off v : Nat} {js : List (Fld × Judged)} (hoff : 0x040 ≤ off)
    (hpmu : pmuReg .pol off = false) (hjs : (pageFields .pol p off).map (fun f => (f, judge s i f p (runlockedF s f p)
      ((pageFields .pol p off).any (!·.priv)) (bits v f.lo f.w.val))) = js) (hwhy : js.flatMap (fun x => x.2.why) = []) :
    writeReg s i .pol p off v = polWrite ((takenFields js).foldl (fun s x => storeF s p x) s) p off v (takenFields js) := by
  have hh (t : State) (m f : Nat) (acc : List (Fld × Nat)) : headWrite t .pol p off m f acc = t := by
    have h1 : off ≠ (F.FORCE .pol).off := by show off ≠ 0x024; omega
    simp [headWrite, h1, show off ≠ 0x018 by omega, show off ≠ 0x01C by omega]
  have hr (t : State) : refuse t i .pol p false off [] = t := rfl
  unfold writeReg
  simp only [show off ≠ 0x034 by omega, show off ≠ 0x030 by omega, hpmu, hjs, hwhy, hh, hr, show ¬ off < 0x040 by omega,
    decide_false, Bool.false_and, false_and, if_false, Bool.false_eq_true]
  rfl

/-- The fields of RUNCTL in a word with the one command `j` and SCOPE. -/
theorem bits_runCmd (j k : Fin 7) (scope : Bool) :
    bits (2 ^ j.val + 256 * b2n scope) (runCmd k).lo (runCmd k).w.val = if k = j then 1 else 0 := by
  revert j k scope; decide

theorem bits_scope (j : Fin 7) (scope : Bool) :
    bits (2 ^ j.val + 256 * b2n scope) F.POL_RUNCTL_SCOPE.lo F.POL_RUNCTL_SCOPE.w.val = b2n scope := by
  revert j scope; decide

theorem runBits_runCmd (j : Fin 7) (v b : Nat) : runBits [(runCmd j, v), (F.POL_RUNCTL_SCOPE, b)] = 2 ^ j.val := by
  fin_cases j <;> rfl

/-- What becomes of the fields of RUNCTL in such a word: the command and SCOPE are accepted, nothing is refused. -/
def runJudged (j : Fin 7) (scope : Bool) : List (Fld × Judged) :=
  (List.finRange 7).map (fun k => (runCmd k, if k = j then ({ ok := some 1 } : Judged) else {})) ++
    [(F.POL_RUNCTL_SCOPE, { ok := some (b2n scope) })]

theorem takenFields_runJudged (j : Fin 7) (scope : Bool) :
    takenFields (runJudged j scope) = [(runCmd j, 1), (F.POL_RUNCTL_SCOPE, b2n scope)] := by
  revert j; decide +revert

theorem runJudged_refused (j : Fin 7) (scope : Bool) : (runJudged j scope).flatMap (fun x => x.2.why) = [] := by
  revert j scope; decide

theorem runJudged_stored (s : State) (p : Nat) (j : Fin 7) (scope : Bool) :
    [(runCmd j, 1), (F.POL_RUNCTL_SCOPE, b2n scope)].foldl (fun s x => storeF s p x) (cycle s) = scopeSet s p scope := by
  fin_cases j <;> rfl

/-- RUNCTL written with the one command `j` and SCOPE: the command acts in the state in which SCOPE has its value (R59, R67). -/
theorem hostWrite_runctl {s : State} {i : Initiator} {p : Nat} (h : mayWrite s i .pol p 0x040 = true) (j : Fin 7)
    (hj : getF s (runCmd j) p = 0) (scope : Bool) :
    hostWrite (cycle s) i .pol p 0x040 (2 ^ j.val + 256 * b2n scope) = runctl (scopeSet s p scope) p (2 ^ j.val) scope := by
  obtain ⟨hs, ho, he⟩ := mayWrite_runctl h
  have ho' : observer (cycle s) i = false := ho
  have he' : isSet (cycle s) F.FLT_STATE_EMBANK 0 = false := he
  have hl : ∀ f ∈ pageFields .pol p 0x040, runlockedF (cycle s) f p = false := fun f hf => runlockedF_runctl _ p hf
  have hg : isSet (scopeSet s p scope) F.POL_RUNCTL_SCOPE p = scope := by
    unfold isSet scopeSet; rw [getF_setF_same]; cases scope <;> rfl
  have hw : writeReg (cycle s) i .pol p 0x040 (2 ^ j.val + 256 * b2n scope) = runctl (scopeSet s p scope) p (2 ^ j.val) scope := by
    have hcmd (k : Fin 7) (mixed : Bool) : judge (cycle s) i (runCmd k) p (runlockedF (cycle s) (runCmd k) p) mixed
        (bits (2 ^ j.val + 256 * b2n scope) (runCmd k).lo (runCmd k).w.val) = if k = j then { ok := some 1 } else {} := by
      rw [hl _ (by rw [pageFields_runctl]; fin_cases k <;> simp), judge_runCmd ho' he', bits_runCmd]
      by_cases hk : k = j
      · subst hk; simp [hj]
      · simp [hk]
    have hsc (mixed : Bool) : judge (cycle s) i F.POL_RUNCTL_SCOPE p (runlockedF (cycle s) F.POL_RUNCTL_SCOPE p) mixed
        (bits (2 ^ j.val + 256 * b2n scope) F.POL_RUNCTL_SCOPE.lo F.POL_RUNCTL_SCOPE.w.val) = { ok := some (b2n scope) } := by
      rw [hl _ (by rw [pageFields_runctl]; simp), judge_scope ho' he', bits_scope]
    rw [writeReg_pol (js := runJudged j scope) (by decide) (by decide) (by
      rw [pageFields_runctl]
      simp only [List.map_cons, List.map_nil, hcmd, hsc]
      rfl) (runJudged_refused j scope), takenFields_runJudged, runJudged_stored]
    simp [polWrite, runBits_runCmd, hg]
  unfold hostWrite pageWriteReq
  rw [show servedPage (cycle s) .pol p 0x040 = .yes from hs]
  exact hw

/-! The commands: in the state in which SCOPE has its value each acts as its rule says. -/

section
variable {s : State} {i : Initiator} {p : Fin 64} (h : mayWrite s i .pol p.val 0x040 = true) (scope : Bool)
include h

theorem exec_run (hj : getF s F.POL_RUNCTL_RUN p.val = 0) :
    exec (.run i p scope) s = .next (cmdRun (scopeSet s p.val scope) p.val scope) :=
  congrArg Host.Outcome.next (hostWrite_runctl h 0 hj scope)

theorem exec_stop (hj : getF s F.POL_RUNCTL_STOP p.val = 0) :
    exec (.stop i p scope) s = .next (cmdStop (scopeSet s p.val scope) p.val scope false) :=
  congrArg Host.Outcome.next (hostWrite_runctl h 1 hj scope)

theorem exec_abort (hj : getF s F.POL_RUNCTL_ABORT p.val = 0) :
    exec (.abort i p scope) s = .next (cmdStop (scopeSet s p.val scope) p.val scope true) :=
  congrArg Host.Outcome.next (hostWrite_runctl h 2 hj scope)

theorem exec_pause (hj : getF s F.POL_RUNCTL_PAUSE p.val = 0) :
    exec (.pause i p scope) s = .next (cmdPause (scopeSet s p.val scope) p.val scope) :=
  congrArg Host.Outcome.next (hostWrite_runctl h 3 hj scope)

theorem exec_resume (hj : getF s F.POL_RUNCTL_RESUME p.val = 0) :
    exec (.resume i p scope) s = .next (cmdResume (scopeSet s p.val scope) p.val scope) :=
  congrArg Host.Outcome.next (hostWrite_runctl h 4 hj scope)

theorem exec_dike (hj : getF s F.POL_RUNCTL_DIKE p.val = 0) :
    exec (.dike i p scope) s = .next (cmdDike (scopeSet s p.val scope) p.val scope) :=
  congrArg Host.Outcome.next (hostWrite_runctl h 5 hj scope)

theorem exec_release (hj : getF s F.POL_RUNCTL_RELEASE p.val = 0) :
    exec (.release i p scope) s = .next (cmdRelease (scopeSet s p.val scope) p.val scope) :=
  congrArg Host.Outcome.next (hostWrite_runctl h 6 hj scope)

end

end Sys2Proof.Machine
end

section
/-! The run states of polders (R58) under the operations that move them: each takes the one polder it names to one state, and the
same operation over the members of a binding takes all of them there together (R60). -/

namespace Sys2Proof.Machine

theorem rsOf_congr {s t : State} {q : Nat} (h : getF t F.POL_STATE_RSTATE q = getF s F.POL_STATE_RSTATE q) : rsOf t q = rsOf s q :=
  congrArg RS.ofCode h

theorem rsOf_setRs (s : State) (p q : Nat) (r : RS) : rsOf (setRs s p r) q = if q = p then r else rsOf s q := by
  split
  · next h =>
    subst h
    unfold rsOf setRs
    rw [getF_setF_same]
    cases r <;> rfl
  · next h => exact rsOf_congr (getF_setF_inst s _ _ h)

/-- Where one operation takes the polder it names to state `r`, the same over a list takes all of the list there. -/
theorem rsOf_forAll_to {g : State → Nat → State} {r : RS} (h : ∀ s n q, rsOf (g s n) q = if q = n then r else rsOf s q)
    (l : List Nat) (s : State) (q : Nat) : rsOf (forAll l s g) q = if q ∈ l then r else rsOf s q := by
  unfold forAll
  induction l generalizing s with
  | nil => simp
  | cons n l ih =>
    rw [List.foldl_cons, ih, h]
    by_cases hn : q = n <;> by_cases hl : q ∈ l <;> simp [hn, hl]

/-- Over a list, an operation that moves no polder moves none. -/
theorem rsOf_forAll_keep {g : State → Nat → State} (h : ∀ s n q, rsOf (g s n) q = rsOf s q) (l : List Nat) (s : State) (q : Nat) :
    rsOf (forAll l s g) q = rsOf s q := by
  unfold forAll
  induction l generalizing s with
  | nil => rfl
  | cons n l ih => rw [List.foldl_cons, ih, h]

/-- What every step keeps holds over a list. -/
theorem forAll_keeps {I : State → Prop} {g : State → Nat → State} (hI : ∀ s m, I s → I (g s m)) (l : List Nat) {s : State}
    (hs : I s) : I (forAll l s g) := by
  unfold forAll
  induction l generalizing s with
  | nil => exact hs
  | cons m l ih => exact ih (hI s m hs)

/-- What the operation brings about on one polder of the list, and never undoes, holds at the end; `I` is what the operation keeps and
needs. -/
theorem forAll_reaches {I P : State → Prop} {g : State → Nat → State} {n : Nat} (hI : ∀ s m, I s → I (g s m))
    (hset : ∀ s, I s → P (g s n)) (hkeep : ∀ s m, P s → P (g s m)) {l : List Nat} (hn : n ∈ l) {s : State} (hs : I s) :
    P (forAll l s g) := by
  induction l generalizing s with
  | nil => cases hn
  | cons m l ih =>
    rcases List.mem_cons.mp hn with rfl | hl
    · exact forAll_keeps hkeep l (hset s hs)
    · exact ih hl (hI s m hs)

/-! One member. -/

theorem rsOf_disarm (s : State) (p : Nat) (abort : Bool) (q : Nat) :
    rsOf (disarm s p abort) q = if q = p then .idle else rsOf s q := by
  have h1 : rsOf (if abort then abortPins (endsBurst s p (now s)) p else endsBurst s p (now s)) q = rsOf s q :=
    rsOf_congr (by simp only [getF_ite, abortPins_rs, endsBurst_rs, ite_self])
  unfold disarm
  rw [rsOf_congr (endCmds_rs ..), rsOf_setRs, h1]

theorem rsOf_toStopping (s : State) (b p : Nat) (abort : Bool) (q : Nat) :
    rsOf (toStopping s b p abort) q = if q = p then .stopping else rsOf s q := by
  rw [← rsOf_setRs]
  unfold toStopping
  refine rsOf_congr ?_
  simp (disch := decide) only [parkOut_page, endsBurst_rs, getF_ite, abortPins_rs, closeRec_page, closeEvent_page, closeGate_page,
    markRun_page, runEnd_page, getF_setPol, setF_rs, ite_self]

theorem rsOf_armPol (s : State) (p b q : Nat) : rsOf (armPol s p b) q = if q = p then .armed else rsOf s q := by
  unfold armPol
  extract_lets s1 x s2
  have h2 : rsOf s2 q = rsOf s q := rsOf_congr (by simp (disch := decide) only [s2, s1, getF_setPol, clearRun_rs, reclaimEnd_page])
  rw [rsOf_congr (s := setRs s2 p .armed) (by simp (disch := decide) only [takePdly_page, acqArmed_page]), rsOf_setRs, h2]

theorem rsOf_dikeState (s : State) (p src q : Nat) : rsOf (dikeState s p src) q = if q = p then .dike else rsOf s q := by
  rw [← rsOf_setRs]
  unfold dikeState
  exact rsOf_congr (by simp (disch := decide) only [raise_rs, setF_rs, endCmds_rs, cancelRestart_rs, getF_setPol])

/-- R73: entry to DIKE, from any state but OFF. -/
theorem rsOf_dikeEntry (s : State) (p src q : Nat) :
    rsOf (dikeEntry s p src) q = if q = p ∧ rsOf s p ≠ .off then .dike else rsOf s q := by
  unfold dikeEntry
  split
  · next h => simp [h]
  · next h =>
    rw [rsOf_congr (dikeAgain_rs ..)]
    by_cases hq : q = p
    · subst hq; simp [h]
    · simp [hq]
  · next hoff _ =>
    extract_lets s1 s2 s3
    have h2 : rsOf s2 q = if q = p then .dike else rsOf s q := by
      rw [rsOf_dikeState, rsOf_congr (s := s) (by simp (disch := decide) only [s1, dikePins_rs, markRun_page, dikeBench_rs,
        dikeRecords_page])]
    have h3 : rsOf s3 q = rsOf s2 q := by
      simp only [s3]
      split
      · exact rsOf_congr (leaveBnd_page _ _ _ _ (by decide) (by decide) (by decide))
      · rfl
    rw [rsOf_congr (clearBenched_rs ..), h3, h2]
    simp [show rsOf s p ≠ .off from hoff]

/-- Every member of the list that is not OFF enters DIKE. -/
theorem rsOf_forAll_dikeEntry (l : List Nat) (src : Nat) (s : State) (q : Nat) :
    rsOf (forAll l s (fun s p => dikeEntry s p src)) q = if q ∈ l ∧ rsOf s q ≠ .off then .dike else rsOf s q := by
  unfold forAll
  induction l generalizing s with
  | nil => simp
  | cons n l ih =>
    rw [List.foldl_cons, ih, rsOf_dikeEntry]
    by_cases hn : q = n
    · subst hn
      by_cases ho : rsOf s q = .off <;> simp [ho]
    · simp [hn]

end Sys2Proof.Machine
end

section
/-! PAUSE and RESUME (R60, R67, R183, R186). -/

namespace Sys2Proof.Machine

/-! Commands that reach one member of a larger consort only (R67). -/

theorem outOfReach_of {s : State} {p : Nat} {scope : Bool} (h : 2 ≤ (consort s p).length) (hs : scope = false) :
    (multi s p && !scope) = true := by simp [multi, h, hs]

theorem inReach_of {s : State} {p : Nat} {scope : Bool} (h : 2 ≤ (consort s p).length → scope = true) :
    (multi s p && !scope) = false := by
  by_cases hl : 2 ≤ (consort s p).length
  · simp [h hl]
  · simp [multi, hl]

/-! PAUSE. -/

theorem cmdPause_outOfReach {s : State} {p : Nat} {scope : Bool} (h : (multi s p && !scope) = true) :
    cmdPause s p scope = ignored s p := by simp only [cmdPause, h, if_true]

theorem cmdPause_running {s : State} {p b : Nat} {scope : Bool} (h : (multi s p && !scope) = false) (hb : bindOf s p = some b)
    (hr : ∀ q ∈ bndMem s b, rsOf s q = .running) : cmdPause s p scope =
      if (bndMem s b).contains p then setF (setBnd s b { bndOf s b with pauseReq := true }) F.POL_RUNCTL_PAUSE p 1
      else setBnd s b { bndOf s b with pauseReq := true } := by
  have hall : (bndMem s b).all (fun q => rsOf s q == .running) = true := by simpa using hr
  simp only [cmdPause, h, hb, hall, if_true, Bool.false_eq_true, if_false]

theorem cmdPause_notRunning {s : State} {p b : Nat} {scope : Bool} (h : (multi s p && !scope) = false) (hb : bindOf s p = some b)
    (hr : ∃ q ∈ bndMem s b, rsOf s q ≠ .running) : cmdPause s p scope = ignored s p := by
  have hall : (bndMem s b).all (fun q => rsOf s q == .running) = false := by simpa using hr
  simp only [cmdPause, h, hb, hall, Bool.false_eq_true, if_false]

/-! RESUME. -/

theorem rsOf_resumeRun (s : State) (b q : Nat) :
    rsOf (resumeRun s b) q = if q ∈ bndMem s b then .running else rsOf s q := by
  have member (t : Stamp) (u : State) (p q : Nat) : rsOf (endCmds (setF (setRs (endPark (markRun u p 5) p t) p .running)
      F.POL_STATE_PAUSE_CAUSE p 0) p) q = if q = p then .running else rsOf u q := by
    rw [rsOf_congr (endCmds_rs ..), rsOf_congr (setF_rs _ _ _ _ (by decide)), rsOf_setRs,
      rsOf_congr (s := u) (by simp (disch := decide) only [endPark_page, markRun_page])]
  unfold resumeRun
  extract_lets y per need k t mem s1 x s2 s3 tk v v' s5 s4
  have h1 : rsOf s1 q = if q ∈ bndMem s b then .running else rsOf s q := rsOf_forAll_to (member t) _ _ _
  have h3 : rsOf s3 q = rsOf s1 q := rsOf_congr (by simp (disch := decide) only [s3, s2, insertIdle_page, getF_setBnd])
  have h4 : rsOf s4 q = rsOf s3 q := by
    simp only [s4]
    split
    · rw [rsOf_forAll_keep (fun _ _ _ => rsOf_congr (addCt_rs _ _ _ _ (by decide)))]
      exact rsOf_congr (by simp (disch := simp only [Fld.tag, fldKey, Page.code]; omega) only [s5, setF_rs])
    · rfl
  rw [rsOf_congr (s := s4) (by simp (disch := first | decide | (simp only [Fld.tag, fldKey, Page.code]; omega)) only [setIssuing_page, setF_rs]), h4, h3, h1]

theorem cmdResume_outOfReach {s : State} {p : Nat} {scope : Bool} (h : (multi s p && !scope) = true) :
    cmdResume s p scope = ignored s p := by simp only [cmdResume, h, if_true]

theorem cmdResume_led {s : State} {p b : Nat} {scope : Bool} (h : (multi s p && !scope) = false) (hb : bindOf s p = some b)
    (hr : ∀ q ∈ bndMem s b, rsOf s q = .paused) (hg : guardWords s b ≤ leadOf s b) : cmdResume s p scope = resumeRun s b := by
  have hall : (bndMem s b).all (fun q => rsOf s q == .paused) = true := by simpa using hr
  simp only [cmdResume, h, hb, hall, Nat.not_lt.mpr hg, if_true, Bool.false_eq_true, if_false]

theorem cmdResume_short {s : State} {p b : Nat} {scope : Bool} (h : (multi s p && !scope) = false) (hb : bindOf s p = some b)
    (hr : ∀ q ∈ bndMem s b, rsOf s q = .paused) (hg : leadOf s b < guardWords s b) : cmdResume s p scope =
      ignored (forAll (bndMem s b) s (fun s q => setF s F.POL_STATE_PAUSE_CAUSE q 2)) p := by
  have hall : (bndMem s b).all (fun q => rsOf s q == .paused) = true := by simpa using hr
  simp only [cmdResume, h, hb, hall, hg, if_true, Bool.false_eq_true, if_false]

theorem cmdResume_notPaused {s : State} {p b : Nat} {scope : Bool} (h : (multi s p && !scope) = false) (hb : bindOf s p = some b)
    (hr : ∃ q ∈ bndMem s b, rsOf s q ≠ .paused) : cmdResume s p scope = ignored s p := by
  have hall : (bndMem s b).all (fun q => rsOf s q == .paused) = false := by simpa using hr
  simp only [cmdResume, h, hb, hall, Bool.false_eq_true, if_false]

/-- One field written over a list of instances reads the value on each of them. -/
theorem getF_forAll_setF (f : Fld) (v : Nat) {l : List Nat} {q : Nat} (h : q ∈ l) (s : State) :
    getF (forAll l s (fun s n => setF s f n v)) f q = v % 2 ^ f.w.val := by
  refine forAll_reaches (g := fun s n => setF s f n v) (n := q) (I := fun _ => True) (P := fun u => getF u f q = v % 2 ^ f.w.val)
    (fun _ _ h => h) (fun u _ => getF_setF_same u f q v) (fun u n hu => ?_) h trivial
  by_cases hn : q = n
  · rw [hn]; exact getF_setF_same ..
  · rw [getF_setF_inst _ _ _ hn]; exact hu

/-- Settles O12: one lemma per branch of each command; RESUME of a paused binding moves its members by `rsOf_resumeRun`. -/
theorem pauseAndResume : Obligations.PauseAndResume := by
  unfold Obligations.PauseAndResume
  intro i p scope s hw hp hr z k ign
  have pause : exec (.pause i p scope) s = .next (cmdPause z k scope) := exec_pause hw scope hp
  have resume : exec (.resume i p scope) s = .next (cmdResume z k scope) := exec_resume hw scope hr
  refine ⟨fun hm hs => ?_, fun hm b hb => ?_⟩
  · exact ⟨⟨_, pause, cmdPause_outOfReach (outOfReach_of hm hs) ▸ evt_ignored z k⟩,
      ⟨_, resume, cmdResume_outOfReach (outOfReach_of hm hs) ▸ evt_ignored z k⟩⟩
  have hc : (multi z k && !scope) = false := inReach_of hm
  refine ⟨fun hall => ⟨_, pause, ?_⟩, fun hne => ⟨_, pause, cmdPause_notRunning hc hb hne ▸ evt_ignored z k⟩,
    fun hall => ⟨fun hg => ⟨_, resume, fun q => ?_⟩, fun hg => ⟨_, resume, ?_⟩⟩,
    fun hne => ⟨_, resume, cmdResume_notPaused hc hb hne ▸ evt_ignored z k⟩⟩
  · rw [cmdPause_running hc hb hall]
    have hz : SameBut [(F.POL_RUNCTL_PAUSE, k)] z (setBnd z b { bndOf z b with pauseReq := true }) := (SameBut.refl _ z).of_regs rfl
    split
    · exact ⟨by simp, hz.setF _ _ _ (by simp)⟩
    · exact ⟨by simp, hz⟩
  · rw [cmdResume_led hc hb hall hg, rsOf_resumeRun]
  · rw [cmdResume_short hc hb hall hg]
    refine ⟨evt_ignored _ k, fun q hq => ?_⟩
    exact (getF_raise _ _ _ _ _ _ (by decide) (by decide)).trans (getF_forAll_setF F.POL_STATE_PAUSE_CAUSE 2 hq z)

end Sys2Proof.Machine
end

section
/-! The end of STOPPING (R60, R68, R112): parametric orders that are due act before the members are found to have played out. -/

namespace Sys2Proof.Machine

/-- The state in which STOPPING_COMPLETE looks at the members: the orders due up to the end of the last vector have acted (R112). -/
def stopsAt (s : State) (k : Nat) : State := pmuDue (pmuNowDue (cycle s)) ((polOf s k).endT + 1)

/-- A member still plays or converts once the orders due have acted: STOPPING_COMPLETE does no more than that. -/
theorem exec_stoppingComplete_unsettled {p : Fin 64} {s : State} (hr : rsOf (stopsAt s p.val) p.val = .stopping)
    (hg : (stopGroup (stopsAt s p.val) p.val).all (settled (stopsAt s p.val)) = false) :
    exec (.stoppingComplete p) s = .next (stopsAt s p.val) := by
  show execStoppingComplete p s = _
  unfold execStoppingComplete
  extract_lets k u r g
  have hu : u = stopsAt s p.val := rfl
  simp only [g, r, k, hu, hr, hg, beq_self_eq_true, if_true, Bool.false_eq_true, if_false]

/-- Polder 0 owns octet 0 and stops. Channel 0 has its unit on the pin, and a burst of one conversion has been ordered for stamp 0 and
has not begun. -/
def burstDue : State :=
  let fields : List (Fld × Nat) := [(F.POL_STATE_RSTATE, RS.stopping.code), (F.OCT_STATE_OWNED, 1), (F.OCT_STATE_PSTATE, 2),
    (F.OCT_X2_PMUCFG_PMUEN 0, 1), (F.OCT_X2_PMUCFG_CONNECT 0, 1), (F.OCT_X2_PMUCFG_MODE 0, 1)]
  setPol (fields.foldl (fun s x => setF s x.1 0 x.2) State.reset) 0 { trigs := [{ t0 := 0, act := .burst 1 }] }

/-- Nothing of polder 0 is outstanding: `settled` counts a conversion that is ordered, but not a burst. -/
theorem burstDue_settled : rsOf burstDue 0 = .stopping ∧ stopGroup burstDue 0 = [0] ∧ settled burstDue 0 = true ∧
    isSet burstDue F.POL_STATE_RESTART_PENDING 0 = false ∧ (polOf burstDue 0).benchDike = false := by decide +kernel

/-- The burst has begun by the time the members are looked at, and its conversion is outstanding. -/
theorem burstDue_unsettled : rsOf (stopsAt burstDue 0) 0 = .stopping ∧
    (stopGroup (stopsAt burstDue 0) 0).all (settled (stopsAt burstDue 0)) = false := by decide +kernel

/-- Refutes O14: in `burstDue` every stopping member is settled, but STOPPING_COMPLETE first lets the burst that is due begin (R112), finds
its conversion outstanding and leaves polder 0 in STOPPING, where the statement has it in IDLE. -/
theorem not_bindingStartsAndEnds : ¬ Obligations.BindingStartsAndEnds := by
  unfold Obligations.BindingStartsAndEnds
  rintro ⟨-, h⟩
  obtain ⟨hr, hg, hset, hpend, hdike⟩ := burstDue_settled
  obtain ⟨hr', hg'⟩ := burstDue_unsettled
  obtain ⟨t, ht, hrs⟩ := (h 0 burstDue).1 hr (by rw [show stopGroup burstDue (0 : Fin 64).val = [0] from hg]; simpa using hset)
  rw [exec_stoppingComplete_unsettled (p := 0) hr' hg', Host.Outcome.next.injEq] at ht
  have h0 := hrs 0
  subst ht
  simp only [Fin.isValue, Fin.val_zero, hr', hg, List.mem_singleton, hpend, hdike, exists_eq_left] at h0
  simp at h0

end Sys2Proof.Machine
end

section
/-! RUN (R62, R64, R67, R69): arming and the cases in which nobody arms. -/

namespace Sys2Proof.Machine

/-! Arming. -/

theorem rsOf_arm (s : State) (p q : Nat) :
    rsOf (arm s p) q = if q ∈ consort s p ∧ rsOf s q = .idle then .armed else rsOf s q := by
  unfold arm
  extract_lets a mem b go out s1 s2 s3
  have h1 : rsOf s1 q = rsOf s q := rsOf_congr (by simp (disch := decide) only [s1, reserve_page])
  have h2 : rsOf s2 q = if q ∈ go then .armed else rsOf s q := by
    rw [← h1]; exact rsOf_forAll_to (fun u n r => rsOf_armPol u n b r) go s1 q
  have h3 : rsOf s3 q = rsOf s2 q :=
    rsOf_forAll_keep (fun _ _ _ => rsOf_congr (by simp (disch := decide) only [setF_rs, raise_rs])) out s2 q
  have hgo : q ∈ go ↔ q ∈ consort s p ∧ rsOf s q = .idle := by simp [go, mem]
  rw [← if_congr hgo rfl rfl, ← h2, ← h3]
  split
  · exact rsOf_forAll_keep (fun _ _ _ => rsOf_congr (by simp (disch := decide) only [raise_rs, getF_setPol])) go s3 q
  · rfl

theorem getB_congr {s t : State} {b : Nat} {fs fm : Fld} (hs : getF t fs b = getF s fs b)
    (hm : getF t fm (b - 16) = getF s fm (b - 16)) : getB t b fs fm = getB s b fs fm := by
  unfold getB; rw [hs, hm]

/-- An operation that leaves a field for every member of a list leaves it over the list. -/
theorem getF_forAll_mem {f : Fld} {m : Nat} {g : State → Nat → State} {l : List Nat}
    (h : ∀ n ∈ l, ∀ s, getF (g s n) f m = getF s f m) (s : State) : getF (forAll l s g) f m = getF s f m := by
  unfold forAll
  induction l generalizing s with
  | nil => rfl
  | cons n l ih =>
    rw [List.foldl_cons, ih (fun x hx => h x (List.mem_cons_of_mem _ hx)), h n List.mem_cons_self]

/-- Arming an engine leaves it reserved. -/
theorem engArm_reserved (s : State) (m : Nat) (mem : List Nat) (n : Nat) :
    getF (engArm s m mem) F.MCE_STATE_RESERVED n = getF s F.MCE_STATE_RESERVED n := by
  unfold engArm
  extract_lets f0 s1 s2 s3 s4 s5
  have h2 : getF s2 F.MCE_STATE_RESERVED n = getF s F.MCE_STATE_RESERVED n := by
    have h1 : getF s1 F.MCE_STATE_RESERVED n = getF s F.MCE_STATE_RESERVED n := getF_setF_tag _ _ _ _ (by decide)
    simp only [s2]
    split
    · rw [forAll_page (fun _ _ => getF_launch ..), h1]
    · exact h1
  have h3 : getF s3 F.MCE_STATE_RESERVED n = getF s2 F.MCE_STATE_RESERVED n :=
    getF_forAll_mem (fun k hk _ => getF_setF_tag _ _ _ _ (by
      have := List.mem_range.mp hk
      simp only [Fld.tag, fldKey, Page.code]; omega)) s2
  rw [← h2, ← h3]
  simp (disch := decide) only [s4, s5, setVa, getF_setF_tag]

theorem reserved_reserve (s : State) (b a : Nat) (mem : List Nat) : reserved (reserve s b a mem) b = true := by
  unfold reserved reserve getB
  by_cases hb : b < 16
  · simp (disch := first | decide | (simp only [Fld.tag, fldKey, Page.code]; omega)) only [hb, if_true, cacheAlloc_page, getF_setBnd,
      setF_page, clearLatches, setCause, setB, getF_setF_tag, getF_setF_same]
    decide
  · simp (disch := first | decide | (simp only [Fld.tag, fldKey, Page.code]; omega)) only [hb, if_false, cacheAlloc_page,
      engArm_reserved, getF_setBnd, clearLatches, setCause, setB, getF_setF_tag, getF_setF_same]
    decide

/-- R64, R196, R223: the binding that the anchor names is reserved. -/
theorem reserved_arm (s : State) (p : Nat) : reserved (arm s p) (getF s F.POL_BIND_SEQSEL (anchor s p)) = true := by
  have keep {f : Fld} {n : Nat} (hslu : f.page ≠ .slu) (hpol : f.page ≠ .pol) (hacq : f.page ≠ .acq) (hoct : f.page ≠ .oct) :
      getF (arm s p) f n = getF (reserve s (getF s F.POL_BIND_SEQSEL (anchor s p)) (anchor s p)
        ((consort s p).filter (fun q => rsOf s q == .idle))) f n := by
    unfold arm
    extract_lets a mem b go out s1 s2 s3
    have h2 : getF s2 f n = getF s1 f n := forAll_page (fun _ _ => armPol_page _ _ _ hslu hpol hacq hoct) go s1
    have h3 : getF s3 f n = getF s2 f n :=
      forAll_page (fun _ _ => by simp (disch := exact hpol) only [setF_page, raise_page]) out s2
    rw [← h2, ← h3]
    split
    · exact forAll_page (fun _ _ => by simp (disch := exact hpol) only [raise_page, getF_setPol]) go s3
    · rfl
  rw [← reserved_reserve s _ (anchor s p) ((consort s p).filter (fun q => rsOf s q == .idle))]
  unfold reserved
  rw [getB_congr (keep (by decide) (by decide) (by decide) (by decide)) (keep (by decide) (by decide) (by decide) (by decide))]

/-! The consort of a polder is read from CSRT and the run states alone (R66). -/

theorem consort_congr {s t : State} (hcen : ∀ q, getF t F.POL_CSRT_CEN q = getF s F.POL_CSRT_CEN q)
    (hcid : ∀ q, getF t F.POL_CSRT_CID q = getF s F.POL_CSRT_CID q) (hrs : ∀ q, rsOf t q = rsOf s q) (p : Nat) :
    consort t p = consort s p := by
  have hp : (isSet t F.POL_CSRT_CEN p && rsOf t p != .off) = (isSet s F.POL_CSRT_CEN p && rsOf s p != .off) := by
    simp only [isSet, hcen, hrs]
  have hq (q : Nat) : (isSet t F.POL_CSRT_CEN q && rsOf t q != .off && getF t F.POL_CSRT_CID q == getF t F.POL_CSRT_CID p) =
      (isSet s F.POL_CSRT_CEN q && rsOf s q != .off && getF s F.POL_CSRT_CID q == getF s F.POL_CSRT_CID p) := by
    simp only [isSet, hcen, hcid, hrs]
  simp only [consort, hp, hq]

theorem mem_consort_self (s : State) {p : Nat} (hp : p < 64) : p ∈ consort s p := by
  unfold consort
  split
  · next h => simpa [hp] using h
  · simp

/-- A write of ARMERR leaves the consorts and their binding. -/
theorem consort_setArmErr (s : State) (k v p : Nat) : consort (setF s F.POL_RUNINFO_ARMERR k v) p = consort s p :=
  consort_congr (fun _ => getF_setF_tag _ _ _ _ (by decide)) (fun _ => getF_setF_tag _ _ _ _ (by decide))
    (fun _ => rsOf_congr (setF_rs _ _ _ _ (by decide))) p

theorem armErr_lt (s : State) (p : Nat) : armErr s p < 16 := by
  unfold armErr
  extract_lets a mem b n
  split_ifs <;> decide

/-! RUN judged (R64). -/

theorem judgeRun_fails {s : State} {p : Nat} (h : armErr s p ≠ 0) :
    judgeRun s p = raise (setF s F.POL_RUNINFO_ARMERR p (armErr s p)) .pol p E.POL_ARM_FAIL := by
  simp only [judgeRun, h, ne_eq, not_false_eq_true, if_true]

theorem judgeRun_running {s : State} {p : Nat} (h : armErr s p = 0) (hr : ∃ q ∈ consort s p, (rsOf s q).busy = true) :
    judgeRun s p = ignored (setF s F.POL_RUNINFO_ARMERR p 0) p := by
  have hrun : running s p = true := by simpa [running] using hr
  simp only [judgeRun, h, hrun, ne_eq, not_true_eq_false, if_false, if_true]

theorem judgeRun_arms {s : State} {p : Nat} (h : armErr s p = 0) (hr : ∀ q ∈ consort s p, (rsOf s q).busy = false) :
    judgeRun s p = arm (setF s F.POL_RUNINFO_ARMERR p 0) p := by
  have hrun : running s p = false := by simpa [running] using hr
  simp only [judgeRun, h, hrun, ne_eq, not_true_eq_false, if_false, Bool.false_eq_true]

/-! RUN by the state of the polder (R59, R62, R64, R67). -/

theorem cmdRun_outOfReach {s : State} {p : Nat} {scope : Bool} (h : (multi s p && !scope) = true) :
    cmdRun s p scope = ignored s p := by simp only [cmdRun, h, if_true]

theorem cmdRun_judged {s : State} {p : Nat} {scope : Bool} (h : (multi s p && !scope) = false)
    (hr : rsOf s p = .idle ∨ rsOf s p = .dike) : cmdRun s p scope = judgeRun s p := by
  rcases hr with hr | hr <;> simp only [cmdRun, h, hr, Bool.false_eq_true, if_false]

theorem cmdRun_stopping {s : State} {p : Nat} {scope : Bool} (h : (multi s p && !scope) = false) (hr : rsOf s p = .stopping) :
    cmdRun s p scope = setF (forAll ((consort s p).filter (fun q => rsOf s q == .stopping)) s
      (fun s q => setF s F.POL_STATE_RESTART_PENDING q 1)) F.POL_RUNCTL_RUN p 1 := by
  simp only [cmdRun, h, hr, Bool.false_eq_true, if_false]

theorem cmdRun_ignored {s : State} {p : Nat} {scope : Bool} (h : (multi s p && !scope) = false)
    (hr : rsOf s p ∈ [RS.off, .armed, .running, .paused]) : cmdRun s p scope = ignored s p := by
  simp only [List.mem_cons, List.not_mem_nil, or_false] at hr
  rcases hr with hr | hr | hr | hr <;> simp only [cmdRun, h, hr, Bool.false_eq_true, if_false]

/-- Settles O10: RUN by the state of the polder; a RUN that arms by `rsOf_arm` and `reserved_arm`. -/
theorem runCommand : Obligations.RunCommand := by
  unfold Obligations.RunCommand
  intro i p scope s hw hrun z k mem b ign
  have exe : exec (.run i p scope) s = .next (cmdRun z k scope) := exec_run hw scope hrun
  refine ⟨fun hm hs => ⟨_, exe, ?_⟩, fun hm => ?_⟩
  · rw [cmdRun_outOfReach (outOfReach_of hm hs)]
    exact ⟨evt_ignored z k, sameBut_ignored z k⟩
  have hc : (multi z k && !scope) = false := inReach_of hm
  have errFrame (v : Nat) : SameBut [(F.POL_RUNINFO_ARMERR, k), (F.EVT .pol, k), (F.EVT_SEQ .pol, k)] z
      (setF z F.POL_RUNINFO_ARMERR k v) := (SameBut.refl _ z).setF _ _ _ (by simp)
  have errRaise (v b : Nat) : getF (raise (setF z F.POL_RUNINFO_ARMERR k v) .pol k b) F.POL_RUNINFO_ARMERR k = v % 16 :=
    (getF_raise _ _ _ _ _ _ (by decide) (by decide)).trans (getF_setF_same ..)
  refine ⟨fun hr => ⟨fun he hfree => ⟨_, exe, ?_⟩, fun he hbusy => ⟨_, exe, ?_⟩, fun he => ⟨_, exe, ?_⟩⟩,
    fun hr => ⟨_, exe, ?_⟩, fun hr => ⟨_, exe, ?_⟩⟩
  · rw [cmdRun_judged hc hr, judgeRun_arms he hfree]
    have hrs (q : Nat) : rsOf (setF z F.POL_RUNINFO_ARMERR k 0) q = rsOf z q := rsOf_congr (setF_rs _ _ _ _ (by decide))
    have hcon := consort_setArmErr z k 0 k
    refine ⟨fun q => by rw [rsOf_arm, hrs, hcon], ?_⟩
    have := reserved_arm (setF z F.POL_RUNINFO_ARMERR k 0) k
    rwa [anchor, hcon, getF_setF_tag _ _ _ _ (by decide)] at this
  · rw [cmdRun_judged hc hr, judgeRun_running he hbusy]
    exact ⟨evt_ignored _ k, errRaise 0 _, (errFrame 0).ignored k (by simp) (by simp)⟩
  · rw [cmdRun_judged hc hr, judgeRun_fails he]
    refine ⟨(errRaise _ _).trans (Nat.mod_eq_of_lt (armErr_lt z k)), evt_raise _ _ _ _ (by decide), ?_⟩
    exact (errFrame _).raise .pol k _ (by simp) (by simp)
  · rw [cmdRun_stopping hc hr]
    have hk : k ∈ (consort z k).filter (fun q => rsOf z q == .stopping) := by
      simpa [hr] using mem_consort_self z p.isLt
    refine ⟨?_, getF_setF_same .., fun q => ?_⟩
    · rw [getF_setF_tag _ _ _ _ (by decide), getF_forAll_setF F.POL_STATE_RESTART_PENDING 1 hk]
      rfl
    · rw [rsOf_congr (setF_rs _ _ _ _ (by decide)), rsOf_forAll_keep (fun _ _ _ => rsOf_congr (setF_rs _ _ _ _ (by decide)))]
      exact rsOf_congr (setF_rs _ _ _ _ (by decide))
  · rw [cmdRun_ignored hc hr]
    exact ⟨evt_ignored z k, sameBut_ignored z k⟩

end Sys2Proof.Machine
end

section
/-! What the polders are doing besides their registers stays through the operations on their pins and records: none of these
operations writes a polder of `State.pols`. -/

namespace Sys2Proof.Machine

theorem pols_ite (c : Prop) [Decidable c] (a b : State) : (if c then a else b).pols = if c then a.pols else b.pols :=
  apply_ite State.pols c a b

theorem forAll_pols {f : State → Nat → State} (h : ∀ s n, (f s n).pols = s.pols) (l : List Nat) (s : State) :
    (forAll l s f).pols = s.pols := by
  unfold forAll
  induction l generalizing s with
  | nil => rfl
  | cons n l ih => rw [List.foldl_cons, ih, h]

theorem raise_pols (s : State) (p : Page) (n b : Nat) : (raise s p n b).pols = s.pols := (raise_parts s p n b).2.1

theorem addCt_pols (s : State) (f : Fld) (n k : Nat) : (addCt s f n k).pols = s.pols := rfl

theorem handOff_pols (s : State) (k : Nat) (flush : Bool) : (handOff s k flush).pols = s.pols := by
  simp only [handOff]
  split <;> rfl

theorem retain_pols (s : State) (k : Nat) : (retain s k).pols = s.pols := by
  simp only [retain]
  split
  · rfl
  · split
    · rfl
    · exact handOff_pols ..

theorem takeSeq_pols (s : State) (k : Nat) : (takeSeq s k).pols = s.pols := rfl

theorem padOut_pols (s : State) (k : Nat) : (padOut s k).pols = s.pols := by
  simp only [padOut]
  split <;> rfl

theorem grant_pols (s : State) (k : Nat) : (grant s k).pols = s.pols := rfl

theorem reuse_pols (s : State) (k : Nat) : (reuse s k).pols = s.pols := rfl

theorem dropRec_pols (s : State) (k : Nat) : (dropRec s k).pols = s.pols := by
  unfold dropRec
  simp only [addCt_pols, setStrm_pols, raise_pols]

theorem putWords_pols (s : State) (k : Nat) (ws : List (BitVec 64)) : (putWords s k ws).pols = s.pols := by
  unfold putWords
  extract_lets ret apart fits app s1 s2
  have happ (t : State) : (app t).pols = t.pols := by simp only [app]; split <;> rfl
  have h1 : s1.pols = s.pols := by simp only [s1, pols_ite, retain_pols, handOff_pols, padOut_pols, ite_self]
  simp only [s2, pols_ite, happ, grant_pols, reuse_pols, dropRec_pols, h1, ite_self]

theorem appendRec_pols (s : State) (k : Nat) (r : Record) : (appendRec s k r).pols = s.pols := by
  unfold appendRec
  simp only [pols_ite, ite_self, putWords_pols, takeSeq_pols]

theorem appendFlush_pols (s : State) (k : Nat) (r : Record) : (appendFlush s k r).pols = s.pols := by
  unfold appendFlush
  simp only [pols_ite, ite_self, handOff_pols, retain_pols, appendRec_pols]

theorem markAll_pols (s : State) (p cause : Nat) (t : Stamp) (src : Option Nat) (vwi : Nat) :
    (markAll s p cause t src vwi).pols = s.pols := by
  unfold markAll
  split
  · rfl
  · refine forAll_pols (fun _ _ => ?_) _ _
    simp only [pols_ite, appendFlush_pols, appendRec_pols, ite_self]

theorem markRun_pols (s : State) (p cause : Nat) : (markRun s p cause).pols = s.pols := by
  unfold markRun
  simp only [pols_ite, ite_self, markAll_pols]

theorem setTdc_pols (s : State) (c : Nat) (x : Tdc) : (setTdc s c x).pols = s.pols := rfl

theorem putItem_pols (s : State) (p src : Nat) (r : Record) (t : Stamp) : (putItem s p src r t).pols = s.pols := by
  unfold putItem
  simp only [pols_ite, ite_self, setAcq_pols, takeSeq_pols, appendRec_pols]

theorem closeTdcRec_pols (s : State) (c : Nat) : (closeTdcRec s c).pols = s.pols := by
  simp only [closeTdcRec]
  split
  · rfl
  · rfl
  · exact putItem_pols ..

theorem acqStamp_pols (s : State) (c : Nat) (e : Stamp × Bool) : (acqStamp s c e).pols = s.pols := by
  unfold acqStamp
  extract_lets x old s1 y s2
  have h1 : s1.pols = s.pols := by simp only [s1, pols_ite, closeTdcRec_pols, ite_self]
  have h2 : s2.pols = s.pols := (setTdc_pols ..).trans h1
  simp only [pols_ite, closeTdcRec_pols, h2, ite_self]

theorem popFifo_pols (s : State) (c : Nat) : (popFifo s c).pols = s.pols := by
  simp only [popFifo]
  split
  · rfl
  · simp only [pols_ite, closeTdcRec_pols, acqStamp_pols, setTdc_pols, ite_self]

theorem drainDie_pols (d n : Nat) (s : State) : (drainDie d n s).pols = s.pols := by
  induction n generalizing s with
  | zero => rfl
  | succ n ih => unfold drainDie; extract_lets; split <;> simp only [ih, setDie_pols, popFifo_pols]

theorem drainUntil_pols (s : State) (d : Nat) (t : Stamp) : (drainUntil s d t).pols = s.pols := by
  unfold drainUntil
  extract_lets x n s1
  split
  · exact (setDie_pols ..).trans (drainDie_pols ..)
  · rfl

theorem tdcOff_pols (s : State) (c : Nat) : (tdcOff s c).pols = s.pols := by
  unfold tdcOff
  simp only [pols_ite, ite_self, setTdc_pols, closeTdcRec_pols, drainUntil_pols]

theorem tdcCut_pols (s : State) (c : Nat) : (tdcCut s c).pols = s.pols := by
  unfold tdcCut
  simp only [pols_ite, ite_self, raise_pols, tdcOff_pols]

theorem setClaim_pols (s : State) (c v : Nat) : (setClaim s c v).pols = s.pols := by
  unfold setClaim
  simp only [setF_pols]

theorem setLive_pols (s : State) (src : Nat) (v : Bool) : (setLive s src v).pols = s.pols := rfl

theorem uncorrect_pols (s : State) (src : Nat) (t : Stamp) : (uncorrect s src t).pols = s.pols := by
  unfold uncorrect
  split
  · split <;> rfl
  · rfl

theorem forwardEv_pols (s : State) (e : Ev) : (forwardEv s e).pols = s.pols := rfl

theorem correct_pols (s : State) (src : Nat) (t : Stamp) : (correct s src t).pols = s.pols := by
  unfold correct
  split <;> rfl

theorem dieEvent_pols (s : State) (e : Ev) : (dieEvent s e).pols = s.pols := by
  unfold dieEvent
  simp only [pols_ite, ite_self, addCt_pols, raise_pols, setLive_pols, forwardEv_pols, correct_pols, uncorrect_pols]

theorem monOff_pols (s : State) (c : Nat) (high : Bool) (t : Stamp) : (monOff s c high t).pols = s.pols := by
  unfold monOff
  simp only [pols_ite, ite_self, setChan_pols, dieEvent_pols]

theorem levOff_pols (s : State) (c : Nat) (t : Stamp) : (levOff s c t).pols = s.pols := by
  unfold levOff
  simp only [monOff_pols]

theorem octOff_pols (s : State) (o : Nat) : (octOff s o).pols = s.pols := by
  unfold octOff
  exact forAll_pols (fun _ _ => by simp only [levOff_pols, setClaim_pols, setChan_pols, tdcCut_pols]) _ _

theorem raiseIf_pols (c : Bool) (s : State) (p : Page) (n bit : Nat) : (raiseIf c s p n bit).pols = s.pols := by
  unfold raiseIf
  simp only [pols_ite, ite_self, raise_pols]

theorem takeDeskew_pols (s : State) (ch : Nat) : (takeDeskew s ch).pols = s.pols := by
  unfold takeDeskew
  simp only [setF_pols, setChan_pols, raiseIf_pols]

theorem dueDeskew_pols (s : State) (ch : Nat) : (dueDeskew s ch).pols = s.pols := by
  unfold dueDeskew
  simp only [pols_ite, ite_self, takeDeskew_pols]

theorem octDeskew_pols (s : State) (o : Nat) : (octDeskew s o).pols = s.pols := forAll_pols dueDeskew_pols _ _

theorem setPstate_pols (s : State) (o v : Nat) : (setPstate s o v).pols = s.pols := rfl

theorem putQueue_pols (s : State) (q : Nat) (x : DacQ) : (putQueue s q x).pols = s.pols := by
  unfold putQueue
  split <;> rfl

theorem gainSwitch_pols (s : State) (q : Nat) (sw : Bool) : (gainSwitch s q sw).pols = s.pols := by
  unfold gainSwitch
  simp only [pols_ite, ite_self, putQueue_pols]

theorem levelOp_pols (s : State) (q : Nat) (cs : List Nat) (f : State → Nat → State) (hf : ∀ s n, (f s n).pols = s.pols) :
    (levelOp s q cs f).pols = s.pols := by
  unfold levelOp
  rw [gainSwitch_pols, forAll_pols hf]

theorem applyFaultChan_pols (s : State) (c : Nat) : (applyFaultChan s c).pols = s.pols := rfl

theorem applyFaultDacs_pols (s : State) (o : Nat) : (applyFaultDacs s o).pols = s.pols := by
  unfold applyFaultDacs
  extract_lets cs
  split
  · exact levelOp_pols _ _ _ _ applyFaultChan_pols
  · exact forAll_pols applyFaultChan_pols _ _

theorem octSafe_pols (s : State) (o : Nat) : (octSafe s o).pols = s.pols := by
  unfold octSafe
  simp only [pols_ite, ite_self, applyFaultDacs_pols, setPstate_pols, octOff_pols, octDeskew_pols]

theorem selfcalLeave_pols (s : State) (o : Nat) : (selfcalLeave s o).pols = s.pols := by
  unfold selfcalLeave
  simp only [pols_ite, ite_self, setF_pols, setDie_pols]

theorem octIdle_pols (s : State) (o : Nat) : (octIdle s o).pols = s.pols := by
  unfold octIdle
  split
  · exact octSafe_pols ..
  · extract_lets fresh s0 s1
    have h0 : s0.pols = s.pols := by simp only [s0, pols_ite, selfcalLeave_pols, setF_pols, ite_self]
    have h1 : s1.pols = s0.pols := forAll_pols (fun _ _ => by simp only [pols_ite, setF_pols, setChan_pols, ite_self]) _ _
    rw [octDeskew_pols, setPstate_pols, h1, h0]

theorem suspendQueue_pols (s : State) (q : Nat) (v : Bool) : (suspendQueue s q v).pols = s.pols := by
  unfold suspendQueue
  simp only [putQueue_pols]

theorem releaseQueues_pols (s : State) (p : Nat) : (releaseQueues s p).pols = s.pols := by
  unfold releaseQueues
  exact (forAll_pols (fun _ _ => by simp only [setDs_pols, suspendQueue_pols]) _ _).trans (suspendQueue_pols ..)

end Sys2Proof.Machine
end

section
/-! DIKE, RELEASE and the end of a release (R60, R67, R72). -/

namespace Sys2Proof.Machine

/-! An event that is set stays through the raising of others. -/

theorem evt_raise_kept {s : State} {p : Page} {m c : Nat} (n : Nat) (b : Nat) (hc : c < 32)
    (h : (getF s (F.EVT p) m).testBit c = true) : (getF (raise s p n b) (F.EVT p) m).testBit c = true := by
  by_cases hm : m = n
  · rw [hm]; exact evt_raise_old s p n b c (hm ▸ h) hc
  · have ht : (F.EVT p).tag ≠ (F.EVT_SEQ p).tag := by cases p <;> decide
    rcases raise_cases s p n b with e | e
    · rwa [e, getF_countEvt _ _ _ _ _ ht, getF_setF_inst _ _ _ hm]
    · rwa [e, getF_report, getF_countEvt _ _ _ _ _ ht, getF_setF_inst _ _ _ hm]

/-! DIKE. -/

theorem dikeable_not_off {s : State} {q : Nat} (h : dikeable s q = true) : rsOf s q ≠ .off := by
  intro ho
  simp [dikeable, ho] at h

theorem cmdDike_none {s : State} {p : Nat} {scope : Bool}
    (h : (if scope then consort s p else [p]).filter (dikeable s) = []) : cmdDike s p scope = ignored s p := by
  simp only [cmdDike, h, List.isEmpty_nil, if_true]

theorem rsOf_cmdDike {s : State} {p : Nat} {scope : Bool} (h : (if scope then consort s p else [p]).filter (dikeable s) ≠ [])
    (q : Nat) : rsOf (cmdDike s p scope) q =
      if q ∈ (if scope then consort s p else [p]).filter (dikeable s) then .dike else rsOf s q := by
  unfold cmdDike
  extract_lets tgt
  have he : tgt.isEmpty = false := List.isEmpty_eq_false_iff.mpr h
  rw [he, if_neg (by decide), rsOf_forAll_dikeEntry]
  by_cases hq : q ∈ tgt
  · rw [if_pos ⟨hq, dikeable_not_off (List.of_mem_filter hq)⟩, if_pos hq]
  · rw [if_neg (fun hn => hq hn.1), if_neg hq]

/-! Ownership is read from the pages of the octets (R54). -/

theorem owner_congr {s t : State} {o : Nat} (h1 : getF t F.OCT_STATE_OWNED o = getF s F.OCT_STATE_OWNED o)
    (h2 : getF t F.OCT_STATE_OWNER o = getF s F.OCT_STATE_OWNER o) : owner t o = owner s o := by
  unfold owner isSet
  rw [h1, h2]

theorem octsOf_congr {s t : State} (h : ∀ o, owner t o = owner s o) (q : Nat) : octsOf t q = octsOf s q := by
  simp only [octsOf, h]

/-! What R72 asks of a polder is read from the pages of faults and octets, DIKE_OVR and the faults themselves. -/

theorem releasable_congr {s t : State} (hflt : t.flts = s.flts)
    (hreg : ∀ f n, f.page = .flt ∨ f.page = .oct ∨ f = F.POL_DIKECFG_DIKE_OVR → getF t f n = getF s f n) (q : Nat) :
    releasable t q = releasable s q := by
  have hf (f n) (h : f.page = .flt) : getF t f n = getF s f n := hreg f n (.inl h)
  have ho (f n) (h : f.page = .oct) : getF t f n = getF s f n := hreg f n (.inr (.inl h))
  have haims (f : Nat) : aims t f q = aims s f q := by
    unfold aims fltOf isSet
    rw [hflt, hreg F.POL_DIKECFG_DIKE_OVR q (.inr (.inr rfl))]
  have hown : octsOf t q = octsOf s q :=
    octsOf_congr (fun o => owner_congr (ho F.OCT_STATE_OWNED o rfl) (ho F.OCT_STATE_OWNER o rfl)) q
  have hstate (f : Nat) : getF t (F.FLT_X2_FSTATE f) 0 = getF s (F.FLT_X2_FSTATE f) 0 := hf _ _ rfl
  simp only [releasable, faultActive, faultLatched, isoDie, isSet, haims, hown, hstate, hf F.FLT_STATE_EMBANK 0 rfl,
    hf F.FLT_STATE_ISO 0 rfl]

/-! RELEASE. -/

/-- What RELEASE, written to polder `p`, does to a member `q` in DIKE: its release begins, or the command is ignored there (R72; the
page that shows it is the model's choice, log entry 73). -/
def releaseBegin (p : Nat) (s : State) (q : Nat) : State :=
  if releasable s q then
    let s1 := setPol s q { polOf s q with releasing := true }
    if q = p then setF s1 F.POL_RUNCTL_RELEASE p 1 else s1
  else ignored s q

theorem cmdRelease_some {s : State} {p : Nat} {scope : Bool}
    (h : (if scope then consort s p else [p]).filter (fun q => rsOf s q == .dike) ≠ []) : cmdRelease s p scope =
      forAll ((if scope then consort s p else [p]).filter (fun q => rsOf s q == .dike)) s (releaseBegin p) := by
  unfold cmdRelease
  extract_lets tgt
  have he : tgt.isEmpty = false := List.isEmpty_eq_false_iff.mpr h
  rw [he, if_neg (by decide)]
  rfl

theorem releasable_setPol (s : State) (p : Nat) (x : Pol) (q : Nat) : releasable (setPol s p x) q = releasable s q :=
  releasable_congr rfl (fun _ _ _ => getF_setPol ..) q

/-- A field of the polder page other than DIKE_OVR has no part in it. -/
theorem releasable_setF_pol (s : State) (g : Fld) (n v : Nat) (hp : g.page = .pol) (ht : F.POL_DIKECFG_DIKE_OVR.tag ≠ g.tag) (q : Nat) :
    releasable (setF s g n v) q = releasable s q := by
  refine releasable_congr (setF_flts s g n v) (fun f m hf => ?_) q
  rcases hf with h | h | rfl
  · exact getF_setF_page _ _ _ _ (by simp [h, hp])
  · exact getF_setF_page _ _ _ _ (by simp [h, hp])
  · exact getF_setF_tag _ _ _ _ ht

theorem raise_flts (s : State) (p : Page) (n b : Nat) : (raise s p n b).flts = s.flts := by
  obtain ⟨-, -, -, -, -, -, -, -, -, -, -, h⟩ := raise_parts s p n b
  exact h

theorem releasable_ignored (s : State) (p q : Nat) : releasable (ignored s p) q = releasable s q := by
  refine releasable_congr (raise_flts ..) (fun f n hf => ?_) q
  rcases hf with h | h | rfl
  · exact raise_page _ _ _ _ (by simp [h])
  · exact raise_page _ _ _ _ (by simp [h])
  · exact getF_raise _ _ _ _ _ _ (by decide) (by decide)

theorem releasable_releaseBegin (p : Nat) (s : State) (q r : Nat) : releasable (releaseBegin p s q) r = releasable s r := by
  unfold releaseBegin
  split
  · simp only [apply_ite (fun t => releasable t r), releasable_setF_pol _ F.POL_RUNCTL_RELEASE _ _ rfl (by decide), releasable_setPol,
      ite_self]
  · exact releasable_ignored s q r

theorem releaseBegin_releasing {p q : Nat} {s : State} (h : releasable s q = true) :
    (polOf (releaseBegin p s q) q).releasing = true := by
  simp only [releaseBegin, h, if_true]
  split <;> simp

theorem releaseBegin_keeps_releasing {p q r : Nat} {s : State} (h : (polOf s r).releasing = true) :
    (polOf (releaseBegin p s q) r).releasing = true := by
  have hs1 : (polOf (setPol s q { polOf s q with releasing := true }) r).releasing = true := by
    by_cases hq : r = q
    · subst hq; simp
    · rwa [polOf_setPol_ne _ _ hq]
  unfold releaseBegin
  split
  · split
    · exact hs1
    · exact hs1
  · rwa [ignored, polOf, raise_pols]

theorem releaseBegin_ignored {p q : Nat} {s : State} (h : releasable s q = false) :
    (getF (releaseBegin p s q) (F.EVT .pol) q).testBit E.POL_CMD_IGNORED = true := by
  simp only [releaseBegin, h, Bool.false_eq_true, if_false]
  exact evt_ignored s q

/-- An event of the polder page, once raised, stays through the beginnings of releases. -/
theorem releaseBegin_keeps_evt {p q r b : Nat} {s : State} (hb : b < 32) (h : (getF s (F.EVT .pol) r).testBit b = true) :
    (getF (releaseBegin p s q) (F.EVT .pol) r).testBit b = true := by
  unfold releaseBegin
  split
  · split
    · rwa [getF_setF_tag _ _ _ _ (by decide), getF_setPol]
    · rwa [getF_setPol]
  · exact evt_raise_kept q _ hb h

/-! The end of a release. -/

theorem exec_releaseComplete {p : Fin 64} {s : State} (hr : rsOf s p.val = .dike) (hrel : (polOf s p.val).releasing = true) :
    exec (.releaseComplete p) s = .next (releaseNow (cycle s) p.val) := by
  show execReleaseComplete p s = _
  unfold execReleaseComplete
  have h1 : rsOf (cycle s) p.val = .dike := hr
  have h2 : (polOf (cycle s) p.val).releasing = true := hrel
  simp only [h1, h2, beq_self_eq_true, Bool.and_self, if_true]

/-- The polder is no longer being released, and its RELEASE reads 0. -/
def releaseOver (s : State) (p : Nat) : State := setF (setPol s p { polOf s p with releasing := false }) F.POL_RUNCTL_RELEASE p 0

theorem releaseNow_releasable {s : State} {p : Nat} (h : releasable s p = true) : releaseNow s p =
    raise (releaseQueues (forAll (octsOf (releaseOver s p) p) (setRs (releaseOver s p) p .idle) octIdle) p) .pol p E.POL_DIKE_LEFT := by
  unfold releaseNow
  rw [h, if_pos rfl]
  rfl

theorem releaseNow_refused {s : State} {p : Nat} (h : releasable s p = false) : releaseNow s p = ignored (releaseOver s p) p := by
  unfold releaseNow
  rw [h, if_neg (by decide)]
  rfl

theorem rsOf_releaseOver (s : State) (p q : Nat) : rsOf (releaseOver s p) q = rsOf s q :=
  rsOf_congr ((setF_rs _ _ _ _ (by decide)).trans (getF_setPol ..))

theorem rsOf_releaseNow (s : State) (p q : Nat) :
    rsOf (releaseNow s p) q = if q = p ∧ releasable s p = true then .idle else rsOf s q := by
  cases h : releasable s p
  · rw [releaseNow_refused h, rsOf_congr (ignored_rs ..), rsOf_releaseOver]
    simp
  · rw [releaseNow_releasable h, rsOf_congr (raise_rs ..), rsOf_congr (releaseQueues_rs ..),
      rsOf_forAll_keep (fun _ _ _ => rsOf_congr (octIdle_rs ..)), rsOf_setRs, rsOf_releaseOver]
    simp

theorem releaseNow_releasing (s : State) (p : Nat) : (polOf (releaseNow s p) p).releasing = false := by
  have hover : (polOf (releaseOver s p) p).releasing = false := by simp [releaseOver]
  have hp : (releaseNow s p).pols = (releaseOver s p).pols := by
    cases h : releasable s p
    · rw [releaseNow_refused h]; exact raise_pols ..
    · rw [releaseNow_releasable h, raise_pols, releaseQueues_pols, forAll_pols octIdle_pols]; rfl
  unfold polOf
  rw [hp]
  exact hover

theorem releaseNow_evt (s : State) (p : Nat) : (getF (releaseNow s p) (F.EVT .pol) p).testBit
    (if releasable s p then E.POL_DIKE_LEFT else E.POL_CMD_IGNORED) = true := by
  cases h : releasable s p
  · rw [releaseNow_refused h]; exact evt_ignored _ p
  · rw [releaseNow_releasable h]; exact evt_raise _ _ _ _ (by decide)

/-- Settles O13: DIKE by `rsOf_dikeEntry` over the polders it reaches, RELEASE by what `releaseBegin` brings about and keeps, the end
of the release by the lemmas on `releaseNow`. -/
theorem dikeAndRelease : Obligations.DikeAndRelease := by
  unfold Obligations.DikeAndRelease
  intro i p scope s hw hd hrl z k reach dk rl
  have dike : exec (.dike i p scope) s = .next (cmdDike z k scope) := exec_dike hw scope hd
  have release : exec (.release i p scope) s = .next (cmdRelease z k scope) := exec_release hw scope hrl
  refine ⟨fun h => ⟨_, dike, rsOf_cmdDike h⟩, fun h => ⟨_, dike, ?_⟩, fun h => ⟨_, release, fun q => ?_, fun q hq => ⟨fun hok => ?_,
    fun hno => ?_⟩⟩, fun hr hrel => ⟨_, exec_releaseComplete hr hrel, rsOf_releaseNow _ _, releaseNow_releasing _ _,
      releaseNow_evt _ _⟩⟩
  · rw [cmdDike_none h]
    exact ⟨evt_ignored z k, sameBut_ignored z k⟩
  · exact rsOf_congr (cmdRelease_rs ..)
  · rw [cmdRelease_some h]
    exact forAll_reaches (I := fun u => releasable u q = true) (P := fun u => (polOf u q).releasing = true)
      (fun u m hu => by rwa [releasable_releaseBegin]) (fun u hu => releaseBegin_releasing hu)
      (fun u m hu => releaseBegin_keeps_releasing hu) hq hok
  · rw [cmdRelease_some h]
    exact forAll_reaches (I := fun u => releasable u q = false)
      (P := fun u => (getF u (F.EVT .pol) q).testBit E.POL_CMD_IGNORED = true)
      (fun u m hu => by rwa [releasable_releaseBegin]) (fun u hu => releaseBegin_ignored hu)
      (fun u m hu => releaseBegin_keeps_evt (by decide) hu) hq hno

end Sys2Proof.Machine
end

section
/-! STOP and ABORT of a binding and of one member (R60, R61, R62, R67, R68). -/

namespace Sys2Proof.Machine

/-! STOP and ABORT that reach the whole binding. -/

section
variable {s : State} {p : Nat} {scope abort : Bool} (h : (multi s p && !scope) = false)
include h

theorem cmdStop_stops (hq : ∃ q ∈ (active s p).filter (fun q => (rsOf s q).busy), rsOf s q ≠ .stopping) :
    cmdStop s p scope abort = showStop (stopAll s p abort) p abort := by
  obtain ⟨q, hact, hne⟩ := hq
  have hemp : ((active s p).filter (fun q => (rsOf s q).busy)).isEmpty = false :=
    List.isEmpty_eq_false_iff.mpr (List.ne_nil_of_mem hact)
  have hall : ((active s p).filter (fun q => (rsOf s q).busy)).all (fun q => rsOf s q == .stopping) = false :=
    List.all_eq_false.mpr ⟨q, hact, by simpa using hne⟩
  simp only [cmdStop, h, hemp, hall, Bool.false_eq_true, if_false]

theorem cmdStop_ignored (hq : ∀ q ∈ (active s p).filter (fun q => (rsOf s q).busy), rsOf s q = .stopping ∧
    isSet s F.POL_STATE_RESTART_PENDING q = false) : cmdStop s p scope abort = ignored s p := by
  have hall : ((active s p).filter (fun q => (rsOf s q).busy)).all (fun q => rsOf s q == .stopping) = true :=
    List.all_eq_true.mpr (fun q hm => by simpa using (hq q hm).1)
  have hany : ((active s p).filter (fun q => (rsOf s q).busy)).any (fun q => isSet s F.POL_STATE_RESTART_PENDING q) = false :=
    List.any_eq_false.mpr (fun q hm => by simpa using (hq q hm).2)
  simp only [cmdStop, h, hall, hany, Bool.false_eq_true, if_false, if_true, ite_self]

theorem cmdStop_cancels (hq : ∀ q ∈ (active s p).filter (fun q => (rsOf s q).busy), rsOf s q = .stopping)
    (hp : ∃ q ∈ (active s p).filter (fun q => (rsOf s q).busy), isSet s F.POL_STATE_RESTART_PENDING q = true) :
    cmdStop s p scope abort =
      showStop (forAll ((active s p).filter (fun q => (rsOf s q).busy)) s cancelRestart) p abort := by
  have hemp : ((active s p).filter (fun q => (rsOf s q).busy)).isEmpty = false :=
    List.isEmpty_eq_false_iff.mpr (List.ne_nil_of_mem hp.choose_spec.1)
  have hall : ((active s p).filter (fun q => (rsOf s q).busy)).all (fun q => rsOf s q == .stopping) = true :=
    List.all_eq_true.mpr (fun q hm => by simpa using hq q hm)
  have hany : ((active s p).filter (fun q => (rsOf s q).busy)).any (fun q => isSet s F.POL_STATE_RESTART_PENDING q) = true :=
    List.any_eq_true.mpr hp
  simp only [cmdStop, h, hemp, hall, hany, Bool.false_eq_true, if_false, if_true]

end

theorem cmdStop_benches {s : State} {p : Nat} {abort : Bool} (h : 2 ≤ (consort s p).length)
    (hb : isSet s F.POL_STATE_BENCHED p = false) (hbusy : (rsOf s p).busy = true) (hne : rsOf s p ≠ .stopping) :
    cmdStop s p false abort = showStop (bench s p) p abort := by
  have hm : (multi s p && !false) = true := outOfReach_of h rfl
  have hr : (rsOf s p == .stopping) = false := by simpa using hne
  simp only [cmdStop, hm, hb, hr, hbusy, Bool.false_eq_true, if_false, if_true]

/-! The binding stops. -/

section
variable {s : State} {p b : Nat} {abort : Bool} (h : bindOf s p = some b)
include h

theorem stopAll_armed (ha : ∀ q ∈ bndMem s b, rsOf s q = .armed) : stopAll s p abort =
    clearBenched (forAll (bndMem s b) (releaseBnd (setCause s b 2 2) b) (fun s q => disarm s q abort)) p := by
  have hall : (bndMem s b).all (fun q => rsOf s q == .armed) = true := List.all_eq_true.mpr (fun q hm => by simpa using ha q hm)
  unfold bindOf at h
  simp only [stopAll, h, hall, if_true]

theorem stopAll_running (ha : ∃ q ∈ bndMem s b, rsOf s q ≠ .armed) : stopAll s p abort = endIssue s b 2 2 abort := by
  obtain ⟨q, hq, hne⟩ := ha
  have hall : (bndMem s b).all (fun q => rsOf s q == .armed) = false := List.all_eq_false.mpr ⟨q, hq, by simpa using hne⟩
  unfold bindOf at h
  simp only [stopAll, h, hall, Bool.false_eq_true, if_false]

theorem rsOf_stopAll_armed (ha : ∀ q ∈ bndMem s b, rsOf s q = .armed) (q : Nat) :
    rsOf (stopAll s p abort) q = if q ∈ bndMem s b then .idle else rsOf s q := by
  rw [stopAll_armed h ha, rsOf_congr (clearBenched_rs ..), rsOf_forAll_to (fun u n r => rsOf_disarm u n abort r),
    rsOf_congr (s := s) (by simp (disch := decide) only [releaseBnd_page, setCause_page])]

end

theorem rsOf_endIssue (s : State) (b sq me : Nat) (abort : Bool) (q : Nat) :
    rsOf (endIssue s b sq me abort) q = if q ∈ bndMem s b then .stopping else rsOf s q := by
  unfold endIssue
  extract_lets mem s0 s1 x s2
  have h2 : rsOf s2 q = rsOf s q := rsOf_congr (by
    simp (disch := decide) only [s2, s1, s0, getF_setBnd, getF_ite, setF_page, setIssuing_page, setCause_page, ite_self])
  rw [rsOf_congr (setF_rs _ _ _ _ (by simp only [Fld.tag, fldKey, Page.code]; omega)),
    rsOf_forAll_to (fun u n r => rsOf_toStopping u b n abort r), h2]

/-- The cause of the stop that `endIssue` is given stands (R60). -/
theorem stopCause_endIssue (s : State) (b : Nat) (abort : Bool) :
    getB (endIssue s b 2 2 abort) b F.SEQ_STATE_STOPCAUSE F.MCE_STOPINFO_STOPCAUSE = 2 := by
  have hseq : ∀ (u : State) (n : Nat),
      getF (toStopping u b n abort) F.SEQ_STATE_STOPCAUSE b = getF u F.SEQ_STATE_STOPCAUSE b := fun u n =>
    toStopping_page u b n abort (by decide) (by decide) (by decide) (by decide) (by decide) (by decide)
  have hmce : ∀ (u : State) (n : Nat),
      getF (toStopping u b n abort) F.MCE_STOPINFO_STOPCAUSE (b - 16) = getF u F.MCE_STOPINFO_STOPCAUSE (b - 16) := fun u n =>
    toStopping_page u b n abort (by decide) (by decide) (by decide) (by decide) (by decide) (by decide)
  unfold endIssue getB
  extract_lets mem s0 s1 x s2
  by_cases hb : b < 16
  · rw [if_pos hb, setF_page _ _ _ _ (by simp only [ne_eq]; decide), forAll_page hseq]
    simp (disch := decide) only [s2, s1, s0, hb, if_true, getF_setBnd, setIssuing, setB, setCause, getF_setF_tag, getF_setF_same]
    rfl
  · rw [if_neg hb, setF_page _ _ _ _ (by simp only [ne_eq]; decide), forAll_page hmce]
    simp (disch := decide) only [s2, s1, s0, hb, if_false, getF_setBnd, setIssuing, setB, setCause, getF_setF_tag, getF_setF_same]
    rfl

/-! STOP of members that stop already (R62). -/

section
variable (s : State) (p q : Nat)

/-- A pending restart that is given up is shown. -/
theorem cancelRestart_evt (h : isSet s F.POL_STATE_RESTART_PENDING p = true) :
    (getF (cancelRestart s p) (F.EVT .pol) p).testBit E.POL_RESTART_CANCELLED = true := by
  unfold cancelRestart
  rw [if_pos h]
  exact evt_raise _ _ _ _ (by decide)

theorem cancelRestart_keeps_evt {c : Nat} (hc : c < 32) (h : (getF s (F.EVT .pol) q).testBit c = true) :
    (getF (cancelRestart s p) (F.EVT .pol) q).testBit c = true := by
  unfold cancelRestart
  split
  · exact evt_raise_kept _ _ hc (by simpa (disch := decide) only [getF_setF_tag] using h)
  · exact h

theorem cancelRestart_pending : getF (cancelRestart s p) F.POL_STATE_RESTART_PENDING q =
    if q = p then 0 else getF s F.POL_STATE_RESTART_PENDING q := by
  unfold cancelRestart
  by_cases hp : isSet s F.POL_STATE_RESTART_PENDING p = true
  · rw [if_pos hp, getF_raise _ _ _ _ _ _ (by decide) (by decide), getF_setF_tag _ _ _ _ (by decide)]
    split
    · next hq => rw [hq, getF_setF_same, Nat.zero_mod]
    · next hq => exact getF_setF_inst _ _ _ hq
  · rw [if_neg hp]
    split
    · next hq => subst hq; simpa [isSet] using hp
    · rfl

end

section
variable {s : State} {q : Nat} {l : List Nat} (hq : q ∈ l)
include hq

theorem forAll_cancelRestart_pending : getF (forAll l s cancelRestart) F.POL_STATE_RESTART_PENDING q = 0 :=
  forAll_reaches (g := cancelRestart) (n := q) (I := fun _ => True) (P := fun u => getF u F.POL_STATE_RESTART_PENDING q = 0)
    (fun _ _ h => h) (fun u _ => by rw [cancelRestart_pending, if_pos rfl])
    (fun u m hu => by rw [cancelRestart_pending, hu, ite_self]) hq trivial

theorem forAll_cancelRestart_evt (h : isSet s F.POL_STATE_RESTART_PENDING q = true) :
    (getF (forAll l s cancelRestart) (F.EVT .pol) q).testBit E.POL_RESTART_CANCELLED = true := by
  have keep (u : State) (m : Nat) (hu : (getF u (F.EVT .pol) q).testBit E.POL_RESTART_CANCELLED = true) :
      (getF (cancelRestart u m) (F.EVT .pol) q).testBit E.POL_RESTART_CANCELLED = true :=
    cancelRestart_keeps_evt u m q (by decide) hu
  refine forAll_reaches (g := cancelRestart) (n := q) (P := fun u => (getF u (F.EVT .pol) q).testBit E.POL_RESTART_CANCELLED = true)
    (I := fun u => isSet u F.POL_STATE_RESTART_PENDING q = true ∨ (getF u (F.EVT .pol) q).testBit E.POL_RESTART_CANCELLED = true)
    (fun u m hu => ?_) (fun u hu => ?_) keep hq (.inl h)
  · rcases hu with hp | he
    · by_cases hm : q = m
      · exact .inr (hm ▸ cancelRestart_evt u q hp)
      · left; unfold isSet; rw [cancelRestart_pending, if_neg hm]; exact hp
    · exact .inr (keep u m he)
  · rcases hu with hp | he
    · exact cancelRestart_evt u q hp
    · exact keep u q he

end

/-- `showStop` writes RUNCTL alone. -/
theorem showStop_field (s : State) (p : Nat) (abort : Bool) {f : Fld} (n : Nat) (hs : f.tag ≠ F.POL_RUNCTL_STOP.tag)
    (ha : f.tag ≠ F.POL_RUNCTL_ABORT.tag) : getF (showStop s p abort) f n = getF s f n := by
  cases abort <;> simp (disch := assumption) only [showStop, getF_ite, if_true, Bool.false_eq_true, if_false, getF_setF_tag, ite_self]

theorem getB_showStop (s : State) (p : Nat) (abort : Bool) (b : Nat) :
    getB (showStop s p abort) b F.SEQ_STATE_STOPCAUSE F.MCE_STOPINFO_STOPCAUSE =
      getB s b F.SEQ_STATE_STOPCAUSE F.MCE_STOPINFO_STOPCAUSE :=
  getB_congr (showStop_field _ _ _ _ (by decide) (by decide)) (showStop_field _ _ _ _ (by decide) (by decide))

/-! One member is benched (R67, R68). -/

theorem polOf_congr {s t : State} (h : t.pols = s.pols) (q : Nat) : polOf t q = polOf s q := by
  unfold polOf; rw [h]

theorem bndMem_congr {s t : State} (h : ∀ q, (polOf t q).bind = (polOf s q).bind) (b : Nat) : bndMem t b = bndMem s b := by
  simp only [bndMem, h]

/-- The member whose bit BENCHED is shown and whose capture is marked: `bench` before the binding has lost it. -/
def benchMark (s : State) (p : Nat) (toDike : Bool) : State :=
  let s1 := raise (setF s F.POL_STATE_BENCHED p 1) .pol p E.POL_BENCHED
  markRun (setPol s1 p { polOf s1 p with benchDike := toDike }) p 7

theorem benchMark_bind (s : State) (p : Nat) (toDike : Bool) (q : Nat) :
    (polOf (benchMark s p toDike) q).bind = (polOf s q).bind := by
  have h1 : polOf (raise (setF s F.POL_STATE_BENCHED p 1) .pol p E.POL_BENCHED) q = polOf s q := polOf_congr (raise_pols ..) q
  simp only [benchMark, polOf_congr (markRun_pols ..)]
  by_cases hq : q = p
  · subst hq; rw [polOf_setPol_same, h1]
  · rw [polOf_setPol_ne _ _ hq, h1]

theorem rsOf_benchMark (s : State) (p : Nat) (toDike : Bool) (q : Nat) : rsOf (benchMark s p toDike) q = rsOf s q :=
  rsOf_congr (by simp (disch := decide) only [benchMark, markRun_page, getF_setPol, raise_rs, setF_rs])

theorem rsOf_leaveBnd (s : State) (b p cause q : Nat) : rsOf (leaveBnd s b p cause) q = rsOf s q :=
  rsOf_congr (leaveBnd_page _ _ _ _ (by decide) (by decide) (by decide))

/-- A benched member that runs: the last member of its binding stops, any other plays its words out. -/
theorem rsOf_benchOut (s : State) (b p : Nat) (toDike : Bool) (q : Nat) :
    rsOf (benchOut s b p toDike) q = if (bndMem s b).length = 1 ∧ q = p then .stopping else rsOf s q := by
  unfold benchOut
  extract_lets y r1 a s1 x out s2
  have h1 : rsOf s1 q = rsOf s q := by
    simp only [s1, r1]
    split
    · exact rsOf_congr (by simp (disch := decide) only [getF_setAcq, runEnd_page, closeRec_page])
    · rfl
  rw [rsOf_leaveBnd, rsOf_congr (getF_setPol ..)]
  simp only [s2, out]
  split
  · next hl => simp only [rsOf_toStopping, hl, true_and, h1]
  · next hl =>
    rw [← h1]
    simp only [hl, false_and, if_false]
    exact rsOf_congr (by simp (disch := decide) only [parkOut_page, endsBurst_rs, closeEvent_page, closeGate_page, runEnd_page,
      getF_setPol])

theorem bench_eq (s : State) (p : Nat) : bench s p =
    match (polOf s p).bind with
    | none => benchMark s p (isSet s F.POL_CSRT_BENCH_TO p)
    | some b =>
      let s2 := benchMark s p (isSet s F.POL_CSRT_BENCH_TO p)
      if rsOf s p == .armed then
        clearBenched (if isSet s F.POL_CSRT_BENCH_TO p then dikeEntry (leaveBnd s2 b p 3) p 7
          else disarm (leaveBnd s2 b p 3) p ((bndMem s b).length == 1)) p
      else benchOut s2 b p (isSet s F.POL_CSRT_BENCH_TO p) := by
  have hb := benchMark_bind s p (isSet s F.POL_CSRT_BENCH_TO p)
  rw [← hb p, ← rsOf_benchMark s p (isSet s F.POL_CSRT_BENCH_TO p) p]
  simp only [← bndMem_congr hb]
  rfl

theorem rsOf_bench (s : State) {k : Nat} (hk : k < 64) (q : Nat) : rsOf (bench s k) q = afterBench s k q := by
  have hmark := rsOf_benchMark s k (isSet s F.POL_CSRT_BENCH_TO k)
  rw [bench_eq]
  unfold afterBench
  cases hbind : (polOf s k).bind with
  | none => exact hmark q
  | some b =>
    dsimp only
    by_cases ha : rsOf s k = .armed
    · simp only [ha, beq_self_eq_true, if_true]
      rw [rsOf_congr (clearBenched_rs ..)]
      by_cases hto : isSet s F.POL_CSRT_BENCH_TO k = true
      · rw [if_pos hto, if_pos hto, rsOf_dikeEntry, rsOf_leaveBnd, rsOf_leaveBnd, hmark, hmark, ha]
        by_cases hq : q = k <;> simp [hq]
      · rw [if_neg hto, if_neg hto, rsOf_disarm, rsOf_leaveBnd, hmark]
        by_cases hq : q = k <;> simp [hq]
    · have hmem : (bndMem (benchMark s k (isSet s F.POL_CSRT_BENCH_TO k)) b).length = 1 ↔ bndMem s b = [k] := by
        rw [bndMem_congr (benchMark_bind s k _), List.length_eq_one_iff]
        have hkb : k ∈ bndMem s b := by simp [bndMem, hbind, hk]
        exact ⟨fun ⟨x, hx⟩ => by rw [hx] at hkb ⊢; rw [List.mem_singleton.mp hkb], fun h => ⟨k, h⟩⟩
      simp only [beq_eq_false_iff_ne.mpr ha, Bool.false_eq_true, if_false, ha, rsOf_benchOut, hmem, hmark]
      by_cases hq : q = k <;> by_cases hl : bndMem s b = [k] <;> simp [hq, hl]


/-- Settles O11: one lemma per branch of `cmdStop`; the run states follow from `rsOf_stopAll_armed`, `rsOf_endIssue`,
`cancelRestart_rs` and `rsOf_bench`. -/
theorem stopAndBench : Obligations.StopAndBench := by
  unfold Obligations.StopAndBench
  have shown (u : State) (n : Nat) (a : Bool) (q : Nat) : rsOf (showStop u n a) q = rsOf u q := rsOf_congr (showStop_rs ..)
  refine ⟨?_, ?_⟩
  · intro i p scope s hw z k act hm x hx hj
    have hc : (multi z k && !scope) = false := inReach_of hm
    obtain ⟨a, hex⟩ : ∃ a, exec x.1 s = .next (cmdStop z k scope a) := by
      rcases List.mem_pair.mp hx with rfl | rfl
      · exact ⟨false, exec_stop hw scope hj⟩
      · exact ⟨true, exec_abort hw scope hj⟩
    refine ⟨fun b hb hst => ⟨fun ha => ⟨_, hex, fun q => ?_⟩, fun ha => ⟨_, hex, ?_, fun q => ?_⟩⟩, fun hst => ⟨_, hex, ?_⟩,
      fun hst hpe => ⟨_, hex, fun q => ?_⟩⟩
    · rw [cmdStop_stops hc hst, shown, rsOf_stopAll_armed hb ha]
    · rw [cmdStop_stops hc hst, stopAll_running hb ha, getB_showStop]
      exact stopCause_endIssue z b a
    · rw [cmdStop_stops hc hst, shown, stopAll_running hb ha, rsOf_endIssue]
    · rw [cmdStop_ignored hc hst]
      exact ⟨evt_ignored z k, sameBut_ignored z k⟩
    · rw [cmdStop_cancels hc hst hpe, shown, showStop_field _ _ _ (f := F.POL_STATE_RESTART_PENDING) _ (by decide) (by decide),
        showStop_field _ _ _ (f := F.EVT .pol) _ (by decide) (by decide)]
      exact ⟨rsOf_forAll_keep (fun _ _ _ => rsOf_congr (cancelRestart_rs ..)) _ z q, fun hq =>
        ⟨forAll_cancelRestart_pending hq, forAll_cancelRestart_evt hq⟩⟩
  · intro i p s hw z k hm hben hbusy hne x hx hj
    obtain ⟨a, hex⟩ : ∃ a, exec x.1 s = .next (cmdStop z k false a) := by
      rcases List.mem_pair.mp hx with rfl | rfl
      · exact ⟨false, exec_stop hw false hj⟩
      · exact ⟨true, exec_abort hw false hj⟩
    refine ⟨_, hex, fun q => ?_⟩
    rw [cmdStop_benches hm hben hbusy hne, shown, rsOf_bench z p.isLt]

end Sys2Proof.Machine
end

section
/-! The writes of OCTMAP and DSMAP reach their meanings (R42, R54, R57). -/

namespace Sys2Proof.Machine

/-- The registers of the polder page that say which octets and which controllers the polder is to own: each is one field. -/
def mapFlds : List Fld := [F.POL_OCTMAP_LO_OCT, F.POL_OCTMAP_HI_OCT, F.POL_DSMAP_DS]

theorem mapFlds_attrs : ∀ f ∈ mapFlds, f.ty = .rw ∧ f.priv = false ∧ f.page = .pol ∧ f.space = 0 ∧ f.lo = 0 ∧ f.w.val = 32 ∧
    0x040 ≤ f.off ∧ pmuReg .pol f.off = false ∧ custom f = true ∧ f ≠ F.LOCK .pol ∧ f ≠ F.FORCE .pol ∧ embankOk f = false := by
  decide

theorem pageFields_map {f : Fld} (hf : f ∈ mapFlds) (p : Nat) : pageFields .pol p f.off = [f] := by
  simp only [mapFlds, List.mem_cons, List.not_mem_nil, or_false] at hf
  rcases hf with rfl | rfl | rfl <;> rfl

/-- What `mayWrite` says of a map register. -/
theorem mayWrite_map {s : State} {i : Initiator} {p : Nat} {f : Fld} (hf : f ∈ mapFlds) (h : mayWrite s i .pol p f.off = true) :
    servedPage s .pol p f.off = .yes ∧ observer s i = false ∧ isSet s F.FLT_STATE_EMBANK 0 = false ∧ runlockedF s f p = false := by
  obtain ⟨-, hpriv, -, -, -, -, -, -, -, -, -, hk⟩ := mapFlds_attrs f hf
  simpa [mayWrite, pageFields_map hf, hk, hpriv, and_assoc] using h

/-- Of the locks, LOCK bit 0 of the polder covers the maps, and life cycle state 3 covers OCTMAP (R46, R454). -/
theorem lockedF_map {s : State} {p : Nat} {f : Fld} (hf : f ∈ mapFlds) (he : isSet s F.FLT_STATE_EMBANK 0 = false)
    (hl : lockBit s .pol p 0 = false) (hlc : f = F.POL_DSMAP_DS ∨ s.otp.lc ≠ 3) : lockedF s f p = false := by
  simp only [mapFlds, List.mem_cons, List.not_mem_nil, or_false] at hf
  rcases hf with rfl | rfl | rfl
  · simpa [lockedF, he, hl] using hlc
  · simpa [lockedF, he, hl] using hlc
  · simp [lockedF, he, hl]

/-- A map register that may be written takes its word: its effect decides what becomes of it. -/
theorem hostWrite_map {s : State} {i : Initiator} {p v : Nat} {f : Fld} (hf : f ∈ mapFlds) (h : mayWrite s i .pol p f.off = true)
    (hl : lockBit s .pol p 0 = false) (hlc : f = F.POL_DSMAP_DS ∨ s.otp.lc ≠ 3) (hv : v < 2 ^ 32) :
    hostWrite (cycle s) i .pol p f.off v = polWrite (cycle s) p f.off v [(f, v)] := by
  obtain ⟨hserved, hobs, hemb, hrun⟩ := mayWrite_map hf h
  obtain ⟨hrw, hpriv, hpage, -, hlo, hwid, hoff, hpmu, hcus, hnl, hnf, -⟩ := mapFlds_attrs f hf
  have hobs' : observer (cycle s) i = false := hobs
  have hrun' : runlockedF (cycle s) f p = false := hrun
  have hlock : lockedF (cycle s) f p = false := lockedF_map (s := cycle s) hf hemb hl hlc
  have hbits : bits v f.lo f.w.val = v := by rw [bits, hlo, hwid, pow_zero, Nat.div_one, Nat.mod_eq_of_lt hv]
  have hj (mixed : Bool) : judge (cycle s) i f p (runlockedF (cycle s) f p) mixed (bits v f.lo f.w.val) = { ok := some v } := by
    simp [judge, cleanVal, hbits, hrw, hpriv, hobs', hlock, hrun', hpage, hnl, hnf]
  have hw : writeReg (cycle s) i .pol p f.off v = polWrite (cycle s) p f.off v [(f, v)] := by
    rw [writeReg_pol (js := [(f, { ok := some v })]) hoff hpmu (by simp only [pageFields_map hf, List.map_cons, List.map_nil, hj]) rfl]
    simp [takenFields, storeF, hcus]
  unfold hostWrite pageWriteReq
  rw [show servedPage (cycle s) .pol p f.off = .yes from hserved]
  exact hw

theorem polWrite_map (s : State) (p v : Nat) :
    polWrite s p 0x044 v [(F.POL_OCTMAP_LO_OCT, v)] = octmapSet s p false v ∧
      polWrite s p 0x048 v [(F.POL_OCTMAP_HI_OCT, v)] = octmapSet s p true v ∧
      polWrite s p 0x04C v [(F.POL_DSMAP_DS, v)] = dsmapSet s p v := by
  refine ⟨?_, ?_, ?_⟩ <;> simp [polWrite]

theorem exec_octmapWrite {s : State} {i : Initiator} {p : Fin 64} {hi : Bool} {v : Word}
    (h : mayWrite s i .pol p.val (if hi then 0x048 else 0x044) = true) (hl : lockBit s .pol p.val 0 = false) (hlc : s.otp.lc ≠ 3) :
    exec (.octmapWrite i p hi v) s = .next (octmapSet (cycle s) p.val hi v.toNat) := by
  obtain ⟨hlo, hhi, -⟩ := polWrite_map (cycle s) p.val v.toNat
  unfold exec execOctmapWrite
  cases hi
  · exact congrArg Host.Outcome.next
      ((hostWrite_map (f := F.POL_OCTMAP_LO_OCT) (v := v.toNat) (by decide) h hl (.inr hlc) v.isLt).trans hlo)
  · exact congrArg Host.Outcome.next
      ((hostWrite_map (f := F.POL_OCTMAP_HI_OCT) (v := v.toNat) (by decide) h hl (.inr hlc) v.isLt).trans hhi)

theorem exec_dsmapWrite {s : State} {i : Initiator} {p : Fin 64} {v : Word} (h : mayWrite s i .pol p.val 0x04C = true)
    (hl : lockBit s .pol p.val 0 = false) : exec (.dsmapWrite i p v) s = .next (dsmapSet (cycle s) p.val v.toNat) := by
  obtain ⟨-, -, hds⟩ := polWrite_map (cycle s) p.val v.toNat
  unfold exec execDsmapWrite
  exact congrArg Host.Outcome.next
    ((hostWrite_map (f := F.POL_DSMAP_DS) (v := v.toNat) (by decide) h hl (.inl rfl) v.isLt).trans hds)

end Sys2Proof.Machine
end

section
/-! The fields that say who owns an octet or a controller, and the events of a polder page: no operation on the pins, the queues,
the PMU or the ramps writes them (R54). -/

namespace Sys2Proof.Machine

/-- The fields that say who owns an octet or a controller, and the events of a polder page. -/
def Own (f : Fld) : Prop :=
  f = F.OCT_STATE_OWNED ∨ f = F.OCT_STATE_OWNER ∨ f = F.EVT .pol ∨
    (∃ i, f = F.DSC_QSTAT_OWNED (i % 8)) ∨ ∃ i, f = F.DSC_QSTAT_OWNER (i % 8)

/-- A field that is none of these. -/
abbrev Plain (g : Fld) : Prop :=
  g.tag ≠ F.OCT_STATE_OWNED.tag ∧ g.tag ≠ F.OCT_STATE_OWNER.tag ∧ g.tag ≠ (F.EVT .pol).tag ∧
    g.tag % 65536 ≠ (F.DSC_QSTAT_OWNED 0).tag % 65536 ∧ g.tag % 65536 ≠ (F.DSC_QSTAT_OWNER 0).tag % 65536

theorem Own.tag_ne {f g : Fld} (hf : Own f) (hg : Plain g) : f.tag ≠ g.tag := by
  obtain ⟨h1, h2, h3, h4, h5⟩ := hg
  rcases hf with rfl | rfl | rfl | ⟨i, rfl⟩ | ⟨i, rfl⟩
  · exact h1.symm
  · exact h2.symm
  · exact h3.symm
  · intro e
    rw [← e] at h4
    simp only [Fld.tag, fldKey, Page.code] at h4
    omega
  · intro e
    rw [← e] at h5
    simp only [Fld.tag, fldKey, Page.code] at h5
    omega

theorem Own.page_ne {f : Fld} (hf : Own f) : f.page ≠ .evr ∧ f.page ≠ .slu ∧ f.page ≠ .cdi ∧ f.page ≠ .acq := by
  rcases hf with rfl | rfl | rfl | ⟨i, rfl⟩ | ⟨i, rfl⟩ <;> simp

section
variable {f : Fld} (hf : Own f) {m : Nat}
include hf

theorem setF_own (s : State) {g : Fld} (n v : Nat) (hg : Plain g) : getF (setF s g n v) f m = getF s f m :=
  getF_setF_tag s n m v (hf.tag_ne hg)

theorem raise_own (s : State) {p : Page} (n b : Nat) (hp : p ≠ .pol) : getF (raise s p n b) f m = getF s f m := by
  have h : Plain (F.EVT p) ∧ Plain (F.EVT_SEQ p) := by
    cases p
    case pol => exact absurd rfl hp
    all_goals decide
  exact getF_raise _ _ _ _ _ _ (hf.tag_ne h.1) (hf.tag_ne h.2)

/-! Queues and levels. -/

theorem putQueue_own (s : State) (q : Nat) (x : DacQ) : getF (putQueue s q x) f m = getF s f m := by
  unfold putQueue
  simp (disch := first | decide | (simp only [Plain, Fld.tag, fldKey, Page.code]; omega)) only [getF_ite, setF_own hf,
    getF_setQueue, ite_self]

theorem emptyQueue_own (s : State) (q : Nat) : getF (emptyQueue s q) f m = getF s f m := putQueue_own hf ..

theorem suspendQueue_own (s : State) (q : Nat) (v : Bool) : getF (suspendQueue s q v) f m = getF s f m := putQueue_own hf ..

theorem gainSwitch_own (s : State) (q : Nat) (sw : Bool) : getF (gainSwitch s q sw) f m = getF s f m := by
  unfold gainSwitch
  simp only [getF_ite, putQueue_own hf, ite_self]

theorem applyDac_own (s : State) (c code : Nat) {d : Nat} (g : Bool) (hd : d < 7) :
    getF (applyDac s c d code g) f m = getF s f m := by
  unfold applyDac
  simp (disch := first | decide | (simp only [Plain, Fld.tag, fldKey, Page.code]; omega)) only [setF_own hf]

theorem applyFaultChan_own (s : State) (c : Nat) : getF (applyFaultChan s c) f m = getF s f m :=
  getF_forAll_mem (fun _ hd _ => applyDac_own hf _ _ _ _ (List.mem_range.mp hd)) s

theorem applyFaultDacs_own (s : State) (o : Nat) : getF (applyFaultDacs s o) f m = getF s f m := by
  unfold applyFaultDacs
  split
  · exact (gainSwitch_own hf ..).trans (forAll_page (fun _ _ => applyFaultChan_own hf ..) _ _)
  · exact forAll_page (fun _ _ => applyFaultChan_own hf ..) _ _

/-! Pins and the PMU of an octet. -/

theorem setPstate_own (s : State) (o v : Nat) : getF (setPstate s o v) f m = getF s f m := by
  unfold setPstate
  simp (disch := decide) only [setF_own hf]

theorem takeDeskew_own (s : State) (ch : Nat) : getF (takeDeskew s ch) f m = getF s f m := by
  unfold takeDeskew
  simp (disch := first | decide | (simp only [Plain, Fld.tag, fldKey, Page.code]; omega)) only [raiseIf, getF_ite, raise_own hf,
    setF_own hf, getF_setChan, ite_self]

theorem dueDeskew_own (s : State) (ch : Nat) : getF (dueDeskew s ch) f m = getF s f m := by
  unfold dueDeskew
  simp only [getF_ite, takeDeskew_own hf, ite_self]

theorem octDeskew_own (s : State) (o : Nat) : getF (octDeskew s o) f m = getF s f m :=
  forAll_page (fun _ _ => dueDeskew_own hf ..) _ _

theorem tdcCut_own (s : State) (c : Nat) : getF (tdcCut s c) f m = getF s f m := by
  obtain ⟨-, hslu, -, -⟩ := hf.page_ne
  unfold tdcCut
  simp only [getF_ite, raise_own hf _ _ _ (show Page.oct ≠ .pol by decide), tdcOff_page _ _ hslu, ite_self]

theorem setClaim_own (s : State) (c v : Nat) : getF (setClaim s c v) f m = getF s f m := by
  unfold setClaim
  simp (disch := first | decide | (simp only [Plain, Fld.tag, fldKey, Page.code]; omega)) only [setF_own hf]

theorem octOff_own (s : State) (o : Nat) : getF (octOff s o) f m = getF s f m := by
  obtain ⟨hevr, -⟩ := hf.page_ne
  refine forAll_page (fun _ _ => ?_) _ _
  simp only [levOff_page _ _ _ hevr, setClaim_own hf, getF_setChan, tdcCut_own hf]

theorem octSafe_own (s : State) (o : Nat) : getF (octSafe s o) f m = getF s f m := by
  unfold octSafe
  simp only [octDeskew_own hf, getF_ite, setPstate_own hf, applyFaultDacs_own hf, octOff_own hf, ite_self]

theorem octIdle_own (s : State) (o : Nat) : getF (octIdle s o) f m = getF s f m := by
  obtain ⟨-, -, hcdi, -⟩ := hf.page_ne
  unfold octIdle
  split
  · exact octSafe_own hf s o
  · extract_lets fresh s0 s1
    have h0 : getF s0 f m = getF s f m := by
      simp (disch := decide) only [s0, getF_ite, selfcalLeave_page _ _ hcdi, setF_own hf, ite_self]
    have h1 : getF s1 f m = getF s0 f m := by
      refine forAll_page (fun _ _ => ?_) _ _
      simp (disch := first | decide | (simp only [Plain, Fld.tag, fldKey, Page.code]; omega)) only [getF_ite, setF_own hf,
        getF_setChan, ite_self]
    rw [octDeskew_own hf, setPstate_own hf, h1, h0]

theorem takeNew_own (s : State) (n : PmuNew) : getF (takeNew s n) f m = getF s f m := by
  unfold takeNew
  simp (disch := first | decide | (simp only [Plain, Fld.tag, fldKey, Page.code]; omega)) only [setClaim_own hf, setF_own hf,
    getF_setChan]

theorem disconnect_own (s : State) (c : Nat) : getF (disconnect s c) f m = getF s f m := by
  unfold disconnect
  simp only [takeNew_own hf, getF_setChan]

theorem disconnectOct_own (s : State) (o : Nat) : getF (disconnectOct s o) f m = getF s f m := by
  refine forAll_page (fun _ _ => ?_) _ _
  simp only [getF_ite, disconnect_own hf, ite_self]

/-! Controllers (R136). -/

theorem dsLimit_own (s : State) (d cause : Nat) : getF (dsLimit s d cause) f m = getF s f m := by
  unfold dsLimit
  simp (disch := first | decide | (simp only [Plain, Fld.tag, fldKey, Page.code]; omega)) only [raise_own hf, setF_own hf]

theorem clipDs_own (s : State) (d : Nat) (clip : Bool) : getF (clipDs s d clip) f m = getF s f m := by
  unfold clipDs
  simp (disch := first | decide | (simp only [Plain, Fld.tag, fldKey, Page.code]; omega)) only [dsCause_page, setF_own hf,
    getF_ite, dsLimit_own hf, ite_self]

theorem applySp_own (s : State) (d : Nat) : getF (applySp s d) f m = getF s f m := by
  unfold applySp
  simp (disch := first | decide | (simp only [Plain, Fld.tag, fldKey, Page.code]; omega)) only [clipDs_own hf, setF_own hf]

theorem setPoint_own (s : State) (d code : Nat) (g : Bool) : getF (setPoint s d code g) f m = getF s f m := applySp_own hf ..

theorem setDsOn_own (s : State) (d : Nat) (v : Bool) : getF (setDsOn s d v) f m = getF s f m := by
  unfold setDsOn
  simp (disch := first | decide | (simp only [Plain, Fld.tag, fldKey, Page.code]; omega)) only [setF_own hf]

theorem showRamp_own (s : State) (d : Nat) (v : Bool) : getF (showRamp s d v) f m = getF s f m := by
  unfold showRamp
  simp (disch := first | decide | (simp only [Plain, Fld.tag, fldKey, Page.code]; omega)) only [setF_own hf, getF_setDs]

theorem dsOff_own (s : State) (d : Nat) (t : Stamp) : getF (dsOff s d t) f m = getF s f m := by
  unfold dsOff
  obtain ⟨hevr, -⟩ := hf.page_ne
  simp (disch := first | decide | (simp only [Plain, Fld.tag, fldKey, Page.code]; omega)) only [dsMonOff_page _ _ _ hevr,
    dsCause_page, getF_setDs, setF_own hf, setDsOn_own hf]

theorem rampEnd_own (s : State) (d : Nat) : getF (rampEnd s d) f m = getF s f m := by
  unfold rampEnd
  simp only [getF_ite, dsOff_own hf, setDsOn_own hf, setPoint_own hf, showRamp_own hf, ite_self]

theorem faultRamp_own (s : State) (d : Nat) : getF (faultRamp s d) f m = getF s f m := by
  unfold faultRamp
  simp (disch := first | decide | (simp only [Plain, Fld.tag, fldKey, Page.code]; omega)) only [getF_ite, rampEnd_own hf,
    clipDs_own hf, showRamp_own hf, setF_own hf, gainSwitch_own hf, getF_setDs, ite_self]

/-! What a polder page shows of its PMU. -/

theorem showOps_own (s : State) (p : Nat) : getF (showOps s p) f m = getF s f m := by
  unfold showOps
  simp (disch := decide) only [getF_ite, setF_own hf, ite_self]

theorem showConv_own (s : State) (p : Nat) : getF (showConv s p) f m = getF s f m := by
  unfold showConv
  simp (disch := decide) only [getF_ite, setF_own hf, ite_self]

theorem tidyBurst_own (s : State) (p : Nat) : getF (tidyBurst s p) f m = getF s f m := by
  unfold tidyBurst
  extract_lets s1
  have h1 : getF s1 f m = getF s f m := forAll_page (fun _ _ => getF_setChan ..) _ _
  simp (disch := decide) only [getF_ite, setF_own hf, h1, ite_self]

theorem showPmu_own (s : State) (p : Nat) : getF (showPmu s p) f m = getF s f m := by
  unfold showPmu
  simp only [showOps_own hf, tidyBurst_own hf, showConv_own hf]

theorem endBurst_own (s : State) (p : Nat) : getF (endBurst s p) f m = getF s f m :=
  (tidyBurst_own hf ..).trans (forAll_page (fun _ _ => getF_setChan ..) _ _)

end

end Sys2Proof.Machine
end

section
/-! What a map register does, for octets and for controllers alike: what its bits name is taken, what they do not name is given back,
and what another polder owns stays with it and is reported (R54, R56). -/

namespace Sys2Proof.Machine

/-! The events of the polder pages only gather. -/

/-- Every event of a polder page that is set in `s` is set in `t`. -/
def EvtGrows (s t : State) : Prop :=
  ∀ n c, c < 32 → (getF s (F.EVT .pol) n).testBit c = true → (getF t (F.EVT .pol) n).testBit c = true

theorem EvtGrows.of_eq {s t : State} (h : ∀ n, getF t (F.EVT .pol) n = getF s (F.EVT .pol) n) : EvtGrows s t :=
  fun n c _ hb => by rw [h n]; exact hb

theorem EvtGrows.refl (s : State) : EvtGrows s s := .of_eq (fun _ => rfl)

theorem EvtGrows.trans {s t u : State} (h : EvtGrows s t) (g : EvtGrows t u) : EvtGrows s u :=
  fun n c hc hb => g n c hc (h n c hc hb)

theorem EvtGrows.raise (s : State) (n b : Nat) : EvtGrows s (raise s .pol n b) :=
  fun _ _ hc hb => evt_raise_kept n b hc hb

theorem EvtGrows.forAll {g : State → Nat → State} (h : ∀ s n, EvtGrows s (g s n)) (l : List Nat) (s : State) :
    EvtGrows s (forAll l s g) :=
  forAll_keeps (I := fun u => EvtGrows s u) (fun u n hu => hu.trans (h u n)) l (.refl s)

/-! One bit of a map. -/

section
variable (own : State → Nat → Option Nat) (take drop : State → Nat → State) (p : Nat)

/-- What becomes of resource `o` when a map of polder `p` is written with `bit` for it. -/
def shareBit (bit : Bool) (s : State) (o : Nat) : State :=
  match bit, own s o with
  | true, none => take s o
  | true, some q => if q = p then s else raise s .pol p E.POL_OWN_CONFLICT
  | false, some q => if q = p then drop s o else s
  | false, none => s

theorem shareBit_free (bit : Bool) {s : State} {o : Nat} (h : own s o = none) :
    shareBit own take drop p bit s o = if bit then take s o else s := by
  unfold shareBit
  rw [h]
  cases bit <;> rfl

theorem shareBit_held (bit : Bool) {s : State} {o : Nat} (h : own s o = some p) :
    shareBit own take drop p bit s o = if bit then s else drop s o := by
  unfold shareBit
  rw [h]
  cases bit <;> simp

theorem shareBit_foreign (bit : Bool) {s : State} {o r : Nat} (h : own s o = some r) (hr : r ≠ p) :
    shareBit own take drop p bit s o = if bit then raise s .pol p E.POL_OWN_CONFLICT else s := by
  unfold shareBit
  rw [h]
  cases bit <;> simp [hr]

/-- Whatever the bit and the owner, one of four things happens. -/
theorem shareBit_cases (bit : Bool) (s : State) (o : Nat) : shareBit own take drop p bit s o = s ∨
    shareBit own take drop p bit s o = take s o ∨ shareBit own take drop p bit s o = drop s o ∨
    shareBit own take drop p bit s o = raise s .pol p E.POL_OWN_CONFLICT := by
  unfold shareBit
  split
  · exact .inr (.inl rfl)
  · split
    · exact .inl rfl
    · exact .inr (.inr (.inr rfl))
  · split
    · exact .inr (.inr (.inl rfl))
    · exact .inl rfl
  · exact .inl rfl

/-- Bit `k` of the value `v` written to a map whose bits name the resources from `base` on. -/
def mapBit (v base : Nat) (s : State) (k : Nat) : State := shareBit own take drop p (v.testBit k) s (base + k)

/-- What a map of polder `p` needs of the resources it shares out: taking and giving back move the owner of the one resource named,
and neither that nor an event says anything else of owners, events or run states. -/
structure Shares : Prop where
  own_take : ∀ s o j, own (take s o) j = if j = o then some p else own s j
  own_drop : ∀ s o j, own (drop s o) j = if j = o then none else own s j
  own_raise : ∀ s n b j, own (raise s .pol n b) j = own s j
  evt_take : ∀ s o n, getF (take s o) (F.EVT .pol) n = getF s (F.EVT .pol) n
  evt_drop : ∀ s o n, getF (drop s o) (F.EVT .pol) n = getF s (F.EVT .pol) n
  rs_take : ∀ s o q, rsOf (take s o) q = rsOf s q
  rs_drop : ∀ s o q, rsOf (drop s o) q = rsOf s q

end

/-- The owner of a resource after a map of polder `p` was written with `bit` for it (R54). -/
def mapOwner (p : Nat) (old : Option Nat) (bit : Bool) : Option Nat :=
  if old = none ∨ old = some p then (if bit then some p else none) else old

theorem mapOwner_foreign {p r : Nat} (h : r ≠ p) (bit : Bool) : mapOwner p (some r) bit = some r := by
  simp [mapOwner, h]

section
variable {own : State → Nat → Option Nat} {take drop : State → Nat → State} {p : Nat} (H : Shares own take drop p) (v base : Nat)
include H

theorem shareBit_own (bit : Bool) (s : State) (o j : Nat) : own (shareBit own take drop p bit s o) j =
    if j = o then mapOwner p (own s j) bit else own s j := by
  by_cases hj : j = o
  · subst hj
    rw [if_pos rfl]
    rcases ho : own s j with _ | r
    · rw [shareBit_free _ _ _ _ _ ho]
      cases bit <;> simp [mapOwner, H.own_take, ho]
    by_cases hr : r = p
    · subst hr
      rw [shareBit_held _ _ _ _ _ ho]
      cases bit <;> simp [mapOwner, H.own_drop, ho]
    · rw [shareBit_foreign _ _ _ _ _ ho hr, mapOwner_foreign hr]
      cases bit <;> simp [H.own_raise, ho]
  · rw [if_neg hj]
    rcases shareBit_cases own take drop p bit s o with e | e | e | e <;> rw [e]
    · rw [H.own_take, if_neg hj]
    · rw [H.own_drop, if_neg hj]
    · rw [H.own_raise]

theorem mapBit_grows (s : State) (k : Nat) : EvtGrows s (mapBit own take drop p v base s k) := by
  unfold mapBit
  rcases shareBit_cases own take drop p (v.testBit k) s (base + k) with e | e | e | e <;> rw [e]
  · exact .refl s
  · exact .of_eq (H.evt_take s _)
  · exact .of_eq (H.evt_drop s _)
  · exact .raise s p _

theorem mapBit_rs (s : State) (k q : Nat) : rsOf (mapBit own take drop p v base s k) q = rsOf s q := by
  unfold mapBit
  rcases shareBit_cases own take drop p (v.testBit k) s (base + k) with e | e | e | e <;> rw [e]
  · exact H.rs_take ..
  · exact H.rs_drop ..
  · exact rsOf_congr (raise_rs ..)

/-! The whole value. -/

theorem mapAll_own (n : Nat) (s : State) (j : Nat) : own (forAll (List.range n) s (mapBit own take drop p v base)) j =
    if base ≤ j ∧ j < base + n then mapOwner p (own s j) (v.testBit (j - base)) else own s j := by
  induction n with
  | zero => rw [if_neg (by omega)]; rfl
  | succ n ih =>
    have hstep : forAll (List.range (n + 1)) s (mapBit own take drop p v base) =
        mapBit own take drop p v base (forAll (List.range n) s (mapBit own take drop p v base)) n := by
      simp only [forAll, List.range_succ, List.foldl_append, List.foldl_cons, List.foldl_nil]
    rw [hstep, mapBit, shareBit_own H, ih]
    by_cases hj : j = base + n
    · subst hj
      rw [if_pos rfl, if_neg (by omega), if_pos (by omega), Nat.add_sub_cancel_left]
    · rw [if_neg hj]
      exact if_congr (by omega) rfl rfl

theorem mapAll_grows (n : Nat) (s : State) : EvtGrows s (forAll (List.range n) s (mapBit own take drop p v base)) :=
  .forAll (mapBit_grows H v base) _ s

theorem mapAll_rs (n : Nat) (s : State) (q : Nat) :
    rsOf (forAll (List.range n) s (mapBit own take drop p v base)) q = rsOf s q :=
  rsOf_forAll_keep (mapBit_rs H v base) _ s q

/-- A bit of 1 for what another polder owns is reported (R54). -/
theorem mapAll_conflict {n k r : Nat} (hk : k < n) {s : State} (ho : own s (base + k) = some r) (hr : r ≠ p)
    (hv : v.testBit k = true) : (getF (forAll (List.range n) s (mapBit own take drop p v base)) (F.EVT .pol) p).testBit
      E.POL_OWN_CONFLICT = true := by
  refine forAll_reaches (g := mapBit own take drop p v base) (n := k) (I := fun u => own u (base + k) = some r)
    (P := fun u => (getF u (F.EVT .pol) p).testBit E.POL_OWN_CONFLICT = true) (fun u m hu => ?_) (fun u hu => ?_)
    (fun u m hu => mapBit_grows H v base u m p _ (by decide) hu) (List.mem_range.mpr hk) ho
  · rw [mapBit, shareBit_own H, hu, mapOwner_foreign hr, ite_self]
  · rw [mapBit, shareBit_foreign _ _ _ _ _ hu hr, if_pos hv]
    exact evt_raise _ _ _ _ (by decide)

end
end Sys2Proof.Machine
end

section
/-! The octets and the controllers that a polder takes and gives back (R54, R56). -/

namespace Sys2Proof.Machine

/-- A field that reads alike in two states reads alike after the same write. -/
theorem getF_setF_congr {s t : State} {f g : Fld} {n m v : Nat} (hr : f.rst = g.rst) (h : getF t f m = getF s f m) :
    getF (setF t g n v) f m = getF (setF s g n v) f m := by
  by_cases hk : f.key m = g.key n
  · simp only [getF, setF, hk, hr, Store.get_put_same]
  · rw [getF_setF_ne _ _ hk, getF_setF_ne _ _ hk, h]

theorem Own.rst_zero {f : Fld} (hf : Own f) : f.rst = 0 := by
  rcases hf with rfl | rfl | rfl | ⟨i, rfl⟩ | ⟨i, rfl⟩ <;> rfl

section
variable {f : Fld} (hf : Own f) {m : Nat}
include hf

theorem takeOct_own (s : State) (p o : Nat) :
    getF (takeOct s p o) f m = getF (setF (setF s F.OCT_STATE_OWNED o 1) F.OCT_STATE_OWNER o p) f m := by
  unfold takeOct
  simp only [getF_ite, octIdle_own hf, octSafe_own hf, clearSpace_page, ite_self]

theorem dropOct_own (s : State) (o : Nat) :
    getF (dropOct s o) f m = getF (setF (setF s F.OCT_STATE_OWNED o 0) F.OCT_STATE_OWNER o 0) f m := by
  unfold dropOct
  extract_lets s1 s2
  have h1 : getF s1 f m = getF s f m := by
    simp only [s1, octOff_own hf, disconnectOct_own hf]
    split
    · exact emptyQueue_own hf ..
    · rfl
  rw [clearSpace_page, octSafe_own hf]
  exact getF_setF_congr hf.rst_zero (getF_setF_congr hf.rst_zero h1)

theorem takeDs_own (s : State) (p d : Nat) : getF (takeDs s p d) f m =
    getF (setF (setF s (F.DSC_QSTAT_OWNED (d % 8)) (d / 8) 1) (F.DSC_QSTAT_OWNER (d % 8)) (d / 8) p) f m :=
  suspendQueue_own hf ..

theorem dropDs_own (s : State) (d : Nat) : getF (dropDs s d) f m =
    getF (setF (setF s (F.DSC_QSTAT_OWNED (d % 8)) (d / 8) 0) (F.DSC_QSTAT_OWNER (d % 8)) (d / 8) 0) f m := by
  obtain ⟨hevr, -⟩ := hf.page_ne
  unfold dropDs
  rw [faultRamp_own hf, dsMonOff_page _ _ _ hevr, suspendQueue_own hf]
  exact getF_setF_congr hf.rst_zero (getF_setF_congr hf.rst_zero (emptyQueue_own hf ..))

end

/-! Owners read from the two fields. -/

theorem own_owned : Own F.OCT_STATE_OWNED := .inl rfl
theorem own_owner : Own F.OCT_STATE_OWNER := .inr (.inl rfl)
theorem own_evt : Own (F.EVT .pol) := .inr (.inr (.inl rfl))
theorem own_dsOwned (i : Nat) : Own (F.DSC_QSTAT_OWNED (i % 8)) := .inr (.inr (.inr (.inl ⟨i, rfl⟩)))
theorem own_dsOwner (i : Nat) : Own (F.DSC_QSTAT_OWNER (i % 8)) := .inr (.inr (.inr (.inr ⟨i, rfl⟩)))

theorem dsOwner_congr {s t : State} {d : Nat}
    (h1 : getF t (F.DSC_QSTAT_OWNED (d % 8)) (d / 8) = getF s (F.DSC_QSTAT_OWNED (d % 8)) (d / 8))
    (h2 : getF t (F.DSC_QSTAT_OWNER (d % 8)) (d / 8) = getF s (F.DSC_QSTAT_OWNER (d % 8)) (d / 8)) : dsOwner t d = dsOwner s d := by
  unfold dsOwner isSet
  rw [h1, h2]

/-- The state of two fields that say that polder `p` owns octet `o`, or nobody. -/
theorem owner_setOwner (s : State) (o : Nat) (b : Bool) {p : Nat} (hp : p < 64) (j : Nat) :
    owner (setF (setF s F.OCT_STATE_OWNED o (b2n b)) F.OCT_STATE_OWNER o p) j =
      if j = o then (if b then some p else none) else owner s j := by
  by_cases hj : j = o
  · subst hj
    have h1 : getF (setF (setF s F.OCT_STATE_OWNED j (b2n b)) F.OCT_STATE_OWNER j p) F.OCT_STATE_OWNED j = b2n b := by
      rw [getF_setF_tag _ _ _ _ (by decide), getF_setF_same]
      cases b <;> rfl
    have h2 : getF (setF (setF s F.OCT_STATE_OWNED j (b2n b)) F.OCT_STATE_OWNER j p) F.OCT_STATE_OWNER j = p := by
      rw [getF_setF_same]; exact Nat.mod_eq_of_lt hp
    unfold owner isSet
    rw [h1, h2]
    cases b <;> simp [b2n]
  · rw [if_neg hj]
    refine owner_congr ?_ ?_
    · rw [getF_setF_tag _ _ _ _ (by decide), getF_setF_inst _ _ _ hj]
    · rw [getF_setF_inst _ _ _ hj, getF_setF_tag _ _ _ _ (by decide)]

/-- The same of controller `d`. -/
theorem dsOwner_setOwner (s : State) (d : Nat) (b : Bool) {p : Nat} (hp : p < 64) (j : Nat) :
    dsOwner (setF (setF s (F.DSC_QSTAT_OWNED (d % 8)) (d / 8) (b2n b)) (F.DSC_QSTAT_OWNER (d % 8)) (d / 8) p) j =
      if j = d then (if b then some p else none) else dsOwner s j := by
  have hne : (F.DSC_QSTAT_OWNED (j % 8)).tag ≠ (F.DSC_QSTAT_OWNER (d % 8)).tag := by
    simp only [Fld.tag, fldKey, Page.code]; omega
  have hne' : (F.DSC_QSTAT_OWNER (j % 8)).tag ≠ (F.DSC_QSTAT_OWNED (d % 8)).tag := by
    simp only [Fld.tag, fldKey, Page.code]; omega
  by_cases hj : j = d
  · subst hj
    have h1 : getF (setF (setF s (F.DSC_QSTAT_OWNED (j % 8)) (j / 8) (b2n b)) (F.DSC_QSTAT_OWNER (j % 8)) (j / 8) p)
        (F.DSC_QSTAT_OWNED (j % 8)) (j / 8) = b2n b := by
      rw [getF_setF_tag _ _ _ _ hne, getF_setF_same]
      cases b <;> rfl
    have h2 : getF (setF (setF s (F.DSC_QSTAT_OWNED (j % 8)) (j / 8) (b2n b)) (F.DSC_QSTAT_OWNER (j % 8)) (j / 8) p)
        (F.DSC_QSTAT_OWNER (j % 8)) (j / 8) = p := by
      rw [getF_setF_same]; exact Nat.mod_eq_of_lt hp
    unfold dsOwner isSet
    rw [h1, h2]
    cases b <;> simp [b2n]
  · rw [if_neg hj]
    refine dsOwner_congr ?_ ?_
    · rw [getF_setF_tag _ _ _ _ hne, getF_setF_ne _ _ (by simp only [Fld.key, fldKey, Page.code, ne_eq]; omega)]
    · rw [getF_setF_ne _ _ (by simp only [Fld.key, fldKey, Page.code, ne_eq]; omega), getF_setF_tag _ _ _ _ hne']

theorem evt_setF_dsc (s : State) {g : Fld} (n v m : Nat) (hg : g.page = .dsc) :
    getF (setF s g n v) (F.EVT .pol) m = getF s (F.EVT .pol) m :=
  setF_page s g n v (by rw [hg]; decide)

/-- OCTMAP shares out the octets. -/
theorem shares_octets {p : Nat} (hp : p < 64) : Shares owner (fun s o => takeOct s p o) dropOct p where
  own_take s o j := (owner_congr (takeOct_own own_owned ..) (takeOct_own own_owner ..)).trans (owner_setOwner s o true hp j)
  own_drop s o j := (owner_congr (dropOct_own own_owned ..) (dropOct_own own_owner ..)).trans
    (owner_setOwner s o false (p := 0) (by decide) j)
  own_raise s n b j := owner_congr (raise_page _ _ _ _ (by decide)) (raise_page _ _ _ _ (by decide))
  evt_take s o n := by simp (disch := decide) only [takeOct_own own_evt, getF_setF_tag]
  evt_drop s o n := by simp (disch := decide) only [dropOct_own own_evt, getF_setF_tag]
  rs_take s o q := rsOf_congr (takeOct_rs ..)
  rs_drop s o q := rsOf_congr (dropOct_rs ..)

/-- DSMAP shares out the controllers. -/
theorem shares_controllers {p : Nat} (hp : p < 64) : Shares dsOwner (fun s d => takeDs s p d) dropDs p where
  own_take s d j := (dsOwner_congr (takeDs_own (own_dsOwned j) ..) (takeDs_own (own_dsOwner j) ..)).trans
    (dsOwner_setOwner s d true hp j)
  own_drop s d j := (dsOwner_congr (dropDs_own (own_dsOwned j) ..) (dropDs_own (own_dsOwner j) ..)).trans
    (dsOwner_setOwner s d false (p := 0) (by decide) j)
  own_raise s n b j := dsOwner_congr (raise_page _ _ _ _ nofun) (raise_page _ _ _ _ nofun)
  evt_take s d n := by rw [takeDs_own own_evt, evt_setF_dsc _ _ _ _ rfl, evt_setF_dsc _ _ _ _ rfl]
  evt_drop s d n := by rw [dropDs_own own_evt, evt_setF_dsc _ _ _ _ rfl, evt_setF_dsc _ _ _ _ rfl]
  rs_take s d q := rsOf_congr (takeDs_rs ..)
  rs_drop s d q := rsOf_congr (dropDs_rs ..)

end Sys2Proof.Machine
end

section
/-! OCTMAP and DSMAP written: the owners, the reports and the run state that follow (R54, R56, R57). -/

namespace Sys2Proof.Machine

/-! DSMAP. -/

/-- The controllers have changed hands as the bits of `v` say. -/
def dsTaken (s : State) (p v : Nat) : State :=
  forAll (List.range 32) s (mapBit dsOwner (fun s d => takeDs s p d) dropDs p v 0)

theorem takeDsmap_eq (s : State) (p v : Nat) : takeDsmap s p v = refreshLevee (setF (dsTaken s p v) F.POL_DSMAP_DS p
    ((dsOfPol (dsTaken s p v) p).foldl (fun n d => n + 2 ^ d) 0)) p := by
  have h : mapBit dsOwner (fun s d => takeDs s p d) dropDs p v 0 =
      fun s d => shareBit dsOwner (fun s d => takeDs s p d) dropDs p (v.testBit d) s d := by
    funext s d
    rw [mapBit, Nat.zero_add]
  unfold dsTaken
  rw [h]
  rfl

section
variable (s : State) {p : Nat} (hp : p < 64) (v : Nat)

theorem takeDsmap_field {f : Fld} (m : Nat) (hf : f.tag ≠ F.POL_DSMAP_DS.tag) :
    getF (takeDsmap s p v) f m = getF (dsTaken s p v) f m := by
  rw [takeDsmap_eq, refreshLevee_page, getF_setF_tag _ _ _ _ hf]

include hp

theorem takeDsmap_dsOwner (d : Nat) : dsOwner (takeDsmap s p v) d =
    if d < 32 then mapOwner p (dsOwner s d) (v.testBit d) else dsOwner s d := by
  have hk := mapAll_own (shares_controllers hp) v 0 32 s d
  rw [dsOwner_congr (takeDsmap_field s v _ ((own_dsOwned d).tag_ne (by decide)))
    (takeDsmap_field s v _ ((own_dsOwner d).tag_ne (by decide)))]
  rw [dsTaken, hk, Nat.sub_zero]
  exact if_congr (by omega) rfl rfl

theorem takeDsmap_grows : EvtGrows s (takeDsmap s p v) :=
  (mapAll_grows (shares_controllers hp) v 0 32 s).trans (.of_eq fun n => takeDsmap_field s v n (by decide))

theorem takeDsmap_conflict {d r : Nat} (hd : d < 32) (ho : dsOwner s d = some r) (hr : r ≠ p) (hv : v.testBit d = true) :
    (getF (takeDsmap s p v) (F.EVT .pol) p).testBit E.POL_OWN_CONFLICT = true := by
  rw [takeDsmap_field s v p (by decide)]
  exact mapAll_conflict (shares_controllers hp) v 0 hd (by rwa [Nat.zero_add]) hr hv

end

/-! A polder that gets its first octet, and one that gives back its last (R57). -/

theorem cancelRestart_grows (s : State) (p : Nat) : EvtGrows s (cancelRestart s p) :=
  fun n _ hc hb => cancelRestart_keeps_evt s p n hc hb

theorem setF_grows (s : State) {g : Fld} (n v : Nat) (hg : Plain g) : EvtGrows s (setF s g n v) :=
  .of_eq fun _ => setF_own own_evt s n v hg

theorem endCmds_grows (s : State) (p : Nat) : EvtGrows s (endCmds s p) :=
  .of_eq fun _ => by simp (disch := decide) only [endCmds, List.foldl_cons, List.foldl_nil, getF_setF_tag]

theorem dikeState_grows (s : State) (p src : Nat) : EvtGrows s (dikeState s p src) := by
  unfold dikeState
  extract_lets x s1 s2 s3
  have h1 : EvtGrows s s1 := .of_eq fun _ => by simp (disch := decide) only [s1, setRs, getF_setPol, getF_setF_tag]
  have h2 : EvtGrows s1 s2 :=
    ((setF_grows s1 p 0 (by decide)).trans (cancelRestart_grows _ p)).trans (endCmds_grows _ p)
  have h3 : EvtGrows s2 s3 :=
    ((setF_grows s2 p 0 (by decide)).trans (setF_grows _ p 0 (by decide))).trans (setF_grows _ p src (by decide))
  exact ((h1.trans h2).trans h3).trans (.raise s3 p _)

theorem dikeBench_grows (s : State) (p : Nat) : EvtGrows s (dikeBench s p) := by
  unfold dikeBench
  split
  · exact ((setF_grows s p 1 (by decide)).trans (.raise _ p _)).trans (.of_eq fun _ => markRun_page _ _ _ (by decide))
  · exact .refl s

theorem form_grows (s : State) {p : Nat} (hp : p < 64) : EvtGrows s (form s p) := by
  unfold form
  extract_lets s1 s2 s3
  have h1 : EvtGrows s s1 := ((dikeState_grows s p 1).trans
    (.of_eq fun _ => dikeRecords_page _ _ (by decide) (by decide))).trans (dikeBench_grows _ p)
  have h2 : EvtGrows s1 s2 := (setF_grows s1 p 16 (by decide)).trans
    (.of_eq fun _ => (suspendQueue_own own_evt ..).trans (emptyQueue_own own_evt ..))
  exact ((h1.trans h2).trans (takeDsmap_grows s2 hp _)).trans
    (.forAll (fun u d => .of_eq fun _ => faultRamp_own own_evt u d) _ s3)

theorem rsOf_form (s : State) (p q : Nat) : rsOf (form s p) q = if q = p then .dike else rsOf s q := by
  unfold form
  extract_lets s1 s2 s3
  rw [← rsOf_dikeState s p 1 q, rsOf_forAll_keep (fun _ _ _ => rsOf_congr (faultRamp_rs ..))]
  exact rsOf_congr (by simp (disch := decide) only [s3, s2, s1, takeDsmap_rs, suspendQueue_rs, emptyQueue_rs, setF_rs, dikeBench_rs,
    dikeRecords_page])

theorem form_owner (s : State) (p o : Nat) : owner (form s p) o = owner s o :=
  owner_congr (form_page _ _ (by decide) (by decide) (by decide) (by decide) (by decide))
    (form_page _ _ (by decide) (by decide) (by decide) (by decide) (by decide))

theorem dissolve_grows (s : State) (p : Nat) : EvtGrows s (dissolve s p) := by
  unfold dissolve
  extract_lets s1 s2 s3
  have h1 : EvtGrows s s1 := .forAll (fun u d => .of_eq ((shares_controllers (p := 0) (by decide)).evt_drop u d)) _ s
  have h2 : EvtGrows s1 s2 := .of_eq fun _ => by simp (disch := decide) only [s2, setRs, getF_setF_tag]
  have h3 : EvtGrows s2 s3 := .of_eq fun _ => by simp only [s3, showPmu_own own_evt, endBurst_own own_evt, emptyQueue_own own_evt]
  exact ((h1.trans h2).trans h3).trans (.of_eq fun _ => getF_setPol ..)

theorem rsOf_dissolve (s : State) (p q : Nat) : rsOf (dissolve s p) q = if q = p then .off else rsOf s q := by
  unfold dissolve
  extract_lets s1 s2 s3
  have h1 : rsOf s1 q = rsOf s q := rsOf_forAll_keep (fun _ _ _ => rsOf_congr (dropDs_rs ..)) _ s q
  rw [← h1, ← rsOf_setRs]
  exact rsOf_congr (by simp (disch := decide) only [s3, s2, getF_setPol, showPmu_rs, endBurst_rs, emptyQueue_rs, setF_rs])

theorem dissolve_owner (s : State) (p o : Nat) : owner (dissolve s p) o = owner s o :=
  owner_congr (dissolve_page _ _ (by decide) (by decide) (by decide)) (dissolve_page _ _ (by decide) (by decide) (by decide))

/-! OCTMAP. -/

/-- The octets have changed hands as the bits of `v` say. -/
def octTaken (s : State) (p : Nat) (hi : Bool) (v : Nat) : State :=
  forAll (List.range 32) s (mapBit owner (fun s o => takeOct s p o) dropOct p v (if hi then 32 else 0))

/-- The octets of polder `p` as OCTMAP shows them. -/
def octMask (s : State) (p : Nat) : Nat := (octsOf s p).foldl (fun n o => n + 2 ^ o) 0

def octShown (s : State) (p : Nat) : State :=
  setF (setF s F.POL_OCTMAP_LO_OCT p (octMask s p % 2 ^ 32)) F.POL_OCTMAP_HI_OCT p (octMask s p / 2 ^ 32)

/-- Where the polder has become one or is none any more. -/
def octFormed (s : State) (p m : Nat) : State :=
  if rsOf s p == .off then (if m = 0 then s else form s p) else if m = 0 then dissolve s p else s

theorem octmapSet_eq (s : State) (p : Nat) (hi : Bool) (v : Nat) : octmapSet s p hi v =
    refreshLevee (showPmu (octFormed (octShown (octTaken s p hi v) p) p (octMask (octTaken s p hi v) p)) p) p := rfl

theorem octMask_eq_zero (s : State) (p : Nat) : octMask s p = 0 ↔ octsOf s p = [] := by
  have hle (l : List Nat) (n : Nat) : n ≤ l.foldl (fun n o => n + 2 ^ o) n := by
    induction l generalizing n with
    | nil => exact le_rfl
    | cons o l ih => exact (Nat.le_add_right n _).trans (ih _)
  unfold octMask
  rcases octsOf s p with _ | ⟨o, l⟩
  · simp
  · have h1 := hle l (0 + 2 ^ o)
    have h2 : 0 < 2 ^ o := by positivity
    rw [List.foldl_cons]
    simp only [reduceCtorEq, iff_false]
    omega

theorem octShown_owner (s : State) (p o : Nat) : owner (octShown s p) o = owner s o := by
  refine owner_congr ?_ ?_ <;> simp (disch := decide) only [octShown, getF_setF_tag]

theorem octFormed_owner (s : State) (p m o : Nat) : owner (octFormed s p m) o = owner s o := by
  unfold octFormed
  simp only [apply_ite (fun t => owner t o), form_owner, dissolve_owner, ite_self]

theorem octFormed_grows (s : State) {p : Nat} (hp : p < 64) (m : Nat) : EvtGrows s (octFormed s p m) := by
  unfold octFormed
  split <;> split
  · exact .refl s
  · exact form_grows s hp
  · exact dissolve_grows s p
  · exact .refl s

/-- R57: OFF without an octet; with the first octet DIKE. -/
theorem rsOf_octFormed (s : State) (p m q : Nat) : rsOf (octFormed s p m) q =
    if q = p then (if m = 0 then .off else if rsOf s p = .off then .dike else rsOf s p) else rsOf s q := by
  unfold octFormed
  by_cases ho : rsOf s p = .off
  · rw [if_pos (by rw [ho]; rfl)]
    by_cases hm : m = 0
    · rw [if_pos hm, if_pos hm, ← ho]
      split
      · next hq => rw [hq]
      · rfl
    · rw [if_neg hm, rsOf_form, if_neg hm, if_pos ho]
  · rw [if_neg (by simpa using ho)]
    by_cases hm : m = 0
    · rw [if_pos hm, rsOf_dissolve, if_pos hm]
    · rw [if_neg hm, if_neg hm, if_neg ho]
      split
      · next hq => rw [hq]
      · rfl

section
variable (s : State) {p : Nat} (hp : p < 64) (hi : Bool) (v : Nat)

theorem octmapSet_owner_taken (o : Nat) : owner (octmapSet s p hi v) o = owner (octTaken s p hi v) o := by
  rw [octmapSet_eq]
  refine Eq.trans ?_ ((octFormed_owner _ p (octMask (octTaken s p hi v) p) o).trans (octShown_owner _ p o))
  refine owner_congr ?_ ?_ <;> rw [refreshLevee_page, showPmu_page _ _ (by decide)]

include hp

theorem octmapSet_owner (o : Nat) : owner (octmapSet s p hi v) o =
    if (if hi then 32 else 0) ≤ o ∧ o < (if hi then 32 else 0) + 32 then
      mapOwner p (owner s o) (v.testBit (o - if hi then 32 else 0)) else owner s o :=
  (octmapSet_owner_taken s hi v o).trans (mapAll_own (shares_octets hp) v _ 32 s o)

theorem octmapSet_grows : EvtGrows (octTaken s p hi v) (octmapSet s p hi v) := by
  rw [octmapSet_eq]
  have h1 : EvtGrows (octTaken s p hi v) (octShown (octTaken s p hi v) p) :=
    (setF_grows _ p _ (by decide)).trans (setF_grows _ p _ (by decide))
  exact (h1.trans (octFormed_grows _ hp _)).trans (.of_eq fun _ => (refreshLevee_page ..).trans (showPmu_own own_evt ..))

theorem octmapSet_conflict {k r : Nat} (hk : k < 32) (ho : owner s ((if hi then 32 else 0) + k) = some r) (hr : r ≠ p)
    (hv : v.testBit k = true) : (getF (octmapSet s p hi v) (F.EVT .pol) p).testBit E.POL_OWN_CONFLICT = true :=
  octmapSet_grows s hp hi v p _ (by decide) (mapAll_conflict (shares_octets hp) v _ hk ho hr hv)

theorem rsOf_octmapSet (q : Nat) : rsOf (octmapSet s p hi v) q =
    if q = p then (if octsOf (octmapSet s p hi v) p = [] then .off else if rsOf s p = .off then .dike else rsOf s p)
    else rsOf s q := by
  have hs (q : Nat) : rsOf (octShown (octTaken s p hi v) p) q = rsOf s q := by
    rw [rsOf_congr (s := octTaken s p hi v) (by simp (disch := decide) only [octShown, setF_rs])]
    exact mapAll_rs (shares_octets hp) v _ 32 s q
  have hm : octMask (octTaken s p hi v) p = 0 ↔ octsOf (octmapSet s p hi v) p = [] := by
    rw [octMask_eq_zero, octsOf_congr (octmapSet_owner_taken s hi v)]
  have he : rsOf (octmapSet s p hi v) q =
      rsOf (octFormed (octShown (octTaken s p hi v) p) p (octMask (octTaken s p hi v) p)) q := by
    rw [octmapSet_eq]
    exact rsOf_congr ((refreshLevee_page ..).trans (showPmu_rs ..))
  rw [he, rsOf_octFormed, hs, hs]
  simp only [hm]

end

/-! The obligation. -/

/-- What O35 asks of one resource: free or the polder's own, it follows its bit; another polder's, it stays, and a bit of 1 is reported
(`c`). -/
def FollowsBit (p : Nat) (old new : Option Nat) (bit : Bool) (c : Prop) : Prop :=
  match old with
  | none => new = if bit then some p else none
  | some r => if r = p then new = (if bit then some p else none) else new = old ∧ (bit = true → c)

theorem followsBit_of_mapOwner {p : Nat} {old new : Option Nat} {bit : Bool} {c : Prop} (h : new = mapOwner p old bit)
    (hc : ∀ r, old = some r → r ≠ p → bit = true → c) : FollowsBit p old new bit c := by
  rcases old with _ | r
  · simpa [FollowsBit, mapOwner] using h
  by_cases hr : r = p
  · simpa [FollowsBit, mapOwner, hr] using h
  · simpa [FollowsBit, hr] using ⟨h.trans (mapOwner_foreign hr bit), hc r rfl hr⟩

theorem octmapSet_followsBit (s : State) {p : Nat} (hp : p < 64) (hi : Bool) (v : Word) {o : Nat} (ho : o / 32 = b2n hi) :
    FollowsBit p (owner s o) (owner (octmapSet s p hi v.toNat) o) (v.getLsbD (o % 32))
      ((getF (octmapSet s p hi v.toNat) (F.EVT .pol) p).testBit E.POL_OWN_CONFLICT = true) := by
  have hbase : o = (if hi then 32 else 0) + o % 32 := by
    cases hi <;> simp only [b2n, Bool.false_eq_true, if_true, if_false] at ho ⊢ <;> omega
  have hbit : o - (if hi then 32 else 0) = o % 32 := by omega
  refine followsBit_of_mapOwner ?_ (fun r hr hne hv => ?_)
  · rw [octmapSet_owner s hp, if_pos (by omega), hbit]
    rfl
  · exact octmapSet_conflict s hp hi v.toNat (Nat.mod_lt o (by decide)) (hbase ▸ hr) hne hv

/-- Settles O35: both maps are `mapBit` over their bits (`mapAll_own`, `mapAll_conflict`); what OCTMAP makes of the run state is
`rsOf_octFormed`. -/
theorem polderMaps : Obligations.PolderMaps := by
  unfold Obligations.PolderMaps
  intro i p v s _ hl q conflict kept
  have octets (o : Nat) := octmapSet_owner (cycle s) p.isLt (v := v.toNat) (o := o)
  have run (hi : Bool) := rsOf_octmapSet (cycle s) p.isLt hi v.toNat
  refine ⟨fun hi hlc hw => ⟨_, exec_octmapWrite hw hl hlc, fun o _ => ?_, (run hi q).trans (if_pos rfl),
    fun r hr => (run hi r).trans (if_neg hr)⟩, fun hw => ⟨fun hoff => ⟨_, exec_dsmapWrite hw hl, ?_⟩,
    fun hoff => ⟨_, exec_dsmapWrite hw hl, ?_⟩⟩⟩
  · split
    · next ho => exact octmapSet_followsBit (cycle s) p.isLt hi v ho
    · next ho =>
      refine (octets o hi).trans (if_neg ?_)
      cases hi <;> simp only [b2n, Bool.false_eq_true, if_true, if_false] at ho ⊢ <;> omega
  · have hoff' : rsOf (cycle s) p.val = .off := hoff
    simp only [dsmapSet, hoff', beq_self_eq_true, if_true]
    exact ⟨(getF_setF_same ..).trans (Nat.mod_eq_of_lt v.isLt), ((SameBut.refl _ s).of_regs rfl).setF _ _ _ (by simp [q])⟩
  · have hoff' : (rsOf (cycle s) p.val == .off) = false := beq_eq_false_iff_ne.mpr hoff
    simp only [dsmapSet, hoff', Bool.false_eq_true, if_false]
    refine ⟨fun d hd => followsBit_of_mapOwner ?_ (fun r hr hrq hv => ?_), fun r => rsOf_congr (takeDsmap_rs ..)⟩
    · exact (takeDsmap_dsOwner (cycle s) p.isLt v.toNat d).trans (if_pos hd)
    · exact takeDsmap_conflict (cycle s) p.isLt v.toNat hd hr hrq hv

end Sys2Proof.Machine
end

section
/-! Parametric orders that are due act before an edge (R104, R112). -/

namespace Sys2Proof.Machine

/-- The driver goes high at the start of a vector that begins at stamp 4096. -/
def riseEdge : Edge := { t := 4096, act := .drive .high, ref := { vwi := 0, vec := 0, start := 4096 } }

/-- Polder 0 owns octet 0, which is ACTIVE. The unit of channel 0 is enabled in FIMV and off the pin; FORCE_ON has been ordered for stamp
2048, and after that stamp the channel's driver is to go high. -/
def forceOnDue : State :=
  let fields : List (Fld × Nat) := [(F.POL_STATE_RSTATE, RS.running.code), (F.OCT_STATE_OWNED, 1), (F.OCT_STATE_PSTATE, 3),
    (F.OCT_X2_PMUCFG_PMUEN 0, 1), (F.OCT_X2_PMUCFG_MODE 0, 2)]
  let s := fields.foldl (fun s x => setF s x.1 0 x.2) State.reset
  setChan (setPol s 0 { trigs := [{ t0 := 2048, act := .op .on }] }) 0 { edges := [riseEdge] }

/-- Nothing parks, drops or holds off the edge in the state in which PIN_EDGE comes. -/
theorem forceOnDue_free : (chanOf forceOnDue 0).park = none ∧ (chanOf forceOnDue 0).edges = [riseEdge] ∧
    dropped (chanOf forceOnDue 0) riseEdge = false ∧ heldOff forceOnDue 0 = false := by decide +kernel

/-- The order acts before the edge, so the driver that the unit holds off stays as it was. -/
theorem forceOnDue_heldOff : (chanOf (nextEdge (cycle forceOnDue) 0) 0).drv = .off := by decide +kernel

/-- Refutes O26: in `forceOnDue` no unit holds the driver off, but PIN_EDGE first lets the FORCE_ON that is due connect the unit (R112),
which holds the driver off (R104); the statement has the driver go high. -/
theorem not_pins : ¬ Obligations.Pins := by
  unfold Obligations.Pins
  rintro ⟨h, -⟩
  obtain ⟨hpark, hedges, hdrop, hfree⟩ := forceOnDue_free
  obtain ⟨-, hdrive, -⟩ := h 0 riseEdge [] forceOnDue hpark hedges
  obtain ⟨t, ht, -, hdrv, -⟩ := hdrive .high rfl hdrop
  obtain rfl : nextEdge (cycle forceOnDue) 0 = t := Host.Outcome.next.inj ht
  rw [show (0 : Fin 512).val = 0 from rfl, hfree, forceOnDue_heldOff] at hdrv
  simp at hdrv

end Sys2Proof.Machine
end

section
/-! What the forming of records leaves alone (R244 to R253, R262, R264): an observation of the state that does not see the streams, the
pool, the events on their way and the unit's own marks is the same after every operation of the Sluice and of the acquisition unit that
ends records, marks them or ends a run. -/

namespace Sys2Proof.Machine

/-- `φ` sees nothing of what the forming of records writes: the streams and the pool, the free values taken, the events on their way,
ASTATE, the events of a record and of a run that end, and of the unit whatever is not the decision that waits for MASK_ACTION. -/
structure OffRecords {α : Type} (φ : State → α) : Prop where
  strm : ∀ s k x, φ (setStrm s k x) = φ s
  pool : ∀ s m, φ { s with pool := m } = φ s
  free : ∀ s n, φ { s with free := n } = φ s
  flight : ∀ s l, φ { s with rtr := { s.rtr with flight := l } } = φ s
  unit : ∀ s p x, x.maskPend = (acqOf s p).maskPend → φ (setAcq s p x) = φ s
  drop : ∀ s k, φ (addCt (raise s .slu 0 E.SLU_DROP) (F.SLU_X3_DROPCNT k) 0 1) = φ s
  recDone : ∀ s p, φ (raise s .acq p E.ACQ_REC_DONE) = φ s
  eor : ∀ s p, φ (raise s .acq p E.ACQ_EOR) = φ s
  astate : ∀ s p v, φ (setAstate s p v) = φ s

/-- What every step leaves the same is the same after a list of steps. -/
theorem forAll_same {α : Type} {φ : State → α} {g : State → Nat → State} (h : ∀ s n, φ (g s n) = φ s) (l : List Nat) (s : State) :
    φ (forAll l s g) = φ s :=
  forAll_keeps (I := fun t => φ t = φ s) (fun t n ht => (h t n).trans ht) l rfl

namespace OffRecords

variable {α : Type} {φ : State → α} (H : OffRecords φ)
include H

/-! Streams. -/

theorem freed (s : State) (k : Nat) (gs : List Gran) : φ (freed s k gs) = φ s := H.pool ..

theorem handOff (s : State) (k : Nat) (flush : Bool) : φ (handOff s k flush) = φ s := by
  simp only [Machine.handOff]
  split
  · rfl
  · exact H.strm ..

theorem retain (s : State) (k : Nat) : φ (retain s k) = φ s := by
  simp only [Machine.retain]
  split
  · rfl
  · split
    · exact H.strm ..
    · exact H.handOff ..

theorem padOut (s : State) (k : Nat) : φ (padOut s k) = φ s := by
  simp only [Machine.padOut]
  split
  · rfl
  · exact H.strm ..

theorem grant (s : State) (k : Nat) : φ (grant s k) = φ s := (H.strm ..).trans (H.free ..)

theorem reuse (s : State) (k : Nat) : φ (reuse s k) = φ s := by
  unfold Machine.reuse discard
  simp (disch := rfl) only [H.unit, H.freed, H.strm]

theorem dropRec (s : State) (k : Nat) : φ (dropRec s k) = φ s := (H.strm ..).trans (H.drop ..)

theorem takeSeq (s : State) (k : Nat) : φ (takeSeq s k) = φ s := H.strm ..

theorem putWords (s : State) (k : Nat) (ws : List (BitVec 64)) : φ (putWords s k ws) = φ s := by
  unfold Machine.putWords
  extract_lets ret apart fits app s1 s2
  have happ (t : State) : φ (app t) = φ t := by
    simp only [app]
    split
    · exact H.strm ..
    · rfl
  have h1 : φ s1 = φ s := by simp only [s1, apply_ite φ, H.retain, H.handOff, H.padOut, ite_self]
  simp only [s2, apply_ite φ, happ, H.grant, H.reuse, H.dropRec, h1, ite_self]

theorem appendRec (s : State) (k : Nat) (r : Record) : φ (appendRec s k r) = φ s := by
  unfold Machine.appendRec
  simp only [apply_ite φ, H.putWords, H.takeSeq, ite_self]

theorem appendFlush (s : State) (k : Nat) (r : Record) : φ (appendFlush s k r) = φ s := by
  unfold Machine.appendFlush
  simp only [apply_ite φ, H.handOff, H.appendRec, H.retain, ite_self]

theorem dropRetained (s : State) (k : Nat) : φ (dropRetained s k) = φ s := by
  unfold Machine.dropRetained discard
  simp only [apply_ite φ, H.freed, H.strm, H.retain, ite_self]

theorem cutStrm (s : State) (k : Nat) (c : Stamp) : φ (cutStrm s k c) = φ s := H.strm ..

theorem reclaim (s : State) (p : Nat) : φ (reclaim s p) = φ s := forAll_same (fun _ _ => (H.strm ..).trans (H.freed ..)) _ s

/-! The unit. -/

theorem putItem (s : State) (p src : Nat) (r : Record) (t : Stamp) : φ (putItem s p src r t) = φ s := by
  unfold Machine.putItem
  simp (disch := rfl) only [apply_ite φ, H.appendRec, H.unit, H.takeSeq, ite_self]

theorem flushScope (s : State) (p o : Nat) : φ (flushScope s p o) = φ s := by
  unfold Machine.flushScope
  simp (disch := rfl) only [apply_ite φ, H.putItem, H.unit, ite_self]

theorem flushScopes (s : State) (p : Nat) : φ (flushScopes s p) = φ s := forAll_same (fun _ _ => H.flushScope ..) _ s

theorem markAll (s : State) (p cause : Nat) (t : Stamp) (src : Option Nat) (vwi : Nat) : φ (markAll s p cause t src vwi) = φ s := by
  unfold Machine.markAll
  split
  · rfl
  · exact forAll_same (fun _ _ => by simp only [apply_ite φ, H.appendFlush, H.appendRec, ite_self]) _ _

theorem markRun (s : State) (p cause : Nat) : φ (markRun s p cause) = φ s := by
  unfold Machine.markRun
  rw [apply_ite φ, H.markAll, ite_self]

theorem runEnd (s : State) (p : Nat) (t : Stamp) : φ (runEnd s p t) = φ s := H.unit _ _ _ rfl

theorem gateClose (s : State) (p : Nat) (t : Stamp) : φ (gateClose s p t) = φ s := by
  simp only [Machine.gateClose]
  split
  · exact H.unit _ _ _ rfl
  · rfl

theorem closeEvent (s : State) (p : Nat) (c : Stamp) : φ (closeEvent s p c) = φ s := by
  unfold Machine.closeEvent
  split
  · rfl
  · exact H.flight ..

theorem closeRec (s : State) (p cause : Nat) (c : Stamp) : φ (closeRec s p cause c) = φ s := by
  unfold Machine.closeRec
  split
  · rfl
  · simp (disch := rfl) only [H.astate, H.unit, H.closeEvent, H.recDone]
    exact (forAll_same (fun _ _ => by simp only [apply_ite φ, H.appendFlush, H.cutStrm, ite_self]) _ _).trans (H.flushScopes ..)

/-- R249: what the freeze of a record or the MARK in its place leaves. -/
theorem freeze (s : State) (p : Nat) (t0 : Stamp) (vwi : Nat) : φ (freeze s p t0 vwi) = φ s := by
  unfold Machine.freeze
  simp only [apply_ite φ, H.markAll, H.astate, H.closeRec, ite_self]

/-- R247: what the end of a run leaves. -/
theorem endRun (s : State) (p : Nat) (t : Stamp) : φ (endRun s p t) = φ s := by
  unfold Machine.endRun
  extract_lets s1 u s2 s3 s4
  have h2 : φ s2 = φ s := (forAll_same (fun _ _ => H.dropRetained ..) _ _).trans (H.flushScopes ..)
  have h3 : φ s3 = φ s := (forAll_same (fun _ _ => H.appendFlush ..) _ _).trans h2
  simp (disch := rfl) only [apply_ite φ, H.unit, H.astate, s4, H.eor, h3, s1, H.markAll, ite_self]

end OffRecords

end Sys2Proof.Machine
end

section
/-! MASK_ACT and the decision that waits for MASK_ACTION (R249) stay while a run is stopped: the operations on pins, queues, the
parametric unit and bindings are none of the mask test's, and the records that end leave both alone. -/

namespace Sys2Proof.Machine

/-- What stands of the mask action of unit `k`: the decision that waits, and MASK_ACT. -/
def maskAct (k : Nat) (s : State) : Option Stamp × Bool := ((acqOf s k).maskPend, (getF s (F.EVT .acq) k).testBit E.ACQ_MASK_ACT)

/-- Raising an event leaves every other event of its page as it was. -/
theorem evt_raise_other (s : State) (p : Page) (n m : Nat) {b c : Nat} (hc : c < 32) (h : c ≠ b) :
    (getF (raise s p n b) (F.EVT p) m).testBit c = (getF s (F.EVT p) m).testBit c := by
  by_cases hm : m = n
  · subst hm
    rw [getF_evt_raise, Nat.testBit_mod_two_pow, Nat.testBit_or, Nat.testBit_two_pow_of_ne h.symm]
    simp [hc]
  · have ht : (F.EVT p).tag ≠ (F.EVT_SEQ p).tag := by cases p <;> decide
    rcases raise_cases s p n b with e | e
    · rw [e, getF_countEvt _ _ _ _ _ ht, getF_setF_inst _ _ _ hm]
    · rw [e, getF_report, getF_countEvt _ _ _ _ _ ht, getF_setF_inst _ _ _ hm]

theorem raise_acqs (s : State) (p : Page) (n b : Nat) : (raise s p n b).acqs = s.acqs := by
  have hc (t : State) : (countEvt t p n).acqs = t.acqs := by unfold countEvt; split <;> rfl
  rcases raise_cases s p n b with e | e
  · rw [e, hc]; rfl
  · rw [e]; unfold report; split <;> exact hc _

section
variable (k : Nat)

theorem maskAct_congr {s t : State} (ha : t.acqs = s.acqs) (he : getF t (F.EVT .acq) k = getF s (F.EVT .acq) k) :
    maskAct k t = maskAct k s := by
  unfold maskAct acqOf
  rw [ha, he]

@[simp] theorem maskAct_forAll {g : State → Nat → State} (h : ∀ s n, maskAct k (g s n) = maskAct k s) (l : List Nat) (s : State) :
    maskAct k (forAll l s g) = maskAct k s := forAll_same h l s

@[simp] theorem maskAct_foldl {α : Type} {g : State → α → State} (h : ∀ s a, maskAct k (g s a) = maskAct k s) (l : List α) (s : State) :
    maskAct k (l.foldl g s) = maskAct k s := by
  induction l generalizing s with
  | nil => rfl
  | cons a l ih => rw [List.foldl_cons, ih, h]

@[simp] theorem maskAct_ite (c : Prop) [Decidable c] (a b : State) :
    maskAct k (if c then a else b) = if c then maskAct k a else maskAct k b := apply_ite (maskAct k) c a b

/-! The parts of the state. -/

variable (s : State) (n : Nat)

@[simp] theorem maskAct_setF (f : Fld) (v : Nat) (h : f.page ≠ .acq) : maskAct k (setF s f n v) = maskAct k s :=
  maskAct_congr k rfl (getF_setF_page _ _ _ _ (Ne.symm h))

@[simp] theorem maskAct_addCt (f : Fld) (v : Nat) (h : f.page ≠ .acq) : maskAct k (addCt s f n v) = maskAct k s := maskAct_setF k s n f _ h

@[simp] theorem maskAct_setB (x y : Fld) (v : Nat) (hx : x.page ≠ .acq) (hy : y.page ≠ .acq) : maskAct k (setB s n x y v) = maskAct k s := by
  simp [setB, hx, hy]

@[simp] theorem maskAct_raise (p : Page) (b : Nat) (h : p ≠ .acq) : maskAct k (raise s p n b) = maskAct k s :=
  maskAct_congr k (raise_acqs ..) (raise_page _ _ _ _ (Ne.symm h))

@[simp] theorem maskAct_raiseIf (c : Bool) (p : Page) (b : Nat) (h : p ≠ .acq) : maskAct k (raiseIf c s p n b) = maskAct k s := by
  simp [raiseIf, h]

@[simp] theorem maskAct_setChan (x : Chan) : maskAct k (setChan s n x) = maskAct k s := (rfl)
@[simp] theorem maskAct_setPol (x : Pol) : maskAct k (setPol s n x) = maskAct k s := (rfl)
@[simp] theorem maskAct_setQueue (x : DacQ) : maskAct k (setQueue s n x) = maskAct k s := (rfl)
@[simp] theorem maskAct_setDs (x : Ds) : maskAct k (setDs s n x) = maskAct k s := (rfl)
@[simp] theorem maskAct_setBnd (x : Bnd) : maskAct k (setBnd s n x) = maskAct k s := (rfl)
@[simp] theorem maskAct_setDie (x : Die) : maskAct k (setDie s n x) = maskAct k s := (rfl)
@[simp] theorem maskAct_setTdc (x : Tdc) : maskAct k (setTdc s n x) = maskAct k s := (rfl)
@[simp] theorem maskAct_setFlt (x : Flt) : maskAct k (setFlt s n x) = maskAct k s := (rfl)
@[simp] theorem maskAct_setLive (v : Bool) : maskAct k (setLive s n v) = maskAct k s := (rfl)
@[simp] theorem maskAct_setCorr (v : Bool) : maskAct k (setCorr s n v) = maskAct k s := (rfl)
@[simp] theorem maskAct_forwardEv (e : Ev) : maskAct k (forwardEv s e) = maskAct k s := (rfl)
@[simp] theorem maskAct_setRs (r : RS) : maskAct k (setRs s n r) = maskAct k s := by simp [setRs]

theorem maskAct_setAcq (x : AcqU) (h : x.maskPend = (acqOf s n).maskPend) : maskAct k (setAcq s n x) = maskAct k s := by
  unfold maskAct
  by_cases hk : k = n
  · subst hk; simp [h]
  · rw [acqOf_setAcq_ne _ _ hk]; rfl

/-- Records leave the mask action alone (R247, R252). -/
theorem offRecords_maskAct : OffRecords (maskAct k) where
  strm _ _ _ := rfl
  pool _ _ := rfl
  free _ _ := rfl
  flight _ _ := rfl
  unit s n x h := maskAct_setAcq k s n x h
  drop s n := by simp
  recDone s n := Prod.ext (congrArg (fun a => (Store.get a {} k).maskPend) (raise_acqs ..))
    (evt_raise_other s .acq n k (by decide) (by decide))
  eor s n := Prod.ext (congrArg (fun a => (Store.get a {} k).maskPend) (raise_acqs ..))
    (evt_raise_other s .acq n k (by decide) (by decide))
  astate s n v := maskAct_congr k rfl (getF_setF_tag _ _ _ _ (by decide))

end
end Sys2Proof.Machine
end

section
/-! What the operations that stop a run leave of the mask action, part 1: the router, queues and supplies, the parametric unit, the TDC. -/

namespace Sys2Proof.Machine

section
variable (k : Nat) (s : State)

/-! Causes and events of the router. -/

@[simp] theorem maskAct_causeOn (f : Nat) (l : List Nat) : maskAct k (causeOn s f l) = maskAct k s := by simp [causeOn]

@[simp] theorem maskAct_causeOff (f : Nat) : maskAct k (causeOff s f) = maskAct k s := (rfl)

@[simp] theorem maskAct_correct (src : Nat) (t : Stamp) : maskAct k (correct s src t) = maskAct k s := by simp [correct]

@[simp] theorem maskAct_uncorrect (src : Nat) (t : Stamp) : maskAct k (uncorrect s src t) = maskAct k s := by
  unfold uncorrect
  split
  · split <;> rfl
  · rfl

@[simp] theorem maskAct_dieEvent (e : Ev) : maskAct k (dieEvent s e) = maskAct k s := by simp [dieEvent]

/-! Queues, levels and supplies. -/

@[simp] theorem maskAct_putQueue (q : Nat) (x : DacQ) : maskAct k (putQueue s q x) = maskAct k s := by simp [putQueue]

@[simp] theorem maskAct_emptyQueue (q : Nat) : maskAct k (emptyQueue s q) = maskAct k s := maskAct_putQueue ..

@[simp] theorem maskAct_suspendQueue (q : Nat) (v : Bool) : maskAct k (suspendQueue s q v) = maskAct k s := maskAct_putQueue ..

@[simp] theorem maskAct_gainSwitch (q : Nat) (sw : Bool) : maskAct k (gainSwitch s q sw) = maskAct k s := by simp [gainSwitch]

@[simp] theorem maskAct_applyFaultChan (c : Nat) : maskAct k (applyFaultChan s c) = maskAct k s :=
  maskAct_forAll k (fun _ _ => by simp [applyDac]) _ s

@[simp] theorem maskAct_applyFaultDacs (o : Nat) : maskAct k (applyFaultDacs s o) = maskAct k s := by
  have h (l : List Nat) : maskAct k (forAll l s applyFaultChan) = maskAct k s :=
    maskAct_forAll k (fun _ _ => maskAct_applyFaultChan ..) l s
  unfold applyFaultDacs
  split
  · simp [levelOp, h]
  · exact h _

@[simp] theorem maskAct_dsCause (d : Nat) : maskAct k (dsCause s d) = maskAct k s := by simp [dsCause]

@[simp] theorem maskAct_clipDs (d : Nat) (clip : Bool) : maskAct k (clipDs s d clip) = maskAct k s := by simp [clipDs, dsLimit]

@[simp] theorem maskAct_setPoint (d code : Nat) (g : Bool) : maskAct k (setPoint s d code g) = maskAct k s := by
  simp [setPoint, applySp]

@[simp] theorem maskAct_dsMonOff (d : Nat) (t : Stamp) : maskAct k (dsMonOff s d t) = maskAct k s := by simp [dsMonOff]

@[simp] theorem maskAct_dsOff (d : Nat) (t : Stamp) : maskAct k (dsOff s d t) = maskAct k s := by simp [dsOff, setDsOn]

@[simp] theorem maskAct_showRamp (d : Nat) (v : Bool) : maskAct k (showRamp s d v) = maskAct k s := by simp [showRamp]

@[simp] theorem maskAct_rampEnd (d : Nat) : maskAct k (rampEnd s d) = maskAct k s := by simp [rampEnd, setDsOn]

@[simp] theorem maskAct_faultRamp (d : Nat) : maskAct k (faultRamp s d) = maskAct k s := by simp [faultRamp]

@[simp] theorem maskAct_dikeQueues (p : Nat) : maskAct k (dikeQueues s p) = maskAct k s := by
  unfold dikeQueues
  exact (maskAct_forAll k (fun _ _ => by simp) _ _).trans (by simp)

/-! The parametric unit. -/

@[simp] theorem maskAct_setClaim (c v : Nat) : maskAct k (setClaim s c v) = maskAct k s := by simp [setClaim]

@[simp] theorem maskAct_takeNew (n : PmuNew) : maskAct k (takeNew s n) = maskAct k s := by simp [takeNew]

@[simp] theorem maskAct_refuseBudget (p : Option Nat) (d : Nat) : maskAct k (refuseBudget s p d) = maskAct k s := by
  cases p <;> simp [refuseBudget]

@[simp] theorem maskAct_showConv (p : Nat) : maskAct k (showConv s p) = maskAct k s := by simp [showConv]

@[simp] theorem maskAct_disconnectOct (o : Nat) : maskAct k (disconnectOct s o) = maskAct k s :=
  maskAct_forAll k (fun _ _ => by simp [disconnect]) _ s

@[simp] theorem maskAct_fire (p : Nat) (t : Stamp) (b : Option Nat) : maskAct k (fire s p t b) = maskAct k s :=
  maskAct_forAll k (fun _ _ => by simp [beginConv]) _ s

@[simp] theorem maskAct_tidyBurst (p : Nat) : maskAct k (tidyBurst s p) = maskAct k s := by
  simp [tidyBurst]

@[simp] theorem maskAct_stopBurst (p n : Nat) : maskAct k (stopBurst s p n) = maskAct k s := by simp [stopBurst]

@[simp] theorem maskAct_endBurst (p : Nat) : maskAct k (endBurst s p) = maskAct k s := by simp [endBurst]

@[simp] theorem maskAct_showPmu (p : Nat) : maskAct k (showPmu s p) = maskAct k s := by simp [showPmu, showOps]

@[simp] theorem maskAct_queueOp (p : Nat) (cs : List Nat) (op : PmuOp) : maskAct k (queueOp s p cs op) = maskAct k s := by
  simp [queueOp]

@[simp] theorem maskAct_applyOn (d : Nat) (r : Nat × PmuOp) : maskAct k (applyOn d s r) = maskAct k s := by
  simp [applyOn, holdClaim]

@[simp] theorem maskAct_applyOps (rs : List (Nat × PmuOp)) : maskAct k (applyOps s rs) = maskAct k s := by
  simp [applyOps]

@[simp] theorem maskAct_fireOrder (p : Nat) (x : Trig) : maskAct k (fireOrder s p x) = maskAct k s := by
  unfold fireOrder
  split <;> simp

@[simp] theorem maskAct_fireRound (t : Stamp) : maskAct k (fireRound s t) = maskAct k s := by
  unfold fireRound
  split
  · rfl
  · simp

@[simp] theorem maskAct_pmuDue (t : Stamp) : maskAct k (pmuDue s t) = maskAct k s := maskAct_foldl k (fun _ _ => maskAct_fireRound ..) _ s

@[simp] theorem maskAct_endsBurst (p : Nat) (t : Stamp) : maskAct k (endsBurst s p t) = maskAct k s := by
  simp [endsBurst, pmuNowDue, order]

/-! The TDC: what it has stamped becomes records (R280, R285, R286). -/

@[simp] theorem maskAct_closeTdcRec (c : Nat) : maskAct k (closeTdcRec s c) = maskAct k s := by
  simp only [closeTdcRec]
  split
  · rfl
  · rfl
  · exact ((offRecords_maskAct k).putItem ..)

@[simp] theorem maskAct_acqStamp (c : Nat) (e : Stamp × Bool) : maskAct k (acqStamp s c e) = maskAct k s := by simp [acqStamp]

@[simp] theorem maskAct_popFifo (c : Nat) : maskAct k (popFifo s c) = maskAct k s := by
  simp only [popFifo]
  split
  · rfl
  · simp

@[simp] theorem maskAct_drainDie (d n : Nat) : maskAct k (drainDie d n s) = maskAct k s := by
  induction n generalizing s with
  | zero => rfl
  | succ n ih =>
    unfold drainDie
    extract_lets
    split <;> simp [ih]

@[simp] theorem maskAct_drainUntil (d : Nat) (t : Stamp) : maskAct k (drainUntil s d t) = maskAct k s := by simp [drainUntil]

@[simp] theorem maskAct_tdcOff (c : Nat) : maskAct k (tdcOff s c) = maskAct k s := by simp [tdcOff]

@[simp] theorem maskAct_tdcCut (c : Nat) : maskAct k (tdcCut s c) = maskAct k s := by simp [tdcCut]

/-! Pins. -/

@[simp] theorem maskAct_monOff (c : Nat) (high : Bool) (t : Stamp) : maskAct k (monOff s c high t) = maskAct k s := by simp [monOff]

@[simp] theorem maskAct_octOff (o : Nat) : maskAct k (octOff s o) = maskAct k s :=
  maskAct_forAll k (fun _ _ => by simp [levOff]) _ s

@[simp] theorem maskAct_octDeskew (o : Nat) : maskAct k (octDeskew s o) = maskAct k s :=
  maskAct_forAll k (fun _ _ => by simp [dueDeskew, takeDeskew]) _ s

@[simp] theorem maskAct_octSafe (o : Nat) : maskAct k (octSafe s o) = maskAct k s := by simp [octSafe, setPstate]

@[simp] theorem maskAct_playChar (c t i per : Nat) (r : VecRef) (park : Bool) : maskAct k (playChar s c t i per r park) = maskAct k s := by
  refine maskAct_foldl k (fun _ _ => ?_) _ s
  split <;> simp

@[simp] theorem maskAct_parkPeriod (c p : Nat) : maskAct k (parkPeriod s c p) = maskAct k s := by
  unfold parkPeriod
  split <;> simp

@[simp] theorem maskAct_layAll (c p : Nat) : maskAct k (layAll s c p) = maskAct k s := by
  unfold layAll
  split
  · rfl
  · refine maskAct_foldl k (fun u _ => ?_) _ s
    split
    · split <;> simp
    · rfl

@[simp] theorem maskAct_parkOut (b p : Nat) (paused : Bool) : maskAct k (parkOut s b p paused) = maskAct k s := by
  simp [parkOut, setPark]

end
end Sys2Proof.Machine
end

section
/-! What the operations that stop a run leave of the mask action, part 2: records, bindings, benching, DIKE, the stop. -/

namespace Sys2Proof.Machine

section
variable (k : Nat) (s : State) (p : Nat)

/-! Records. -/

@[simp] theorem maskAct_markRun (cause : Nat) : maskAct k (markRun s p cause) = maskAct k s := (offRecords_maskAct k).markRun ..
@[simp] theorem maskAct_runEnd (t : Stamp) : maskAct k (runEnd s p t) = maskAct k s := (offRecords_maskAct k).runEnd ..
@[simp] theorem maskAct_closeGate (t : Stamp) : maskAct k (closeGate s p t) = maskAct k s := (offRecords_maskAct k).gateClose ..
@[simp] theorem maskAct_closeEvent (c : Stamp) : maskAct k (closeEvent s p c) = maskAct k s := (offRecords_maskAct k).closeEvent ..
@[simp] theorem maskAct_closeRec (cause : Nat) (c : Stamp) : maskAct k (closeRec s p cause c) = maskAct k s :=
  (offRecords_maskAct k).closeRec ..

@[simp] theorem maskAct_dikeRecords : maskAct k (dikeRecords s p) = maskAct k s := by
  simp [dikeRecords, (offRecords_maskAct k).reclaim, maskAct_setAcq]

/-! Commands and bindings. -/

@[simp] theorem maskAct_endCmds : maskAct k (endCmds s p) = maskAct k s := by simp [endCmds]

@[simp] theorem maskAct_cancelRestart : maskAct k (cancelRestart s p) = maskAct k s := by simp [cancelRestart]

@[simp] theorem maskAct_clearBenched : maskAct k (clearBenched s p) = maskAct k s := by simp [clearBenched]

@[simp] theorem maskAct_setCause (b sq me : Nat) : maskAct k (setCause s b sq me) = maskAct k s := by simp [setCause]

@[simp] theorem maskAct_releaseBnd (b : Nat) : maskAct k (releaseBnd s b) = maskAct k s := by
  simp [releaseBnd, cacheFree, showFree, keepPoison, setIssuing]

@[simp] theorem maskAct_leaveBnd (b cause : Nat) : maskAct k (leaveBnd s b p cause) = maskAct k s := by
  simp [leaveBnd, rejudgeFailAll]

/-! Members that stop, are benched or enter DIKE. -/

@[simp] theorem maskAct_abortPins : maskAct k (abortPins s p) = maskAct k s := by simp [abortPins, pmuNowDue]

@[simp] theorem maskAct_toStopping (b : Nat) (abort : Bool) : maskAct k (toStopping s b p abort) = maskAct k s := by
  unfold toStopping
  extract_lets y paused s1 x s2 s3 s4
  have h2 : maskAct k s2 = maskAct k s := by simp [s2, s1]
  have h3 : maskAct k s3 = maskAct k s := by simp [s3, h2]
  simp [s4, h3]

@[simp] theorem maskAct_disarm (abort : Bool) : maskAct k (disarm s p abort) = maskAct k s := by simp [disarm]

@[simp] theorem maskAct_dikeAgain (src : Nat) : maskAct k (dikeAgain s p src) = maskAct k s := by
  unfold dikeAgain
  extract_lets x s1 u
  have h1 : maskAct k s1 = maskAct k s := by simp [s1]
  have hu : maskAct k u.2 = maskAct k s := h1
  split
  · exact h1
  · split <;> simp [h1, hu]

@[simp] theorem maskAct_dikeEntry (src : Nat) : maskAct k (dikeEntry s p src) = maskAct k s := by
  unfold dikeEntry
  split
  · rfl
  · simp
  · extract_lets s1 s2 s3
    have h1 : maskAct k s1 = maskAct k s := by simp [s1, dikeBench]
    have h2 : maskAct k s2 = maskAct k s := by simp [s2, dikeState, dikePins, h1]
    have h3 : maskAct k s3 = maskAct k s := by
      simp only [s3]
      split <;> simp [h2]
    simp [h3]

@[simp] theorem maskAct_benchOut (b : Nat) (toDike : Bool) : maskAct k (benchOut s b p toDike) = maskAct k s := by
  simp [benchOut, maskAct_setAcq]

@[simp] theorem maskAct_bench : maskAct k (bench s p) = maskAct k s := by
  have hm : maskAct k (benchMark s p (isSet s F.POL_CSRT_BENCH_TO p)) = maskAct k s := by simp [benchMark]
  rw [bench_eq]
  split
  · exact hm
  · simp [hm]

@[simp] theorem maskAct_stopAll (abort : Bool) : maskAct k (stopAll s p abort) = maskAct k s := by
  unfold stopAll
  split
  · rfl
  · simp [endIssue, setIssuing]

@[simp] theorem maskAct_stopOrBench (one : Bool) : maskAct k (stopOrBench s p one) = maskAct k s := by simp [stopOrBench]

end
end Sys2Proof.Machine
end

section
/-! STOP_ON_FAIL, MASK_ACTION and RECLAIM_DONE (R96, R249, R271). -/

namespace Sys2Proof.Machine

/-! What does not see the forming of records: a field of another register, the polders, an event of the pool's page but DROP. -/

theorem offRecords_getF {f : Fld} (n : Nat) (hd : ∀ k, f.tag ≠ (F.SLU_X3_DROPCNT k).tag)
    (h : ∀ g ∈ [F.EVT .slu, F.EVT_SEQ .slu, F.EVT .acq, F.EVT_SEQ .acq, F.ACQ_STATE_ASTATE], f.tag ≠ g.tag) :
    OffRecords (fun s => getF s f n) where
  strm _ _ _ := rfl
  pool _ _ := rfl
  free _ _ := rfl
  flight _ _ := rfl
  unit _ _ _ _ := rfl
  drop s k := (getF_addCt_tag _ _ _ _ (hd k)).trans (getF_raise _ _ _ _ _ _ (h _ (by simp)) (h _ (by simp)))
  recDone s p := getF_raise _ _ _ _ _ _ (h _ (by simp)) (h _ (by simp))
  eor s p := getF_raise _ _ _ _ _ _ (h _ (by simp)) (h _ (by simp))
  astate s p v := getF_setF_tag _ _ _ _ (h _ (by simp))

theorem offRecords_pols : OffRecords State.pols where
  strm _ _ _ := rfl
  pool _ _ := rfl
  free _ _ := rfl
  flight _ _ := rfl
  unit _ _ _ _ := rfl
  drop _ _ := (addCt_pols ..).trans (raise_pols ..)
  recDone _ _ := raise_pols ..
  eor _ _ := raise_pols ..
  astate _ _ _ := rfl

theorem offRecords_sluEvt {b : Nat} (hb : b < 32) (h : b ≠ E.SLU_DROP) :
    OffRecords (fun s => (getF s (F.EVT .slu) 0).testBit b) where
  strm _ _ _ := rfl
  pool _ _ := rfl
  free _ _ := rfl
  flight _ _ := rfl
  unit _ _ _ _ := rfl
  drop s k := by
    have ht : (F.EVT .slu).tag ≠ (F.SLU_X3_DROPCNT k).tag := by simp only [Fld.tag, fldKey, Page.code]; omega
    rw [getF_addCt_tag _ _ _ _ ht, evt_raise_other s .slu 0 0 hb h]
  recDone s p := congrArg (Nat.testBit · b) (raise_page _ _ _ _ (by decide))
  eor s p := congrArg (Nat.testBit · b) (raise_page _ _ _ _ (by decide))
  astate s p v := congrArg (Nat.testBit · b) (getF_setF_page _ _ _ _ (by decide))

/-! The action of R96 or R249 on the run states. -/

/-- A stop of the binding that plays to a polder (R60, R61). -/
theorem rsOf_stopAll (s : State) (p : Nat) (abort : Bool) (q : Nat) : rsOf (stopAll s p abort) q = afterStop s p q := by
  unfold afterStop
  cases hb : bindOf s p with
  | none =>
    unfold bindOf at hb
    simp only [stopAll, hb]
  | some b =>
    by_cases ha : ∀ r ∈ bndMem s b, rsOf s r = .armed
    · simp only [rsOf_stopAll_armed hb ha, if_pos ha, ite_not]
    · simp only [stopAll_running hb (by simpa using ha), rsOf_endIssue, if_neg ha, ite_not]

theorem rsOf_stopOrBench (s : State) {k : Nat} (hk : k < 64) (one : Bool) (q : Nat) :
    rsOf (stopOrBench s k one) q = afterAction s k one q := by
  unfold stopOrBench afterAction
  extract_lets who act
  have hstop : act.all (fun r => rsOf s r == .stopping) = true ↔ ∀ r ∈ who, (rsOf s r).busy = true → rsOf s r = .stopping := by
    simp [act, who, or_iff_not_imp_left]
  by_cases hall : ∀ r ∈ who, (rsOf s r).busy = true → rsOf s r = .stopping
  · rw [if_pos hall, if_pos (hstop.mpr hall)]
    split
    · rfl
    · exact rsOf_forAll_keep (fun _ _ _ => rsOf_congr (cancelRestart_rs ..)) _ s q
  · have hne : ¬ act.isEmpty = true := fun he => hall (hstop.mp (by rw [List.isEmpty_iff.mp he]; rfl))
    rw [if_neg hall, if_neg hne, if_neg (fun h => hall (hstop.mp h))]
    split
    · exact rsOf_bench s hk q
    · exact rsOf_stopAll ..

/-- The action is read from the run states, CSRT, BENCHED and the bindings alone. -/
theorem afterAction_congr {s t : State} (hb : ∀ q, (polOf t q).bind = (polOf s q).bind) (hpol : ∀ f n, f.page = .pol → getF t f n = getF s f n)
    (k : Nat) (one : Bool) (q : Nat) : afterAction t k one q = afterAction s k one q := by
  have hrs (r : Nat) : rsOf t r = rsOf s r := rsOf_congr (hpol _ _ rfl)
  have hben (r : Nat) : isSet t F.POL_STATE_BENCHED r = isSet s F.POL_STATE_BENCHED r := by simp only [isSet, hpol F.POL_STATE_BENCHED r rfl]
  have hto : isSet t F.POL_CSRT_BENCH_TO k = isSet s F.POL_CSRT_BENCH_TO k := by simp only [isSet, hpol F.POL_CSRT_BENCH_TO k rfl]
  have hcon : consort t k = consort s k := consort_congr (fun _ => hpol _ _ rfl) (fun _ => hpol _ _ rfl) hrs k
  have hact : active t k = active s k := by simp only [active, hcon, hben]
  have hbind : bindOf t k = bindOf s k := by simp only [bindOf, hact, hb]
  have hbench : afterBench t k q = afterBench s k q := by simp only [afterBench, hb, hrs, hto, bndMem_congr hb]
  have hstop : afterStop t k q = afterStop s k q := by simp only [afterStop, hbind, hrs, bndMem_congr hb]
  have hmul : multi t k = multi s k := by simp only [multi, hcon]
  simp only [afterAction, hmul, hact, hben]
  exact if_congr (by simp only [hrs]) (hrs q) (if_congr Iff.rfl hbench hstop)

/-! STOP_ON_FAIL. -/

theorem exec_stopOnFail_none {p : Fin 64} {s : State} (h : (polOf s p.val).sof = false) : exec (.stopOnFail p) s = .next (cycle s) := by
  show execStopOnFail p s = _
  simp [execStopOnFail, h]

/-- No decision is due any more. -/
def sofClear (s : State) (k : Nat) : State := setPol s k { polOf s k with sof := false }

theorem exec_stopOnFail_due {p : Fin 64} {s : State} (h : (polOf s p.val).sof = true) : exec (.stopOnFail p) s =
    .next (raise (stopOrBench (sofClear (cycle s) p.val) p.val (getF s F.POL_FAILCFG_SOF_MODE p.val == 2)) .pol p.val
      E.POL_SOF_TAKEN) := by
  show execStopOnFail p s = _
  simp [execStopOnFail, h, sofClear]

theorem sofClear_bind (s : State) (k q : Nat) : (polOf (sofClear s k) q).bind = (polOf s q).bind := by
  unfold sofClear
  by_cases hq : q = k
  · subst hq; simp
  · rw [polOf_setPol_ne _ _ hq]

/-! MASK_ACTION. -/

theorem exec_maskAction_none {p : Fin 64} {s : State} (h : (acqOf s p.val).maskPend = none) :
    exec (.maskAction p) s = .next (cycle s) := by
  show execMaskAction p s = _
  simp [execMaskAction, h]

/-- The decision of unit `k` for the violation at `t0` is taken: the record freezes and MASK_ACT shows it (R249). -/
def maskTaken (s : State) (k : Nat) (t0 : Stamp) : State :=
  raise (freeze (setAcq s k { acqOf s k with maskPend := none }) k t0 (vwiOf s k)) .acq k E.ACQ_MASK_ACT

theorem maskTaken_maskAct (s : State) (k : Nat) (t0 : Stamp) : maskAct k (maskTaken s k t0) = (none, true) := by
  have hp : (acqOf (maskTaken s k t0) k).maskPend = none := by
    refine (congrArg (fun a => (Store.get a {} k).maskPend) (raise_acqs ..)).trans ?_
    refine (congrArg Prod.fst ((offRecords_maskAct k).freeze _ k t0 _)).trans ?_
    simp [maskAct]
  exact Prod.ext hp (evt_raise _ _ _ _ (by decide))

theorem maskTaken_pols (s : State) (k : Nat) (t0 : Stamp) : (maskTaken s k t0).pols = s.pols :=
  (raise_pols ..).trans (offRecords_pols.freeze ..)

theorem maskTaken_page (s : State) (k : Nat) (t0 : Stamp) {f : Fld} {n : Nat} (hf : f.page = .pol) :
    getF (maskTaken s k t0) f n = getF s f n := by
  unfold maskTaken
  rw [raise_page _ _ _ _ (by simp [hf]), freeze_page _ _ _ _ (by simp [hf]) (by simp [hf]), getF_setAcq]

theorem maskTaken_maskact (s : State) (k : Nat) (t0 : Stamp) :
    getF (maskTaken s k t0) F.ACQ_MASKCFG_MASKACT k = getF s F.ACQ_MASKCFG_MASKACT k :=
  (getF_raise _ _ _ _ _ _ (by decide) (by decide)).trans
    ((offRecords_getF k (fun j => by simp only [Fld.tag, fldKey, Page.code]; omega) (by decide)).freeze ..)

theorem maskact_lt (s : State) (k : Nat) : getF s F.ACQ_MASKCFG_MASKACT k < 4 := Nat.mod_lt _ (by decide)

/-- MASKACT 2 stops the consort, 3 benches the polder, the others go on (R249). -/
theorem exec_maskAction_due {p : Fin 64} {s : State} {t0 : Stamp} (h : (acqOf s p.val).maskPend = some t0) :
    exec (.maskAction p) s = .next (if getF s F.ACQ_MASKCFG_MASKACT p.val < 2 then maskTaken (cycle s) p.val t0
      else stopOrBench (maskTaken (cycle s) p.val t0) p.val (getF s F.ACQ_MASKCFG_MASKACT p.val == 3)) := by
  show execMaskAction p s = _
  have hm := maskTaken_maskact (cycle s) p.val t0
  have hlt := maskact_lt s p.val
  unfold execMaskAction
  simp only [acqOf_cycle, h]
  congr 1
  change (match getF (maskTaken (cycle s) p.val t0) F.ACQ_MASKCFG_MASKACT p.val with
    | 2 => stopOrBench (maskTaken (cycle s) p.val t0) p.val false
    | 3 => stopOrBench (maskTaken (cycle s) p.val t0) p.val true
    | _ => maskTaken (cycle s) p.val t0) = _
  rw [hm, getF_cycle]
  generalize getF s F.ACQ_MASKCFG_MASKACT p.val = v at hlt
  interval_cases v <;> rfl

/-! RECLAIM_DONE. -/

/-- The reclaim of polder `p` is over: its FILLING granules are handed to drain, counted and shown (R271). -/
def reclaimed (s : State) (p : Nat) : State :=
  raise (addCt (forAll (List.range 4) (setPol s p { polOf s p with reclaim := false }) (fun s j => handOff s (4 * p + j) true))
    F.SLU_RECLAIMCNT_N 0 1) .slu 0 E.SLU_RECLAIM_DONE

theorem reclaimEnd_none {s : State} {p : Nat} (h : (polOf s p).reclaim = false) : reclaimEnd s p = s := by simp [reclaimEnd, h]

theorem reclaimEnd_due {s : State} {p : Nat} (h : (polOf s p).reclaim = true) :
    reclaimEnd s p = endRun (reclaimed s p) p (now s) := by simp [reclaimEnd, h, reclaimed]

/-- With the unit disabled no EOR follows (R256). -/
theorem endRun_disabled {s : State} {p : Nat} (h : acqEn s p = false) (t : Stamp) : endRun s p t = s := by simp [endRun, h]

theorem handOff_fill (s : State) (k : Nat) (flush : Bool) (j : Nat) :
    (strmOf (handOff s k flush) j).fill = if j = k then none else (strmOf s j).fill := by
  simp only [handOff]
  split
  · next h => split <;> simp_all
  · split
    · next h => subst h; simp
    · next h => rw [strmOf_setStrm_ne _ _ h]

theorem raise_strms (s : State) (p : Page) (n b : Nat) : (raise s p n b).strms = s.strms := by
  have hc (t : State) : (countEvt t p n).strms = t.strms := by unfold countEvt; split <;> rfl
  rcases raise_cases s p n b with e | e
  · rw [e, hc]; rfl
  · rw [e]; unfold report; split <;> exact hc _

section
variable (s : State) (p : Nat)

theorem reclaimed_reclaim : (polOf (reclaimed s p) p).reclaim = false := by
  have h : (reclaimed s p).pols = (setPol s p { polOf s p with reclaim := false }).pols :=
    (raise_pols ..).trans (forAll_pols (fun _ _ => handOff_pols ..) _ _)
  rw [polOf_congr h, polOf_setPol_same]

theorem reclaimed_count : getF (reclaimed s p) F.SLU_RECLAIMCNT_N 0 = min (getF s F.SLU_RECLAIMCNT_N 0 + 1) 0xFFFFFFFF := by
  unfold reclaimed
  rw [getF_raise _ _ _ _ _ _ (by decide) (by decide), getF_addCt_same, forAll_page (fun _ _ => handOff_page ..)]
  rfl

theorem reclaimed_evt : (getF (reclaimed s p) (F.EVT .slu) 0).testBit E.SLU_RECLAIM_DONE = true := evt_raise _ _ _ _ (by decide)

theorem reclaimed_sameBut : SameBut [(F.SLU_RECLAIMCNT_N, 0), (F.EVT .slu, 0), (F.EVT_SEQ .slu, 0)] s (reclaimed s p) := by
  have h : SameBut [(F.SLU_RECLAIMCNT_N, 0), (F.EVT .slu, 0), (F.EVT_SEQ .slu, 0)] s
      (forAll (List.range 4) (setPol s p { polOf s p with reclaim := false }) (fun s j => handOff s (4 * p + j) true)) :=
    fun f n _ => (forAll_page (fun _ _ => handOff_page ..) _ _).trans (getF_setPol ..)
  exact (h.setF _ _ _ (by simp)).raise .slu 0 _ (by simp) (by simp)

theorem reclaimed_fill {j : Nat} (hj : j < 4) : (strmOf (reclaimed s p) (4 * p + j)).fill = none := by
  unfold reclaimed strmOf
  rw [raise_strms]
  refine forAll_reaches (g := fun s j => handOff s (4 * p + j) true) (n := j) (I := fun _ => True)
    (P := fun u => (strmOf u (4 * p + j)).fill = none) (fun _ _ _ => trivial) (fun u _ => ?_) (fun u m hu => ?_)
    (List.mem_range.mpr hj) trivial
  · rw [handOff_fill, if_pos rfl]
  · rw [handOff_fill, hu, ite_self]

theorem reclaimed_acqEn : acqEn (reclaimed s p) p = acqEn s p := by
  unfold acqEn isSet reclaimed
  rw [raise_page _ _ _ _ (by decide), addCt_page _ _ _ _ (by decide), forAll_page (fun _ _ => handOff_page ..), getF_setPol]

end

/-- Settles O15: the run states by `rsOf_stopOrBench`, read from what the decision leaves alone (`afterAction_congr`); MASK_ACT and the
decision by `maskAct`, the reclaim by what `OffRecords` says of the end of the run. -/
theorem failAndMaskActions : Obligations.FailAndMaskActions := by
  unfold Obligations.FailAndMaskActions
  intro p s k
  refine ⟨fun h => ⟨_, exec_stopOnFail_due h, evt_raise _ _ _ _ (by decide), fun q => ?_⟩, exec_stopOnFail_none, fun h => ?_,
    exec_maskAction_none, fun h => ?_, fun h => congrArg Host.Outcome.next (reclaimEnd_none h)⟩
  · rw [rsOf_congr (raise_rs ..), rsOf_stopOrBench _ p.isLt]
    exact afterAction_congr (sofClear_bind (cycle s) k) (fun _ _ _ => getF_setPol ..) k _ q
  · obtain ⟨t0, ht⟩ := Option.ne_none_iff_exists'.mp h
    have hact := maskTaken_maskAct (cycle s) k t0
    have hbind (q : Nat) : (polOf (maskTaken (cycle s) k t0) q).bind = (polOf s q).bind :=
      congrArg Pol.bind (polOf_congr (maskTaken_pols (cycle s) k t0) q)
    refine ⟨_, exec_maskAction_due ht, ?_⟩
    split
    · exact ⟨congrArg Prod.snd hact, congrArg Prod.fst hact, fun q => rsOf_congr (maskTaken_page (cycle s) k t0 rfl)⟩
    · have hact' := (maskAct_stopOrBench k (maskTaken (cycle s) k t0) k (getF s F.ACQ_MASKCFG_MASKACT k == 3)).trans hact
      exact ⟨congrArg Prod.snd hact', congrArg Prod.fst hact', fun q => (rsOf_stopOrBench _ p.isLt _ q).trans
        (afterAction_congr hbind (fun _ _ hf => maskTaken_page (cycle s) k t0 hf) k _ q)⟩
  · refine ⟨_, congrArg Host.Outcome.next (reclaimEnd_due h), ?_, ?_, ?_, fun hoff => ?_⟩
    · rw [polOf_congr (offRecords_pols.endRun ..)]
      exact reclaimed_reclaim (cycle s) k
    · exact ((offRecords_getF 0 (fun j => by simp only [Fld.tag, fldKey, Page.code]; omega) (by decide)).endRun ..).trans
        (reclaimed_count (cycle s) k)
    · exact ((offRecords_sluEvt (by decide) (by decide)).endRun ..).trans (reclaimed_evt (cycle s) k)
    · rw [endRun_disabled ((reclaimed_acqEn (cycle s) k).trans hoff)]
      exact ⟨fun j hj => reclaimed_fill (cycle s) k hj, reclaimed_sameBut (cycle s) k⟩

end Sys2Proof.Machine
end

section
/-! Parametric orders by stamp (R112, R300): a command's own order, and one that lies half an epoch ahead of it. -/

namespace Sys2Proof.Machine

/-- Polder 0 owns octet 0, which is IDLE; channel 0 has its unit on the pin in FVMI. A conversion is ordered half an epoch (2⁶³ fine
units) ahead of the present tick 0: R300 calls neither of these stamps earlier than the other. -/
def halfEpochAhead : State :=
  let fields : List (Fld × Nat) := [(F.DEV_STATE_BOOT, 4), (F.POL_STATE_RSTATE, RS.idle.code), (F.OCT_STATE_OWNED, 1),
    (F.OCT_STATE_PSTATE, 2), (F.OCT_X2_PMUCFG_PMUEN 0, 1), (F.OCT_X2_PMUCFG_CONNECT 0, 1), (F.OCT_X2_PMUCFG_MODE 0, 1)]
  setPol (fields.foldl (fun s x => setF s x.1 0 x.2) { State.reset with pwr := { aux := true } }) 0
    { trigs := [{ t0 := 2 ^ 63, act := .conv }] }

/-- The order half an epoch ahead is not due. -/
theorem halfEpochAhead_noneDue : noneDue halfEpochAhead (now halfEpochAhead + 1) := by
  unfold noneDue
  decide +kernel

/-- PMUCTL of polder 0 takes a command, and its one enabled channel is free. -/
theorem halfEpochAhead_ready : mayWrite halfEpochAhead .mp .pol 0 0x0C0 = true ∧ pmuChans halfEpochAhead 0 = [0] ∧
    (pmuChans halfEpochAhead 0).filter (canConvert halfEpochAhead) = [0] ∧ busyConv halfEpochAhead 0 = false ∧
    (chanOf halfEpochAhead 0).rangeOld = none ∧ (chanOf halfEpochAhead 0).conv = none ∧
    getF halfEpochAhead F.POL_PMUCTL_CONV 0 = 0 ∧ getF halfEpochAhead F.POL_PMUCTL_FORCE_ON 0 = 0 ∧
    getF halfEpochAhead F.POL_PMUCTL_FORCE_OFF 0 = 0 ∧ getF halfEpochAhead F.POL_PMUCTL_APPLY 0 = 0 := by decide +kernel

/-- The order of CONV stands behind the one half an epoch ahead, so it does not act: no conversion begins. -/
theorem conv_halfEpochAhead : (chanOf (hostWrite (cycle halfEpochAhead) .mp .pol 0 0x0C0 1) 0).conv = none := by decide +kernel

/-- Refutes O27: in `halfEpochAhead` no order is due and the channel is free, but an order that R300 ranks neither before nor after the
present tick keeps its place before the order of CONV, which then waits; the statement has the conversion begin at once. -/
theorem not_pmuConversionsAndResults : ¬ Obligations.PmuConversionsAndResults := by
  unfold Obligations.PmuConversionsAndResults
  rintro ⟨h, -⟩
  obtain ⟨hw, -, hon, hbusy, hrange, -, hconv, -⟩ := halfEpochAhead_ready
  obtain ⟨hcmd, -⟩ := h .mp 0 halfEpochAhead hw halfEpochAhead_noneDue
  obtain ⟨hfree, -⟩ := hcmd hconv (by rw [show ((0 : Fin 64).val) = 0 from rfl, hon]; exact List.cons_ne_nil _ _)
  have hmem : ∀ c, c ∈ (pmuChans halfEpochAhead 0).filter (canConvert halfEpochAhead) ↔ c = 0 := by simp [hon]
  obtain ⟨t, ht, hbegun, -⟩ := hfree fun c hc => by
    obtain rfl := (hmem c).mp hc
    exact ⟨hbusy, hrange⟩
  obtain rfl : hostWrite (cycle halfEpochAhead) .mp .pol 0 0x0C0 1 = t := Host.Outcome.next.inj ht
  exact absurd (conv_halfEpochAhead.symm.trans (hbegun 0 ((hmem 0).mpr rfl))) (Option.some_ne_none _).symm

/-- FORCE_OFF asks for no claim, but its order does not act either: the unit stays on the pin. -/
theorem forceOff_halfEpochAhead : newClaim halfEpochAhead (opNew halfEpochAhead 0 .off) ≤ getClaim halfEpochAhead 0 ∧
    (opNew halfEpochAhead 0 .off).conn = false ∧
    (pmuNow (hostWrite (cycle halfEpochAhead) .mp .pol 0 0x0C0 16) 0).conn = true := by decide +kernel

/-- Refutes O28: in `halfEpochAhead` the order of FORCE_OFF waits behind the order half an epoch ahead, and the unit stays on the pin;
the statement has it disconnect at once. -/
theorem not_pmuOperations : ¬ Obligations.PmuOperations := by
  unfold Obligations.PmuOperations
  intro h
  obtain ⟨hw, hchans, -, -, -, hfree, -, hon, hoff, happly⟩ := halfEpochAhead_ready
  obtain ⟨hclaim, hz, hstays⟩ := forceOff_halfEpochAhead
  obtain ⟨hacc, -⟩ := h .mp 0 0 halfEpochAhead hw (by decide) hon hoff happly hchans halfEpochAhead_noneDue
    (.forceOff .mp 0, .off, F.POL_PMUCTL_FORCE_OFF) (by simp)
  obtain ⟨t, ht, hnow, -⟩ := (hacc (.inl hclaim)).1 hfree
  obtain rfl : hostWrite (cycle halfEpochAhead) .mp .pol 0 0x0C0 16 = t := Host.Outcome.next.inj ht
  rw [hnow] at hstays
  exact absurd (hstays.symm.trans hz) (by decide)

end Sys2Proof.Machine
end

section
/-! The parametric unit: orders that are not due, requests that fit their claims, and what a request makes of its channel (R105, R110,
R112, R115). -/

namespace Sys2Proof.Machine

/-! Orders (R112). -/

/-- An operation that keeps the polders and the stamp keeps what is due. -/
theorem noneDue_congr {s u : State} {t : Stamp} (h : u.pols = s.pols) (hd : noneDue s t) : noneDue u t := fun p hp y hy =>
  hd p hp y (by rwa [polOf_congr h] at hy)

theorem dueHeads_of_noneDue {s : State} {t : Stamp} (h : noneDue s t) : dueHeads s t = [] := by
  unfold dueHeads
  refine List.filterMap_eq_nil_iff.mpr fun p hp => ?_
  split
  · next x l hx => simp [h p (List.mem_range.mp hp) x (by simp [hx])]
  · rfl

theorem fireRound_of_noneDue {s : State} {t : Stamp} (h : noneDue s t) : fireRound s t = s := by
  simp [fireRound, dueHeads_of_noneDue h, firstStamp]

/-- With no order due nothing acts. -/
theorem pmuDue_of_noneDue {s : State} {t : Stamp} (h : noneDue s t) : pmuDue s t = s := by
  unfold pmuDue
  generalize List.range _ = l
  induction l with
  | nil => rfl
  | cons _ l ih => rwa [List.foldl_cons, fireRound_of_noneDue h]

theorem pmuNowDue_of_noneDue {s : State} (h : noneDue s (now s + 1)) : pmuNowDue s = s := pmuDue_of_noneDue h

/-! The configuration of a channel as its fields hold it (R118). -/

/-- The fields of a channel that a request is about. -/
def pmuFlds (c : Nat) : List Fld :=
  [F.OCT_X2_PMUCFG_MODE (c % 8), F.OCT_X2_PMUCFG_IRANGE (c % 8), F.OCT_X2_PMUCFG_CONNECT (c % 8), F.OCT_X2_FORCE_CODE (c % 8)]

theorem mem_pmuFlds {f : Fld} {c : Nat} (h : f ∈ pmuFlds c) : f = F.OCT_X2_PMUCFG_MODE (c % 8) ∨ f = F.OCT_X2_PMUCFG_IRANGE (c % 8) ∨
    f = F.OCT_X2_PMUCFG_CONNECT (c % 8) ∨ f = F.OCT_X2_FORCE_CODE (c % 8) := by simpa [pmuFlds] using h

theorem pmuNow_congr {s u : State} {c : Nat} (h : ∀ f ∈ pmuFlds c, getF u f (c / 8) = getF s f (c / 8)) :
    pmuNow u c = pmuNow s c := by
  simp only [pmuFlds, List.forall_mem_cons] at h
  obtain ⟨hm, hr, hc, hf, -⟩ := h
  simp only [pmuNow, pmuMode, pmuRange, pmuConn, pmuForce, isSet, hm, hr, hc, hf]

theorem pmuNow_of_page {s u : State} {c : Nat} (h : ∀ f : Fld, f.page = .oct → getF u f (c / 8) = getF s f (c / 8)) :
    pmuNow u c = pmuNow s c :=
  pmuNow_congr fun f hf => h f (by rcases mem_pmuFlds hf with rfl | rfl | rfl | rfl <;> rfl)

@[simp] theorem pmuNow_cycle (s : State) (c : Nat) : pmuNow (cycle s) c = pmuNow s c := rfl

theorem pmuMode_lt (s : State) (c : Nat) : pmuMode s c < 4 := Nat.mod_lt _ (Nat.two_pow_pos _)
theorem pmuRange_lt (s : State) (c : Nat) : pmuRange s c < 8 := Nat.mod_lt _ (Nat.two_pow_pos _)
theorem pmuForce_lt (s : State) (c : Nat) : pmuForce s c < 2 ^ 18 := Nat.mod_lt _ (Nat.two_pow_pos _)

/-- PMUEN is no part of what a request is about. -/
theorem pmuNow_setPmuen (s : State) (c v : Nat) : pmuNow (setF s (F.OCT_X2_PMUCFG_PMUEN (c % 8)) (c / 8) v) c = pmuNow s c :=
  pmuNow_congr fun f hf => getF_setF_tag _ _ _ _ (by
    rcases mem_pmuFlds hf with rfl | rfl | rfl | rfl <;> simp only [Fld.tag, fldKey, Page.code] <;> omega)

theorem getClaim_setPmuen (s : State) (c v : Nat) :
    getClaim (setF s (F.OCT_X2_PMUCFG_PMUEN (c % 8)) (c / 8) v) c = getClaim s c :=
  getF_setF_tag _ _ _ _ (by simp only [Fld.tag, fldKey, Page.code]; omega)

theorem pmuNow_reach (s : State) (t : Stamp) (c : Nat) : pmuNow (reach s t) c = pmuNow s c :=
  pmuNow_congr fun f _ => getF_reach s t f _

/-! Requests (R115). -/

/-- The claim of a request is read from the channel alone. -/
theorem newClaim_congr {s u : State} {n : PmuNew} (hold : (chanOf u n.c).rangeOld = (chanOf s n.c).rangeOld)
    (hnow : pmuNow u n.c = pmuNow s n.c) (hcl : getClaim u n.c = getClaim s n.c) : newClaim u n = newClaim s n := by
  simp only [pmuNow, PmuNew.mk.injEq, true_and] at hnow
  obtain ⟨hm, hr, hc, -⟩ := hnow
  simp only [newClaim, hold, hm, hr, hc, hcl]

/-- A request whose claim does not rise is accepted (R115). -/
theorem request_fits {s : State} {n : PmuNew} (p : Option Nat) (k : Nat) (h : newClaim s n ≤ getClaim s n.c) :
    request s p k [n] = (takeNew s n, true) := by
  simp [request, overBudget, rising, Nat.not_lt.mpr h]

/-- A unit that is off the pin claims nothing (R114). -/
theorem newClaim_off {s : State} {n : PmuNew} (h : n.conn = false) : newClaim s n = 0 := by simp [newClaim, h]

/-! A request takes effect. -/

@[simp] theorem chanOf_setClaim (s : State) (c v k : Nat) : chanOf (setClaim s c v) k = chanOf s k := by
  simp only [setClaim, chanOf_setF]

theorem getF_setClaim {s : State} {f : Fld} {c v m : Nat} (hp : f.tag ≠ F.CDI_PBUDGET_USED.tag)
    (hf : f.tag ≠ (F.OCT_X2_CLAIM_I (c % 8)).tag) :
    getF (setClaim s c v) f m = getF s f m := by
  unfold setClaim
  rw [getF_setF_tag _ _ _ _ hp, getF_setF_tag _ _ _ _ hf]

theorem getClaim_setClaim (s : State) (c v : Nat) : getClaim (setClaim s c v) c = v % 2 ^ 19 := by
  unfold getClaim setClaim
  exact (getF_setF_tag _ _ _ _ (by simp only [Fld.tag, fldKey, Page.code]; omega)).trans (getF_setF_same ..)

/-- What is asked of a channel holds of it, once its fields have room for it. -/
theorem pmuNow_takeNew {s : State} {n : PmuNew} {c : Nat} (hc : n.c = c) (hm : n.mode < 4) (hr : n.range < 8)
    (hk : n.code < 2 ^ 18) : pmuNow (takeNew s n) c = n := by
  subst hc
  obtain ⟨c, mode, range, conn, code⟩ := n
  have hc : (b2n conn % 2 ^ 1 != 0) = conn := by cases conn <;> rfl
  simp (disch := first | decide | (simp only [Fld.tag, fldKey, Page.code]; omega)) only [takeNew, pmuNow, pmuMode, pmuRange, pmuConn,
    pmuForce, isSet, getF_setClaim, getF_setF_tag, getF_setF_same, PmuNew.mk.injEq, true_and]
  exact ⟨Nat.mod_eq_of_lt hm, Nat.mod_eq_of_lt hr, hc, Nat.mod_eq_of_lt hk⟩

/-- Where a connected channel changes its range alone, the change is under way (R110). -/
theorem chanOf_takeNew (s : State) (n : PmuNew) : chanOf (takeNew s n) n.c = { chanOf s n.c with
    rangeOld := if n.conn && pmuConn s n.c && n.mode == pmuMode s n.c && n.range != pmuRange s n.c
      then some (pmuRange s n.c, getClaim s n.c) else if n.conn then (chanOf s n.c).rangeOld else none
    waitConv := if n.conn then (chanOf s n.c).waitConv else none } := by
  simp only [takeNew, chanOf_setClaim, chanOf_setF, chanOf_setChan_same]

theorem rangeOld_takeNew {s : State} {n : PmuNew} {c : Nat} (hc : n.c = c) (hon : n.conn = true) (hpin : pmuConn s c = true)
    (hm : n.mode = pmuMode s c) (hr : n.range ≠ pmuRange s c) :
    (chanOf (takeNew s n) c).rangeOld = some (pmuRange s c, getClaim s c) := by
  subst hc
  simp [chanOf_takeNew, hon, hpin, hm, hr]

theorem reconnect_takeNew {s : State} {n : PmuNew} {c : Nat} (hc : n.c = c) :
    (chanOf (takeNew s n) c).reconnect = (chanOf s c).reconnect := by
  subst hc
  rw [chanOf_takeNew]

/-! What shows in PMUCTL afterwards (R119). -/

/-- An observation of a channel that does not see its burst stays when bursts that are over are tidied. -/
theorem tidyBurst_chan {α : Type} {φ : Chan → α} (h : ∀ x b, φ { x with burst := b } = φ x) (s : State) (p c : Nat) :
    φ (chanOf (tidyBurst s p) c) = φ (chanOf s c) := by
  have hl (l : List Nat) :
      φ (chanOf (forAll l s (fun s c => setChan s c { chanOf s c with burst := none })) c) = φ (chanOf s c) := by
    refine forAll_same (φ := fun s => φ (chanOf s c)) (fun s k => ?_) l s
    by_cases hk : c = k
    · subst hk; simp [h]
    · rw [chanOf_setChan_ne _ _ hk]
  unfold tidyBurst
  extract_lets s1
  split <;> exact hl _

theorem chanOf_ite (b : Prop) [Decidable b] (s u : State) (c : Nat) :
    chanOf (if b then s else u) c = if b then chanOf s c else chanOf u c := apply_ite (chanOf · c) ..

/-- The fields of PMUCTL of the owner, if any, show what is over. -/
def showOwner (s : State) (p : Option Nat) : State := match p with | some q => showPmu s q | none => s

theorem pmuNow_showOwner (s : State) (p : Option Nat) (c : Nat) : pmuNow (showOwner s p) c = pmuNow s c := by
  cases p with
  | none => rfl
  | some q => exact pmuNow_of_page fun f hf => showPmu_page _ _ (by simp [hf])

theorem showOwner_chan {α : Type} {φ : Chan → α} (h : ∀ x b, φ { x with burst := b } = φ x) (s : State) (p : Option Nat) (c : Nat) :
    φ (chanOf (showOwner s p) c) = φ (chanOf s c) := by
  have hconv (q : Nat) : chanOf (showConv s q) c = chanOf s c := by
    unfold showConv; simp only [chanOf_ite, chanOf_setF, ite_self]
  have hops (t : State) (q : Nat) : chanOf (showOps t q) c = chanOf t c := by
    unfold showOps; simp only [chanOf_ite, chanOf_setF, ite_self]
  cases p with
  | none => rfl
  | some q =>
    show φ (chanOf (showOps (tidyBurst (showConv s q) q) q) c) = _
    rw [hops, tidyBurst_chan h, hconv]

/-! A word of configuration (R105, R110). -/

/-- Nothing waits on the channel, so nothing follows. -/
theorem runOps_idle {s : State} {c : Nat} (h : (chanOf s c).ops = []) (p : Nat) : runOps s p [c] = s := by
  simp [runOps, h, forAll]

/-- The channel does not wait for MODE_RECONNECT any more. -/
def endReconnect (s : State) (c : Nat) : State := setChan s c { chanOf s c with reconnect := false }

theorem endReconnect_reconnect (s : State) (c : Nat) : (chanOf (endReconnect s c) c).reconnect = false := by
  unfold endReconnect; rw [chanOf_setChan_same]

theorem newClaim_endReconnect {s : State} {c : Nat} {n : PmuNew} (hn : n.c = c) : newClaim (endReconnect s c) n = newClaim s n :=
  newClaim_congr (by subst hn; unfold endReconnect; rw [chanOf_setChan_same]) rfl rfl

/-- A change of MODE of a connected unit: it is off the pin until MODE_RECONNECT, and its conversion and burst are dropped (R105). -/
def leavePin (s : State) (c : Nat) : State :=
  setChan s c { chanOf s c with reconnect := true, conv := none, waitConv := none, burst := none }

theorem leavePin_ops (s : State) (c : Nat) : (chanOf (leavePin s c) c).ops = (chanOf s c).ops := by
  unfold leavePin; rw [chanOf_setChan_same]

theorem pmuNow_leavePin (s : State) (c k : Nat) : pmuNow (leavePin s c) k = pmuNow s k := rfl

theorem leavePin_reconnect (s : State) (c : Nat) : (chanOf (leavePin s c) c).reconnect = true := by
  unfold leavePin; rw [chanOf_setChan_same]

section
variable {s : State} (hd : noneDue s (now s + 1)) (c mode range : Nat) (en : Bool)

/-- The state in which PMUEN has its value. -/
def pmuEnSet (s : State) (c : Nat) (en : Bool) : State := setF s (F.OCT_X2_PMUCFG_PMUEN (c % 8)) (c / 8) (b2n en)

theorem pmuNow_pmuEnSet : pmuNow (pmuEnSet s c en) c = pmuNow s c := pmuNow_setPmuen ..

theorem getClaim_pmuEnSet : getClaim (pmuEnSet s c en) c = getClaim s c := getClaim_setPmuen ..

theorem newClaim_pmuEnSet {n : PmuNew} (hn : n.c = c) : newClaim (pmuEnSet s c en) n = newClaim s n :=
  newClaim_congr (by rfl) (by rw [hn, pmuNow_pmuEnSet]) (by rw [hn, getClaim_pmuEnSet])

include hd

/-- CONNECT written 0: MODE and IRANGE take effect at once (R105, R110). -/
theorem pmuCfgWrite_off : pmuCfgWrite s c mode range en false = showOwner (takeNew (endReconnect (pmuEnSet s c en) c)
    { pmuNow s c with mode := mode, range := range, conn := false }) (owner s (c / 8)) := by
  simp only [pmuCfgWrite, pmuNowDue_of_noneDue hd, pmuNow_setPmuen, Bool.not_false, if_true]
  rfl

/-- Another MODE of a connected unit, whose claim fits: it disconnects until MODE_RECONNECT (R105). -/
theorem pmuCfgWrite_mode (hc : pmuConn s c = true) (hm : mode ≠ pmuMode s c) (hops : (chanOf s c).ops = [])
    (hfit : newClaim s { pmuNow s c with mode := mode, range := range } ≤ getClaim s c) :
    pmuCfgWrite s c mode range en true = showOwner
      (leavePin (takeNew (pmuEnSet s c en) { pmuNow s c with mode := mode, range := range }) c) (owner s (c / 8)) := by
  have hconn : (pmuNow s c).conn = true := hc
  have hmode : (mode != (pmuNow s c).mode) = true := bne_iff_ne.mpr hm
  obtain ⟨u, hu⟩ : ∃ u, u = takeNew (pmuEnSet s c en) { pmuNow s c with mode := mode, range := range } := ⟨_, rfl⟩
  have hreq := request_fits (s := pmuEnSet s c en) (n := { pmuNow s c with mode := mode, range := range }) (owner s (c / 8)) (c / 64)
    (by rw [newClaim_pmuEnSet c en rfl]; exact hfit.trans (getClaim_pmuEnSet c en).ge)
  have hidle : (chanOf (leavePin u c) c).ops = [] := by
    subst hu
    exact (leavePin_ops ..).trans ((congrArg Chan.ops (chanOf_takeNew ..)).trans hops)
  rw [← hu] at hreq ⊢
  unfold pmuEnSet at hreq
  simp only [hconn] at hreq
  simp only [pmuCfgWrite, pmuNowDue_of_noneDue hd, pmuNow_setPmuen, hconn, hmode, hreq, Bool.not_true, Bool.true_and, if_true,
    Bool.false_eq_true, if_false]
  change showOwner (match owner s (c / 8) with | some q => runOps (leavePin u c) q [c] | none => leavePin u c) (owner s (c / 8)) = _
  cases owner s (c / 8) with
  | none => rfl
  | some q => exact congrArg (showOwner · (some q)) (runOps_idle hidle q)

/-- Another IRANGE of a connected unit that converts nothing, whose claim fits: the change goes on (R110). -/
theorem pmuCfgWrite_range (hc : pmuConn s c = true) (hconv : (chanOf s c).conv = none)
    (hfit : newClaim s { pmuNow s c with range := range } ≤ getClaim s c) :
    pmuCfgWrite s c (pmuMode s c) range en true =
      showOwner (takeNew (pmuEnSet s c en) { pmuNow s c with range := range }) (owner s (c / 8)) := by
  have hconn : (pmuNow s c).conn = true := hc
  have hmode : (pmuMode s c != (pmuNow s c).mode) = false := bne_self_eq_false _
  have hnew : ({ pmuNow s c with mode := pmuMode s c, range := range, conn := true } : PmuNew) =
      { pmuNow s c with range := range } := by
    rw [← hc]; rfl
  have hreq := request_fits (s := pmuEnSet s c en) (n := { pmuNow s c with range := range }) (owner s (c / 8)) (c / 64)
    (by rw [newClaim_pmuEnSet c en rfl]; exact hfit.trans (getClaim_pmuEnSet c en).ge)
  unfold pmuEnSet at hreq ⊢
  simp only [pmuCfgWrite, pmuNowDue_of_noneDue hd, pmuNow_setPmuen, chanOf_setF, hconv, hmode, hnew, hreq, Bool.not_true,
    Bool.and_false, Option.isSome_none, Bool.false_eq_true, if_false]
  rfl

/-- A FORCE.CODE whose claim fits takes effect (R115). -/
theorem pmuForceSet_fits (code : Nat) (hfit : newClaim s { pmuNow s c with code := code } ≤ getClaim s c) :
    pmuForceSet s c code = takeNew s { pmuNow s c with code := code } := by
  simp only [pmuForceSet, pmuNowDue_of_noneDue hd]
  rw [request_fits _ _ hfit]

end

end Sys2Proof.Machine
end

section
/-! Words of the parametric unit written through IX_ADDR and IX_DATA (R47 to R51, R118): the write, as the fabric judges it, reaches the
unit. -/

namespace Sys2Proof.Machine

/-! What setting up an indirect access leaves. -/

/-- `u` is `s` but for IX_ADDR of an octet page, posted writes and the note of the pages that counted an event. -/
structure IxAside (s u : State) : Prop where
  chans : u.chans = s.chans
  pols : u.pols = s.pols
  bdn : u.bdn = s.bdn
  ports : u.ports = s.ports
  otp : u.otp = s.otp
  pwr : u.pwr = s.pwr
  field : ∀ (f : Fld) (m : Nat), f.tag ≠ (F.IX_ADDR_SPACE .oct).tag → f.tag ≠ (F.IX_ADDR_ADDR .oct).tag →
    getF u f m = getF s f m

namespace IxAside

theorem refl (s : State) : IxAside s s := ⟨rfl, rfl, rfl, rfl, rfl, rfl, fun _ _ _ _ => rfl⟩

variable {s u : State} (h : IxAside s u)
include h

theorem cycle : IxAside s (Machine.cycle u) := { h with }

theorem setPosted (n : Nat) (l : List Posted) : IxAside s (Machine.setPosted u .oct n l) := { h with }

theorem setSpace (n v : Nat) : IxAside s (setF u (F.IX_ADDR_SPACE .oct) n v) :=
  { h with field := fun f m hs ha => (getF_setF_tag _ _ _ _ hs).trans (h.field f m hs ha) }

theorem setAddr (n v : Nat) : IxAside s (setF u (F.IX_ADDR_ADDR .oct) n v) :=
  { h with field := fun f m hs ha => (getF_setF_tag _ _ _ _ ha).trans (h.field f m hs ha) }

theorem chan (c : Nat) : chanOf u c = chanOf s c := by unfold chanOf; rw [h.chans]

theorem noneDue (hd : Machine.noneDue s (now s + 1)) : Machine.noneDue u (now u + 1) := by
  rw [show now u = now s by unfold now; rw [h.bdn]]
  exact noneDue_congr h.pols hd

theorem pmuNow (c : Nat) : Machine.pmuNow u c = Machine.pmuNow s c := pmuNow_congr fun f hf => by
  rcases mem_pmuFlds hf with rfl | rfl | rfl | rfl <;> exact h.field _ _ (by simp only [Fld.tag, fldKey, Page.code]; omega)
    (by simp only [Fld.tag, fldKey, Page.code]; omega)

theorem settings (c : Nat) : pmuMode u c = pmuMode s c ∧ pmuRange u c = pmuRange s c ∧ pmuConn u c = pmuConn s c ∧
    pmuForce u c = pmuForce s c := by simpa [Machine.pmuNow] using h.pmuNow c

theorem getClaim (c : Nat) : Machine.getClaim u c = Machine.getClaim s c :=
  h.field _ _ (by simp only [Fld.tag, fldKey, Page.code]; omega) (by simp only [Fld.tag, fldKey, Page.code]; omega)

theorem newClaim (n : PmuNew) : Machine.newClaim u n = Machine.newClaim s n :=
  newClaim_congr (by rw [h.chan]) (h.pmuNow _) (h.getClaim _)

theorem observer (i : Initiator) : Machine.observer u i = Machine.observer s i := by
  have hp (p : Nat) : sessPort u p = sessPort s p := by
    unfold sessPort sharedSess portOf
    rw [h.ports, h.field _ _ (by decide) (by decide), h.field _ _ (by decide) (by decide)]
  cases i <;> simp only [Machine.observer, hp, h.otp, h.field _ _ (show F.PHL_STATE_SESS.tag ≠ _ by decide) (by decide)]

theorem isSet (f : Fld) (m : Nat) (hs : f.tag ≠ (F.IX_ADDR_SPACE .oct).tag := by decide)
    (ha : f.tag ≠ (F.IX_ADDR_ADDR .oct).tag := by decide) : Machine.isSet u f m = Machine.isSet s f m := by
  unfold Machine.isSet; rw [h.field f m hs ha]

theorem servedPage (p : Page) (n off : Nat) : Machine.servedPage u p n off = Machine.servedPage s p n off := by
  have hi (d : Nat) : isoDie u d = isoDie s d := by unfold isoDie; rw [h.field _ _ (by decide) (by decide)]
  simp only [Machine.servedPage, romrec, h.pwr, h.isSet F.DEV_STATE_RSTBUSY, h.isSet F.SEC_STATE_ROMREC,
    h.field F.DEV_STATE_BOOT 0 (by decide) (by decide), hi]
  rfl

end IxAside

/-! IX_ADDR and IX_DATA (R47 to R49). -/

/-- A plain field that software writes takes what is written where no lock covers it (R32, R42). -/
theorem judge_rw {s : State} {i : Initiator} {f : Fld} {n : Nat} (hty : f.ty = .rw) (hpriv : f.priv = false)
    (hclean : f.off ≠ (F.FORCE f.page).off ∨ f.space ≠ 0) (ho : observer s i = false) (hl : lockedF s f n = false) (mixed : Bool)
    (v : Nat) : judge s i f n false mixed v = { ok := some v } := by
  have h1 : f ≠ F.LOCK f.page := fun e => by rw [e] at hty; cases hty
  have h2 : f ≠ F.FORCE f.page := fun e => hclean.elim (fun h => h (by rw [← e])) (fun h => h (by rw [e]))
  simp [judge, cleanVal, h1, h2, hty, hpriv, ho, hl]

theorem pageFields_ixAddr (n : Nat) : pageFields .oct n 0x030 = [F.IX_ADDR_SPACE .oct, F.IX_ADDR_ADDR .oct] := rfl

/-- No field of an octet page but those of the clamps (R85) is locked outside Embankment mode (R421). -/
theorem lockedF_oct {s : State} {f : Fld} (n : Nat) (hp : f.page = .oct) (hs : f.space ≠ 1)
    (he : isSet s F.FLT_STATE_EMBANK 0 = false) :
    lockedF s f n = false := by
  unfold lockedF
  rw [he, hp]
  simp only [Bool.false_and, Bool.false_or]
  split <;> simp_all

theorem servedPage_of_mayWrite {s : State} {i : Initiator} {p : Page} {n off : Nat} (h : mayWrite s i p n off = true) :
    servedPage s p n off = .yes := by
  unfold mayWrite at h
  simp only [Bool.and_eq_true, decide_eq_true_eq] at h
  exact h.1.1

/-- An initiator that may write IX_ADDR of an octet page may write, and Embankment mode is off (R44, R421). -/
theorem mayWrite_ixAddr {s : State} {i : Initiator} {n : Nat} (h : mayWrite s i .oct n 0x030 = true) :
    observer s i = false ∧ isSet s F.FLT_STATE_EMBANK 0 = false := by
  unfold mayWrite at h
  simp only [Bool.and_eq_true, decide_eq_true_eq, Bool.not_eq_true', List.all_eq_true] at h
  obtain ⟨⟨-, ho⟩, hf⟩ := h
  obtain ⟨⟨-, he⟩, -⟩ := hf (F.IX_ADDR_SPACE .oct) (by rw [pageFields_ixAddr]; simp)
  exact ⟨ho, by simpa [show embankOk (F.IX_ADDR_SPACE .oct) = false by decide] using he⟩

/-- Space 2 has one-word entries, of which none is staged (R50, R118). -/
theorem track_pmu (s : State) (n a : Nat) : track s .oct n 2 a = s := by simp [track, ixSize]

/-- IX_ADDR of an octet page points at word `a` of space 2 (R47). -/
def ixAt (s : State) (n a : Nat) : State := setF (setF s (F.IX_ADDR_SPACE .oct) n 2) (F.IX_ADDR_ADDR .oct) n a

/-- IX_ADDR written with space 2 and the word's address, no write posted before (R47). -/
theorem hostWrite_ixAddr {s : State} {i : Initiator} {n a : Nat} (h : mayWrite s i .oct n 0x030 = true)
    (hp : postedOf s .oct n = []) (ha : a < 64) : hostWrite s i .oct n 0x030 (2 ^ 24 * 2 + a) = ixAt s n a := by
  obtain ⟨ho, he⟩ := mayWrite_ixAddr h
  have hrun (f : Fld) (hf : f.off = 0x030) (hpg : f.page = .oct) : runlockedF s f n = false := by simp [runlockedF, hpg, hf]
  have hspace := judge_rw (f := F.IX_ADDR_SPACE .oct) (n := n) rfl rfl (.inl (by decide)) ho (lockedF_oct n rfl (by decide) he)
  have haddr := judge_rw (f := F.IX_ADDR_ADDR .oct) (n := n) rfl rfl (.inl (by decide)) ho (lockedF_oct n rfl (by decide) he)
  have hv : bits (2 ^ 24 * 2 + a) (F.IX_ADDR_SPACE .oct).lo (F.IX_ADDR_SPACE .oct).w.val = 2 := by
    show (2 ^ 24 * 2 + a) / 2 ^ 24 % 2 ^ 4 = 2
    omega
  have hv' : bits (2 ^ 24 * 2 + a) (F.IX_ADDR_ADDR .oct).lo (F.IX_ADDR_ADDR .oct).w.val = a := by
    show (2 ^ 24 * 2 + a) / 2 ^ 0 % 2 ^ 24 = a
    omega
  have hat : getF (ixAt s n a) (F.IX_ADDR_SPACE .oct) n = 2 := by
    unfold ixAt
    rw [getF_setF_tag _ _ _ _ (by decide), getF_setF_same]
    rfl
  have hall : completeAll s .oct n = s := by simp [completeAll, hp, completeN]
  unfold hostWrite pageWriteReq
  rw [servedPage_of_mayWrite h]
  have hrunS := hrun (F.IX_ADDR_SPACE .oct) rfl rfl
  have hrunA := hrun (F.IX_ADDR_ADDR .oct) rfl rfl
  simp only [writeReg, pageFields_ixAddr, ho, hall, hrunS, hrunA, hspace, haddr, hv, hv', List.map_cons, List.map_nil, decide_true,
    Bool.not_false, Bool.and_self, if_true]
  change track (ixAt s n a) .oct n (getF (ixAt s n a) (F.IX_ADDR_SPACE .oct) n) (getF (ixAt s n a) (F.IX_ADDR_ADDR .oct) n) = _
  rw [hat, track_pmu]

theorem ixAside_ixAt (s : State) (n a : Nat) : IxAside s (ixAt s n a) := ((IxAside.refl s).setSpace n 2).setAddr n a

@[simp] theorem postedOf_setPosted (s : State) (p : Page) (n : Nat) (l : List Posted) : postedOf (setPosted s p n l) p n = l :=
  Store.get_put_same _ _ _ _

/-- With one posted write, of word `a` of space 2, completing the posted writes of the page makes that write (R49). -/
theorem completeAll_pmu {u : State} {n : Nat} {x : Posted} (hp : postedOf u .oct n = [x]) (hs : servedPage u .oct n 0x034 = .yes)
    (hsp : x.space = 2) (ha : x.addr < 64) :
    completeAll u .oct n = cycle (writeFields (setPosted u .oct n []) x.ini .oct n 2 x.addr x.val.toNat) := by
  have hword (t : State) (i : Initiator) (v : Nat) : writeIx t i .oct n 2 x.addr v = writeFields t i .oct n 2 x.addr v := by
    simp [writeIx, ixSize, ixReadOnly, rawBits, Nat.not_le.mpr ha]
  simp only [completeAll, hp, List.length_singleton, completeN, completeOne, hs, if_true, hsp, hword, track_pmu]

/-- A word of space 2 written through IX_ADDR and IX_DATA (R47 to R49). -/
theorem hostIx_pmu {s : State} {i : Initiator} {n a v : Nat} (h : mayWrite s i .oct n 0x030 = true)
    (h' : mayWrite s i .oct n 0x034 = true) (hp : postedOf s .oct n = []) (ha : a < 64) (hv : v < 2 ^ 32) :
    ∃ u, IxAside s u ∧ hostIx s i .oct n 2 a v = cycle (writeFields u i .oct n 2 a v) := by
  have hat : IxAside s (cycle (ixAt s n a)) := (ixAside_ixAt s n a).cycle
  have hsp : getF (cycle (ixAt s n a)) (F.IX_ADDR_SPACE .oct) n = 2 := by
    rw [getF_cycle, ixAt, getF_setF_tag _ _ _ _ (by decide), getF_setF_same]
    rfl
  have had : getF (cycle (ixAt s n a)) (F.IX_ADDR_ADDR .oct) n = a := by
    rw [getF_cycle, ixAt, getF_setF_same]
    exact Nat.mod_eq_of_lt (by show a < 2 ^ 24; omega)
  have hpost : postedOf (cycle (ixAt s n a)) .oct n = [] := hp
  obtain ⟨x, hx, hpx⟩ : ∃ x : Posted, (x.ini = i ∧ x.space = 2 ∧ x.addr = a ∧ x.val = BitVec.ofNat 32 v) ∧
      postIx (cycle (ixAt s n a)) i .oct n v = setF (setPosted (cycle (ixAt s n a)) .oct n [x]) (F.IX_ADDR_ADDR .oct) n x.next := by
    refine ⟨{ ini := i, space := 2, addr := a, val := BitVec.ofNat 32 v, next := nextAddr (cycle (ixAt s n a)) .oct n a },
      ⟨rfl, rfl, rfl, rfl⟩, ?_⟩
    simp only [postIx, hpost, hsp, had, List.length_nil, List.nil_append, show ¬ 16 ≤ 0 by decide, if_false]
  obtain ⟨rfl, hxs, rfl, hxv⟩ := hx
  obtain ⟨w, hw, hq, hpw⟩ : ∃ w, hostWrite (cycle (ixAt s n x.addr)) x.ini .oct n 0x034 v = w ∧ IxAside s w ∧
      postedOf w .oct n = [x] := by
    refine ⟨_, ?_, (hat.setPosted n [x]).setAddr n x.next, postedOf_setPosted (cycle (ixAt s n x.addr)) .oct n [x]⟩
    unfold hostWrite pageWriteReq
    rw [hat.servedPage, servedPage_of_mayWrite h', ← hpx]
    rfl
  refine ⟨_, hq.setPosted n [], ?_⟩
  simp only [hostIx, hostWrite_ixAddr h hp ha, hw]
  rw [completeAll_pmu hpw ((hq.servedPage ..).trans (servedPage_of_mayWrite h')) hxs ha, hxv, BitVec.toNat_ofNat, Nat.mod_eq_of_lt hv]

/-! The two words of a channel (R118). -/

/-- A word all of whose fields are plain: each takes its part, and what the word does follows. -/
theorem writeFields_pmu {u : State} {i : Initiator} {n a v : Nat} (hd : noneDue u (now u + 1)) (ho : observer u i = false)
    (he : isSet u F.FLT_STATE_EMBANK 0 = false) (ha : a % 8 < 2)
    (hf : ∀ f ∈ ixFields .oct 2 a, f.ty = .rw ∧ f.priv = false ∧ f.page = .oct ∧ f.space = 2) :
    writeFields u i .oct n 2 a v =
      ixEffect u .oct n 2 a ((ixFields .oct 2 a).map (fun f => (f, bits v f.lo f.w.val))) (fun f => getF u f n) := by
  have hjs (mixed : Bool) : (ixFields .oct 2 a).map (fun f => (f, judge u i f n (runlockedIx u .oct n 2 a) mixed
      (bits v f.lo f.w.val))) = (ixFields .oct 2 a).map (fun f => (f, ({ ok := some (bits v f.lo f.w.val) } : Judged))) := by
    refine List.map_congr_left fun f hfm => ?_
    obtain ⟨hty, hpriv, hpage, hspace⟩ := hf f hfm
    rw [show runlockedIx u .oct n 2 a = false by simp [runlockedIx],
      judge_rw hty hpriv (.inr (by omega)) ho (lockedF_oct n hpage (by omega) he)]
  have hc : ixCustom .oct 2 a = true := by simp [ixCustom, ha]
  simp only [writeFields, and_self, if_true, pmuNowDue_of_noneDue hd, hjs, hc, List.filterMap_map, List.flatMap_map]
  rw [show (ixFields .oct 2 a).flatMap (fun _ => ([] : List Reason)) = [] from List.flatMap_eq_nil_iff.mpr fun _ _ => rfl]
  congr 1
  exact congrFun List.filterMap_eq_map _

theorem ixFields_pmuCfg (j : Nat) : ixFields .oct 2 (8 * j + 0) =
    [F.OCT_X2_PMUCFG_MODE j, F.OCT_X2_PMUCFG_IRANGE j, F.OCT_X2_PMUCFG_PMUEN j, F.OCT_X2_PMUCFG_CONNECT j] := by
  simp only [ixFields, show (8 * j + 0) / 8 = j by omega, show (8 * j + 0) % 8 = 0 by omega]

theorem ixFields_pmuForce (j : Nat) : ixFields .oct 2 (8 * j + 1) = [F.OCT_X2_FORCE_CODE j] := by
  simp only [ixFields, show (8 * j + 1) / 8 = j by omega, show (8 * j + 1) % 8 = 1 by omega]

/-- What a write of PMUCFG took of each of its fields. -/
theorem took_pmuCfg (j m r e k : Nat) :
    let acc := [(F.OCT_X2_PMUCFG_MODE j, m), (F.OCT_X2_PMUCFG_IRANGE j, r), (F.OCT_X2_PMUCFG_PMUEN j, e),
      (F.OCT_X2_PMUCFG_CONNECT j, k)]
    took acc (F.OCT_X2_PMUCFG_MODE j) = some m ∧ took acc (F.OCT_X2_PMUCFG_IRANGE j) = some r ∧
      took acc (F.OCT_X2_PMUCFG_PMUEN j) = some e ∧ took acc (F.OCT_X2_PMUCFG_CONNECT j) = some k := by
  simp [took]

/-- PMUCFG of channel `8 * n + j` written (R118). -/
theorem writeFields_pmuCfg {u : State} {i : Initiator} {n j v : Nat} (hd : noneDue u (now u + 1)) (ho : observer u i = false)
    (he : isSet u F.FLT_STATE_EMBANK 0 = false) : writeFields u i .oct n 2 (8 * j + 0) v =
      pmuCfgWrite u (8 * n + j) (v % 4) (v / 4 % 8) (v / 32 % 2 == 1) (v / 64 % 2 == 1) := by
  have hj : (8 * j + 0) / 8 = j := by omega
  have hm : (8 * j + 0) % 8 = 0 := by omega
  rw [writeFields_pmu hd ho he (by omega) (by rw [ixFields_pmuCfg]; simp), ixFields_pmuCfg]
  have hlow : bits v 0 (2 : Fin 33).val = v % 4 := by rw [bits, pow_zero, Nat.div_one]; rfl
  obtain ⟨hmode, hrange, hen, hconn⟩ := took_pmuCfg j (v % 4) (bits v 2 (3 : Fin 33).val) (bits v 5 (1 : Fin 33).val)
    (bits v 6 (1 : Fin 33).val)
  unfold ixEffect
  simp only [hm, hj, List.map_cons, List.map_nil, hlow, hmode, hrange, hen, hconn, Option.getD_some, List.isEmpty_cons,
    Bool.false_eq_true, if_false]
  rfl

/-- FORCE of channel `8 * n + j` written (R118). -/
theorem writeFields_pmuForce {u : State} {i : Initiator} {n j v : Nat} (hd : noneDue u (now u + 1)) (ho : observer u i = false)
    (he : isSet u F.FLT_STATE_EMBANK 0 = false) : writeFields u i .oct n 2 (8 * j + 1) v = pmuForceSet u (8 * n + j) (v % 2 ^ 18) := by
  have hj : (8 * j + 1) / 8 = j := by omega
  have hm : (8 * j + 1) % 8 = 1 := by omega
  rw [writeFields_pmu hd ho he (by omega) (by rw [ixFields_pmuForce]; simp), ixFields_pmuForce]
  have htook (x : Nat) : took [(F.OCT_X2_FORCE_CODE j, x)] (F.OCT_X2_FORCE_CODE j) = some x := by simp [took]
  have hlow : bits v 0 (18 : Fin 33).val = v % 2 ^ 18 := by rw [bits, pow_zero, Nat.div_one]; rfl
  unfold ixEffect
  simp only [hm, hj, List.map_cons, List.map_nil, hlow, htook, Option.getD_some, List.isEmpty_cons, Bool.false_eq_true, if_false]

/-- What a read of plain fields of a channel finds: what they hold, with no order due (R112). -/
theorem fieldsWord_pmu {s : State} (i : Initiator) {n : Nat} (hd : noneDue s (now s + 1)) {fs : List Fld}
    (hf : ∀ f ∈ fs, f.priv = false ∧ f.page = .oct ∧ f.space = 2) :
    fieldsWord s i n fs = (fs.map (fun f => 2 ^ f.lo * getF s f n)).sum := by
  unfold fieldsWord
  congr 1
  refine List.map_congr_left fun f hfm => ?_
  obtain ⟨hpriv, hpage, hspace⟩ := hf f hfm
  have hne (g : Fld) (hg : g.space = 0) : f ≠ g := fun e => by rw [← e, hspace] at hg; cases hg
  simp [hpriv, liveF, hpage, liveOct, hspace, hne (F.IX_CTRL_WPEND .oct) rfl, hne F.OCT_STATE_DIE_ISOLATED rfl,
    hne F.OCT_COND_CLAMPING rfl, pmuNowDue_of_noneDue hd]

/-- PMUCFG as it reads. -/
theorem fieldsWord_pmuCfg {s : State} (i : Initiator) {n j : Nat} (hd : noneDue s (now s + 1)) :
    fieldsWord s i n (ixFields .oct 2 (8 * j + 0)) = getF s (F.OCT_X2_PMUCFG_MODE j) n + 4 * getF s (F.OCT_X2_PMUCFG_IRANGE j) n +
      32 * getF s (F.OCT_X2_PMUCFG_PMUEN j) n + 64 * getF s (F.OCT_X2_PMUCFG_CONNECT j) n := by
  rw [ixFields_pmuCfg, fieldsWord_pmu i hd (by simp)]
  simp only [List.map_cons, List.map_nil, List.sum_cons, List.sum_nil]
  omega

/-- FORCE as it reads. -/
theorem fieldsWord_pmuForce {s : State} (i : Initiator) {n j : Nat} (hd : noneDue s (now s + 1)) :
    fieldsWord s i n (ixFields .oct 2 (8 * j + 1)) = getF s (F.OCT_X2_FORCE_CODE j) n := by
  rw [ixFields_pmuForce, fieldsWord_pmu i hd (by simp)]
  simp only [List.map_cons, List.map_nil, List.sum_cons, List.sum_nil]
  omega

end Sys2Proof.Machine
end

section
/-! MODE, IRANGE and FORCE.CODE written, MODE_RECONNECT and RANGE_CHANGE_COMPLETE (R105, R110, R111, R115). -/

namespace Sys2Proof.Machine

/-! The writes reach the unit. -/

theorem IxAside.of_cycle {s u : State} (h : IxAside (Machine.cycle s) u) : IxAside s u :=
  ⟨h.chans, h.pols, h.bdn, h.ports, h.otp, h.pwr, h.field⟩

/-- PMUCFG with MODE replaced. -/
theorem pmuCfg_setMode {m r e k x : Nat} (hm : m < 4) (hr : r < 8) (he : e < 2) (hk : k < 2) (hx : x < 4) :
    let v := setBits (m + 4 * r + 32 * e + 64 * k) 0 2 x
    v < 2 ^ 32 ∧ v % 4 = x ∧ v / 4 % 8 = r ∧ v / 32 % 2 = e ∧ v / 64 % 2 = k := by
  simp only [setBits, bits]
  omega

/-- PMUCFG with IRANGE replaced. -/
theorem pmuCfg_setRange {m r e k x : Nat} (hm : m < 4) (hr : r < 8) (he : e < 2) (hk : k < 2) (hx : x < 8) :
    let v := setBits (m + 4 * r + 32 * e + 64 * k) 2 3 x
    v < 2 ^ 32 ∧ v % 4 = m ∧ v / 4 % 8 = x ∧ v / 32 % 2 = e ∧ v / 64 % 2 = k := by
  simp only [setBits, bits]
  omega

/-- FORCE with its code replaced. -/
theorem pmuForce_set {w x : Nat} (hw : w < 2 ^ 18) (hx : x < 2 ^ 18) :
    setBits w 0 18 x < 2 ^ 32 ∧ setBits w 0 18 x % 2 ^ 18 = x := by
  simp only [setBits, bits]
  omega

theorem pmuen_lt (s : State) (c : Nat) : getF s (F.OCT_X2_PMUCFG_PMUEN (c % 8)) (c / 8) < 2 := Nat.mod_lt _ (Nat.two_pow_pos _)
theorem connect_lt (s : State) (c : Nat) : getF s (F.OCT_X2_PMUCFG_CONNECT (c % 8)) (c / 8) < 2 :=
  Nat.mod_lt _ (Nat.two_pow_pos _)

/-- CONNECT as one bit. -/
theorem connect_bit (s : State) (c : Nat) : (getF s (F.OCT_X2_PMUCFG_CONNECT (c % 8)) (c / 8) == 1) = pmuConn s c := by
  have h := connect_lt s c
  unfold pmuConn isSet
  generalize getF s _ _ = v at h
  interval_cases v <;> rfl

/-- PMUCFG of a channel as it reads before a write. -/
theorem fieldsWord_chan {s : State} (i : Initiator) (c : Nat) (hd : noneDue s (now s + 1)) :
    fieldsWord (cycle s) i (c / 8) (ixFields .oct 2 (8 * (c % 8) + 0)) = pmuMode s c + 4 * pmuRange s c +
      32 * getF s (F.OCT_X2_PMUCFG_PMUEN (c % 8)) (c / 8) + 64 * getF s (F.OCT_X2_PMUCFG_CONNECT (c % 8)) (c / 8) :=
  fieldsWord_pmuCfg (s := cycle s) i hd

section
variable {s : State} {i : Initiator} {ch : Fin 512} (hw : mayWrite s i .oct (ch.val / 8) 0x030 = true)
  (hw' : mayWrite s i .oct (ch.val / 8) 0x034 = true) (hp : postedOf s .oct (ch.val / 8) = []) (hd : noneDue s (now s + 1))
include hw hw' hp hd

/-- A word of the channel, written through IX_ADDR and IX_DATA. -/
theorem hostIx_chan {w v : Nat} (hwd : w < 8) (hv : v < 2 ^ 32) : ∃ u, IxAside s u ∧ noneDue u (now u + 1) ∧
    observer u i = false ∧ isSet u F.FLT_STATE_EMBANK 0 = false ∧ hostIx (cycle s) i .oct (ch.val / 8) 2 (8 * (ch.val % 8) + w) v =
      cycle (writeFields u i .oct (ch.val / 8) 2 (8 * (ch.val % 8) + w) v) := by
  obtain ⟨ho, he⟩ := mayWrite_ixAddr hw
  obtain ⟨u, hu, heq⟩ := hostIx_pmu (s := cycle s) (a := 8 * (ch.val % 8) + w) hw hw' hp (by omega) hv
  have hu := hu.of_cycle
  exact ⟨u, hu, hu.noneDue hd, (hu.observer i).trans ho, (hu.isSet _ _).trans he, heq⟩

/-- PMUCFG of the channel, written so that its fields read `m`, `r`, `e` and `k`. -/
theorem hostIx_pmuCfg {m r e k v : Nat} (hv : v < 2 ^ 32 ∧ v % 4 = m ∧ v / 4 % 8 = r ∧ v / 32 % 2 = e ∧ v / 64 % 2 = k) :
    ∃ u, IxAside s u ∧ hostIx (cycle s) i .oct (ch.val / 8) 2 (8 * (ch.val % 8) + 0) v =
      cycle (pmuCfgWrite u ch.val m r (e == 1) (k == 1)) := by
  obtain ⟨hlt, rfl, rfl, rfl, rfl⟩ := hv
  obtain ⟨u, hu, hdu, ho, he, heq⟩ := hostIx_chan hw hw' hp hd (w := 0) (by decide) hlt
  refine ⟨u, hu, heq.trans ?_⟩
  rw [writeFields_pmuCfg hdu ho he, Nat.div_add_mod]

theorem exec_pmuModeWrite (mode : BitVec 2) : ∃ u en, IxAside s u ∧ exec (.pmuModeWrite i ch mode) s =
    .next (cycle (pmuCfgWrite u ch.val mode.toNat (pmuRange s ch.val) en (pmuConn s ch.val))) := by
  obtain ⟨u, hu, heq⟩ := hostIx_pmuCfg hw hw' hp hd
    (pmuCfg_setMode (pmuMode_lt s ch.val) (pmuRange_lt s ch.val) (pmuen_lt s ch.val) (connect_lt s ch.val) mode.isLt)
  rw [← fieldsWord_chan i ch.val hd, connect_bit] at heq
  exact ⟨u, _, hu, congrArg Host.Outcome.next heq⟩

theorem exec_rangeChange (r : BitVec 3) : ∃ u en, IxAside s u ∧ exec (.rangeChange i ch r) s =
    .next (cycle (pmuCfgWrite u ch.val (pmuMode s ch.val) r.toNat en (pmuConn s ch.val))) := by
  obtain ⟨u, hu, heq⟩ := hostIx_pmuCfg hw hw' hp hd
    (pmuCfg_setRange (pmuMode_lt s ch.val) (pmuRange_lt s ch.val) (pmuen_lt s ch.val) (connect_lt s ch.val) r.isLt)
  rw [← fieldsWord_chan i ch.val hd, connect_bit] at heq
  exact ⟨u, _, hu, congrArg Host.Outcome.next heq⟩

theorem exec_pmuForceWrite (code : BitVec 18) : ∃ u, IxAside s u ∧ exec (.pmuForceWrite i ch code) s =
    .next (cycle (pmuForceSet u ch.val code.toNat)) := by
  have hv := pmuForce_set (pmuForce_lt s ch.val) code.isLt
  obtain ⟨u, hu, hdu, ho, he, heq⟩ := hostIx_chan hw hw' hp hd (w := 1) (by decide) hv.1
  rw [writeFields_pmuForce hdu ho he, Nat.div_add_mod, hv.2, show pmuForce s ch.val = _ from
    (fieldsWord_pmuForce (s := cycle s) i (n := ch.val / 8) (j := ch.val % 8) hd).symm] at heq
  exact ⟨u, hu, congrArg Host.Outcome.next heq⟩

end

/-! What the writes make of the channel. -/

section
variable {s : State} (hd : noneDue s (now s + 1)) {c mode range : Nat} (en : Bool)
include hd

/-- Off the pin, MODE and IRANGE take effect at once (R105, R110). -/
theorem pmuNow_pmuCfgWrite_off (hm : mode < 4) (hr : range < 8) : pmuNow (pmuCfgWrite s c mode range en false) c =
    { pmuNow s c with mode := mode, range := range, conn := false } := by
  rw [pmuCfgWrite_off hd, pmuNow_showOwner]
  exact pmuNow_takeNew rfl hm hr (pmuForce_lt s c)

/-- Another MODE of a connected unit: taken, and off the pin until MODE_RECONNECT (R105). -/
theorem pmuCfgWrite_mode_takes (hc : pmuConn s c = true) (hne : mode ≠ pmuMode s c) (hops : (chanOf s c).ops = []) (hm : mode < 4)
    (hr : range < 8) (hfit : newClaim s { pmuNow s c with mode := mode, range := range } ≤ getClaim s c) :
    pmuNow (pmuCfgWrite s c mode range en true) c = { pmuNow s c with mode := mode, range := range } ∧
      (chanOf (pmuCfgWrite s c mode range en true) c).reconnect = true := by
  rw [pmuCfgWrite_mode hd c mode range en hc hne hops hfit]
  constructor
  · rw [pmuNow_showOwner, pmuNow_leavePin]
    exact pmuNow_takeNew rfl hm hr (pmuForce_lt s c)
  · rw [showOwner_chan (φ := Chan.reconnect) (fun _ _ => rfl)]
    exact leavePin_reconnect ..

/-- Another IRANGE of a connected unit: taken, and under way until RANGE_CHANGE_COMPLETE (R110). -/
theorem pmuCfgWrite_range_takes (hc : pmuConn s c = true) (hne : range ≠ pmuRange s c) (hconv : (chanOf s c).conv = none)
    (hr : range < 8) (hfit : newClaim s { pmuNow s c with range := range } ≤ getClaim s c) :
    pmuNow (pmuCfgWrite s c (pmuMode s c) range en true) c = { pmuNow s c with range := range } ∧
      (chanOf (pmuCfgWrite s c (pmuMode s c) range en true) c).rangeOld = some (pmuRange s c, getClaim s c) := by
  rw [pmuCfgWrite_range hd c range en hc hconv hfit]
  constructor
  · rw [pmuNow_showOwner]
    exact pmuNow_takeNew rfl (pmuMode_lt s c) hr (pmuForce_lt s c)
  · have hnow := pmuNow_pmuEnSet (s := s) c en
    simp only [pmuNow, PmuNew.mk.injEq, true_and] at hnow
    obtain ⟨hm, hrange, hconn, -⟩ := hnow
    have hold := rangeOld_takeNew (s := pmuEnSet s c en) (n := { pmuNow s c with range := range }) (c := c) rfl hc (hconn.trans hc)
      hm.symm (fun e => hne (e.trans hrange))
    rw [hrange, getClaim_pmuEnSet] at hold
    rw [showOwner_chan (φ := Chan.rangeOld) (fun _ _ => rfl)]
    exact hold

/-- A code whose claim fits is taken (R115). -/
theorem pmuForceSet_takes {code : Nat} (hk : code < 2 ^ 18) (hfit : newClaim s { pmuNow s c with code := code } ≤ getClaim s c) :
    pmuNow (pmuForceSet s c code) c = { pmuNow s c with code := code } := by
  rw [pmuForceSet_fits hd c code hfit]
  exact pmuNow_takeNew rfl (pmuMode_lt s c) (pmuRange_lt s c) hk

end

/-! The commands (R105, R110, R115). -/

section
variable {s : State} {i : Initiator} {ch : Fin 512} (hw : mayWrite s i .oct (ch.val / 8) 0x030 = true)
  (hw' : mayWrite s i .oct (ch.val / 8) 0x034 = true) (hp : postedOf s .oct (ch.val / 8) = []) (hd : noneDue s (now s + 1))
include hw hw' hp hd

theorem pmuModeWrite_off (hc : pmuConn s ch.val = false) (mode : BitVec 2) : Completes (exec (.pmuModeWrite i ch mode) s) fun t =>
    pmuNow t ch.val = { pmuNow s ch.val with mode := mode.toNat } := by
  obtain ⟨u, en, hu, hex⟩ := exec_pmuModeWrite hw hw' hp hd mode
  refine ⟨_, hex, ?_⟩
  beta_reduce
  rw [hc, pmuNow_cycle, pmuNow_pmuCfgWrite_off (hu.noneDue hd) en mode.isLt (pmuRange_lt s _), hu.pmuNow, ← hc]
  rfl

theorem rangeChange_off (hc : pmuConn s ch.val = false) (r : BitVec 3) : Completes (exec (.rangeChange i ch r) s) fun t =>
    pmuNow t ch.val = { pmuNow s ch.val with range := r.toNat } := by
  obtain ⟨u, en, hu, hex⟩ := exec_rangeChange hw hw' hp hd r
  refine ⟨_, hex, ?_⟩
  beta_reduce
  rw [hc, pmuNow_cycle, pmuNow_pmuCfgWrite_off (hu.noneDue hd) en (pmuMode_lt s _) r.isLt, hu.pmuNow, ← hc]
  rfl

theorem pmuForceWrite_fits {code : BitVec 18} (hfit : newClaim s { pmuNow s ch.val with code := code.toNat } ≤ getClaim s ch.val) :
    Completes (exec (.pmuForceWrite i ch code) s) fun t => pmuNow t ch.val = { pmuNow s ch.val with code := code.toNat } := by
  obtain ⟨u, hu, hex⟩ := exec_pmuForceWrite hw hw' hp hd code
  refine ⟨_, hex, ?_⟩
  beta_reduce
  rw [pmuNow_cycle, pmuForceSet_takes (hu.noneDue hd) code.isLt (by rwa [hu.pmuNow, hu.newClaim, hu.getClaim]), hu.pmuNow]

theorem pmuModeWrite_on (hc : pmuConn s ch.val = true) (hops : (chanOf s ch.val).ops = []) {mode : BitVec 2}
    (hne : mode.toNat ≠ pmuMode s ch.val) (hfit : newClaim s { pmuNow s ch.val with mode := mode.toNat } ≤ getClaim s ch.val) :
    Completes (exec (.pmuModeWrite i ch mode) s) fun t =>
      pmuNow t ch.val = { pmuNow s ch.val with mode := mode.toNat } ∧ (chanOf t ch.val).reconnect = true := by
  obtain ⟨u, en, hu, hex⟩ := exec_pmuModeWrite hw hw' hp hd mode
  obtain ⟨hm, hr, hcu, -⟩ := hu.settings ch.val
  have htakes := pmuCfgWrite_mode_takes (hu.noneDue hd) (range := pmuRange s ch.val) en (hcu.trans hc) (fun e => hne (e.trans hm))
    (by rw [hu.chan, hops]) mode.isLt (pmuRange_lt s _) (by rw [hu.pmuNow, hu.newClaim, hu.getClaim]; exact hfit)
  rw [hu.pmuNow] at htakes
  rw [hc] at hex
  exact ⟨_, hex, htakes⟩

theorem rangeChange_on (hc : pmuConn s ch.val = true) (hconv : (chanOf s ch.val).conv = none) {r : BitVec 3}
    (hne : r.toNat ≠ pmuRange s ch.val) (hfit : newClaim s { pmuNow s ch.val with range := r.toNat } ≤ getClaim s ch.val) :
    Completes (exec (.rangeChange i ch r) s) fun t => pmuNow t ch.val = { pmuNow s ch.val with range := r.toNat } ∧
      (chanOf t ch.val).rangeOld = some (pmuRange s ch.val, getClaim s ch.val) := by
  obtain ⟨u, en, hu, hex⟩ := exec_rangeChange hw hw' hp hd r
  obtain ⟨hm, hr, hcu, -⟩ := hu.settings ch.val
  have htakes := pmuCfgWrite_range_takes (hu.noneDue hd) en (hcu.trans hc) (fun e => hne (e.trans hr))
    (by rw [hu.chan, hconv]) r.isLt (by rw [hu.pmuNow, hu.newClaim, hu.getClaim]; exact hfit)
  rw [hu.pmuNow, hu.getClaim, hm, hr] at htakes
  rw [hc] at hex
  exact ⟨_, hex, htakes⟩

end

/-! The delayed ends. -/

/-- MODE_RECONNECT of a unit whose claim fits (R105). -/
theorem exec_modeReconnect {s : State} {ch : Fin 512} (hd : noneDue s (now s + 1)) (hr : (chanOf s ch.val).reconnect = true)
    (hfit : newClaim s (pmuNow s ch.val) ≤ getClaim s ch.val) : exec (.modeReconnect ch) s =
      .next (takeNew (endReconnect (cycle s) ch.val) (pmuNow s ch.val)) := by
  show execModeReconnect ch s = _
  have hd' : pmuNowDue (cycle s) = cycle s := pmuNowDue_of_noneDue (s := cycle s) hd
  have hreq := request_fits (s := endReconnect (cycle s) ch.val) (n := pmuNow s ch.val) (owner (cycle s) (ch.val / 8)) (ch.val / 64)
    ((newClaim_endReconnect rfl).le.trans hfit)
  unfold endReconnect at hreq ⊢
  rw [chanOf_cycle] at hreq ⊢
  simp only [execModeReconnect, hd', chanOf_cycle, pmuNow_cycle, hr, hreq, if_true]

/-- R110, R111: a range change in progress completes. -/
theorem rangeDone_due {s : State} {c : Nat} {t : Stamp} {old : Nat × Nat} (hd : noneDue s t) (ho : (chanOf s c).rangeOld = some old) :
    rangeDone s c t = setClaim (setChan (reach s t) c { chanOf s c with
        rangeOld := none, waitConv := none
        conv := (chanOf s c).waitConv.elim (chanOf s c).conv (fun v => some { v with t0 := t }) }) c
      (claimOf (pmuMode s c) (pmuRange s c) (pmuForce s c) (pmuConn s c)) := by
  obtain ⟨hm, hr, hc, hf⟩ : pmuMode (reach s t) c = pmuMode s c ∧ pmuRange (reach s t) c = pmuRange s c ∧
      pmuConn (reach s t) c = pmuConn s c ∧ pmuForce (reach s t) c = pmuForce s c := by
    simpa [pmuNow] using pmuNow_reach s t c
  rw [← hm, ← hr, ← hc, ← hf]
  simp only [rangeDone, pmuDue_of_noneDue hd, ho, Option.isNone_some, Bool.false_eq_true, if_false]
  cases (chanOf s c).waitConv <;> rfl

theorem exec_rangeChangeComplete {s : State} {ch : Fin 512} {st : Stamp} {old : Nat × Nat} (hd : noneDue s st)
    (ho : (chanOf s ch.val).rangeOld = some old) : Completes (exec (.rangeChangeComplete ch st) s) fun t =>
      (chanOf t ch.val).rangeOld = none ∧ (chanOf t ch.val).waitConv = none ∧
      (chanOf t ch.val).conv = (chanOf s ch.val).waitConv.elim (chanOf s ch.val).conv (fun v => some { v with t0 := st }) ∧
      getClaim t ch.val = claimOf (pmuMode s ch.val) (pmuRange s ch.val) (pmuForce s ch.val) (pmuConn s ch.val) % 2 ^ 19 := by
  refine ⟨_, congrArg Host.Outcome.next (rangeDone_due (s := cycle s) hd ho), ?_⟩
  simp only [chanOf_setClaim, chanOf_setChan_same, getClaim_setClaim, chanOf_cycle, true_and]
  rfl

/-- Settles O29: the writes reach the unit by `exec_pmuModeWrite`, `exec_rangeChange` and `exec_pmuForceWrite`; what they make of the
channel is one lemma per case of CONNECT and of what changes, and each delayed end has its own. -/
theorem pmuSettings : Obligations.PmuSettings := by
  unfold Obligations.PmuSettings
  intro i ch mode r code st s c x z
  refine ⟨fun hw hw' hp _ hops hd => ⟨fun hoff => ?_, fun hon => ?_⟩, fun hrec _ hfit hd => ?_, fun old hold hd => ?_⟩
  · refine ⟨pmuModeWrite_off hw hw' hp hd hoff mode, rangeChange_off hw hw' hp hd hoff r, pmuForceWrite_fits hw hw' hp hd ?_⟩
    rw [newClaim_off hoff]
    exact Nat.zero_le _
  · exact ⟨fun hne hfit => pmuModeWrite_on hw hw' hp hd hon hops hne hfit,
      fun hne hconv hfit => rangeChange_on hw hw' hp hd hon hconv hne hfit, fun hfit => pmuForceWrite_fits hw hw' hp hd hfit⟩
  · refine ⟨_, exec_modeReconnect hd hrec hfit, ?_, ?_⟩
    · exact (reconnect_takeNew rfl).trans (endReconnect_reconnect ..)
    · exact pmuNow_takeNew rfl (pmuMode_lt s c) (pmuRange_lt s c) (pmuForce_lt s c)
  · obtain ⟨t, ht, hover, hwait, hconv, hclaim⟩ := exec_rangeChangeComplete hd hold
    refine ⟨t, ht, hover, hwait, fun hnone => ?_, fun v hv => ?_, hclaim⟩
    · rw [hconv, show (chanOf s ch.val).waitConv = none from hnone]; rfl
    · rw [hconv, show (chanOf s ch.val).waitConv = some v from hv]; rfl

end Sys2Proof.Machine
end

section
/-! The write of QPUSH_HI, which pushes an entry of a DAC queue (R131), and a push to a full queue (R134). -/

namespace Sys2Proof.Machine

/-! The register that pushes. -/

/-- The field whose write pushes an entry of a queue. -/
def pushFld : QId → Fld
  | .lvl _ => F.POL_LQPUSH_HI_E
  | .ds d => F.DSC_QPUSH_HI_E (d.val % 8)

/-- The number of the page of a queue among the pages of its kind. -/
def queueInst : QId → Nat
  | .lvl p => p.val
  | .ds d => d.val / 8

/-- Beyond the header all pages of supplies have the same registers (R33, R143). -/
theorem pageFields_dsc {off : Nat} (h : 0x040 ≤ off) (n : Nat) :
    pageFields .dsc n off = (F.dscRows n).filter (fun f => f.off == off) := by
  have hhdr : (F.hdr .dsc n).filter (fun f => f.off == off) = [] := by
    have hlow : ∀ f ∈ F.hdr .dsc n, f.off < 0x040 := by simp [F.hdr]
    rw [List.filter_eq_nil_iff]
    intro f hf
    have := hlow f hf
    simp only [beq_iff_eq]
    omega
  simp only [pageFields, pageRows, List.filter_append, hhdr, List.nil_append]

theorem pageFields_push (q : QId) (n : Nat) : pageFields (pushFld q).page n (pushFld q).off = [pushFld q] := by
  cases q with
  | lvl p => rfl
  | ds d =>
    have h : ∀ i < 8, (F.dscRows 0).filter (fun f => f.off == (F.DSC_QPUSH_HI_E i).off) = [F.DSC_QPUSH_HI_E i] := by decide +kernel
    exact (pageFields_dsc (Nat.le_add_right_of_le (Nat.le_add_right ..)) n).trans (h _ (Nat.mod_lt _ (by decide)))

theorem pushFld_attrs (q : QId) : custom (pushFld q) = false ∧ pmuReg (pushFld q).page (pushFld q).off = false ∧
    embankOk (pushFld q) = false ∧ 0x040 ≤ (pushFld q).off ∧ (pushFld q).ty = .rw ∧ (pushFld q).priv = false := by
  cases q with
  | lvl p => revert p; decide
  | ds d => revert d; decide

/-- No lock but that of Embankment mode covers a push (R41, R421). -/
theorem lockedF_push {s : State} (he : isSet s F.FLT_STATE_EMBANK 0 = false) (q : QId) (n : Nat) : lockedF s (pushFld q) n = false := by
  cases q <;> simp [lockedF, pushFld, he]

/-- What `mayWrite` says of the register that pushes. -/
theorem mayWrite_push {s : State} {i : Initiator} {q : QId} {n : Nat} (h : mayWrite s i (pushFld q).page n (pushFld q).off = true) :
    servedPage s (pushFld q).page n (pushFld q).off = .yes ∧ observer s i = false ∧ isSet s F.FLT_STATE_EMBANK 0 = false ∧
      runlockedF s (pushFld q) n = false := by
  obtain ⟨-, -, hemb, -, -, hpriv⟩ := pushFld_attrs q
  simpa [mayWrite, pageFields_push, hemb, hpriv, and_assoc] using h

/-- The state in which the high word of a push has been stored. -/
def pushStored (s : State) (q : QId) (v : Nat) : State := setF (cycle s) (pushFld q) (queueInst q) v

/-- The entry of the two words that stand in the push registers of a queue (R131). -/
def stagedEntry (s : State) : QId → BitVec 64
  | .lvl p => get64 s F.POL_LQPUSH_LO_E F.POL_LQPUSH_HI_E p.val
  | .ds d => get64 s (F.DSC_QPUSH_LO_E (d.val % 8)) (F.DSC_QPUSH_HI_E (d.val % 8)) (d.val / 8)

/-- What the write of the high word does once it is stored: the entry is pushed. -/
theorem pageWrite_push (s : State) (i : Initiator) (q : QId) (v : Nat) (old : Fld → Nat) :
    pageWrite s i (pushFld q).page (queueInst q) (pushFld q).off v [(pushFld q, v)] old =
      pushEntry s (QId.code q) (stagedEntry s q) := by
  cases q with
  | lvl p => simp [pageWrite, polWrite, pushFld, queueInst, QId.code, stagedEntry]
  | ds d =>
    have hoff : (F.DSC_QPUSH_HI_E (d.val % 8)).off = 0x048 + 0x40 * (d.val % 8) := by show 0x040 + _ + 0x08 = _; omega
    have hidx : (0x048 + 0x40 * (d.val % 8) - 0x040) / 0x40 = d.val % 8 := by omega
    have hcode : 64 + 8 * (d.val / 8) + d.val % 8 = 64 + d.val := by omega
    show dscWrite _ _ _ _ = _
    simp only [dscWrite, pushFld, queueInst, hoff, hidx, QId.code, hcode, stagedEntry]
    rw [if_pos (by simp [tookAny, took]; omega)]

/-- The write of the high word, where nothing refuses it, pushes the entry of both words (R131). -/
theorem hostWrite_push {s : State} {i : Initiator} {q : QId} (hi : Word)
    (h : mayWrite s i (pushFld q).page (queueInst q) (pushFld q).off = true) :
    hostWrite (cycle s) i (pushFld q).page (queueInst q) (pushFld q).off hi.toNat =
      pushEntry (pushStored s q hi.toNat) (QId.code q) (stagedEntry (pushStored s q hi.toNat) q) := by
  obtain ⟨hserved, hobs, hemb, hrun⟩ := mayWrite_push h
  obtain ⟨hcus, hpmu, -, hoff, hrw, hpriv⟩ := pushFld_attrs q
  have hrun' : runlockedF (cycle s) (pushFld q) (queueInst q) = false := hrun
  have hhdr : (pushFld q).off ≠ (F.FORCE (pushFld q).page).off := by show _ ≠ 0x024; omega
  have hbits : bits hi.toNat (pushFld q).lo (pushFld q).w.val = hi.toNat := by
    cases q <;> exact (congrArg (· % 2 ^ 32) (Nat.div_one _)).trans (Nat.mod_eq_of_lt hi.isLt)
  have hj (mixed : Bool) (v : Nat) : judge (cycle s) i (pushFld q) (queueInst q) false mixed v = { ok := some v } :=
    judge_rw hrw hpriv (.inl hhdr) hobs (lockedF_push (s := cycle s) hemb q _) mixed v
  have hhead (t : State) (m f : Nat) (acc : List (Fld × Nat)) :
      headWrite t (pushFld q).page (queueInst q) (pushFld q).off m f acc = t := by
    simp [headWrite, hhdr, show (pushFld q).off ≠ 0x018 by omega, show (pushFld q).off ≠ 0x01C by omega]
  unfold hostWrite pageWriteReq
  rw [show servedPage (cycle s) (pushFld q).page (queueInst q) (pushFld q).off = .yes from hserved,
    ← pageWrite_push (pushStored s q hi.toNat) i q hi.toNat (fun f => getF (cycle s) f (queueInst q))]
  show writeReg .. = _
  simp only [writeReg, show (pushFld q).off ≠ 0x034 by omega, show (pushFld q).off ≠ 0x030 by omega, hpmu, pageFields_push, hrun', hj,
    hhead, hbits, List.map_cons, List.map_nil, show ¬ (pushFld q).off < 0x040 by omega, decide_false, Bool.false_and, false_and, if_false,
    Bool.false_eq_true]
  simp [storeF, hrw, hcus, refuse, firstReason, pushStored]

theorem exec_queuePush {s : State} {i : Initiator} {q : QId} (hi : Word)
    (h : mayWrite s i (pushFld q).page (queueInst q) (pushFld q).off = true) : exec (.queuePush i q hi) s =
      .next (pushEntry (pushStored s q hi.toNat) (QId.code q) (stagedEntry (pushStored s q hi.toNat) q)) := by
  rw [← hostWrite_push hi h]
  cases q with
  | lvl p => rfl
  | ds d =>
    have hoff : 0x048 + 0x40 * (d.val % 8) = (pushFld (.ds d)).off := by show _ = 0x040 + _ + 0x08; omega
    show Host.Outcome.next (hostWrite _ _ _ _ (0x048 + 0x40 * (d.val % 8)) _) = _
    rw [hoff]
    rfl

/-! An event leaves the queues. -/

theorem raise_queues (s : State) (p : Page) (n b : Nat) : (raise s p n b).queues = s.queues := by
  obtain ⟨-, -, h, -⟩ := raise_parts s p n b
  exact h

theorem queueOf_raise (s : State) (p : Page) (n b k : Nat) : queueOf (raise s p n b) k = queueOf s k := by
  unfold queueOf
  rw [raise_queues]

/-! A full queue. -/

/-- The counter of the pushes that a full queue discards, and its event (R134). -/
def ovfFld : QId → Fld
  | .lvl _ => F.POL_LQOVF_N
  | .ds d => F.DSC_QOVF_N (d.val % 8)

def ovfBit : QId → Nat
  | .lvl _ => E.POL_LQ_OVF
  | .ds d => E.DSC_OVF (d.val % 8)

theorem ovf_attrs (q : QId) : (ovfFld q).tag ≠ (F.EVT (ovfFld q).page).tag ∧ (ovfFld q).tag ≠ (F.EVT_SEQ (ovfFld q).page).tag ∧
    (ovfFld q).tag ≠ (pushFld q).tag ∧ ovfBit q < 32 := by
  cases q with
  | lvl p => revert p; decide
  | ds d => revert d; decide

theorem pushEntry_full {s : State} {q : QId} (e : BitVec 64) (hlive : queueLive s (QId.code q) = true)
    (hfull : 256 ≤ (queueOf s (QId.code q)).entries.length) : pushEntry s (QId.code q) e =
      raise (addCt s (ovfFld q) (queueInst q) 1) (ovfFld q).page (queueInst q) (ovfBit q) := by
  cases q <;> simp_all [pushEntry, QId.code, isLvl, ovfFld, queueInst, ovfBit]

/-- A full queue discards an entry: its counter counts and its event is set (R134). -/
theorem pushEntry_full_discards {s u : State} {q : QId} {extra : List (Fld × Nat)} (e : BitVec 64)
    (hlive : queueLive u (QId.code q) = true) (hfull : 256 ≤ (queueOf u (QId.code q)).entries.length) (hqueues : u.queues = s.queues)
    (hcount : getF u (ovfFld q) (queueInst q) = getF s (ovfFld q) (queueInst q)) (hsame : SameBut extra s u) :
    let t := pushEntry u (QId.code q) e
    queueOf t (QId.code q) = queueOf s (QId.code q) ∧
      getF t (ovfFld q) (queueInst q) = min (getF s (ovfFld q) (queueInst q) + 1) (2 ^ (ovfFld q).w.val - 1) ∧
      (getF t (F.EVT (ovfFld q).page) (queueInst q)).testBit (ovfBit q) = true ∧
      SameBut (extra ++ [(ovfFld q, queueInst q), (F.EVT (ovfFld q).page, queueInst q), (F.EVT_SEQ (ovfFld q).page, queueInst q)]) s t := by
  obtain ⟨hevt, hseq, -, hbit⟩ := ovf_attrs q
  rw [pushEntry_full e hlive hfull]
  refine ⟨?_, ?_, evt_raise _ _ _ _ hbit, ?_⟩
  · rw [queueOf_raise]
    exact congrArg (fun x => Store.get x {} (QId.code q)) hqueues
  · rw [getF_raise _ _ _ _ _ _ hevt hseq, getF_addCt_same, hcount]
  · exact ((hsame.mono (by simp +contextual)).setF _ _ _ (by simp)).raise _ _ _ (by simp) (by simp)

/-- Storing the high word leaves a queue live or not (R139). -/
theorem queueLive_pushStored (s : State) (q : QId) (v : Nat) :
    queueLive (pushStored s q v) (QId.code q) = queueLive s (QId.code q) := by
  have keeps {f : Fld} (n : Nat) (h : f.tag ≠ (pushFld q).tag) : getF (pushStored s q v) f n = getF s f n := getF_setF_tag _ _ _ _ h
  cases q with
  | lvl p =>
    have hrs : rsOf (pushStored s (.lvl p) v) p.val = rsOf s p.val := rsOf_congr (keeps _ (show _ ≠ F.POL_LQPUSH_HI_E.tag by decide))
    simp only [queueLive, QId.code, isLvl, p.isLt, decide_true, if_true, hrs]
  | ds d =>
    have hne : ∀ i < 8, (F.DSC_QSTAT_OWNED i).tag ≠ (F.DSC_QPUSH_HI_E i).tag ∧
        (F.DSC_QSTAT_OWNER i).tag ≠ (F.DSC_QPUSH_HI_E i).tag := by decide
    obtain ⟨howned, howner⟩ := hne _ (Nat.mod_lt d.val (by decide))
    simp only [queueLive, QId.code, isLvl, dsOwner, isSet, Nat.add_sub_cancel_left, keeps _ howned, keeps _ howner,
      show ¬ 64 + d.val < 64 by omega, decide_false, Bool.false_eq_true, if_false]

/-- Settles O33: what a full queue does with an entry is `pushEntry_full_discards`, and the write of the high word is that push by
`exec_queuePush`. -/
theorem fullQueueDiscards : Obligations.FullQueueDiscards := by
  unfold Obligations.FullQueueDiscards
  intro i q e hi s k ovf push bit pg discards hlive hfull
  obtain ⟨-, -, hpush, -⟩ := ovf_attrs q
  have hovf : ovf = (ovfFld q, queueInst q) := by cases q <;> rfl
  have hp : push = (pushFld q, queueInst q) := by cases q <;> rfl
  have hb : bit = ovfBit q := by cases q <;> rfl
  simp only [discards, pg, hovf, hb, hp]
  refine ⟨pushEntry_full_discards e hlive hfull rfl rfl (SameBut.refl _ _), fun hmay => ⟨_, exec_queuePush hi hmay, ?_⟩⟩
  refine pushEntry_full_discards _ ?_ hfull rfl (getF_setF_tag _ _ _ _ hpush) ((SameBut.refl _ _).setF _ _ _ (by simp))
  exact (queueLive_pushStored ..).trans hlive

end Sys2Proof.Machine
end

section
/-! What a level queue does beside the levels it applies: compares that its change of levels decides (R88), the gain switch (R135), mute
timers (R306), the fields that show the queue. -/

namespace Sys2Proof.Machine

/-- A key that has been put reads the value put, or as unlisted where that was its default. -/
theorem Store.get_put_key {α : Type} [DecidableEq α] (m : Store α) (d d' : α) (k : Nat) (v : α) :
    Store.get (Store.put m d k v) d' k = if v = d then d' else v := by
  unfold Store.put
  split
  · exact Store.get_del_same ..
  · exact Store.get_ins_same _ _ _ _ fun e he => (Store.mem_del m k e he).2

/-- The fields of a polder page that a failing compare and the show of a queue write. -/
def failFlds : List Fld := [F.EVT .pol, F.EVT_SEQ .pol, F.POL_FAILCNT_N, F.POL_FAILVEC_N, F.POL_FF_INFO_VALID, F.POL_FF_INFO_NCH,
  F.POL_FF_INFO_TCH, F.POL_FF_VWI_LO_VWI, F.POL_FF_VWI_HI_VWI, F.POL_FF_VWI_HI_VEC, F.POL_FF_STAMP_LO_T, F.POL_FF_STAMP_HI_T,
  F.POL_LQSTAT_FILL, F.POL_LQSTAT_GAINSW]

/-- A field that neither a failing compare nor the show of a queue writes. -/
structure Calm (f : Fld) : Prop where
  evr : f.page ≠ .evr
  seq : f.page ≠ .seq
  mce : f.page ≠ .mce
  dsc : f.page ≠ .dsc
  fail : ∀ g ∈ failFlds, f.tag ≠ g.tag
  chfail : ∀ i < 8, f.tag ≠ (F.OCT_CHFAIL_N i).tag

theorem Fld.tag_page (f : Fld) : f.tag % 32 = f.page.code := by
  rw [← f.key_tag 0, Nat.mod_mod_of_dvd _ (by decide), f.key_page]

theorem tag_ne_of_page {f g : Fld} (h : f.page ≠ g.page) : f.tag ≠ g.tag := fun e =>
  h (page_code_inj (by rw [← f.tag_page, ← g.tag_page, e]))

/-- A field of an octet page other than CHFAIL. -/
theorem calm_oct {f : Fld} (hp : f.page = .oct) (h : ∀ i < 8, f.tag ≠ (F.OCT_CHFAIL_N i).tag) : Calm f where
  evr := by rw [hp]; decide
  seq := by rw [hp]; decide
  mce := by rw [hp]; decide
  dsc := by rw [hp]; decide
  fail g hg := tag_ne_of_page (by rw [hp]; revert g; decide)
  chfail := h

theorem queueOf_putQueue (s : State) (q : Nat) (x : DacQ) (k : Nat) : queueOf (putQueue s q x) k = queueOf (setQueue s q x) k := by
  unfold putQueue
  split <;> rfl

theorem getF_putQueue_calm (s : State) (q : Nat) (x : DacQ) {f : Fld} (n : Nat) (hf : Calm f) :
    getF (putQueue s q x) f n = getF s f n := by
  have hds (i : Nat) : f.tag ≠ (F.DSC_QSTAT_FILL i).tag := tag_ne_of_page hf.dsc
  have hfill := hf.fail F.POL_LQSTAT_FILL (by decide)
  have hgain := hf.fail F.POL_LQSTAT_GAINSW (by decide)
  unfold putQueue
  split
  · rw [getF_setF_tag _ _ _ _ hgain, getF_setF_tag _ _ _ _ hfill]
    rfl
  · rw [getF_setF_tag _ _ _ _ (hds _)]
    rfl

/-- `t` agrees with `s` on the fields that are calm, on the operation errors of the level queues and on CONT of every queue. -/
structure LevelAside (s t : State) : Prop where
  field : ∀ f n, Calm f → getF t f n = getF s f n
  operr : ∀ p, (getF t (F.EVT .pol) p).testBit E.POL_LQ_OPERR = (getF s (F.EVT .pol) p).testBit E.POL_LQ_OPERR
  cont : ∀ q, (queueOf t q).cont = (queueOf s q).cont

namespace LevelAside

theorem of_regs {s t : State} (hr : t.regs = s.regs) (hq : t.queues = s.queues) : LevelAside s t where
  field f n _ := by unfold getF; rw [hr]
  operr p := by unfold getF; rw [hr]
  cont q := by unfold queueOf; rw [hq]

theorem refl (s : State) : LevelAside s s := of_regs rfl rfl

theorem of_eq {s t : State} (h : t = s) : LevelAside s t := h ▸ refl s

theorem trans {s t u : State} (h : LevelAside s t) (g : LevelAside t u) : LevelAside s u where
  field f n hf := (g.field f n hf).trans (h.field f n hf)
  operr p := (g.operr p).trans (h.operr p)
  cont q := (g.cont q).trans (h.cont q)

theorem forAll {f : State → Nat → State} (hf : ∀ s c, LevelAside s (f s c)) (l : List Nat) (s : State) :
    LevelAside s (forAll l s f) := by
  unfold Machine.forAll
  induction l generalizing s with
  | nil => exact refl s
  | cons c l ih => exact (hf s c).trans (ih (f s c))

/-! Fields. -/

theorem setF (s : State) (g : Fld) (n v : Nat) (hcalm : ∀ f, Calm f → f.tag ≠ g.tag) (hevt : (F.EVT .pol).tag ≠ g.tag) :
    LevelAside s (setF s g n v) where
  field f m hf := getF_setF_tag _ _ _ _ (hcalm f hf)
  operr p := by rw [getF_setF_tag _ _ _ _ hevt]
  cont q := rfl

theorem setFail (s : State) {g : Fld} (n v : Nat) (hg : g ∈ failFlds) (hevt : (F.EVT .pol).tag ≠ g.tag) :
    LevelAside s (Machine.setF s g n v) := setF s g n v (fun _ hf => hf.fail g hg) hevt

theorem setShared (s : State) {g : Fld} (n v : Nat) (hg : g.page = .seq ∨ g.page = .mce ∨ g.page = .dsc) :
    LevelAside s (Machine.setF s g n v) :=
  setF s g n v (fun _ hf => tag_ne_of_page (by rcases hg with e | e | e <;> rw [e] <;> [exact hf.seq; exact hf.mce; exact hf.dsc]))
    (tag_ne_of_page (by rcases hg with e | e | e <;> rw [e] <;> decide))

theorem raise (s : State) (p b : Nat) (hb : E.POL_LQ_OPERR ≠ b) : LevelAside s (raise s .pol p b) where
  field f m hf := getF_raise _ _ _ _ _ _ (hf.fail _ (by simp [failFlds])) (hf.fail _ (by simp [failFlds]))
  operr q := evt_raise_other _ _ _ _ (by decide) hb
  cont q := by rw [queueOf_raise]

/-- The same write of one field on both sides. -/
theorem setSame {s t : State} (h : LevelAside s t) (g : Fld) (n v : Nat) (hevt : (F.EVT .pol).tag ≠ g.tag) :
    LevelAside (Machine.setF s g n v) (Machine.setF t g n v) where
  field f m hf := by
    by_cases hk : f.key m = g.key n
    · simp only [getF, Machine.setF, hk, Store.get_put_key]
    · rw [getF_setF_ne _ _ hk, getF_setF_ne _ _ hk, h.field f m hf]
  operr p := by rw [getF_setF_tag _ _ _ _ hevt, getF_setF_tag _ _ _ _ hevt, h.operr]
  cont := h.cont

/-! Compares that fail (R91 to R95, R202). -/

theorem dieEvent_queues (s : State) (e : Ev) : (dieEvent s e).queues = s.queues := by
  have hite (c : Prop) [Decidable c] (a b : State) : (if c then a else b).queues = if c then a.queues else b.queues :=
    apply_ite State.queues c a b
  have hcorrect (u : State) (src : Nat) (t : Stamp) : (correct u src t).queues = u.queues := by
    unfold correct
    split <;> rfl
  have huncorrect (u : State) (src : Nat) (t : Stamp) : (uncorrect u src t).queues = u.queues := by
    unfold uncorrect
    split
    · split <;> rfl
    · rfl
  have hraise (u : State) (n b : Nat) : (Machine.raise u .evr n b).queues = u.queues := raise_queues ..
  have hcount (u : State) (g : Fld) : (addCt u g 0 1).queues = u.queues := rfl
  have hlive (u : State) (src : Nat) (v : Bool) : (setLive u src v).queues = u.queues := rfl
  have hforward (u : State) : (forwardEv u e).queues = u.queues := rfl
  unfold Machine.dieEvent
  simp only [hite, hcorrect, huncorrect, hraise, hcount, hlive, hforward, ite_self]

theorem dieEvent (s : State) (e : Ev) : LevelAside s (dieEvent s e) where
  field f m hf := dieEvent_page _ _ hf.evr
  operr p := by rw [dieEvent_page _ _ (by decide)]
  cont q := by unfold queueOf; rw [dieEvent_queues]

theorem setB (s : State) (b : Nat) {x y : Fld} (v : Nat) (hx : x.page = .seq) (hy : y.page = .mce) : LevelAside s (setB s b x y v) := by
  unfold Machine.setB
  split
  · exact setShared _ _ _ (.inl hx)
  · exact setShared _ _ _ (.inr (.inl hy))

theorem failLatch (s : State) (p : Nat) : LevelAside s (failLatch s p) := by
  unfold Machine.failLatch
  split
  · exact refl s
  · next b _ =>
    split
    · exact refl s
    · extract_lets x fm s1
      have h1 : LevelAside s s1 := (of_regs rfl rfl : LevelAside s (setBnd s b _)).trans (setB _ b 1 rfl rfl)
      split
      · exact h1.trans (setB _ b 1 rfl rfl)
      · exact h1

theorem firstFail (s : State) (p : Nat) (r : VecRef) (t : Nat) : LevelAside s (firstFail s p r t) := by
  have set (u : State) (g : Fld) (v : Nat) (hg : g ∈ failFlds ∧ (F.EVT .pol).tag ≠ g.tag) : LevelAside u (Machine.setF u g p v) :=
    setFail u p v hg.1 hg.2
  unfold Machine.firstFail
  split
  · split
    · exact (set s F.POL_FF_INFO_NCH _ (by decide)).trans (set _ F.POL_FF_INFO_TCH _ (by decide))
    · exact refl s
  · extract_lets s1 s2 s3
    have h1 : LevelAside s s1 := (set s F.POL_FF_VWI_LO_VWI _ (by decide)).trans (set _ F.POL_FF_VWI_HI_VWI _ (by decide))
    have h2 : LevelAside s1 s2 := (set s1 F.POL_FF_VWI_HI_VEC _ (by decide)).trans (set _ F.POL_FF_INFO_NCH _ (by decide))
    have h3 : LevelAside s2 s3 := (set s2 F.POL_FF_INFO_TCH _ (by decide)).trans (set _ F.POL_FF_INFO_VALID _ (by decide))
    have h4 : LevelAside s3 (set64 s3 F.POL_FF_STAMP_LO_T F.POL_FF_STAMP_HI_T p r.start) :=
      (set s3 F.POL_FF_STAMP_LO_T _ (by decide)).trans (set _ F.POL_FF_STAMP_HI_T _ (by decide))
    exact ((h1.trans h2).trans (h3.trans h4)).trans (raise _ p _ (by decide))

theorem failCount (s : State) (p c : Nat) (r : VecRef) (tc : Nat) (t : Stamp) : LevelAside s (failAt.failCount s p c r tc t) := by
  unfold failAt.failCount
  extract_lets s1 s2 d s3
  have hch : LevelAside s (addCt s (F.OCT_CHFAIL_N (c % 8)) (c / 8) 1) :=
    setF _ _ _ _ (fun _ hf => hf.chfail _ (Nat.mod_lt _ (by decide))) 
      (tag_ne_of_page (show Page.pol ≠ Page.oct by decide))
  have h1 : LevelAside s s1 := hch.trans (setFail _ (g := F.POL_FAILCNT_N) _ _ (by decide) (by decide))
  have h2 : LevelAside s1 s2 := firstFail ..
  have h3 : LevelAside s2 s3 := by
    simp only [s3]
    split
    · exact refl _
    · exact dieEvent ..
  exact (h1.trans h2).trans (h3.trans (failLatch ..))

theorem sofReached (s : State) (p : Nat) : LevelAside s (sofReached s p) := by
  unfold Machine.sofReached
  extract_lets m
  split
  · exact of_regs rfl rfl
  · exact refl s

theorem failAt (s : State) (c : Nat) (r : VecRef) (t : Stamp) : LevelAside s (failAt s c r t) := by
  have hpol (u : State) (p : Nat) (x : Pol) : LevelAside u (setPol u p x) := of_regs rfl rfl
  unfold Machine.failAt
  split
  · exact refl s
  · next p _ =>
    extract_lets tc x seen
    clear_value seen
    split
    · split
      · exact refl s
      · exact (hpol ..).trans (failCount ..)
    · refine trans ?_ (sofReached ..)
      refine trans ?_ (setFail _ p _ (by decide) (by decide))
      exact trans (hpol ..) (failCount ..)

theorem winFail (s : State) (c : Nat) (w : Win) (t : Stamp) : LevelAside s (winFail s c w t) :=
  (of_regs rfl rfl : LevelAside s (setChan s c _)).trans (failAt ..)

theorem settleViol (s : State) (c : Nat) (t : Stamp) : LevelAside s (settleViol s c t) := by
  unfold Machine.settleViol
  split
  · exact refl s
  · next w _ =>
    extract_lets e clear f
    have hclear (u : State) : LevelAside u (clear u) := of_regs rfl rfl
    split
    · exact winFail ..
    · split
      · exact refl s
      · split
        · exact hclear s
        · split
          · exact winFail ..
          · have hfree : LevelAside s (freeB s).2 := of_regs rfl rfl
            split
            · exact hfree.trans (winFail ..)
            · exact hfree.trans (hclear _)

theorem midBroken (s : State) (c : Nat) (t : Stamp) : LevelAside s (midBroken s c t) := by
  unfold Machine.midBroken
  split
  · split
    · unfold winBroken
      split
      · exact refl s
      · split
        · exact winFail ..
        · split
          · exact refl s
          · exact of_regs rfl rfl
    · exact refl s
  · exact refl s

/-! The queue and the timers. -/

theorem putQueue (s : State) (q : Nat) (x : DacQ) (hx : x.cont = (queueOf s q).cont) : LevelAside s (putQueue s q x) where
  field f n hf := getF_putQueue_calm s q x n hf
  operr p := by rw [putQueue_own (.inr (.inr (.inl rfl)))]
  cont k := by
    rw [queueOf_putQueue]
    by_cases hk : k = q
    · rw [hk, queueOf_setQueue_same, hx]
    · rw [queueOf_setQueue_ne _ _ hk]

theorem gainSwitch (s : State) (q : Nat) (sw : Bool) : LevelAside s (gainSwitch s q sw) := by
  unfold Machine.gainSwitch
  split
  · exact putQueue s q _ rfl
  · exact refl s

theorem levelOp (s : State) (q : Nat) (cs : List Nat) (f : State → Nat → State) :
    LevelAside (Machine.forAll cs s f) (levelOp s q cs f) := gainSwitch ..

theorem levelMute (s : State) (q : Nat) (lsw : Bool) (t : Stamp) : LevelAside s (levelMute s q lsw t) := by
  refine forAll (fun u k => ?_) _ s
  split
  · unfold muteStart
    extract_lets len x c op
    split
    · exact refl u
    · split <;> exact of_regs rfl rfl
  · exact refl u

end LevelAside

end Sys2Proof.Machine
end

section
/-! The levels of a channel under the operations that write them (R122). -/

namespace Sys2Proof.Machine

/-- What DAC `d` of channel `c` applies. -/
def appliedOf (s : State) (c d : Nat) : Nat × Bool :=
  (getF s (F.OCT_X4_APPLIED_CODE (c % 8) d) (c / 8), isSet s (F.OCT_X4_APPLIED_G (c % 8) d) (c / 8))

/-- What level set `l` holds for DAC `d` of channel `c`. -/
def lsetOf (s : State) (l c d : Nat) : Nat × Bool :=
  (getF s (F.OCT_X3_LSET_CODE (c % 8) l d) (c / 8), isSet s (F.OCT_X3_LSET_G (c % 8) l d) (c / 8))

theorem calm_applied (c : Nat) {d : Nat} (hd : d < 7) :
    Calm (F.OCT_X4_APPLIED_CODE (c % 8) d) ∧ Calm (F.OCT_X4_APPLIED_G (c % 8) d) := by
  constructor <;> exact calm_oct rfl fun i hi => by simp only [Fld.tag, fldKey, Page.code]; omega

theorem calm_lset (c : Nat) {l d : Nat} (hl : l < 16) (hd : d < 7) :
    Calm (F.OCT_X3_LSET_CODE (c % 8) l d) ∧ Calm (F.OCT_X3_LSET_G (c % 8) l d) := by
  constructor <;> exact calm_oct rfl fun i hi => by simp only [Fld.tag, fldKey, Page.code]; omega

theorem appliedOf_congr {s u : State} (h : ∀ f n, Calm f → getF u f n = getF s f n) (c : Nat) {d : Nat} (hd : d < 7) :
    appliedOf u c d = appliedOf s c d := by
  obtain ⟨hcode, hg⟩ := calm_applied c hd
  simp only [appliedOf, isSet, h _ _ hcode, h _ _ hg]

theorem appliedOf_of_oct {s u : State} (h : ∀ f n, f.page = .oct → getF u f n = getF s f n) (c d : Nat) :
    appliedOf u c d = appliedOf s c d := by
  simp only [appliedOf, isSet, h (F.OCT_X4_APPLIED_CODE (c % 8) d) _ rfl, h (F.OCT_X4_APPLIED_G (c % 8) d) _ rfl]

theorem lsetOf_congr {s u : State} (h : ∀ f n, Calm f → getF u f n = getF s f n) (c : Nat) {l d : Nat} (hl : l < 16) (hd : d < 7) :
    lsetOf u l c d = lsetOf s l c d := by
  obtain ⟨hcode, hg⟩ := calm_lset c hl hd
  simp only [lsetOf, isSet, h _ _ hcode, h _ _ hg]

/-! One DAC. -/

theorem appliedOf_applyDac (s : State) (c c' code : Nat) {d d' : Nat} (g : Bool) (hd : d < 7) (hd' : d' < 7) :
    appliedOf (applyDac s c d code g) c' d' = if c' = c ∧ d' = d then (code % 65536, g) else appliedOf s c' d' := by
  have hcg : (F.OCT_X4_APPLIED_CODE (c' % 8) d').tag ≠ (F.OCT_X4_APPLIED_G (c % 8) d).tag := by
    simp only [Fld.tag, fldKey, Page.code]; omega
  have hgc : (F.OCT_X4_APPLIED_G (c' % 8) d').tag ≠ (F.OCT_X4_APPLIED_CODE (c % 8) d).tag := by
    simp only [Fld.tag, fldKey, Page.code]; omega
  unfold applyDac appliedOf isSet
  rw [getF_setF_tag _ _ _ _ hcg]
  split
  · next h =>
    obtain ⟨rfl, rfl⟩ := h
    rw [getF_setF_same, getF_setF_same]
    cases g <;> rfl
  · next h =>
    rw [getF_setF_ne, getF_setF_ne, getF_setF_tag _ _ _ _ hgc] <;> simp only [Fld.key, fldKey, Page.code] <;> omega

theorem getF_applyDac_lset (s : State) (c code : Nat) {d : Nat} (g : Bool) (hd : d < 7) (c' n : Nat) {l d' : Nat} (hl : l < 16)
    (hd' : d' < 7) :
    getF (applyDac s c d code g) (F.OCT_X3_LSET_CODE (c' % 8) l d') n = getF s (F.OCT_X3_LSET_CODE (c' % 8) l d') n ∧
      getF (applyDac s c d code g) (F.OCT_X3_LSET_G (c' % 8) l d') n = getF s (F.OCT_X3_LSET_G (c' % 8) l d') n := by
  unfold applyDac
  constructor <;> rw [getF_setF_tag, getF_setF_tag] <;> simp only [Fld.tag, fldKey, Page.code] <;> omega

theorem lsetOf_applyDac (s : State) (c code : Nat) {d : Nat} (g : Bool) (hd : d < 7) (c' : Nat) {l d' : Nat} (hl : l < 16)
    (hd' : d' < 7) : lsetOf (applyDac s c d code g) l c' d' = lsetOf s l c' d' := by
  obtain ⟨hcode, hg⟩ := getF_applyDac_lset s c code g hd c' (c' / 8) hl hd'
  simp only [lsetOf, isSet, hcode, hg]

/-! Over the channels of an entry. -/

/-- DAC `d` of channels `cs` takes a code and a gain. -/
def dacTaken (s : State) (cs : List Nat) (d code : Nat) (g : Bool) : State := forAll cs s (fun s c => applyDac s c d code g)

/-- Channels `cs` of polder `p` take level set `l`, which LSAPPLIED shows. -/
def lsetTaken (s : State) (p : Nat) (cs : List Nat) (l : Nat) : State :=
  setF (forAll cs s (fun s c => applyLset s l c)) F.POL_LQSTAT_LSAPPLIED p l

theorem appliedOf_dacTaken (l : List Nat) (s : State) (c' code : Nat) {d d' : Nat} (g : Bool) (hd : d < 7) (hd' : d' < 7) :
    appliedOf (dacTaken s l d code g) c' d' = if c' ∈ l ∧ d' = d then (code % 65536, g) else appliedOf s c' d' := by
  unfold dacTaken forAll
  induction l generalizing s with
  | nil => simp
  | cons c l ih =>
    rw [List.foldl_cons, ih, appliedOf_applyDac _ _ _ _ _ hd hd']
    by_cases hc : c' = c <;> by_cases hm : c' ∈ l <;> by_cases hdd : d' = d <;> simp [hc, hm, hdd]

/-- What a level set gives a channel, DAC by DAC. -/
theorem appliedOf_forAll_lset (ds : List Nat) (hds : ∀ d ∈ ds, d < 7) (s : State) (c c' : Nat) {l d' : Nat} (hl : l < 16)
    (hd' : d' < 7) : appliedOf (forAll ds s (fun s d => applyDac s c d (lsetOf s l c d).1 (lsetOf s l c d).2)) c' d' =
      if c' = c ∧ d' ∈ ds then lsetOf s l c' d' else appliedOf s c' d' := by
  unfold forAll
  induction ds generalizing s with
  | nil => simp
  | cons d ds ih =>
    have hd : d < 7 := hds d List.mem_cons_self
    have hcode : (lsetOf s l c d).1 % 65536 = (lsetOf s l c d).1 := Nat.mod_eq_of_lt (Nat.mod_lt _ (Nat.two_pow_pos _))
    rw [List.foldl_cons, ih (fun x hx => hds x (List.mem_cons_of_mem _ hx)), appliedOf_applyDac _ _ _ _ _ hd hd',
      lsetOf_applyDac _ _ _ _ hd _ hl hd', hcode]
    by_cases hc : c' = c <;> by_cases hm : d' ∈ ds <;> by_cases hdd : d' = d <;> simp [hc, hm, hdd]

theorem appliedOf_applyLset (s : State) (c c' : Nat) {l d' : Nat} (hl : l < 16) (hd' : d' < 7) :
    appliedOf (applyLset s l c) c' d' = if c' = c then lsetOf s l c' d' else appliedOf s c' d' := by
  refine (appliedOf_forAll_lset (List.range 7) (fun d h => List.mem_range.mp h) s c c' hl hd').trans ?_
  simp [hd']

theorem lsetOf_applyLset (s : State) (c k c' : Nat) {l d' : Nat} (hl : l < 16) (hd' : d' < 7) :
    lsetOf (applyLset s k c) l c' d' = lsetOf s l c' d' := by
  have hstep {d : Nat} (hd : d ∈ List.range 7) (u : State) (code : Nat) (g : Bool) :=
    getF_applyDac_lset u c code g (List.mem_range.mp hd) c' (c' / 8) hl hd'
  unfold lsetOf isSet applyLset
  rw [getF_forAll_mem fun d hd u => (hstep hd u _ _).1, getF_forAll_mem fun d hd u => (hstep hd u _ _).2]

theorem appliedOf_lsetTaken (s : State) (p : Nat) (cs : List Nat) (c' : Nat) {l d' : Nat} (hl : l < 16) (hd' : d' < 7) :
    appliedOf (lsetTaken s p cs l) c' d' = if c' ∈ cs then lsetOf s l c' d' else appliedOf s c' d' := by
  refine (appliedOf_of_oct (fun f n hf => setF_page _ _ _ _ (by rw [hf]; decide)) c' d').trans ?_
  unfold forAll
  induction cs generalizing s with
  | nil => simp
  | cons c cs ih =>
    rw [List.foldl_cons, ih, appliedOf_applyLset _ _ _ hl hd', lsetOf_applyLset _ _ _ _ hl hd']
    by_cases hc : c' = c <;> by_cases hm : c' ∈ cs <;> simp [hc, hm]

/-! CONT of the queues stays. -/

theorem cont_forAll {f : State → Nat → State} (hf : ∀ s c k, (queueOf (f s c) k).cont = (queueOf s k).cont) (l : List Nat) (s : State)
    (k : Nat) : (queueOf (forAll l s f) k).cont = (queueOf s k).cont :=
  forAll_keeps (I := fun u => (queueOf u k).cont = (queueOf s k).cont) (fun u c h => (hf u c k).trans h) l rfl

theorem queueOf_applyDac (s : State) (c d code : Nat) (g : Bool) (k : Nat) : queueOf (applyDac s c d code g) k = queueOf s k := rfl

theorem cont_dacTaken (s : State) (cs : List Nat) (d code : Nat) (g : Bool) (k : Nat) :
    (queueOf (dacTaken s cs d code g) k).cont = (queueOf s k).cont :=
  cont_forAll (fun u c j => by rw [queueOf_applyDac]) cs s k

theorem cont_applyLset (s : State) (l c k : Nat) : (queueOf (applyLset s l c) k).cont = (queueOf s k).cont := by
  unfold applyLset
  refine cont_forAll (fun u d j => ?_) _ s k
  rw [queueOf_applyDac]

theorem cont_lsetTaken (s : State) (p : Nat) (cs : List Nat) (l k : Nat) :
    (queueOf (lsetTaken s p cs l) k).cont = (queueOf s k).cont := by
  unfold lsetTaken
  rw [queueOf_setF]
  exact cont_forAll (fun u c => cont_applyLset u l c) cs s k

end Sys2Proof.Machine
end

section
/-! The consumption of an entry of a level queue (R127, R128, R130). -/

namespace Sys2Proof.Machine

/-! The operands of an entry (R129). -/

theorem b2n_le_one (b : Bool) : b2n b ≤ 1 := by cases b <;> decide

section
variable (op : Nat) (cont g : Bool) (dac tch lset code : Nat)

theorem qeMake_toNat : (qeMake op cont g dac tch lset code).toNat = op % 16 + b2n cont * 16 + b2n g * 32 + dac % 8 * 64 +
    512 * (tch % 512) + 2 ^ 18 * (lset % 16) + 2 ^ 22 * (code % 65536) := by
  have hc := b2n_le_one cont
  have hg := b2n_le_one g
  unfold qeMake
  rw [BitVec.toNat_ofNat, Nat.mod_eq_of_lt (by omega)]

@[simp] theorem qeOp_qeMake : qeOp (qeMake op cont g dac tch lset code) = op % 16 := by
  have hc := b2n_le_one cont
  have hg := b2n_le_one g
  rw [qeOp, qeMake_toNat, bits]
  omega

@[simp] theorem qeCont_qeMake : qeCont (qeMake op cont g dac tch lset code) = cont := by
  have hc := b2n_le_one cont
  have hg := b2n_le_one g
  have hbit : (qeMake op cont g dac tch lset code).toNat / 2 ^ 4 % 2 = b2n cont := by rw [qeMake_toNat]; omega
  rw [qeCont, Nat.testBit_eq_decide_div_mod_eq, hbit]
  cases cont <;> rfl

@[simp] theorem qeG_qeMake : qeG (qeMake op cont g dac tch lset code) = g := by
  have hc := b2n_le_one cont
  have hg := b2n_le_one g
  have hbit : (qeMake op cont g dac tch lset code).toNat / 2 ^ 5 % 2 = b2n g := by rw [qeMake_toNat]; omega
  rw [qeG, Nat.testBit_eq_decide_div_mod_eq, hbit]
  cases g <;> rfl

@[simp] theorem qeDac_qeMake : qeDac (qeMake op cont g dac tch lset code) = dac % 8 := by
  have hc := b2n_le_one cont
  have hg := b2n_le_one g
  rw [qeDac, qeMake_toNat, bits]
  omega

@[simp] theorem qeTch_qeMake : qeTch (qeMake op cont g dac tch lset code) = tch % 512 := by
  have hc := b2n_le_one cont
  have hg := b2n_le_one g
  rw [qeTch, qeMake_toNat, bits]
  omega

@[simp] theorem qeLset_qeMake : qeLset (qeMake op cont g dac tch lset code) = lset % 16 := by
  have hc := b2n_le_one cont
  have hg := b2n_le_one g
  rw [qeLset, qeMake_toNat, bits]
  omega

@[simp] theorem qeCode_qeMake : qeCode (qeMake op cont g dac tch lset code) = code % 65536 := by
  have hc := b2n_le_one cont
  have hg := b2n_le_one g
  rw [qeCode, qeMake_toNat, bits]
  omega

end

/-! What an entry makes of the levels (R130, R412). -/

/-- The channels of `l` whose die takes an entry (R412). -/
def sentTo (s : State) (l : List Nat) : List Nat := l.filter (fun c => !isoDie s (c / 64))

section
variable {s : State} {q : Nat} {e : BitVec 64} (t : Stamp) (hl : isLvl q = true)
include hl

theorem applyEntry_nop (hop : qeOp e = 0) : applyEntry s q e t = s := by simp [applyEntry, hl, hop]

theorem applyEntry_set (hop : qeOp e = 1) (hd : qeDac e ≠ 7) {c : Nat} (hc : (chansOf s q)[qeTch e]? = some c) :
    LevelAside (dacTaken s (sentTo s [c]) (qeDac e) (qeCode e) (qeG e)) (applyEntry s q e t) := by
  simp only [applyEntry, hl, hop, hd, hc, Bool.not_true, Bool.false_and, Bool.false_eq_true, if_false]
  exact (LevelAside.levelOp ..).trans (LevelAside.levelMute ..)

theorem applyEntry_set_beyond (hop : qeOp e = 1) (hc : (chansOf s q)[qeTch e]? = none) : applyEntry s q e t = opErr s q := by
  simp [applyEntry, hl, hop, hc]

theorem applyEntry_setall (hop : qeOp e = 2) (hd : qeDac e ≠ 7) :
    LevelAside (dacTaken s (sentTo s (chansOf s q)) (qeDac e) (qeCode e) (qeG e)) (applyEntry s q e t) := by
  simp only [applyEntry, hl, hop, hd, Bool.not_true, Bool.false_and, Bool.false_eq_true, if_false]
  exact (LevelAside.levelOp ..).trans (LevelAside.levelMute ..)

theorem applyEntry_lswitch (hop : qeOp e = 3) : LevelAside (lsetTaken s q (sentTo s (chansOf s q)) (qeLset e)) (applyEntry s q e t) := by
  simp only [applyEntry, hl, hop, Bool.not_true, Bool.false_and, Bool.false_eq_true, if_false]
  exact ((LevelAside.levelOp ..).setSame _ _ _ (by decide)).trans (LevelAside.levelMute ..)

theorem applyEntry_dac7 (hop : qeOp e = 1 ∨ qeOp e = 2) (hd : qeDac e = 7) : applyEntry s q e t = opErr s q := by
  rcases hop with hop | hop <;> simp [applyEntry, hl, hop, hd]

theorem applyEntry_supply (hop : qeOp e = 4 ∨ qeOp e = 5 ∨ qeOp e = 6) : applyEntry s q e t = opErr s q := by
  rcases hop with hop | hop | hop <;> simp [applyEntry, hl, hop]

end

/-! Consumption. -/

/-- A level queue consumes an entry: compares are judged before and after its effect, and its stamp is written last (R88, R128). -/
theorem consumeEntry_level {s : State} {q : Nat} {e : BitVec 64} (hl : isLvl q = true) :
    ∃ u v, (∀ f n, Calm f → getF u f n = getF s f n) ∧ (queueOf u q).cont = qeCont e ∧
      LevelAside (applyEntry u q e (now s)) v ∧ consumeEntry s q e = stampQueue v q (now s) := by
  unfold consumeEntry
  extract_lets t x s1
  simp only [hl, if_true]
  unfold midSwitch
  extract_lets mids s2
  have hsettle : LevelAside s1 (forAll mids s1 (fun s c => if noMid s c then settleViol s c t else s)) :=
    LevelAside.forAll (fun u c => by
      split
      · exact LevelAside.settleViol ..
      · exact LevelAside.refl u) _ _
  refine ⟨_, _, fun f n hf => ?_, ?_, LevelAside.forAll (fun u c => LevelAside.midBroken u c t) mids s2, rfl⟩
  · exact (hsettle.field f n hf).trans (getF_putQueue_calm s q _ n hf)
  · rw [hsettle.cont, queueOf_putQueue, queueOf_setQueue_same]

/-- What a level queue leaves of `w`, the state in which its entry has had its effect: its stamp and CONT follow, the levels stay. -/
structure LevelDone (s : State) (p : Nat) (cont : Bool) (w t : State) : Prop where
  stamp : get64 t F.POL_LQTICK_LO_T F.POL_LQTICK_HI_T p = now s
  cont : (queueOf t p).cont = cont
  operr : (getF t (F.EVT .pol) p).testBit E.POL_LQ_OPERR = (getF w (F.EVT .pol) p).testBit E.POL_LQ_OPERR
  lsapplied : getF t F.POL_LQSTAT_LSAPPLIED p = getF w F.POL_LQSTAT_LSAPPLIED p
  applied : ∀ c, ∀ d < 7, appliedOf t c d = appliedOf w c d

theorem get64_set64 (s : State) {lo hi : Fld} (n : Nat) (v : BitVec 64) (hlo : lo.w = 32) (hhi : hi.w = 32) (h : lo.tag ≠ hi.tag) :
    get64 (set64 s lo hi n v) lo hi n = v := by
  unfold get64 set64
  rw [getF_setF_same, getF_setF_tag _ _ _ _ h, getF_setF_same, hlo, hhi]
  refine BitVec.eq_of_toNat_eq ?_
  rw [BitVec.toNat_ofNat]
  show (v.toNat % 2 ^ 32 % 2 ^ 32 + 2 ^ 32 * (v.toNat / 2 ^ 32 % 2 ^ 32)) % 2 ^ 64 = v.toNat
  omega

theorem levelDone_stamp {s w v : State} {p : Nat} (hl : isLvl p = true) (h : LevelAside w v) :
    LevelDone s p (queueOf w p).cont w (stampQueue v p (now s)) := by
  have hs : stampQueue v p (now s) = set64 v F.POL_LQTICK_LO_T F.POL_LQTICK_HI_T p (now s) := by simp [stampQueue, hl]
  have hne {f : Fld} (n : Nat) (h1 : f.tag ≠ F.POL_LQTICK_LO_T.tag) (h2 : f.tag ≠ F.POL_LQTICK_HI_T.tag) :
      getF (stampQueue v p (now s)) f n = getF v f n := by
    rw [hs, set64, getF_setF_tag _ _ _ _ h2, getF_setF_tag _ _ _ _ h1]
  have hlsapplied : Calm F.POL_LQSTAT_LSAPPLIED := ⟨by decide, by decide, by decide, by decide, by decide, by decide⟩
  refine ⟨?_, ?_, ?_, ?_, fun c d hd => ?_⟩
  · rw [hs, get64_set64 _ _ _ rfl rfl (by decide)]
  · rw [← h.cont, hs]
    rfl
  · rw [hne _ (by decide) (by decide), h.operr]
  · rw [hne _ (by decide) (by decide), h.field _ _ hlsapplied]
  · rw [← appliedOf_congr h.field c hd]
    exact appliedOf_of_oct (fun f n hf => hne n (tag_ne_of_page (by rw [hf]; decide)) (tag_ne_of_page (by rw [hf]; decide))) c d

/-- An entry of a level queue whose tick has come, by its effect `g` on the channels that are sent it. -/
theorem consumeNow_level {s : State} {p : Fin 64} {e : BitVec 64} {g : State → State} (hlive : rsOf s p.val ≠ .off)
    (hsusp : (queueOf s p.val).susp = false) (hgain : (queueOf s p.val).gain = false)
    (hg : ∀ u, (chansOf u p.val = chansOf s p.val) → (∀ l, sentTo u l = sentTo s l) →
      LevelAside (g u) (applyEntry u p.val e (now s)) ∧ ∀ k, (queueOf (g u) k).cont = (queueOf u k).cont) :
    ∃ u, (∀ f n, Calm f → getF u f n = getF s f n) ∧ LevelDone s p.val (qeCont e) (g u) (consumeNow (cycle s) p.val e) := by
  have hl : isLvl p.val = true := by simp [isLvl]
  have hnow : consumeNow (cycle s) p.val e = consumeEntry (cycle s) p.val e := by
    have hrs : rsOf (cycle s) p.val = rsOf s p.val := rfl
    simp [consumeNow, queueLive, hl, hrs, hlive, hsusp, hgain]
  obtain ⟨u, v, hu, hcont, hv, heq⟩ := consumeEntry_level (s := cycle s) (e := e) hl
  have hown : chansOf u p.val = chansOf s p.val := by
    have ho (o : Nat) : owner u o = owner s o := owner_congr (hu _ _ (calm_oct rfl (by decide))) (hu _ _ (calm_oct rfl (by decide)))
    simp only [chansOf, octsOf_congr ho]
  have hiso (d : Nat) : isoDie u d = isoDie s d := by
    have h : getF u F.FLT_STATE_ISO 0 = getF s F.FLT_STATE_ISO 0 := hu _ _ ⟨by decide, by decide, by decide, by decide, by decide, by decide⟩
    simp only [isoDie, h]
  obtain ⟨haside, hc⟩ := hg u hown fun l => by simp only [sentTo, hiso]
  refine ⟨u, hu, ?_⟩
  rw [hnow, heq, ← hcont, ← hc]
  exact levelDone_stamp hl (haside.trans hv)

/-! The effects, by the entry. -/

section
variable {s : State} {p : Fin 64} {e : BitVec 64} (hlive : rsOf s p.val ≠ .off) (hsusp : (queueOf s p.val).susp = false)
  (hgain : (queueOf s p.val).gain = false)
include hlive hsusp hgain

/-- An entry that writes one DAC of the channels `l` as far as they are sent it. -/
theorem consumeNow_dac (l : List Nat) {d code : Nat} {g : Bool} (hd : d < 7)
    (he : ∀ u t, chansOf u p.val = chansOf s p.val →
      LevelAside (dacTaken u (sentTo u l) d code g) (applyEntry u p.val e t)) :
    ∃ w, LevelDone s p.val (qeCont e) w (consumeNow (cycle s) p.val e) ∧ ∀ c, ∀ d' < 7,
      appliedOf w c d' = if c ∈ sentTo s l ∧ d' = d then (code % 65536, g) else appliedOf s c d' := by
  obtain ⟨u, hu, ht⟩ := consumeNow_level (g := fun u => dacTaken u (sentTo s l) d code g) hlive hsusp hgain
    fun u hc hs => ⟨hs l ▸ he u _ hc, fun k => cont_dacTaken ..⟩
  refine ⟨_, ht, fun c d' hd' => ?_⟩
  rw [appliedOf_dacTaken _ _ _ _ _ hd hd', appliedOf_congr hu c hd']

/-- An entry that is an operation error changes no DAC (R130). -/
theorem consumeNow_operr (he : ∀ u t, chansOf u p.val = chansOf s p.val → applyEntry u p.val e t = opErr u p.val) :
    ∃ w, LevelDone s p.val (qeCont e) w (consumeNow (cycle s) p.val e) ∧
      (getF w (F.EVT .pol) p.val).testBit E.POL_LQ_OPERR = true ∧ ∀ c, ∀ d < 7, appliedOf w c d = appliedOf s c d := by
  have herr (u : State) : opErr u p.val = raise u .pol p.val E.POL_LQ_OPERR := by simp [opErr, isLvl]
  obtain ⟨u, hu, ht⟩ := consumeNow_level (e := e) (g := fun u => opErr u p.val) hlive hsusp hgain
    fun u hc _ => ⟨LevelAside.of_eq (he u _ hc), fun k => by rw [herr, queueOf_raise]⟩
  refine ⟨_, ht, ?_, fun c d hd => ?_⟩
  · rw [herr]
    exact evt_raise _ _ _ _ (by decide)
  · rw [← appliedOf_congr hu c hd, herr]
    exact appliedOf_of_oct (fun f n hf => raise_page _ _ _ _ (by rw [hf]; decide)) c d

/-- LSWITCH: every DAC of the channels takes its value of the level set (R122). -/
theorem consumeNow_lswitch (hop : qeOp e = 3) (hset : qeLset e < 16) :
    ∃ w, LevelDone s p.val (qeCont e) w (consumeNow (cycle s) p.val e) ∧ getF w F.POL_LQSTAT_LSAPPLIED p.val = qeLset e ∧
      ∀ c, ∀ d < 7, appliedOf w c d = if c ∈ sentTo s (chansOf s p.val) then lsetOf s (qeLset e) c d else appliedOf s c d := by
  have haside (u : State) (hc : chansOf u p.val = chansOf s p.val) (hs : ∀ l, sentTo u l = sentTo s l) :
      LevelAside (lsetTaken u p.val (sentTo s (chansOf s p.val)) (qeLset e)) (applyEntry u p.val e (now s)) := by
    rw [← hs, ← hc]
    exact applyEntry_lswitch _ (by simp [isLvl]) hop
  obtain ⟨u, hu, ht⟩ := consumeNow_level hlive hsusp hgain fun u hc hs => ⟨haside u hc hs, fun k => cont_lsetTaken ..⟩
  refine ⟨_, ht, ?_, fun c d hd => ?_⟩
  · rw [lsetTaken, getF_setF_same]
    exact Nat.mod_eq_of_lt (Nat.lt_trans hset (by decide))
  · rw [appliedOf_lsetTaken _ _ _ _ hset hd, lsetOf_congr hu c hset hd, appliedOf_congr hu c hd]

end

/-- Settles O30: what an entry leaves once it has had its effect is `LevelDone`; the effect is one lemma for the entries that write one
DAC of a list of channels, one for LSWITCH and one for the operation errors. -/
theorem levelEntries : Obligations.LevelEntries := by
  unfold Obligations.LevelEntries
  intro p cont g tch dac code lset s q cs applied others reached done hlive hsusp hgain
  have hl : isLvl p.val = true := by simp [isLvl]
  have hcode : code.toNat % 65536 = code.toNat := Nat.mod_eq_of_lt code.isLt
  have hdac : dac.toNat % 8 = dac.toNat := Nat.mod_eq_of_lt dac.isLt
  have htch : tch.toNat % 512 = tch.toNat := Nat.mod_eq_of_lt tch.isLt
  have hlset : lset.toNat % 16 = lset.toNat := Nat.mod_eq_of_lt lset.isLt
  have hd7 (h : dac ≠ 7) : dac.toNat ≠ 7 := fun e => h (BitVec.eq_of_toNat_eq e)
  have operr {e : BitVec 64} (hcont : qeCont e = cont)
      (he : ∀ u t, chansOf u p.val = chansOf s p.val → applyEntry u p.val e t = opErr u p.val) :
      let t := consumeNow (cycle s) p.val e
      done t ∧ (getF t (F.EVT .pol) p.val).testBit E.POL_LQ_OPERR = true ∧ others [] t := by
    obtain ⟨w, ht, hw, happ⟩ := consumeNow_operr hlive hsusp hgain he
    exact ⟨⟨ht.stamp, ht.cont.trans hcont⟩, ht.operr.trans hw, fun c _ d hd _ => (ht.applied c d hd).trans (happ c d hd)⟩
  have dacs {e : BitVec 64} (l : List Nat) (hne : dac ≠ 7) (hcont : qeCont e = cont)
      (he : ∀ u t, chansOf u p.val = chansOf s p.val →
        LevelAside (dacTaken u (sentTo u l) dac.toNat code.toNat g) (applyEntry u p.val e t)) :
      let t := consumeNow (cycle s) p.val e
      done t ∧ (∀ c ∈ l.filter reached, applied c dac.toNat t = (code.toNat, g)) ∧
        others ((l.filter reached).map (fun c => (c, dac.toNat))) t := by
    have hlt : dac.toNat < 7 := by
      have := dac.isLt
      have := hd7 hne
      omega
    obtain ⟨w, ht, happ⟩ := consumeNow_dac hlive hsusp hgain l hlt he
    rw [hcode] at happ
    refine ⟨⟨ht.stamp, ht.cont.trans hcont⟩, fun c hc => ?_, fun c _ d hd hc => ?_⟩
    · exact (ht.applied c _ hlt).trans ((happ c _ hlt).trans (if_pos ⟨hc, rfl⟩))
    · refine (ht.applied c d hd).trans ((happ c d hd).trans (if_neg ?_))
      rintro ⟨hm, rfl⟩
      exact hc (List.mem_map_of_mem hm)
  refine ⟨⟨_, rfl, ?_⟩, fun hne => ⟨fun c hc => ⟨_, rfl, ?_⟩, fun hc => ⟨_, rfl, operr (by simp) fun u t hu => ?_⟩,
    ⟨_, rfl, dacs cs hne (by simp) fun u t hu => ?_⟩⟩, fun h7 x hx => ?_, ⟨_, rfl, ?_⟩, fun x hx => ?_⟩
  · have hop : qeOp (qeMake 0 cont false 0 0 0 0) = 0 := by simp
    obtain ⟨u, hu, ht⟩ := consumeNow_level (g := id) hlive hsusp hgain
      fun u _ _ => ⟨LevelAside.of_eq (applyEntry_nop (now s) hl hop), fun _ => rfl⟩
    exact ⟨⟨ht.stamp, ht.cont.trans (qeCont_qeMake ..)⟩, fun c _ d hd _ => (ht.applied c d hd).trans (appliedOf_congr hu c hd)⟩
  · obtain ⟨hdone, happ, hothers⟩ := dacs (e := qeMake 1 cont g dac.toNat tch.toNat 0 code.toNat) [c] hne (by simp) fun u t hu => by
      simpa [hdac, hcode] using applyEntry_set (s := u) (e := qeMake 1 cont g dac.toNat tch.toNat 0 code.toNat) t hl (by simp)
        (by simpa [hdac] using hd7 hne) (by simpa [htch, hu] using hc)
    have hsent : (if reached c then [(c, dac.toNat)] else []) = ([c].filter reached).map (fun c => (c, dac.toNat)) := by
      cases hr : reached c <;> simp [hr]
    rw [hsent]
    exact ⟨hdone, fun hr => happ c (by simp [hr]), hothers⟩
  · exact applyEntry_set_beyond t hl (by simp) (by simpa [htch, hu] using hc)
  · have h := applyEntry_setall (s := u) (e := qeMake 2 cont g dac.toNat 0 0 code.toNat) t hl (by simp) (by simpa [hdac] using hd7 hne)
    simpa [hdac, hcode, hu] using h
  · have hop : qeDac (qeMake 1 cont g dac.toNat tch.toNat 0 code.toNat) = 7 ∧ qeDac (qeMake 2 cont g dac.toNat 0 0 code.toNat) = 7 := by
      simp [h7]
    rcases List.mem_pair.mp hx with rfl | rfl
    · exact ⟨_, rfl, operr (by simp) fun u t _ => applyEntry_dac7 t hl (.inl (by simp)) hop.1⟩
    · exact ⟨_, rfl, operr (by simp) fun u t _ => applyEntry_dac7 t hl (.inr (by simp)) hop.2⟩
  · obtain ⟨w, ht, hshown, happ⟩ := consumeNow_lswitch (e := qeMake 3 cont false 0 0 lset.toNat 0) hlive hsusp hgain (by simp)
      (by rw [qeLset_qeMake]; omega)
    rw [qeLset_qeMake, hlset] at hshown happ
    refine ⟨⟨ht.stamp, ht.cont.trans (qeCont_qeMake ..)⟩, ht.lsapplied.trans hshown, fun c hc _ d hd => ?_, fun c hc d hd => ?_⟩
    · exact (ht.applied c d hd).trans ((happ c d hd).trans (if_neg hc))
    · exact (ht.applied c d hd).trans ((happ c d hd).trans (if_pos hc))
  · simp only [List.mem_cons, List.not_mem_nil, or_false] at hx
    rcases hx with rfl | rfl | rfl
    · exact ⟨_, rfl, operr (by simp) fun u t _ => applyEntry_supply t hl (.inl (by simp))⟩
    · exact ⟨_, rfl, operr (by simp) fun u t _ => applyEntry_supply t hl (.inr (.inl (by simp)))⟩
    · exact ⟨_, rfl, operr (by simp) fun u t _ => applyEntry_supply t hl (.inr (.inr (by simp)))⟩

end Sys2Proof.Machine
end

section
/-! The causes of an isolated die are discarded (R412), those of its controllers with them. -/

namespace Sys2Proof.Machine

/-- Controller 0 is ON and its die, channel die 0, is isolated. -/
def isolatedOn : State := setF (setF State.reset (F.DSC_QSTAT_ON 0) 0 1) F.FLT_STATE_ISO 0 1

theorem isolatedOn_on : isSet isolatedOn (F.DSC_QSTAT_ON 0) 0 = true := by decide +kernel

/-- An over-current of a controller that is ON, on an isolated die, is no cause of its fault source. -/
theorem dsOvercurrent_isolatedOn : Completes (exec (.dsOvercurrent 0 0) isolatedOn) fun t => causeNow t 64 = false :=
  ⟨_, rfl, by decide +kernel⟩

/-- Refutes O31: in `isolatedOn` the over-current of controller 0, which is ON, is discarded with the causes of its isolated die (R412),
so its fault source reads no cause, where the statement has it raised. -/
theorem not_supplyEntriesAndEvents : ¬ Obligations.SupplyEntriesAndEvents := by
  unfold Obligations.SupplyEntriesAndEvents
  rintro ⟨-, h⟩
  obtain ⟨t, ht, -, -, hcause, -⟩ := (h 0 0 isolatedOn).1 isolatedOn_on (.dsOvercurrent 0 0, 1) List.mem_cons_self
  obtain ⟨u, hu, hnone⟩ := dsOvercurrent_isolatedOn
  rw [hu, Host.Outcome.next.injEq] at ht
  subst ht
  exact Bool.false_ne_true (hnone.symm.trans hcause)

end Sys2Proof.Machine
end

section
/-! QUEUE_DIV_WRITE writes the whole register of the divider (R128): the fields beside DIV are written with what they read. -/

namespace Sys2Proof.Machine

/-- The word that the register store holds for LQCFG.SEGIDX, read as wide as a register. -/
def segidxWord : Fld := { F.POL_LQCFG_SEGIDX with w := 32 }

/-- The module has started up, and its store holds 16 under LQCFG.SEGIDX of polder 0, more than the 4 bits of the field. -/
def wideSegidx : State := setF (setF { State.reset with pwr := { aux := true } } F.DEV_STATE_BOOT 0 4) segidxWord 0 16

theorem wideSegidx_ready : mayWrite wideSegidx .mp .pol 0 0x0E0 = true ∧ getF wideSegidx segidxWord 0 = 16 := by decide +kernel

theorem segidxWord_key : segidxWord.key 0 ≠ F.POL_LQCFG_DIV.key 0 := by decide

/-- The write of DIV stores SEGIDX anew, cut to its 4 bits. -/
theorem queueDivWrite_wideSegidx : Completes (exec (.queueDivWrite .mp (.lvl 0) 0) wideSegidx) fun t => getF t segidxWord 0 = 0 :=
  ⟨_, rfl, by decide +kernel⟩

/-- Refutes O32 by its clause on DIV: in `wideSegidx` the word stored under LQCFG.SEGIDX is wider than the field, and the write of DIV
stores the field anew in its 4 bits, where `SameBut` has every word of the store but that of DIV stay, read at any width. -/
theorem not_queueTicksAndPushes : ¬ Obligations.QueueTicksAndPushes := by
  unfold Obligations.QueueTicksAndPushes
  intro h
  obtain ⟨-, -, -, -, hdiv, -⟩ := h .mp (.lvl 0) 0 0 wideSegidx
  obtain ⟨hmay, hwide⟩ := wideSegidx_ready
  obtain ⟨t, ht, -, hsame⟩ := hdiv hmay
  obtain ⟨u, hu, hcut⟩ := queueDivWrite_wideSegidx
  rw [hu, Host.Outcome.next.injEq] at ht
  subst ht
  have hkept := hsame segidxWord 0 fun x hx => by
    rw [List.mem_singleton.mp hx]
    exact segidxWord_key
  rw [hcut, hwide] at hkept
  exact absurd hkept (by decide)

end Sys2Proof.Machine
end

section
/-! The writes of TSCTL and CALCTL reach their commands: TSET_CLEAR with the set it names, SELFCAL (R152, R160). -/

namespace Sys2Proof.Machine

/-- What `mayWrite` says of a field of the register that Embankment mode would refuse (R44, R63, R421). -/
theorem mayWrite_field {s : State} {i : Initiator} {p : Page} {n off : Nat} {f : Fld} (h : mayWrite s i p n off = true)
    (hf : f ∈ pageFields p n off) (hk : embankOk f = false) :
    observer s i = false ∧ isSet s F.FLT_STATE_EMBANK 0 = false ∧ runlockedF s f n = false := by
  unfold mayWrite at h
  simp only [Bool.and_eq_true, Bool.not_eq_true', List.all_eq_true] at h
  obtain ⟨⟨-, hobs⟩, hall⟩ := h
  obtain ⟨⟨-, hemb⟩, hrun⟩ := hall f hf
  exact ⟨hobs, by simpa [hk] using hemb, hrun⟩

/-- A command bit that reads 0 takes a 1 where nothing refuses its register (R40, R42). -/
theorem judge_sc {s : State} {i : Initiator} {f : Fld} {n : Nat} (hty : f.ty = .sc) (hpriv : f.priv = false)
    (hforce : f.off ≠ (F.FORCE f.page).off) (ho : observer s i = false) (hl : lockedF s f n = false) (hidle : getF s f n = 0)
    (mixed : Bool) : judge s i f n false mixed 1 = { ok := some 1 } := by
  have h1 : f ≠ F.LOCK f.page := fun e => by rw [e] at hty; cases hty
  have h2 : f ≠ F.FORCE f.page := fun e => hforce (by rw [← e])
  simp [judge, cleanVal, h1, h2, hty, hpriv, ho, hl, hidle]

/-! TSCTL. -/

theorem pageFields_tsctl (p : Nat) : pageFields .pol p 0x110 = [F.POL_TSCTL_SET, F.POL_TSCTL_CLR] := rfl

theorem bits_tsctl (set : BitVec 6) : bits (set.toNat + 256) F.POL_TSCTL_SET.lo F.POL_TSCTL_SET.w.val = set.toNat ∧
    bits (set.toNat + 256) F.POL_TSCTL_CLR.lo F.POL_TSCTL_CLR.w.val = 1 := by
  show (set.toNat + 256) / 2 ^ 0 % 2 ^ 6 = _ ∧ (set.toNat + 256) / 2 ^ 8 % 2 ^ 1 = 1
  omega

/-- The state in which TSCTL.SET has been stored. -/
def tsetNamed (s : State) (p t : Nat) : State := setF (cycle s) F.POL_TSCTL_SET p t

theorem tsetNamed_set (s : State) (p : Nat) (set : BitVec 6) :
    getF (tsetNamed s p set.toNat) F.POL_TSCTL_SET p = set.toNat :=
  (getF_setF_same ..).trans (Nat.mod_eq_of_lt set.isLt)

/-- CLR clears the set that the same write names (R152). -/
theorem exec_tsetClear {s : State} {i : Initiator} {p : Fin 64} (set : BitVec 6) (h : mayWrite s i .pol p.val 0x110 = true)
    (hclr : getF s F.POL_TSCTL_CLR p.val = 0) :
    exec (.tsetClear i p set) s = .next (clearSet (tsetNamed s p.val set.toNat) p.val set.toNat) := by
  obtain ⟨hobs, hemb, hrunS⟩ := mayWrite_field (f := F.POL_TSCTL_SET) h (by simp [pageFields_tsctl]) (by decide)
  obtain ⟨-, -, hrunC⟩ := mayWrite_field (f := F.POL_TSCTL_CLR) h (by simp [pageFields_tsctl]) (by decide)
  obtain ⟨hset, hone⟩ := bits_tsctl set
  have hl : ∀ f ∈ pageFields .pol p.val 0x110, lockedF (cycle s) f p.val = false := by
    simp [pageFields_tsctl, lockedF, show isSet (cycle s) F.FLT_STATE_EMBANK 0 = false from hemb]
  have hjS := judge_rw (s := cycle s) (f := F.POL_TSCTL_SET) (n := p.val) rfl rfl (.inl (by decide)) hobs
    (hl _ (by simp [pageFields_tsctl]))
  have hjC := judge_sc (s := cycle s) (f := F.POL_TSCTL_CLR) (n := p.val) rfl rfl (by decide) hobs
    (hl _ (by simp [pageFields_tsctl])) hclr
  have hw : writeReg (cycle s) i .pol p.val 0x110 (set.toNat + 256) = clearSet (tsetNamed s p.val set.toNat) p.val set.toNat := by
    rw [writeReg_pol (js := [(F.POL_TSCTL_SET, { ok := some set.toNat }), (F.POL_TSCTL_CLR, { ok := some 1 })]) (by decide) (by decide)
      (by simp only [pageFields_tsctl, List.map_cons, List.map_nil, hset, hone,
            show runlockedF (cycle s) F.POL_TSCTL_SET p.val = false from hrunS,
            show runlockedF (cycle s) F.POL_TSCTL_CLR p.val = false from hrunC, hjS, hjC]) rfl]
    show clearSet (tsetNamed s p.val set.toNat) p.val (getF (tsetNamed s p.val set.toNat) F.POL_TSCTL_SET p.val) = _
    rw [tsetNamed_set]
  show Host.Outcome.next (hostWrite (cycle s) i .pol p.val 0x110 (set.toNat + 256)) = _
  unfold hostWrite pageWriteReq
  rw [show servedPage (cycle s) .pol p.val 0x110 = .yes from servedPage_of_mayWrite h]
  exact congrArg Host.Outcome.next hw

/-! CALCTL. -/

theorem pageFields_calctl (d : Nat) : pageFields .cdi d 0x090 = [F.CDI_CALCTL_SELFCAL] := rfl

/-- SELFCAL starts the run on the octets of the die that are in SAFE, and reads 1 until its end (R160). -/
theorem exec_selfcal {s : State} {i : Initiator} {d : Fin 8} (h : mayWrite s i .cdi d.val 0x090 = true)
    (hidle : getF s F.CDI_CALCTL_SELFCAL d.val = 0) :
    exec (.selfcal i d) s = .next (setF (selfcalStart (cycle s) d.val) F.CDI_CALCTL_SELFCAL d.val 1) := by
  obtain ⟨hobs, hemb, hrun⟩ := mayWrite_field (f := F.CDI_CALCTL_SELFCAL) h (by simp [pageFields_calctl]) (by decide)
  have hl : lockedF (cycle s) F.CDI_CALCTL_SELFCAL d.val = false := by
    simp [lockedF, show isSet (cycle s) F.FLT_STATE_EMBANK 0 = false from hemb]
  have hj := judge_sc (s := cycle s) (f := F.CDI_CALCTL_SELFCAL) (n := d.val) rfl rfl (by decide) hobs hl hidle
  show Host.Outcome.next (hostWrite (cycle s) i .cdi d.val 0x090 1) = _
  unfold hostWrite pageWriteReq
  rw [show servedPage (cycle s) .cdi d.val 0x090 = .yes from servedPage_of_mayWrite h]
  refine congrArg Host.Outcome.next ?_
  show writeReg (cycle s) i .cdi d.val 0x090 1 = _
  simp [writeReg, pmuReg, pageFields_calctl, show runlockedF (cycle s) F.CDI_CALCTL_SELFCAL d.val = false from hrun,
    show bits 1 0 1 = 1 from rfl, hj, storeF, refuse, firstReason, headWrite, pageWrite, cdiWrite, tookAny, took]

end Sys2Proof.Machine
end

section
/-! A timing set that is cleared: its characters on every channel of the polder, and its configuration (R152). -/

namespace Sys2Proof.Machine

theorem getWide_setWide_same (s : State) (p : Page) (n sp e : Nat) (v : BitVec 192) : getWide (setWide s p n sp e v) p n sp e = v :=
  Store.get_put_same ..

theorem getWide_setWide_ne (s : State) {p q : Page} {n m sp sq e f : Nat} (v : BitVec 192)
    (h : wideKey q m sq f ≠ wideKey p n sp e) : getWide (setWide s p n sp e v) q m sq f = getWide s q m sq f :=
  Store.get_put_ne _ _ _ _ h

/-- Character `k` of set `t` of a channel is emptied. -/
def clearChar (c t : Nat) (s : State) (k : Nat) : State := setWide s .oct (c / 8) 5 (charEntry (c % 8) t k) 0

/-- Every character of set `t` of a channel is emptied. -/
def clearChan (t : Nat) (s : State) (c : Nat) : State := forAll (List.range 16) s (clearChar c t)

theorem clearSet_eq (s : State) (p t : Nat) :
    clearSet s p t = setWide (forAll (chansOf s p) s (clearChan t)) .pol p 6 t (wideDefault .pol 6) := rfl

/-- An entry that is empty stays so while characters are emptied. -/
theorem clearChar_keeps {s : State} {o e : Nat} (h : getWide s .oct o 5 e = 0) (c t k : Nat) :
    getWide (clearChar c t s k) .oct o 5 e = 0 := by
  by_cases hk : wideKey .oct o 5 e = wideKey .oct (c / 8) 5 (charEntry (c % 8) t k)
  · exact (congrArg (Store.get _ _) hk).trans (getWide_setWide_same ..)
  · exact (getWide_setWide_ne _ _ hk).trans h

theorem clearChan_keeps {s : State} {o e : Nat} (h : getWide s .oct o 5 e = 0) (t c : Nat) :
    getWide (clearChan t s c) .oct o 5 e = 0 :=
  forAll_keeps (I := fun u => getWide u .oct o 5 e = 0) (fun _ k hu => clearChar_keeps hu c t k) _ h

theorem clearChan_char (s : State) (c t : Nat) {k : Nat} (hk : k < 16) :
    getWide (clearChan t s c) .oct (c / 8) 5 (charEntry (c % 8) t k) = 0 :=
  forAll_reaches (I := fun _ => True) (P := fun u => getWide u .oct (c / 8) 5 (charEntry (c % 8) t k) = 0) (fun _ _ h => h)
    (fun _ _ => getWide_setWide_same ..) (fun _ j hu => clearChar_keeps hu c t j) (List.mem_range.mpr hk) trivial

/-- The wide entries of a polder page are none of an octet page. -/
theorem wideKey_oct_ne_pol (o sp e p sq f : Nat) : wideKey .oct o sp e ≠ wideKey .pol p sq f := by
  simp only [wideKey, fldKey, Page.code]
  omega

/-- Every character of the set on a channel of the polder is empty. -/
theorem clearSet_char (s : State) (p t : Nat) {c k : Nat} (hc : c ∈ chansOf s p) (hk : k < 16) :
    getWide (clearSet s p t) .oct (c / 8) 5 (charEntry (c % 8) t k) = 0 := by
  rw [clearSet_eq, getWide_setWide_ne _ _ (wideKey_oct_ne_pol _ _ _ _ _ _)]
  exact forAll_reaches (I := fun _ => True) (P := fun u => getWide u .oct (c / 8) 5 (charEntry (c % 8) t k) = 0) (fun _ _ h => h)
    (fun u _ => clearChan_char u c t hk) (fun _ m hu => clearChan_keeps hu t m) hc trivial

theorem clearSet_config (s : State) (p t : Nat) : getWide (clearSet s p t) .pol p 6 t = wideDefault .pol 6 := getWide_setWide_same ..

/-- Naming the set takes no octet from a polder. -/
theorem chansOf_tsetNamed (s : State) (p t q : Nat) : chansOf (tsetNamed s p t) q = chansOf s q := by
  have ho (o : Nat) : owner (tsetNamed s p t) o = owner s o :=
    owner_congr (getF_setF_tag _ _ _ _ (by decide)) (getF_setF_tag _ _ _ _ (by decide))
  unfold chansOf
  rw [octsOf_congr ho]

/-- TSET_CLEAR (R152). -/
theorem tsetClear_clears {s : State} {i : Initiator} {p : Fin 64} (set : BitVec 6) (h : mayWrite s i .pol p.val 0x110 = true)
    (hclr : getF s F.POL_TSCTL_CLR p.val = 0) : Completes (exec (.tsetClear i p set) s) fun t =>
      getWide t .pol p.val 6 set.toNat = wideDefault .pol 6 ∧
      (∀ c ∈ chansOf s p.val, ∀ k < 16, getWide t .oct (c / 8) 5 (charEntry (c % 8) set.toNat k) = 0) ∧
      getF t F.POL_TSCTL_SET p.val = set.toNat ∧ SameBut [(F.POL_TSCTL_SET, p.val)] s t := by
  refine ⟨_, exec_tsetClear set h hclr, clearSet_config .., fun c hc k hk => ?_, ?_, fun f n hf => ?_⟩
  · exact clearSet_char _ _ _ (by rwa [chansOf_tsetNamed]) hk
  · rw [clearSet_page, tsetNamed_set]
  · rw [clearSet_page]
    exact getF_setF_ne _ _ (hf _ List.mem_cons_self)

end Sys2Proof.Machine
end

section
/-! Self-calibration starts: the octets in SAFE are taken, the others are skipped (R160). -/

namespace Sys2Proof.Machine

/-- A mask summed up from its bits, in ascending order, has these bits. -/
theorem testBit_foldl_two_pow {l : List Nat} (hl : l.SortedLT) (k : Nat) :
    (l.foldl (fun n j => n + 2 ^ j) 0).testBit k = decide (k ∈ l) := by
  have hsum : l.foldl (fun n j => n + 2 ^ j) 0 = (l.map (2 ^ ·)).sum := by rw [List.sum_eq_foldl, List.foldl_map]
  rw [Bool.eq_iff_iff, decide_eq_true_iff, hsum, ← Nat.mem_bitIndices, Nat.bitIndices_sum_map_two_pow hl]

/-- The run takes the octets of the die that are in SAFE. -/
theorem selfcalStart_dieOf (s : State) (d : Nat) : (dieOf (selfcalStart s d) d).selfcal = true ∧
    ∀ o, o ∈ (dieOf (selfcalStart s d) d).calOcts ↔ o / 8 = d ∧ getF s F.OCT_STATE_PSTATE o = 1 := by
  unfold selfcalStart
  rw [dieOf_setDie_same]
  refine ⟨rfl, fun o => ?_⟩
  simp only [List.mem_map, List.mem_filter, List.mem_range, beq_iff_eq]
  constructor
  · rintro ⟨k, ⟨hk, hsafe⟩, rfl⟩
    exact ⟨by omega, hsafe⟩
  · rintro ⟨rfl, hsafe⟩
    exact ⟨o % 8, ⟨Nat.mod_lt _ (by decide), by rwa [Nat.div_add_mod]⟩, Nat.div_add_mod ..⟩

/-- CALSKIP names the others. -/
theorem selfcalStart_skip (s : State) (d : Nat) {k : Nat} (hk : k < 8) :
    (getF (selfcalStart s d) F.CDI_CALSKIP_OCT d).testBit k = decide (getF s F.OCT_STATE_PSTATE (8 * d + k) ≠ 1) := by
  have hsorted : ((List.range 8).filter fun j =>
      !((List.range 8).filter fun j => getF s F.OCT_STATE_PSTATE (8 * d + j) == 1).contains j).SortedLT :=
    (List.pairwise_lt_range.filter _).sortedLT
  unfold selfcalStart
  rw [getF_setDie, getF_setF_same, Nat.testBit_mod_two_pow, testBit_foldl_two_pow hsorted]
  simp [hk]

theorem selfcalStart_sameBut (s : State) (d : Nat) : SameBut [(F.CDI_CALSKIP_OCT, d)] s (selfcalStart s d) :=
  ((SameBut.refl _ s).setF _ _ _ List.mem_cons_self).of_regs rfl

/-- SELFCAL (R160). -/
theorem selfcal_starts {s : State} {i : Initiator} {d : Fin 8} (h : mayWrite s i .cdi d.val 0x090 = true)
    (hidle : getF s F.CDI_CALCTL_SELFCAL d.val = 0) : Completes (exec (.selfcal i d) s) fun t =>
      getF t F.CDI_CALCTL_SELFCAL d.val = 1 ∧ (dieOf t d.val).selfcal = true ∧
      (∀ o, o ∈ (dieOf t d.val).calOcts ↔ o / 8 = d.val ∧ getF s F.OCT_STATE_PSTATE o = 1) ∧
      (∀ k < 8, (getF t F.CDI_CALSKIP_OCT d.val).testBit k = decide (getF s F.OCT_STATE_PSTATE (8 * d.val + k) ≠ 1)) ∧
      SameBut [(F.CDI_CALCTL_SELFCAL, d.val), (F.CDI_CALSKIP_OCT, d.val)] s t := by
  obtain ⟨hon, hocts⟩ := selfcalStart_dieOf (cycle s) d.val
  refine ⟨_, exec_selfcal h hidle, getF_setF_same .., hon, hocts, fun k hk => ?_, ?_⟩
  · rw [getF_setF_tag _ _ _ _ (by decide)]
    exact selfcalStart_skip (cycle s) d.val hk
  · exact ((selfcalStart_sameBut (cycle s) d.val).mono (by simp)).setF _ _ _ List.mem_cons_self

end Sys2Proof.Machine
end

section
/-! What a change of a channel's offsets leaves (R157 to R159). -/

namespace Sys2Proof.Machine

/-- The fields that show the offsets in force of a channel, and the event of an offset that is cut. -/
def deskewFlds (c : Nat) : List (Fld × Nat) := [(F.OCT_X6_APPD_DOFS (c % 8), c / 8), (F.OCT_X6_APPC_COFS (c % 8), c / 8),
  (F.EVT .oct, c / 8), (F.EVT_SEQ .oct, c / 8)]

theorem takeDeskew_sameBut (s : State) (c : Nat) : SameBut (deskewFlds c) s (takeDeskew s c) := by
  unfold takeDeskew
  extract_lets j o d e x u v
  have hu : SameBut (deskewFlds c) s u := (SameBut.refl _ s).of_regs rfl
  have hv : SameBut (deskewFlds c) s v := (hu.setF _ _ _ (by simp [deskewFlds, j, o])).setF _ _ _ (by simp [deskewFlds, j, o])
  unfold raiseIf
  split
  · exact hv.raise _ _ _ (by simp [deskewFlds, o]) (by simp [deskewFlds, o])
  · exact hv

theorem applyDeskew_sameBut (s : State) (c : Nat) : SameBut (deskewFlds c) s (applyDeskew s c) := by
  unfold applyDeskew
  split
  · exact (SameBut.refl _ s).of_regs rfl
  · exact takeDeskew_sameBut s c

theorem chanOf_raise (s : State) (p : Page) (n b c : Nat) : chanOf (raise s p n b) c = chanOf s c := by
  obtain ⟨hchans, -⟩ := raise_parts s p n b
  unfold chanOf
  rw [hchans]

theorem chanOf_raiseIf (x : Bool) (s : State) (p : Page) (n b c : Nat) : chanOf (raiseIf x s p n b) c = chanOf s c := by
  unfold raiseIf
  split
  · exact chanOf_raise ..
  · rfl

/-- The temperature terms of a channel, drive and compare (R157). -/
def tempsOf (s : State) (c : Nat) : Int × Int := ((chanOf s c).tempD, (chanOf s c).tempC)

theorem tempsOf_setChan (s : State) (m c : Nat) (x : Chan) :
    tempsOf (setChan s m x) c = if c = m then (x.tempD, x.tempC) else tempsOf s c := by
  unfold tempsOf
  split
  · next h => rw [h, chanOf_setChan_same]
  · next h => rw [chanOf_setChan_ne _ _ h]

/-- Offsets that take effect leave the temperature terms that they are made of. -/
theorem applyDeskew_temps (s : State) (m c : Nat) : tempsOf (applyDeskew s m) c = tempsOf s c := by
  have hset (x : Chan) (h : (x.tempD, x.tempC) = tempsOf s m) : tempsOf (setChan s m x) c = tempsOf s c := by
    rw [tempsOf_setChan, h]
    split
    · next hc => rw [hc]
    · rfl
  unfold applyDeskew takeDeskew
  split
  · exact hset _ rfl
  · unfold tempsOf
    rw [chanOf_raiseIf]
    exact hset _ rfl

end Sys2Proof.Machine
end

section
/-! A channel takes its measured values (R160). -/

namespace Sys2Proof.Machine

/-- The state in which the calibration of a channel is stored. -/
def calStored (s : State) (c t0 ddsk cdsk : Nat) : State :=
  setF (setF (setF (setF s (F.OCT_X6_DSKD_DDSK (c % 8)) (c / 8) ddsk) (F.OCT_X6_DSKC_CDSK (c % 8)) (c / 8) cdsk)
    (F.OCT_X6_CALINFO_T0 (c % 8)) (c / 8) t0) (F.OCT_X6_CALINFO_SCVALID (c % 8)) (c / 8) 1

/-- Its temperature terms follow T0 as one step (R158). -/
def calStepped (s : State) (c t0 ddsk cdsk : Nat) : State :=
  let u := calStored s c t0 ddsk cdsk
  setChan u c { chanOf u c with tempD := tempTarget u c true, tempC := tempTarget u c false }

/-- A channel takes a calibration, and its offsets change. -/
def calTaken (s : State) (c t0 ddsk cdsk : Nat) : State := applyDeskew (calStepped s c t0 ddsk cdsk) c

/-- A channel takes the values measured for it, or free values. -/
theorem calChan_taken (s : State) (t0 : Nat) (rs : List CalResult) (c : Nat) :
    ∃ u v w, u.regs = s.regs ∧ u.chans = s.chans ∧ calChan s t0 rs c = calTaken u c t0 v w := by
  cases h : rs.find? (fun r => r.ch.val == c) with
  | some r => exact ⟨s, r.ddsk.toNat, r.cdsk.toNat, rfl, rfl, by unfold calChan; rw [h]; rfl⟩
  | none =>
    exact ⟨(freeW (freeW s).2).2, (freeW s).1.toNat % 65536, (freeW (freeW s).2).1.toNat % 65536, rfl, rfl,
      by unfold calChan; rw [h]; rfl⟩

theorem calChan_self (s : State) (t0 : Nat) (r : CalResult) :
    calChan s t0 [r] r.ch.val = calTaken s r.ch.val t0 r.ddsk.toNat r.cdsk.toNat := by
  have h : [r].find? (fun x => x.ch.val == r.ch.val) = some r := by simp
  unfold calChan
  rw [h]
  rfl

/-- The fields that the calibration of a channel writes. -/
def calFlds (c : Nat) : List (Fld × Nat) := [(F.OCT_X6_DSKD_DDSK (c % 8), c / 8), (F.OCT_X6_DSKC_CDSK (c % 8), c / 8),
  (F.OCT_X6_CALINFO_T0 (c % 8), c / 8), (F.OCT_X6_CALINFO_SCVALID (c % 8), c / 8)] ++ deskewFlds c

theorem calTaken_sameBut (s : State) (c t0 v w : Nat) : SameBut (calFlds c) s (calTaken s c t0 v w) := by
  have hstored : SameBut (calFlds c) s (calStored s c t0 v w) :=
    ((((SameBut.refl _ s).setF _ _ _ (by simp [calFlds])).setF _ _ _ (by simp [calFlds])).setF _ _ _ (by simp [calFlds])).setF
      _ _ _ (by simp [calFlds])
  exact (hstored.of_regs rfl).trans ((applyDeskew_sameBut _ c).mono fun _ h => List.mem_append_right _ h)

/-- The fields of a channel that its offsets are made of (R157). -/
def calWords (c : Nat) : List Fld := [F.OCT_X6_DSKD_DDSK (c % 8), F.OCT_X6_DSKC_CDSK (c % 8), F.OCT_X6_CALINFO_T0 (c % 8),
  F.OCT_X6_CALINFO_SCVALID (c % 8), F.OCT_X6_TCOEF_TCD (c % 8), F.OCT_X6_TCOEF_TCC (c % 8)]

/-- They are none of the fields that show the offsets in force. -/
theorem calWords_ne_deskewFlds {f : Fld} {c : Nat} (hf : f ∈ calWords c) : ∀ x ∈ deskewFlds c, f.key (c / 8) ≠ x.1.key x.2 := by
  simp only [deskewFlds, List.mem_cons, List.not_mem_nil, or_false, forall_eq_or_imp, forall_eq]
  simp only [calWords, List.mem_cons, List.not_mem_nil, or_false] at hf
  rcases hf with rfl | rfl | rfl | rfl | rfl | rfl <;> (simp only [Fld.key, fldKey]; omega)

/-- The calibration of another channel writes none of them. -/
theorem calWords_ne_calFlds {f : Fld} {c m : Nat} (hf : f ∈ calWords c) (hne : c ≠ m) :
    ∀ x ∈ calFlds m, f.key (c / 8) ≠ x.1.key x.2 := by
  simp only [calFlds, deskewFlds, List.cons_append, List.nil_append, List.mem_cons, List.not_mem_nil, or_false, forall_eq_or_imp,
    forall_eq]
  simp only [calWords, List.mem_cons, List.not_mem_nil, or_false] at hf
  rcases hf with rfl | rfl | rfl | rfl | rfl | rfl <;> (simp only [Fld.key, fldKey]; omega)

/-- What the calibration leaves of a channel: the values measured, T0, and the temperature terms of that T0. -/
structure Calibrated (s : State) (c t0 ddsk cdsk : Nat) : Prop where
  ddsk : getF s (F.OCT_X6_DSKD_DDSK (c % 8)) (c / 8) = ddsk
  cdsk : getF s (F.OCT_X6_DSKC_CDSK (c % 8)) (c / 8) = cdsk
  t0 : getF s (F.OCT_X6_CALINFO_T0 (c % 8)) (c / 8) = t0
  valid : getF s (F.OCT_X6_CALINFO_SCVALID (c % 8)) (c / 8) = 1
  temps : tempsOf s c = (tempTarget s c true, tempTarget s c false)

/-- A channel stays calibrated where the fields of its calibration, its terms and the die temperature stay. -/
theorem Calibrated.congr {s t : State} {c t0 v w : Nat} (h : Calibrated s c t0 v w)
    (hwords : ∀ f ∈ calWords c, getF t f (c / 8) = getF s f (c / 8))
    (htemp : getF t F.CDI_DIETEMP_T (c / 64) = getF s F.CDI_DIETEMP_T (c / 64)) (hterms : tempsOf t c = tempsOf s c) :
    Calibrated t c t0 v w := by
  simp only [calWords, List.mem_cons, List.not_mem_nil, or_false, forall_eq_or_imp, forall_eq] at hwords
  obtain ⟨hd, hc, ht0, hvalid, htcd, htcc⟩ := hwords
  have htarget (drive : Bool) : tempTarget t c drive = tempTarget s c drive := by simp only [tempTarget, htcd, htcc, ht0, htemp]
  exact {
    ddsk := hd.trans h.ddsk
    cdsk := hc.trans h.cdsk
    t0 := ht0.trans h.t0
    valid := hvalid.trans h.valid
    temps := by rw [hterms, h.temps, htarget, htarget] }

/-- The calibration that is stored reads back. -/
theorem calStored_reads {t0 v w : Nat} (s : State) (c : Nat) (ht0 : t0 < 2 ^ 8) (hv : v < 2 ^ 16) (hw : w < 2 ^ 16) :
    let u := calStored s c t0 v w
    getF u (F.OCT_X6_DSKD_DDSK (c % 8)) (c / 8) = v ∧ getF u (F.OCT_X6_DSKC_CDSK (c % 8)) (c / 8) = w ∧
      getF u (F.OCT_X6_CALINFO_T0 (c % 8)) (c / 8) = t0 ∧ getF u (F.OCT_X6_CALINFO_SCVALID (c % 8)) (c / 8) = 1 := by
  have htags : ∀ j < 8, [F.OCT_X6_DSKD_DDSK j, F.OCT_X6_DSKC_CDSK j, F.OCT_X6_CALINFO_T0 j, F.OCT_X6_CALINFO_SCVALID j].Pairwise
      (fun f g => f.tag ≠ g.tag) := by decide
  have hj := htags _ (Nat.mod_lt c (by decide))
  simp only [List.pairwise_cons, List.mem_cons, List.not_mem_nil, or_false, forall_eq_or_imp, forall_eq] at hj
  obtain ⟨⟨hdc, hdt, hdv⟩, ⟨hct, hcv⟩, htv, -⟩ := hj
  unfold calStored
  refine ⟨?_, ?_, ?_, getF_setF_same ..⟩
  · rw [getF_setF_tag _ _ _ _ hdv, getF_setF_tag _ _ _ _ hdt, getF_setF_tag _ _ _ _ hdc, getF_setF_same]
    exact Nat.mod_eq_of_lt hv
  · rw [getF_setF_tag _ _ _ _ hcv, getF_setF_tag _ _ _ _ hct, getF_setF_same]
    exact Nat.mod_eq_of_lt hw
  · rw [getF_setF_tag _ _ _ _ htv, getF_setF_same]
    exact Nat.mod_eq_of_lt ht0

/-- DIETEMP stands on the page of the die: the calibration of a channel leaves it. -/
theorem dietemp_of_sameBut {s t : State} {c : Nat} (h : SameBut (calFlds c) s t) (d : Nat) :
    getF t F.CDI_DIETEMP_T d = getF s F.CDI_DIETEMP_T d := by
  refine h _ _ fun x hx => tag_key (tag_ne_of_page ?_)
  have hoct : x.1.page = .oct := by
    simp only [calFlds, deskewFlds, List.cons_append, List.nil_append, List.mem_cons, List.not_mem_nil, or_false] at hx
    rcases hx with rfl | rfl | rfl | rfl | rfl | rfl | rfl | rfl <;> rfl
  rw [hoct]
  decide

theorem calStepped_calibrated {t0 v w : Nat} (s : State) (c : Nat) (ht0 : t0 < 2 ^ 8) (hv : v < 2 ^ 16) (hw : w < 2 ^ 16) :
    Calibrated (calStepped s c t0 v w) c t0 v w := by
  obtain ⟨hd, hc, htemp0, hvalid⟩ := calStored_reads s c ht0 hv hw
  refine ⟨hd, hc, htemp0, hvalid, ?_⟩
  unfold calStepped
  rw [tempsOf_setChan, if_pos rfl]
  rfl

/-- A channel that takes its measured values is calibrated by them. -/
theorem calTaken_calibrated {t0 v w : Nat} (s : State) (c : Nat) (ht0 : t0 < 2 ^ 8) (hv : v < 2 ^ 16) (hw : w < 2 ^ 16) :
    Calibrated (calTaken s c t0 v w) c t0 v w := by
  have hframe := applyDeskew_sameBut (calStepped s c t0 v w) c
  exact (calStepped_calibrated s c ht0 hv hw).congr (fun f hf => hframe f _ (calWords_ne_deskewFlds hf))
    (dietemp_of_sameBut (hframe.mono fun _ h => List.mem_append_right _ h) _) (applyDeskew_temps ..)

/-- The calibration of one channel leaves the others calibrated. -/
theorem calTaken_keeps {s : State} {c m t0 v w : Nat} (h : Calibrated s c t0 v w) (hne : c ≠ m) (t0' v' w' : Nat) :
    Calibrated (calTaken s m t0' v' w') c t0 v w := by
  have hframe := calTaken_sameBut s m t0' v' w'
  refine h.congr (fun f hf => hframe f _ (calWords_ne_calFlds hf hne)) (dietemp_of_sameBut hframe _) ?_
  refine (applyDeskew_temps ..).trans ?_
  unfold calStepped
  rw [tempsOf_setChan, if_neg hne]
  rfl

end Sys2Proof.Machine
end

section
/-! SELFCAL_DONE: every octet that the run took is calibrated (R160). -/

namespace Sys2Proof.Machine

/-- The channels of the octets that the run took. -/
def measuredChans (s : State) (d : Nat) : List Nat := (dieOf s d).calOcts.flatMap fun o => (List.range 8).map fun j => 8 * o + j

theorem mem_measuredChans {s : State} {d c : Nat} (h : c / 8 ∈ (dieOf s d).calOcts) : c ∈ measuredChans s d :=
  List.mem_flatMap.mpr ⟨c / 8, h, List.mem_map.mpr ⟨c % 8, List.mem_range.mpr (Nat.mod_lt _ (by decide)), Nat.div_add_mod ..⟩⟩

/-- T0 as CALINFO holds it. -/
def calT0 (s : State) (d : Nat) (t0 : BitVec 8) : Nat := unsign (calTemp s d t0) 8

theorem calT0_lt (s : State) (d : Nat) (t0 : BitVec 8) : calT0 s d t0 < 2 ^ 8 := by
  unfold calT0 unsign
  omega

/-- T0 is what the happening gives where that is a neighbouring degree of the die temperature. -/
theorem calT0_near {s : State} {d : Nat} {t0 : BitVec 8} (h : (8 * t0.toInt - signed (getF s F.CDI_DIETEMP_T d) 16).natAbs < 8) :
    calT0 s d t0 = t0.toNat := by
  have hmod : t0.toInt % 2 ^ 8 = t0.toNat := by
    rw [BitVec.toInt_eq_toNat_cond]
    omega
  unfold calT0 calTemp
  simp only [h, if_true, unsign]
  rw [hmod]
  rfl

/-- The octets that the run took, calibrated. -/
def calRun (s : State) (d : Nat) (t0 : BitVec 8) (rs : List CalResult) : State :=
  forAll (measuredChans s d) s fun u c => calChan u (calT0 s d t0) rs c

/-- A channel of the run takes the result given for it. -/
theorem calRun_calibrated {s : State} {d : Nat} (t0 : BitVec 8) {r : CalResult} (h : r.ch.val / 8 ∈ (dieOf s d).calOcts) :
    Calibrated (calRun s d t0 [r]) r.ch.val (calT0 s d t0) r.ddsk.toNat r.cdsk.toNat := by
  have hset (u : State) : Calibrated (calChan u (calT0 s d t0) [r] r.ch.val) r.ch.val (calT0 s d t0) r.ddsk.toNat r.cdsk.toNat := by
    rw [calChan_self]
    exact calTaken_calibrated u _ (calT0_lt ..) r.ddsk.isLt r.cdsk.isLt
  refine forAll_reaches (I := fun _ => True) (P := fun u => Calibrated u r.ch.val (calT0 s d t0) r.ddsk.toNat r.cdsk.toNat)
    (fun _ _ h => h) (fun u _ => hset u) (fun u m hu => ?_) (mem_measuredChans h) trivial
  by_cases hm : r.ch.val = m
  · rw [← hm]
    exact hset u
  · obtain ⟨u', v, w, hregs, hchans, e⟩ := calChan_taken u (calT0 s d t0) [r] m
    rw [e]
    refine calTaken_keeps (hu.congr (fun f _ => ?_) ?_ ?_) hm _ _ _
    · unfold getF
      rw [hregs]
    · unfold getF
      rw [hregs]
    · unfold tempsOf chanOf
      rw [hchans]

theorem raise_dies (s : State) (p : Page) (n b : Nat) : (raise s p n b).dies = s.dies := by
  rcases raise_cases s p n b with e | e
  · rw [e]
    unfold countEvt
    split <;> rfl
  · rw [e]
    unfold report countEvt
    split <;> split <;> rfl

/-- SELFCAL and the run are over. -/
def calOver (s : State) (d : Nat) (x : Die) : State := setDie (setF s F.CDI_CALCTL_SELFCAL d 0) d { x with selfcal := false, calOcts := [] }

theorem getF_calOver (s : State) (d : Nat) (x : Die) (f : Fld) (n : Nat) :
    getF (calOver s d x) f n = getF (setF s F.CDI_CALCTL_SELFCAL d 0) f n := rfl

/-- The event of the end: DONE, or SKIP where an octet was skipped. -/
def calBit (s : State) (d : Nat) : Nat := if getF s F.CDI_CALSKIP_OCT d = 0 then E.CDI_SELFCAL_DONE else E.CDI_SELFCAL_SKIP

theorem exec_selfcalDone {s : State} {d : Fin 8} (h : (dieOf s d.val).selfcal = true) (t0 : BitVec 8) (rs : List CalResult) :
    exec (.selfcalDone d t0 rs) s =
      .next (raise (calOver (calRun (cycle s) d.val t0 rs) d.val (dieOf s d.val)) .cdi d.val (calBit s d.val)) := by
  show execSelfcalDone d t0 rs s = _
  unfold execSelfcalDone calBit
  by_cases hskip : getF s F.CDI_CALSKIP_OCT d.val = 0
  · simp only [dieOf_cycle, getF_cycle, h, hskip, Bool.not_true, Bool.false_eq_true, if_false, if_true]
    rfl
  · simp only [dieOf_cycle, getF_cycle, h, hskip, Bool.not_true, Bool.false_eq_true, if_false]
    rfl

/-- The end of the run leaves a channel calibrated. -/
theorem Calibrated.calOver {s : State} {c t0 v w : Nat} (h : Calibrated s c t0 v w) (d : Nat) (x : Die) (b : Nat) :
    Calibrated (raise (calOver s d x) .cdi d b) c t0 v w := by
  refine h.congr (fun f hf => ?_) ?_ ?_
  · have hpage : f.page ≠ .cdi := by
      simp only [calWords, List.mem_cons, List.not_mem_nil, or_false] at hf
      rcases hf with rfl | rfl | rfl | rfl | rfl | rfl <;> exact Page.noConfusion
    rw [raise_page _ _ _ _ hpage, getF_calOver, getF_setF_page _ _ _ _ hpage]
  · rw [getF_raise _ _ _ _ _ _ (by decide) (by decide), getF_calOver, getF_setF_tag _ _ _ _ (by decide)]
  · unfold tempsOf
    rw [chanOf_raise]
    rfl

theorem calBit_lt (s : State) (d : Nat) : calBit s d < 32 := by
  unfold calBit
  split <;> decide

/-- Settles O34: TSET_CLEAR by `tsetClear_clears`, SELFCAL by `selfcal_starts`; SELFCAL_DONE calibrates the channel measured by
`calRun_calibrated`, and its end keeps that by `Calibrated.calOver`. -/
theorem timingCommands : Obligations.TimingCommands := by
  unfold Obligations.TimingCommands
  intro i p set d t0 r s
  refine ⟨fun hmay _ hclr => tsetClear_clears set hmay hclr, selfcal_starts, fun hrun hoct => ⟨_, exec_selfcalDone hrun t0 [r], ?_⟩⟩
  have hcal := (calRun_calibrated (s := cycle s) t0 hoct).calOver d.val (dieOf s d.val) (calBit s d.val)
  obtain ⟨htermD, htermC⟩ := Prod.mk.inj hcal.temps
  refine ⟨hcal.ddsk, hcal.cdsk, fun hnear => hcal.t0.trans (calT0_near (s := cycle s) hnear), htermD, htermC, hcal.valid, ?_, ?_,
    evt_raise _ _ _ _ (calBit_lt ..)⟩
  · rw [getF_raise _ _ _ _ _ _ (by decide) (by decide), getF_calOver, getF_setF_same]
    rfl
  · unfold dieOf
    rw [raise_dies]
    exact congrArg Die.selfcal (dieOf_setDie_same ..)

end Sys2Proof.Machine
end

section
/-! Memory errors: what a read that meets correctable and uncorrectable ones counts and marks, and what it leaves (R171, R172). -/

namespace Sys2Proof.Machine

/-! An event leaves the bindings and the words known to be bad. -/

theorem bnds_raise (s : State) (p : Page) (n b : Nat) : (raise s p n b).bnds = s.bnds := by
  obtain ⟨-, -, -, hbnds, -⟩ := raise_parts s p n b
  exact hbnds

theorem dramBad_raise (s : State) (p : Page) (n b : Nat) : (raise s p n b).dramBad = s.dramBad := by
  rcases raise_cases s p n b with e | e
  · rw [e]; unfold countEvt; split <;> rfl
  · rw [e]; unfold report countEvt
    split <;> split <;> rfl

/-- Bindings are read from their part of the state. -/
theorem bndOf_congr {s t : State} (h : t.bnds = s.bnds) (b : Nat) : bndOf t b = bndOf s b := by unfold bndOf; rw [h]

theorem getF_congr {s t : State} (h : t.regs = s.regs) (f : Fld) (n : Nat) : getF t f n = getF s f n := by unfold getF; rw [h]

/-- A counter of 32 bits to which nothing is added stays as it is (R32). -/
theorem counter_add_zero (s : State) {f : Fld} (n : Nat) (hw : f.w = 32) : getF s f n = min (getF s f n + 0) 0xFFFFFFFF := by
  have : getF s f n < 2 ^ f.w.val := Nat.mod_lt _ (Nat.two_pow_pos _)
  have h32 : 2 ^ f.w.val = 4294967296 := by rw [hw]; rfl
  omega

/-! What errors leave behind. -/

/-- From `s` to `t` the correctable errors `ce` and the uncorrectable `ue` have been counted, with their events, and the words of the
latter are marked bad in DRAM; no event and no mark is taken back. -/
structure ErrorsTaken (ce ue : List EccErr) (s t : State) : Prop where
  corrected : getF t F.MEM_ECCCE_N 0 = min (getF s F.MEM_ECCCE_N 0 + ce.length) 0xFFFFFFFF
  uncorrected : getF t F.MEM_ECCUE_N 0 = min (getF s F.MEM_ECCUE_N 0 + ue.length) 0xFFFFFFFF
  evtCe : ce ≠ [] → (getF t (F.EVT .mem) 0).testBit E.MEM_ECC_CE = true
  evtUe : ue ≠ [] → (getF t (F.EVT .mem) 0).testBit E.MEM_ECC_UE = true
  marked : ∀ e ∈ ue, e.cache = false → e.addr.toNat / 8 * 8 ∈ t.dramBad
  evtKept : ∀ b < 32, (getF s (F.EVT .mem) 0).testBit b = true → (getF t (F.EVT .mem) 0).testBit b = true
  badKept : ∀ w ∈ s.dramBad, w ∈ t.dramBad

/-- The fields that errors write. -/
def eccFlds : List (Fld × Nat) :=
  [(F.MEM_ECCCE_N, 0), (F.MEM_ECCUE_N, 0), (F.MEM_ECCADDR_LO_A, 0), (F.MEM_ECCADDR_HI_A, 0), (F.MEM_ECCADDR_HI_UE, 0),
    (F.MEM_ECCADDR_HI_CACHE, 0), (F.EVT .mem, 0), (F.EVT_SEQ .mem, 0)]

namespace ErrorsTaken

variable {ce ue ce' ue' : List EccErr} {s t u : State}

theorem append (h : ErrorsTaken ce ue s t) (h' : ErrorsTaken ce' ue' t u) : ErrorsTaken (ce ++ ce') (ue ++ ue') s u where
  corrected := by rw [h'.corrected, h.corrected, List.length_append]; omega
  uncorrected := by rw [h'.uncorrected, h.uncorrected, List.length_append]; omega
  evtCe hne := by
    by_cases hce : ce' = []
    · exact h'.evtKept _ (by decide) (h.evtCe (by simpa [hce] using hne))
    · exact h'.evtCe hce
  evtUe hne := by
    by_cases hue : ue' = []
    · exact h'.evtKept _ (by decide) (h.evtUe (by simpa [hue] using hne))
    · exact h'.evtUe hue
  marked e he hc := (List.mem_append.mp he).elim (fun hm => h'.badKept _ (h.marked e hm hc)) (fun hm => h'.marked e hm hc)
  evtKept b hb hs := h'.evtKept b hb (h.evtKept b hb hs)
  badKept w hw := h'.badKept w (h.badKept w hw)

/-- A step that leaves the counters, and takes back no event and no mark, meets no error. -/
theorem none (hce : getF t F.MEM_ECCCE_N 0 = getF s F.MEM_ECCCE_N 0) (hue : getF t F.MEM_ECCUE_N 0 = getF s F.MEM_ECCUE_N 0)
    (hevt : ∀ b < 32, (getF s (F.EVT .mem) 0).testBit b = true → (getF t (F.EVT .mem) 0).testBit b = true)
    (hbad : t.dramBad = s.dramBad) : ErrorsTaken [] [] s t where
  corrected := hce.trans (counter_add_zero s 0 rfl)
  uncorrected := hue.trans (counter_add_zero s 0 rfl)
  evtCe h := absurd rfl h
  evtUe h := absurd rfl h
  marked _ h := absurd h List.not_mem_nil
  evtKept := hevt
  badKept _ hw := hbad ▸ hw

theorem refl (s : State) : ErrorsTaken [] [] s s := none rfl rfl (fun _ _ h => h) rfl

/-- A step without errors may follow. -/
theorem followed (h : ErrorsTaken ce ue s t) (h' : ErrorsTaken [] [] t u) : ErrorsTaken ce ue s u := by
  simpa using h.append h'

theorem of_regs (h : ErrorsTaken ce ue s t) (hr : u.regs = t.regs) (hb : u.dramBad = t.dramBad) : ErrorsTaken ce ue s u :=
  h.followed (none (getF_congr hr ..) (getF_congr hr ..) (fun _ _ he => by rwa [getF_congr hr]) hb)

theorem raise (h : ErrorsTaken ce ue s t) (b : Nat) : ErrorsTaken ce ue s (Machine.raise t .mem 0 b) :=
  h.followed (none (getF_raise _ _ _ _ _ _ (by decide) (by decide)) (getF_raise _ _ _ _ _ _ (by decide) (by decide))
    (fun c hc he => evt_raise_old _ _ _ _ c he hc) (dramBad_raise ..))

/-- So may a write of another field. -/
theorem setF (h : ErrorsTaken ce ue s t) {f : Fld} (n v : Nat)
    (hf : ∀ g ∈ [F.MEM_ECCCE_N, F.MEM_ECCUE_N, F.EVT .mem], g.tag ≠ f.tag) : ErrorsTaken ce ue s (Machine.setF t f n v) :=
  h.followed (none (getF_setF_tag _ _ _ _ (hf _ (by simp))) (getF_setF_tag _ _ _ _ (hf _ (by simp)))
    (fun _ _ he => by rwa [getF_setF_tag _ _ _ _ (hf _ (by simp))]) rfl)

theorem eccAddr (h : ErrorsTaken ce ue s t) (a : Nat) (x c : Bool) : ErrorsTaken ce ue s (Machine.eccAddr t a x c) :=
  (((h.setF _ _ (by decide)).setF _ _ (by decide)).setF _ _ (by decide)).setF _ _ (by decide)

end ErrorsTaken

/-- Errors are taken, write their own fields only and leave the bindings. -/
structure ErrorsRead (ce ue : List EccErr) (s t : State) : Prop where
  taken : ErrorsTaken ce ue s t
  frame : SameBut eccFlds s t
  bnds : t.bnds = s.bnds

theorem ErrorsRead.append {ce ue ce' ue' : List EccErr} {s t u : State} (h : ErrorsRead ce ue s t) (h' : ErrorsRead ce' ue' t u) :
    ErrorsRead (ce ++ ce') (ue ++ ue') s u :=
  ⟨h.taken.append h'.taken, h.frame.trans h'.frame, h'.bnds.trans h.bnds⟩

/-- No page has counted an event when the command begins; no field tells. -/
theorem ErrorsRead.of_cycle {ce ue : List EccErr} {s t : State} (h : ErrorsRead ce ue (cycle s) t) : ErrorsRead ce ue s t :=
  ⟨{ h.taken with }, h.frame, h.bnds⟩

theorem sameBut_eccAddr {s t : State} (h : SameBut eccFlds s t) (a : Nat) (x c : Bool) : SameBut eccFlds s (eccAddr t a x c) :=
  (((h.setF _ _ _ (by simp [eccFlds])).setF _ _ _ (by simp [eccFlds])).setF _ _ _ (by simp [eccFlds])).setF _ _ _ (by simp [eccFlds])

/-- An error is counted, and its event raised. -/
def errorCounted (s : State) (f : Fld) (b : Nat) : State := raise (addCt s f 0 1) .mem 0 b

theorem getF_errorCounted_same (s : State) {f : Fld} (b : Nat) (hw : f.w = 32) (he : f.tag ≠ (F.EVT .mem).tag)
    (hs : f.tag ≠ (F.EVT_SEQ .mem).tag) : getF (errorCounted s f b) f 0 = min (getF s f 0 + 1) 0xFFFFFFFF := by
  unfold errorCounted
  rw [getF_raise _ _ _ _ _ _ he hs, getF_addCt_same, hw]
  rfl

theorem getF_errorCounted_other (s : State) {f g : Fld} (b : Nat) (h : g.tag ≠ f.tag) (he : g.tag ≠ (F.EVT .mem).tag)
    (hs : g.tag ≠ (F.EVT_SEQ .mem).tag) : getF (errorCounted s f b) g 0 = getF s g 0 :=
  (getF_raise _ _ _ _ _ _ he hs).trans (getF_addCt_tag _ _ _ _ h)

theorem evtKept_errorCounted (s : State) {f : Fld} (b : Nat) (h : (F.EVT .mem).tag ≠ f.tag) :
    ∀ c < 32, (getF s (F.EVT .mem) 0).testBit c = true → (getF (errorCounted s f b) (F.EVT .mem) 0).testBit c = true :=
  fun c hc hs => evt_raise_old _ _ _ _ c (by rwa [getF_addCt_tag _ _ _ _ h]) hc

theorem sameBut_errorCounted (s : State) {f : Fld} (b : Nat) (h : (f, 0) ∈ eccFlds) : SameBut eccFlds s (errorCounted s f b) :=
  SameBut.raise (t := addCt s f 0 1) ((SameBut.refl _ s).setF _ _ _ h) _ _ _ (by simp [eccFlds]) (by simp [eccFlds])

theorem dramBad_errorCounted (s : State) (f : Fld) (b : Nat) : (errorCounted s f b).dramBad = s.dramBad := dramBad_raise ..

/-- A correctable error. -/
theorem eccCe_read (s : State) (e : EccErr) : ErrorsRead [e] [] s (eccCe s e.addr.toNat e.cache) := by
  have hcount : ErrorsTaken [e] [] s (errorCounted s F.MEM_ECCCE_N E.MEM_ECC_CE) :=
    { corrected := getF_errorCounted_same s _ rfl (by decide) (by decide)
      uncorrected := (getF_errorCounted_other s _ (by decide) (by decide) (by decide)).trans (counter_add_zero s 0 rfl)
      evtCe := fun _ => evt_raise _ _ _ _ (by decide)
      evtUe := fun h => absurd rfl h
      marked := fun _ h => absurd h List.not_mem_nil
      evtKept := evtKept_errorCounted s _ (by decide)
      badKept := fun w h => by rwa [dramBad_errorCounted] }
  exact ⟨hcount.eccAddr .., sameBut_eccAddr (sameBut_errorCounted s _ (by simp [eccFlds])) _ _ _, bnds_raise ..⟩

/-- An uncorrectable error is counted and shown. -/
def ueShown (s : State) (a : Nat) (cache : Bool) : State := eccAddr (errorCounted s F.MEM_ECCUE_N E.MEM_ECC_UE) a true cache

theorem dramBad_ueShown (s : State) (a : Nat) (cache : Bool) : (ueShown s a cache).dramBad = s.dramBad := dramBad_errorCounted ..

theorem bnds_ueShown (s : State) (a : Nat) (cache : Bool) : (ueShown s a cache).bnds = s.bnds := bnds_raise ..

/-- A word is marked bad. -/
def markBad (s : State) (w : Nat) : State := { s with dramBad := s.dramBad.insert w }

theorem markBad_eq (s : State) (w : Nat) : (if s.dramBad.contains w then s else { s with dramBad := w :: s.dramBad }) = markBad s w := by
  simp only [markBad, List.insert]
  split <;> rfl

theorem causeOn_parts (s : State) (f : Nat) (names : List Nat) : (causeOn s f names).regs = s.regs ∧
    (causeOn s f names).bnds = s.bnds ∧ (causeOn s f names).dramBad = s.dramBad := by
  unfold causeOn
  split <;> exact ⟨rfl, rfl, rfl⟩

/-- In DRAM an uncorrectable error marks its word, and outside vector data it is a fault cause (R172, R408). -/
theorem eccUe_eq (s : State) (a : Nat) (cache : Bool) : eccUe s a cache =
    if cache then ueShown s a cache
    else if hubRegion s a then causeOn (markBad (ueShown s a cache) (a / 8 * 8)) 190 [] else markBad (ueShown s a cache) (a / 8 * 8) := by
  simp only [← markBad_eq]
  rfl

theorem eccUe_parts (s : State) (a : Nat) (cache : Bool) : (eccUe s a cache).regs = (ueShown s a cache).regs ∧
    (eccUe s a cache).bnds = s.bnds ∧ (eccUe s a cache).dramBad = if cache then s.dramBad else s.dramBad.insert (a / 8 * 8) := by
  obtain ⟨hregs, hbnds, hbad⟩ := causeOn_parts (markBad (ueShown s a cache) (a / 8 * 8)) 190 []
  have hmark : (markBad (ueShown s a cache) (a / 8 * 8)).dramBad = s.dramBad.insert (a / 8 * 8) :=
    congrArg (List.insert _) (dramBad_ueShown ..)
  rw [eccUe_eq]
  cases cache with
  | true => exact ⟨rfl, bnds_ueShown .., dramBad_ueShown ..⟩
  | false =>
    simp only [Bool.false_eq_true, if_false]
    split
    · exact ⟨hregs, hbnds.trans (bnds_ueShown s a false), hbad.trans hmark⟩
    · exact ⟨rfl, bnds_ueShown s a false, hmark⟩

/-- An uncorrectable error. -/
theorem eccUe_read (s : State) (e : EccErr) : ErrorsRead [] [e] s (eccUe s e.addr.toNat e.cache) := by
  obtain ⟨hregs, hbnds, hbad⟩ := eccUe_parts s e.addr.toNat e.cache
  have hframe := sameBut_eccAddr (sameBut_errorCounted s E.MEM_ECC_UE (f := F.MEM_ECCUE_N) (by simp [eccFlds])) e.addr.toNat true e.cache
  have hread (f : Fld) (hf : f ∈ [F.MEM_ECCCE_N, F.MEM_ECCUE_N, F.EVT .mem]) :
      getF (eccUe s e.addr.toNat e.cache) f 0 = getF (errorCounted s F.MEM_ECCUE_N E.MEM_ECC_UE) f 0 := by
    have htag : ∀ f ∈ [F.MEM_ECCCE_N, F.MEM_ECCUE_N, F.EVT .mem], f.tag ≠ F.MEM_ECCADDR_LO_A.tag ∧
      f.tag ≠ F.MEM_ECCADDR_HI_A.tag ∧ f.tag ≠ F.MEM_ECCADDR_HI_UE.tag ∧ f.tag ≠ F.MEM_ECCADDR_HI_CACHE.tag := by decide
    obtain ⟨h1, h2, h3, h4⟩ := htag f hf
    rw [getF_congr hregs]
    simp only [ueShown, eccAddr, getF_setF_tag _ _ _ _ h1, getF_setF_tag _ _ _ _ h2, getF_setF_tag _ _ _ _ h3, getF_setF_tag _ _ _ _ h4]
  refine ⟨⟨?_, ?_, fun h => absurd rfl h, fun _ => ?_, ?_, ?_, ?_⟩, hframe.of_regs hregs, hbnds⟩
  · rw [hread _ (by simp)]
    exact (getF_errorCounted_other s _ (by decide) (by decide) (by decide)).trans (counter_add_zero s 0 rfl)
  · rw [hread _ (by simp)]
    exact getF_errorCounted_same s _ rfl (by decide) (by decide)
  · rw [hread _ (by simp)]
    exact evt_raise _ _ _ _ (by decide)
  · intro x hx hc
    obtain rfl := List.mem_singleton.mp hx
    rw [hbad, hc]
    exact List.mem_insert_self
  · rw [hread _ (by simp)]
    exact evtKept_errorCounted s _ (by decide)
  · intro w hw
    rw [hbad]
    split
    · exact hw
    · exact List.mem_insert_of_mem hw

theorem eccCes_read (ce : List EccErr) (s : State) : ErrorsRead ce [] s (ce.foldl (fun s e => eccCe s e.addr.toNat e.cache) s) := by
  induction ce generalizing s with
  | nil => exact ⟨.refl s, .refl _ s, rfl⟩
  | cons e ce ih => exact (eccCe_read s e).append (ih _)

theorem eccUes_read (ue : List EccErr) (s : State) : ErrorsRead [] ue s (ue.foldl (fun s e => eccUe s e.addr.toNat e.cache) s) := by
  induction ue generalizing s with
  | nil => exact ⟨.refl s, .refl _ s, rfl⟩
  | cons e ue ih => exact (eccUe_read s e).append (ih _)

/-- The errors of a read are taken, write their own fields only and leave the bindings. -/
theorem eccErrs_read (s : State) (ce ue : List EccErr) : ErrorsRead ce ue s (eccErrs s ce ue) := by
  have h := (eccCes_read ce s).append (eccUes_read ue _)
  rwa [List.append_nil, List.nil_append] at h

end Sys2Proof.Machine
end

section
/-! The prefetch of a binding and the patrol scrub (R171, R172, R178). -/

namespace Sys2Proof.Machine

/-- The guard's bookkeeping changes neither the lead nor the poison (R182). -/
theorem leadRegained_parts (s : State) (b : Nat) : (leadRegained s b).regs = s.regs ∧ (leadRegained s b).dramBad = s.dramBad ∧
    (bndOf (leadRegained s b) b).lead = (bndOf s b).lead ∧ (bndOf (leadRegained s b) b).poison = (bndOf s b).poison := by
  unfold leadRegained
  split
  · exact ⟨rfl, rfl, by rw [bndOf_setBnd_same], by rw [bndOf_setBnd_same]⟩
  · split
    · exact ⟨rfl, rfl, by rw [bndOf_setBnd_same], by rw [bndOf_setBnd_same]⟩
    · exact ⟨rfl, rfl, rfl, rfl⟩

/-- The lead that `n` more words give, up to PFDEPTH (R178, R179). -/
def refillLead (s : State) (k n : Nat) : Nat := max (bndOf s k).lead (min ((bndOf s k).lead + n) (pfDepth s k))

/-- The lead has grown, and the corrected errors are counted. -/
def refilled (s : State) (k n : Nat) (ce : List EccErr) : State :=
  setBnd (eccErrs (cycle s) ce []) k { bndOf s k with lead := refillLead s k n }

/-- The words that the lead has gained. -/
def gained (s : State) (k n : Nat) (ce : List EccErr) : List (Nat × Bool) :=
  (streamedAhead (refilled s k n ce) k).drop (bndOf s k).lead

theorem exec_patternRefill {b : Bind} {s : State} (n : Nat) (ce ue : List EccErr) (hres : reserved s b.val = true)
    (hemb : isSet s F.FLT_STATE_EMBANK 0 = false) : exec (.patternRefill b n ce ue) s =
      .next (leadRegained (fetched (refilled s b.val n ce) b.val (gained s b.val n ce) ue) b.val) := by
  have hgo : ¬ (!reserved (cycle s) b.val ∨ isSet (cycle s) F.FLT_STATE_EMBANK 0) := by
    simp [show reserved (cycle s) b.val = true from hres, show isSet (cycle s) F.FLT_STATE_EMBANK 0 = false from hemb]
  exact congrArg Host.Outcome.next (if_neg hgo)

/-- Words fetched keep the lead, and their uncorrectable errors are taken and poison them (R172). -/
theorem fetched_parts (s : State) (b : Nat) (ws : List (Nat × Bool)) (found : List EccErr) :
    bndOf (fetched s b ws found) b = { bndOf s b with poison := (bndOf s b).poison ++ poisonOf (fetchUe s b ws found) } ∧
    ErrorsTaken [] (fetchUe s b ws found) s (fetched s b ws found) ∧ SameBut eccFlds s (fetched s b ws found) := by
  have h := eccErrs_read s [] (fetchUe s b ws found)
  refine ⟨?_, h.taken.of_regs rfl rfl, h.frame.of_regs rfl⟩
  unfold fetched
  rw [bndOf_setBnd_same, bndOf_congr h.bnds]

/-- The words that a reserved binding prefetches (R171, R172, R178). -/
theorem patternRefill_fetches {b : Bind} {s : State} (n : Nat) (ce ue : List EccErr) (hres : reserved s b.val = true)
    (hemb : isSet s F.FLT_STATE_EMBANK 0 = false) : Completes (exec (.patternRefill b n ce ue) s) fun t =>
      (bndOf t b.val).lead = refillLead s b.val n ∧
      (bndOf t b.val).poison = (bndOf s b.val).poison ++ poisonOf (fetchUe (refilled s b.val n ce) b.val (gained s b.val n ce) ue) ∧
      ErrorsTaken ce (fetchUe (refilled s b.val n ce) b.val (gained s b.val n ce) ue) s t ∧ SameBut eccFlds s t := by
  obtain ⟨hregs, hdram, hlead, hpoison⟩ := leadRegained_parts (fetched (refilled s b.val n ce) b.val (gained s b.val n ce) ue) b.val
  obtain ⟨hbnd, htaken, hframe⟩ := fetched_parts (refilled s b.val n ce) b.val (gained s b.val n ce) ue
  have hfirst := (eccErrs_read (cycle s) ce []).of_cycle
  have hboth := (hfirst.taken.of_regs (u := refilled s b.val n ce) rfl rfl).append htaken
  rw [List.append_nil, List.nil_append] at hboth
  refine ⟨_, exec_patternRefill n ce ue hres hemb, ?_, ?_, hboth.of_regs hregs hdram,
    ((hfirst.frame.of_regs (u := refilled s b.val n ce) rfl).trans hframe).of_regs hregs⟩
  · rw [hlead, hbnd, refilled, bndOf_setBnd_same]
  · rw [hpoison, hbnd, refilled, bndOf_setBnd_same]

/-- The patrol scrub takes the errors it finds (R171). -/
theorem patrolScrub_takes (cp up : List LinkAddr) (s : State) : Completes (exec (.patrolScrub cp up) s)
    (ErrorsRead (cp.map fun a => { addr := a }) (up.map fun a => { addr := a }) s) :=
  ⟨_, rfl, (eccErrs_read ..).of_cycle⟩

end Sys2Proof.Machine
end

section
/-! The write of PRE_VA_HI reaches the preload with the address it completes (R176). -/

namespace Sys2Proof.Machine

/-- A write to a register beyond the header of a page, of which no field is refused: what is accepted is stored and takes its effect. -/
theorem writeReg_taken {s : State} {i : Initiator} {p : Page} {n off v : Nat} {js : List (Fld × Judged)} (hoff : 0x040 ≤ off)
    (hpmu : pmuReg p off = false) (hjs : (pageFields p n off).map (fun f => (f, judge s i f n (runlockedF s f n)
      ((pageFields p n off).any (!·.priv)) (bits v f.lo f.w.val))) = js) (hwhy : js.flatMap (fun x => x.2.why) = []) :
    writeReg s i p n off v =
      pageWrite ((takenFields js).foldl (fun s x => storeF s n x) s) i p n off v (takenFields js) (fun f => getF s f n) := by
  have hh (t : State) (m f : Nat) (acc : List (Fld × Nat)) : headWrite t p n off m f acc = t := by
    have h1 : off ≠ (F.FORCE p).off := by show off ≠ 0x024; omega
    simp [headWrite, h1, show off ≠ 0x018 by omega, show off ≠ 0x01C by omega]
  have hr (t : State) : refuse t i p n false off [] = t := rfl
  unfold writeReg
  simp only [show off ≠ 0x034 by omega, show off ≠ 0x030 by omega, hpmu, hjs, hwhy, hh, hr, show ¬ off < 0x040 by omega,
    decide_false, Bool.false_and, false_and, if_false, Bool.false_eq_true]
  rfl

theorem pageFields_preVaHi (b : Bind) : pageFields .mem 0 (0x134 + 0x40 * b.val) =
    [F.MEM_PRE_VA_HI_VA b.val, F.MEM_PRE_VA_HI_COMPACT b.val, F.MEM_PRE_VA_HI_GO b.val] := by
  revert b
  decide +kernel

/-- The fields of a word that starts a preload. -/
theorem bits_preVaHi (k : Nat) (va : BitVec 8) (compact : Bool) :
    let v := va.toNat + 256 * b2n compact + 2 ^ 31
    bits v (F.MEM_PRE_VA_HI_VA k).lo (F.MEM_PRE_VA_HI_VA k).w.val = va.toNat ∧
    bits v (F.MEM_PRE_VA_HI_COMPACT k).lo (F.MEM_PRE_VA_HI_COMPACT k).w.val = b2n compact ∧
    bits v (F.MEM_PRE_VA_HI_GO k).lo (F.MEM_PRE_VA_HI_GO k).w.val = 1 := by
  intro v
  have hva : va.toNat < 256 := va.isLt
  have hc : b2n compact ≤ 1 := b2n_le_one compact
  show v / 2 ^ 0 % 2 ^ 8 = _ ∧ v / 2 ^ 8 % 2 ^ 1 = _ ∧ v / 2 ^ 31 % 2 ^ 1 = _
  omega

/-- The state in which the address has been stored. -/
def preStored (s : State) (k va : Nat) (compact : Bool) : State :=
  setF (setF (cycle s) (F.MEM_PRE_VA_HI_VA k) 0 va) (F.MEM_PRE_VA_HI_COMPACT k) 0 (b2n compact)

/-- GO starts the preload in the state in which the same write has stored the address (R176). -/
theorem exec_preload {s : State} {i : Initiator} {b : Bind} (va : BitVec 8) (compact : Bool)
    (h : mayWrite s i .mem 0 (0x134 + 0x40 * b.val) = true) (hgo : getF s (F.MEM_PRE_VA_HI_GO b.val) 0 = 0) :
    exec (.preload i b va compact) s = .next (preloadGo (preStored s b.val va.toNat compact) b.val) := by
  obtain ⟨hva, hcompact, hone⟩ := bits_preVaHi b.val va compact
  obtain ⟨hobs, hemb, hrunV⟩ := mayWrite_field (f := F.MEM_PRE_VA_HI_VA b.val) h (by simp [pageFields_preVaHi]) (by simp [embankOk])
  obtain ⟨-, -, hrunC⟩ := mayWrite_field (f := F.MEM_PRE_VA_HI_COMPACT b.val) h (by simp [pageFields_preVaHi]) (by simp [embankOk])
  obtain ⟨-, -, hrunG⟩ := mayWrite_field (f := F.MEM_PRE_VA_HI_GO b.val) h (by simp [pageFields_preVaHi]) (by simp [embankOk])
  have hl (f : Fld) (hf : f.page = .mem) : lockedF (cycle s) f 0 = false := by
    simp [lockedF, hf, show isSet (cycle s) F.FLT_STATE_EMBANK 0 = false from hemb]
  have hhdr : 0x100 + 0x40 * b.val + 0x34 ≠ (F.FORCE .mem).off := by show _ ≠ 0x024; omega
  have hjV := judge_rw (s := cycle s) (f := F.MEM_PRE_VA_HI_VA b.val) (n := 0) rfl rfl (.inl hhdr) hobs (hl _ rfl)
  have hjC := judge_rw (s := cycle s) (f := F.MEM_PRE_VA_HI_COMPACT b.val) (n := 0) rfl rfl (.inl hhdr) hobs (hl _ rfl)
  have hjG := judge_sc (s := cycle s) (f := F.MEM_PRE_VA_HI_GO b.val) (n := 0) rfl rfl hhdr hobs (hl _ rfl) hgo
  have hw : writeReg (cycle s) i .mem 0 (0x134 + 0x40 * b.val) (va.toNat + 256 * b2n compact + 2 ^ 31) =
      preloadGo (preStored s b.val va.toNat compact) b.val := by
    rw [writeReg_taken (js := [(F.MEM_PRE_VA_HI_VA b.val, { ok := some va.toNat }),
        (F.MEM_PRE_VA_HI_COMPACT b.val, { ok := some (b2n compact) }), (F.MEM_PRE_VA_HI_GO b.val, { ok := some 1 })]) (by omega) rfl
      (by simp only [pageFields_preVaHi, List.map_cons, List.map_nil, hva, hcompact, hone,
            show runlockedF (cycle s) (F.MEM_PRE_VA_HI_VA b.val) 0 = false from hrunV,
            show runlockedF (cycle s) (F.MEM_PRE_VA_HI_COMPACT b.val) 0 = false from hrunC,
            show runlockedF (cycle s) (F.MEM_PRE_VA_HI_GO b.val) 0 = false from hrunG, hjV, hjC, hjG]) rfl]
    have hidx : (0x134 + 0x40 * b.val - 0x100) / 0x40 = b.val := by omega
    show memWrite (preStored s b.val va.toNat compact) (0x134 + 0x40 * b.val) _ = _
    simp only [memWrite, hidx]
    exact if_pos ⟨by omega, by simp [takenFields, tookAny, took]⟩
  show Host.Outcome.next (hostWrite (cycle s) i .mem 0 (0x134 + 0x40 * b.val) (va.toNat + 256 * b2n compact + 2 ^ 31)) = _
  unfold hostWrite pageWriteReq
  rw [show servedPage (cycle s) .mem 0 (0x134 + 0x40 * b.val) = .yes from servedPage_of_mayWrite h]
  exact congrArg Host.Outcome.next hw

end Sys2Proof.Machine
end

section
/-! The preload: the span fits the window and is loaded, or all is unpinned (R173, R176). -/

namespace Sys2Proof.Machine

/-- The octets of the words that a preload reads: those of the anchor of the lowest polder whose BIND names the binding, or those of
the last run (log entry 29). -/
def preOcts (s : State) (b : Nat) : Nat :=
  match (List.range 64).find? (fun p => getF s F.POL_BIND_SEQSEL p == b && rsOf s p != .off) with
  | some p => (octsOf s (anchor s p)).length
  | none => (bndOf s b).noct

/-- The binding takes these octets. -/
def octsTaken (s : State) (b : Nat) : State := setBnd s b { bndOf s b with noct := preOcts s b }

/-- The window of a preload, in units of 256 KiB: the one the binding has, or CWIN as far as there is space (R173). -/
def preWin (s : State) (b : Nat) : Nat :=
  if getF s (F.MEM_ALLOC_WIN b) 0 ≠ 0 then getF s (F.MEM_ALLOC_WIN b) 0 else min (cwin s b) (spareUnits (octsTaken s b) b / 64)

/-- The state in which the binding has its octets and the window. -/
def preWindowed (s : State) (b : Nat) : State :=
  if getF s (F.MEM_ALLOC_WIN b) 0 ≠ 0 then octsTaken s b
  else showFree (setF (octsTaken s b) (F.MEM_ALLOC_WIN b) 0 (Nat.min (cwin s b) (spareUnits (octsTaken s b) b / 64)))

/-- The span of `n` words from `va` on, as the binding with its octets addresses it. -/
def preSpan (s : State) (b va n : Nat) (compact : Bool) : Span := spanAt (octsTaken s b) b va n compact

/-- The lines that the window has free. -/
def preFree (s : State) (b : Nat) : Nat := 4096 * preWin s b - ((spans s b).map Span.lines).sum

theorem bndOf_preWindowed (s : State) (b : Nat) : bndOf (preWindowed s b) b = { bndOf s b with noct := preOcts s b } := by
  unfold preWindowed octsTaken
  split <;> simp [showFree]

/-- The window leaves every field but ALLOC.WIN and CFREE. -/
theorem getF_preWindowed (s : State) (b : Nat) {f : Fld} (n : Nat) (hw : f.tag ≠ (F.MEM_ALLOC_WIN b).tag)
    (hc : f.tag ≠ F.MEM_CFREE_N.tag) : getF (preWindowed s b) f n = getF s f n := by
  unfold preWindowed
  split
  · rfl
  · exact (getF_setF_tag _ _ _ _ hc).trans (getF_setF_tag _ _ _ _ hw)

theorem cwin_le (s : State) (b : Nat) : cwin s b ≤ 64 := Nat.min_le_left ..

theorem getF_preWindowed_win (s : State) (b : Nat) : getF (preWindowed s b) (F.MEM_ALLOC_WIN b) 0 = preWin s b := by
  unfold preWindowed preWin
  split
  · rfl
  · have hfit : min (cwin s b) (spareUnits (octsTaken s b) b / 64) < 2 ^ 7 :=
      lt_of_le_of_lt (Nat.min_le_left ..) (lt_of_le_of_lt (cwin_le s b) (by decide))
    have hcf : (F.MEM_ALLOC_WIN b).tag ≠ F.MEM_CFREE_N.tag := by simp only [Fld.tag, fldKey, Page.code]; omega
    exact ((getF_setF_tag _ _ _ _ hcf).trans (getF_setF_same ..)).trans (Nat.mod_eq_of_lt hfit)

theorem freeLines_preWindowed (s : State) (b : Nat) : freeLines (preWindowed s b) b = preFree s b := by
  unfold freeLines preFree spans
  rw [getF_preWindowed_win, bndOf_preWindowed]

theorem spanAt_preWindowed (s : State) (b va n : Nat) (compact : Bool) :
    spanAt (preWindowed s b) b va n compact = preSpan s b va n compact := by
  have hlo := getF_preWindowed s b (f := F.MEM_VBASE_LO_BASE b) 0 (by simp only [Fld.tag, fldKey, Page.code]; omega)
    (by simp only [Fld.tag, fldKey, Page.code]; omega)
  have hhi := getF_preWindowed s b (f := F.MEM_VBASE_HI_BASE b) 0 (by simp only [Fld.tag, fldKey, Page.code]; omega)
    (by simp only [Fld.tag, fldKey, Page.code]; omega)
  simp only [preSpan, spanAt, wordAddr, wordBytes, vbase, hlo, hhi, bndOf_preWindowed, octsTaken, bndOf_setBnd_same, getF_setBnd]

/-- The span that the registers name. -/
def namedSpan (s : State) (b : Nat) : Span :=
  preSpan s b (getF s (F.MEM_PRE_VA_LO_VA b) 0 + 2 ^ 32 * getF s (F.MEM_PRE_VA_HI_VA b) 0) (getF s (F.MEM_PRE_LEN_N b) 0)
    (isSet s (F.MEM_PRE_VA_HI_COMPACT b) 0)

theorem preloadGo_eq {s : State} {b : Nat} (h : getF s (F.MEM_PRE_LEN_N b) 0 ≠ 0) : preloadGo s b =
    if (namedSpan s b).lines ≤ preFree s b then
      setF (setBnd (preWindowed s b) b { bndOf (preWindowed s b) b with preload := some (namedSpan s b) }) (F.MEM_PRE_VA_HI_GO b) 0 1
    else raise (preWindowed s b) .mem 0 E.MEM_CWIN_SHORT := by
  unfold preloadGo
  rw [if_neg h, namedSpan, ← spanAt_preWindowed, ← freeLines_preWindowed]
  rfl

/-- With PRE_LEN 0 all is unpinned (R176). -/
theorem preloadGo_unpins {s : State} {b : Nat} (h : getF s (F.MEM_PRE_LEN_N b) 0 = 0) :
    (bndOf (preloadGo s b) b).pins = [] ∧ (bndOf (preloadGo s b) b).preload = none ∧
    getF (preloadGo s b) (F.MEM_ALLOC_WIN b) 0 = 0 ∧ getF (preloadGo s b) (F.MEM_PRE_VA_HI_GO b) 0 = 0 := by
  unfold preloadGo
  rw [if_pos h]
  simp (disch := (simp only [Fld.tag, fldKey, Page.code]; omega)) [showFree, getF_setF_tag]

/-- A span that fits the window is loaded, beside the spans pinned before (R176). -/
theorem preloadGo_loads {s : State} {b : Nat} (h : getF s (F.MEM_PRE_LEN_N b) 0 ≠ 0) (hfit : (namedSpan s b).lines ≤ preFree s b) :
    (bndOf (preloadGo s b) b).preload = some (namedSpan s b) ∧ (bndOf (preloadGo s b) b).pins = (bndOf s b).pins ∧
    getF (preloadGo s b) (F.MEM_ALLOC_WIN b) 0 = preWin s b ∧ getF (preloadGo s b) (F.MEM_PRE_VA_HI_GO b) 0 = 1 := by
  rw [preloadGo_eq h, if_pos hfit]
  refine ⟨?_, ?_, ?_, getF_setF_same ..⟩
  · rw [bndOf_setF, bndOf_setBnd_same]
  · rw [bndOf_setF, bndOf_setBnd_same, bndOf_preWindowed]
  · rw [getF_setF_tag _ _ _ _ (by simp only [Fld.tag, fldKey, Page.code]; omega), getF_setBnd, getF_preWindowed_win]

/-- A span that does not fit is not loaded (R176). -/
theorem preloadGo_short {s : State} {b : Nat} (h : getF s (F.MEM_PRE_LEN_N b) 0 ≠ 0) (hfull : preFree s b < (namedSpan s b).lines) :
    (bndOf (preloadGo s b) b).preload = (bndOf s b).preload ∧
    (getF (preloadGo s b) (F.EVT .mem) 0).testBit E.MEM_CWIN_SHORT = true := by
  rw [preloadGo_eq h, if_neg (Nat.not_le.mpr hfull)]
  refine ⟨?_, evt_raise _ _ _ _ (by decide)⟩
  rw [bndOf_congr (bnds_raise ..), bndOf_preWindowed]

/-! What the preload reads beside its address stands as before the write. -/

theorem preOcts_congr {s t : State} (h : ∀ f n, f.page ≠ .mem → getF t f n = getF s f n) (hb : t.bnds = s.bnds) (b : Nat) :
    preOcts t b = preOcts s b := by
  have hrs (p : Nat) : rsOf t p = rsOf s p := rsOf_congr (h _ _ (by decide))
  have hanchor (p : Nat) : anchor t p = anchor s p := by
    unfold anchor
    rw [consort_congr (fun _ => h _ _ (by decide)) (fun _ => h _ _ (by decide)) hrs]
  have hocts (p : Nat) : octsOf t p = octsOf s p :=
    octsOf_congr (fun _ => owner_congr (h _ _ (by decide)) (h _ _ (by decide))) p
  have hsel (p : Nat) : getF t F.POL_BIND_SEQSEL p = getF s F.POL_BIND_SEQSEL p := h _ _ (by decide)
  simp only [preOcts, hrs, hanchor, hocts, hsel, bndOf_congr hb]

theorem spareUnits_congr {s t : State} (hwin : ∀ k, getF t (F.MEM_ALLOC_WIN k) 0 = getF s (F.MEM_ALLOC_WIN k) 0)
    (hpf : ∀ k, getF t (F.MEM_ALLOC_PF k) 0 = getF s (F.MEM_ALLOC_PF k) 0) (hb : t.bnds = s.bnds) (b : Nat) :
    spareUnits t b = spareUnits s b := by
  have hunits : bndUnits t = bndUnits s := funext fun k => by simp only [bndUnits, hwin, hpf, bndOf_congr hb]
  simp only [spareUnits, usedUnits, hunits, hpf]

variable (s : State) (k va : Nat) (compact : Bool)

/-- Of the registers of a binding the write of PRE_VA_HI changes that one only. -/
theorem getF_preStored {f : Fld} {j r : Nat} (n : Nat) (hp : f.page = .mem) (hlo : f.lo < 32) (hoff : f.off = 0x100 + 0x40 * j + r)
    (hrow : r < 0x34 ∨ 0x38 ≤ r ∧ r < 0x40) :
    getF (preStored s k va compact) f n = getF s f n := by
  have hV : f.tag ≠ (F.MEM_PRE_VA_HI_VA k).tag := by simp only [Fld.tag, fldKey, hp, hoff, Page.code]; omega
  have hC : f.tag ≠ (F.MEM_PRE_VA_HI_COMPACT k).tag := by simp only [Fld.tag, fldKey, hp, hoff, Page.code]; omega
  exact (getF_setF_tag _ _ _ _ hC).trans (getF_setF_tag _ _ _ _ hV)

theorem getF_preStored_page {f : Fld} (n : Nat) (hp : f.page ≠ .mem) : getF (preStored s k va compact) f n = getF s f n :=
  (getF_setF_page _ _ _ _ hp).trans (getF_setF_page _ _ _ _ hp)

theorem preOcts_preStored : preOcts (preStored s k va compact) k = preOcts s k :=
  preOcts_congr (fun _ n hp => getF_preStored_page s k va compact n hp) rfl k

theorem preWin_preStored : preWin (preStored s k va compact) k = preWin s k := by
  have hwin (j : Nat) := getF_preStored s k va compact (f := F.MEM_ALLOC_WIN j) 0 rfl (by simp) rfl (by decide)
  have hpf (j : Nat) := getF_preStored s k va compact (f := F.MEM_ALLOC_PF j) 0 rfl (by simp) rfl (by decide)
  have hcwin := getF_preStored s k va compact (f := F.MEM_CWIN_N k) 0 rfl (by simp) rfl (by decide)
  have hspare : spareUnits (octsTaken (preStored s k va compact) k) k = spareUnits (octsTaken s k) k :=
    spareUnits_congr (fun j => by simp only [octsTaken, getF_setBnd, hwin]) (fun j => by simp only [octsTaken, getF_setBnd, hpf])
      (by rw [octsTaken, preOcts_preStored]; rfl) k
  simp only [preWin, cwin, hwin, hcwin, hspare]

theorem preFree_preStored : preFree (preStored s k va compact) k = preFree s k := by
  unfold preFree
  rw [preWin_preStored]
  rfl

theorem preLen_preStored : getF (preStored s k va compact) (F.MEM_PRE_LEN_N k) 0 = getF s (F.MEM_PRE_LEN_N k) 0 :=
  getF_preStored s k va compact 0 rfl (by simp) rfl (by decide)

/-- The registers name the span at the address that the write has completed. -/
theorem namedSpan_preStored (hva : va < 256) : namedSpan (preStored s k va compact) k =
    preSpan s k (getF s (F.MEM_PRE_VA_LO_VA k) 0 + 2 ^ 32 * va) (getF s (F.MEM_PRE_LEN_N k) 0) compact := by
  have hlo := getF_preStored s k va compact (f := F.MEM_PRE_VA_LO_VA k) 0 rfl (by simp) rfl (by decide)
  have hbaseL := getF_preStored s k va compact (f := F.MEM_VBASE_LO_BASE k) 0 rfl (by simp) rfl (by decide)
  have hbaseH := getF_preStored s k va compact (f := F.MEM_VBASE_HI_BASE k) 0 rfl (by simp) rfl (by decide)
  have hhi : getF (preStored s k va compact) (F.MEM_PRE_VA_HI_VA k) 0 = va := by
    unfold preStored
    rw [getF_setF_tag _ _ _ _ (by simp only [Fld.tag, fldKey, Page.code]; omega), getF_setF_same]
    exact Nat.mod_eq_of_lt hva
  have hc : isSet (preStored s k va compact) (F.MEM_PRE_VA_HI_COMPACT k) 0 = compact := by
    unfold isSet preStored
    rw [getF_setF_same]
    cases compact <;> rfl
  simp only [namedSpan, hlo, hhi, hc, preLen_preStored, preSpan, spanAt, wordAddr, wordBytes, vbase, octsTaken, preOcts_preStored,
    getF_setBnd, bndOf_setBnd_same, hbaseL, hbaseH]

end Sys2Proof.Machine
end

section
/-! The end of a preload, and the commands together (R171, R172, R176, R178). -/

namespace Sys2Proof.Machine

/-- The errors of the load that lie in the lines of the span (log entry 69). -/
def ownErrs (x : Span) (l : List EccErr) : List EccErr := l.filter (fun e => x.line e.addr.toNat)

/-- The uncorrectable errors of the load: the words known to be bad and those it finds. -/
def loadUe (s : State) (x : Span) : List EccErr := readUe s x.addr x.stop (ownErrs x (Config.loadErrs s.free).2)

/-- The span has been read, with its errors. -/
def loaded (s : State) (x : Span) : State :=
  eccErrs { cycle s with free := s.free + 1 } (ownErrs x (Config.loadErrs s.free).1) (loadUe s x)

/-- The span is pinned, poisoned where it met uncorrectable errors, and no preload loads. -/
def pinned (s : State) (b : Nat) (x : Span) : Bnd :=
  { bndOf s b with pins := (bndOf s b).pins ++ [x], preload := none, poison := (bndOf s b).poison ++ poisonOf (loadUe s x) }

theorem loaded_read (s : State) (x : Span) : ErrorsRead (ownErrs x (Config.loadErrs s.free).1) (loadUe s x) s (loaded s x) :=
  have h := eccErrs_read { cycle s with free := s.free + 1 } (ownErrs x (Config.loadErrs s.free).1) (loadUe s x)
  ⟨{ h.taken with }, h.frame, h.bnds⟩

theorem exec_preloadDone {b : Bind} {s : State} {x : Span} (h : (bndOf s b.val).preload = some x) : exec (.preloadDone b) s =
    .next (raise (setF (setBnd (loaded s x) b.val (pinned s b.val x)) (F.MEM_PRE_VA_HI_GO b.val) 0 0) .mem 0 E.MEM_PRELOAD_DONE) := by
  have hb : bndOf (loaded s x) b.val = bndOf s b.val := bndOf_congr (loaded_read s x).bnds _
  show execPreloadDone b s = _
  unfold execPreloadDone pinned
  rw [← hb]
  simp only [bndOf_cycle, h]
  rfl

/-- The end of a preload (R172, R176). -/
theorem preloadDone_pins {b : Bind} {s : State} {x : Span} (h : (bndOf s b.val).preload = some x) :
    Completes (exec (.preloadDone b) s) fun t =>
      bndOf t b.val = pinned s b.val x ∧ getF t (F.MEM_PRE_VA_HI_GO b.val) 0 = 0 ∧
      (getF t (F.EVT .mem) 0).testBit E.MEM_PRELOAD_DONE = true ∧
      ErrorsTaken (ownErrs x (Config.loadErrs s.free).1) (loadUe s x) s t ∧
      SameBut (eccFlds ++ [(F.MEM_PRE_VA_HI_GO b.val, 0)]) s t := by
  have hread := loaded_read s x
  have hstored := hread.taken.of_regs (u := setBnd (loaded s x) b.val (pinned s b.val x)) rfl rfl
  have hframe : SameBut (eccFlds ++ [(F.MEM_PRE_VA_HI_GO b.val, 0)]) s (setBnd (loaded s x) b.val (pinned s b.val x)) :=
    (hread.frame.mono fun _ hx => List.mem_append_left _ hx).of_regs rfl
  have hne : ∀ g ∈ [F.MEM_ECCCE_N, F.MEM_ECCUE_N, F.EVT .mem], g.tag ≠ (F.MEM_PRE_VA_HI_GO b.val).tag := by
    intro g hg
    simp only [List.mem_cons, List.not_mem_nil, or_false] at hg
    rcases hg with rfl | rfl | rfl <;> simp only [Fld.tag, fldKey, Page.code] <;> omega
  refine ⟨_, exec_preloadDone h, ?_, ?_, evt_raise _ _ _ _ (by decide), (hstored.setF 0 0 hne).raise _,
    (hframe.setF _ _ _ (by simp)).raise _ _ _ (by simp [eccFlds]) (by simp [eccFlds])⟩
  · rw [bndOf_congr (bnds_raise ..), bndOf_setF, bndOf_setBnd_same]
  · rw [getF_raise _ _ _ _ _ _ (by simp only [Fld.tag, fldKey, Page.code]; omega) (by simp only [Fld.tag, fldKey, Page.code]; omega),
      getF_setF_same]
    rfl

/-- What errors leave behind, as `Obligations.VectorMemoryCommands` lists it. -/
theorem ErrorsTaken.listed {ce ue : List EccErr} {s t : State} (h : ErrorsTaken ce ue s t) :
    getF t F.MEM_ECCCE_N 0 = min (getF s F.MEM_ECCCE_N 0 + ce.length) 0xFFFFFFFF ∧
    getF t F.MEM_ECCUE_N 0 = min (getF s F.MEM_ECCUE_N 0 + ue.length) 0xFFFFFFFF ∧
    (ce ≠ [] → (getF t (F.EVT .mem) 0).testBit E.MEM_ECC_CE = true) ∧
    (ue ≠ [] → (getF t (F.EVT .mem) 0).testBit E.MEM_ECC_UE = true) ∧
    ∀ e ∈ ue, e.cache = false → e.addr.toNat / 8 * 8 ∈ t.dramBad :=
  ⟨h.corrected, h.uncorrected, h.evtCe, h.evtUe, h.marked⟩

/-- Settles O36: the prefetch by `patternRefill_fetches`, the scrub by `patrolScrub_takes`; a preload acts in the state in which its
address has been stored (`exec_preload`), by the three cases of `preloadGo`, whose window and span are those of the state before; its
end by `preloadDone_pins`. -/
theorem vectorMemoryCommands : Obligations.VectorMemoryCommands := by
  unfold Obligations.VectorMemoryCommands
  intro i b n ce ue cp up va compact s
  refine ⟨fun hres hemb => ?_, ?_, fun hmay _ hgo => ?_, fun x hx => ?_⟩
  · obtain ⟨t, hexec, hlead, hpoison, htaken, hframe⟩ := patternRefill_fetches n ce ue hres hemb
    exact ⟨t, hexec, hlead, hpoison, htaken.listed, hframe⟩
  · obtain ⟨t, hexec, hread⟩ := patrolScrub_takes cp up s
    exact ⟨t, hexec, hread.taken.listed, hread.frame, hread.bnds⟩
  · have hspan := namedSpan_preStored s b.val va.toNat compact va.isLt
    have hfree := preFree_preStored s b.val va.toNat compact
    have hlen := preLen_preStored s b.val va.toNat compact
    have hexec := exec_preload va compact hmay hgo
    refine ⟨fun hzero => ⟨_, hexec, preloadGo_unpins (hlen.trans hzero)⟩, fun hne hfit => ⟨_, hexec, ?_⟩,
      fun hne hfull => ⟨_, hexec, ?_⟩⟩
    · obtain ⟨hload, hpins, hwin, hgo'⟩ := preloadGo_loads (fun h => hne (hlen.symm.trans h)) (by rw [hspan, hfree]; exact hfit)
      exact ⟨hload.trans (congrArg some hspan), hpins, hwin.trans (preWin_preStored ..), hgo'⟩
    · exact preloadGo_short (fun h => hne (hlen.symm.trans h)) (by rw [hspan, hfree]; exact hfull)
  · obtain ⟨t, hexec, hbnd, hgo, hdone, htaken, hframe⟩ := preloadDone_pins hx
    exact ⟨t, hexec, hbnd, hgo, hdone, htaken.listed, hframe⟩

end Sys2Proof.Machine
end

section
/-! The bindings stay through the operations on pins, queues, the parametric unit and records: none of these operations writes a
binding of `State.bnds`. -/

namespace Sys2Proof.Machine

@[simp] theorem bnds_ite (c : Prop) [Decidable c] (a b : State) : (if c then a else b).bnds = if c then a.bnds else b.bnds :=
  apply_ite State.bnds c a b

@[simp] theorem bnds_forAll {g : State → Nat → State} (h : ∀ s n, (g s n).bnds = s.bnds) (l : List Nat) (s : State) :
    (forAll l s g).bnds = s.bnds := forAll_same h l s

@[simp] theorem bnds_foldl {α : Type} {g : State → α → State} (h : ∀ s a, (g s a).bnds = s.bnds) (l : List α) (s : State) :
    (l.foldl g s).bnds = s.bnds := by
  induction l generalizing s with
  | nil => rfl
  | cons a l ih => rw [List.foldl_cons, ih, h]

@[simp] theorem bnds_forAll_setChan (x : State → Nat → Chan) (l : List Nat) (s : State) :
    (forAll l s fun s c => setChan s c (x s c)).bnds = s.bnds := bnds_forAll (fun _ _ => setChan_bnds ..) l s

/-- Records leave the bindings alone (R247, R252). -/
theorem offRecords_bnds : OffRecords State.bnds where
  strm _ _ _ := rfl
  pool _ _ := rfl
  free _ _ := rfl
  flight _ _ := rfl
  unit _ _ _ _ := rfl
  drop s _ := bnds_raise s ..
  recDone := fun _ _ => bnds_raise ..
  eor := fun _ _ => bnds_raise ..
  astate _ _ _ := rfl

section
variable (s : State)

@[simp] theorem bnds_addCt (f : Fld) (n k : Nat) : (addCt s f n k).bnds = s.bnds := rfl

@[simp] theorem bnds_setB (b : Nat) (x y : Fld) (v : Nat) : (setB s b x y v).bnds = s.bnds := by simp [setB]

@[simp] theorem bnds_setRs (p : Nat) (r : RS) : (setRs s p r).bnds = s.bnds := rfl

@[simp] theorem bnds_raiseIf (c : Bool) (p : Page) (n b : Nat) : (raiseIf c s p n b).bnds = s.bnds := by
  simp [raiseIf, bnds_raise]

@[simp] theorem bnds_causeOn (f : Nat) (names : List Nat) : (causeOn s f names).bnds = s.bnds := by
  unfold causeOn
  split <;> rfl

@[simp] theorem bnds_muteStarts (p : Nat) (f : Nat → Bool) (t : Stamp) : (muteStarts s p f t).bnds = s.bnds := by
  simp [muteStarts, muteStart]

/-! Queues (R131). -/

@[simp] theorem bnds_putQueue (q : Nat) (x : DacQ) : (putQueue s q x).bnds = s.bnds := by simp [putQueue]

@[simp] theorem bnds_emptyQueue (q : Nat) : (emptyQueue s q).bnds = s.bnds := bnds_putQueue ..

@[simp] theorem bnds_pushEntry (q : Nat) (e : BitVec 64) : (pushEntry s q e).bnds = s.bnds := by simp [pushEntry, bnds_raise]

@[simp] theorem bnds_pushStaged (p k : Nat) : (pushStaged s p k).bnds = s.bnds := by simp [pushStaged, bnds_raise]

@[simp] theorem bnds_pushLset (p : Nat) (ls : BitVec 4) : (pushLset s p ls).bnds = s.bnds := by simp [pushLset]

/-! The parametric unit (R104 to R119). -/

@[simp] theorem bnds_setClaim (c v : Nat) : (setClaim s c v).bnds = s.bnds := by simp [setClaim]

@[simp] theorem bnds_takeNew (n : PmuNew) : (takeNew s n).bnds = s.bnds := by simp [takeNew]

@[simp] theorem bnds_refuseBudget (p : Option Nat) (d : Nat) : (refuseBudget s p d).bnds = s.bnds := by
  cases p <;> simp [refuseBudget, bnds_raise]

@[simp] theorem bnds_showConv (p : Nat) : (showConv s p).bnds = s.bnds := by simp [showConv]

@[simp] theorem bnds_disconnectOct (o : Nat) : (disconnectOct s o).bnds = s.bnds :=
  bnds_forAll (fun _ _ => by simp [disconnect]) _ s

@[simp] theorem bnds_fire (p : Nat) (t : Stamp) (b : Option Nat) : (fire s p t b).bnds = s.bnds :=
  bnds_forAll (fun _ _ => by simp [beginConv, bnds_raise]) _ s

@[simp] theorem bnds_tidyBurst (p : Nat) : (tidyBurst s p).bnds = s.bnds := by simp [tidyBurst]

@[simp] theorem bnds_stopBurst (p n : Nat) : (stopBurst s p n).bnds = s.bnds := by simp [stopBurst]

@[simp] theorem bnds_showPmu (p : Nat) : (showPmu s p).bnds = s.bnds := by simp [showPmu, showOps]

@[simp] theorem bnds_queueOp (p : Nat) (cs : List Nat) (op : PmuOp) : (queueOp s p cs op).bnds = s.bnds := by simp [queueOp]

@[simp] theorem bnds_applyOn (d : Nat) (r : Nat × PmuOp) : (applyOn d s r).bnds = s.bnds := by simp [applyOn, holdClaim]

@[simp] theorem bnds_applyOps (rs : List (Nat × PmuOp)) : (applyOps s rs).bnds = s.bnds := by simp [applyOps]

@[simp] theorem bnds_fireOrder (p : Nat) (x : Trig) : (fireOrder s p x).bnds = s.bnds := by
  unfold fireOrder
  split <;> simp

@[simp] theorem bnds_fireRound (t : Stamp) : (fireRound s t).bnds = s.bnds := by
  unfold fireRound
  split
  · rfl
  · next t1 _ =>
    extract_lets mine s1
    have h1 : s1.bnds = s.bnds := bnds_foldl (fun _ _ => setPol_bnds ..) mine s
    simp [h1]

@[simp] theorem bnds_pmuDue (t : Stamp) : (pmuDue s t).bnds = s.bnds := bnds_foldl (fun _ _ => bnds_fireRound ..) _ s

@[simp] theorem bnds_endsBurst (p : Nat) (t : Stamp) : (endsBurst s p t).bnds = s.bnds := by simp [endsBurst, pmuNowDue, order]

/-! Pins (R146, R156, R158). -/

@[simp] theorem bnds_dueDeskew (c : Nat) : (dueDeskew s c).bnds = s.bnds := by simp [dueDeskew, takeDeskew]

@[simp] theorem bnds_playChar (c t i per : Nat) (r : VecRef) (park : Bool) : (playChar s c t i per r park).bnds = s.bnds := by
  refine bnds_foldl (fun _ _ => ?_) _ s
  split <;> simp [bnds_raise]

@[simp] theorem bnds_parkPeriod (c p : Nat) : (parkPeriod s c p).bnds = s.bnds := by
  unfold parkPeriod
  split <;> simp

@[simp] theorem bnds_layAll (c p : Nat) : (layAll s c p).bnds = s.bnds := by
  unfold layAll
  split
  · rfl
  · refine bnds_foldl (fun u _ => ?_) _ s
    split
    · split <;> simp
    · rfl

@[simp] theorem bnds_setPark (p t : Nat) (a : Stamp) (b : Option Stamp) (quiet : Bool) : (setPark s p t a b quiet).bnds = s.bnds := by
  simp [setPark]

@[simp] theorem bnds_playWord (b p va tset : Nat) (cp : Bool) (es : List (BitVec 192)) (vwi per : Nat) (t : Stamp) :
    (playWord s b p va tset cp es vwi per t).bnds = s.bnds := by
  refine bnds_forAll (fun _ _ => ?_) _ s
  split <;> simp

/-! Records (R237, R238, R247). -/

@[simp] theorem bnds_gateOpen (p : Nat) (t : Stamp) : (gateOpen s p t).bnds = s.bnds := by simp [gateOpen]

@[simp] theorem bnds_gateClose (p : Nat) (t : Stamp) : (gateClose s p t).bnds = s.bnds := offRecords_bnds.gateClose ..

@[simp] theorem bnds_acqStart (p : Nat) (t : Stamp) : (acqStart s p t).bnds = s.bnds := by
  simp [acqStart, offRecords_bnds.markAll, armUnit, setAstate]

@[simp] theorem bnds_octActive (o : Nat) : (octActive s o).bnds = s.bnds := by simp [octActive, setPstate]

@[simp] theorem bnds_firstWord (p : Nat) (t : Stamp) : (firstWord s p t).bnds = s.bnds := by simp [firstWord, bnds_raise]

/-! A member that stops (R61). -/

@[simp] theorem bnds_abortPins (p : Nat) : (abortPins s p).bnds = s.bnds := by simp [abortPins, pmuNowDue]

@[simp] theorem bnds_toStopping (b p : Nat) (abort : Bool) : (toStopping s b p abort).bnds = s.bnds := by
  unfold toStopping
  extract_lets y paused s1 x s2 s3 s4
  have h2 : s2.bnds = s.bnds := (offRecords_bnds.runEnd ..).trans (by simp [s1])
  have h3 : s3.bnds = s.bnds := by simp [s3, closeGate, offRecords_bnds.markRun, h2]
  have h4 : s4.bnds = s.bnds := by simp [s4, offRecords_bnds.closeRec, offRecords_bnds.closeEvent, h3]
  simp [parkOut, h4]

end

end Sys2Proof.Machine
end

section
/-! Where a segment sequencer plays (R197, R198, R200): the registers and the parts of its binding that say so stay through the
operations of a word beside those that move it on. -/

namespace Sys2Proof.Machine

/-- Where a sequencer plays: the entry in play (CURENT), its passes (CURPASS), the entries entered (ENTCNT), the next word of the pass
and the words issued. -/
structure SegPlay where
  ent : Nat
  pass : Nat
  entries : Nat
  off : Nat
  vwi : Nat

/-- Where sequencer `q` plays. -/
def segPlay (s : State) (q : Nat) : SegPlay :=
  { ent := getF s F.SEQ_STATE_CURENT q, pass := getF s F.SEQ_CURPASS_PASS q, entries := getF s F.SEQ_ENTCNT_N q
    off := (bndOf s q).off, vwi := (bndOf s q).vwi }

/-- The fields among them. -/
def segFlds : List Fld := [F.SEQ_STATE_CURENT, F.SEQ_CURPASS_PASS, F.SEQ_ENTCNT_N]

section
variable (s : State) (q : Nat)

theorem segPlay_congr {s t : State} {q : Nat} (hb : t.bnds = s.bnds) (hf : ∀ f ∈ segFlds, getF t f q = getF s f q) :
    segPlay t q = segPlay s q := by
  simp only [segFlds, List.forall_mem_cons, List.not_mem_nil, false_implies, implies_true, and_true] at hf
  obtain ⟨hent, hpass, hcount⟩ := hf
  simp only [segPlay, hent, hpass, hcount, bndOf_congr hb]

/-- What writes neither the bindings nor the SEQ pages leaves the sequencer where it plays. -/
theorem segPlay_of_page {s t : State} {q : Nat} (hb : t.bnds = s.bnds) (hf : ∀ f : Fld, f.page = .seq → getF t f q = getF s f q) :
    segPlay t q = segPlay s q :=
  segPlay_congr hb fun f hmem => hf f (by revert f; decide)

theorem segPlay_ite (c : Prop) [Decidable c] (a b : State) :
    segPlay (if c then a else b) q = if c then segPlay a q else segPlay b q := apply_ite (segPlay · q) c a b

theorem segPlay_forAll {g : State → Nat → State} (h : ∀ s n, segPlay (g s n) q = segPlay s q) (l : List Nat) :
    segPlay (forAll l s g) q = segPlay s q := forAll_same (φ := (segPlay · q)) h l s

theorem segPlay_setF {f : Fld} (n v : Nat) (h : ∀ g ∈ segFlds, g.tag ≠ f.tag) : segPlay (setF s f n v) q = segPlay s q :=
  segPlay_congr rfl fun g hg => getF_setF_tag _ _ _ _ (h g hg)

theorem segPlay_setF_page {f : Fld} (n v : Nat) (h : f.page ≠ .seq) : segPlay (setF s f n v) q = segPlay s q :=
  segPlay_of_page rfl fun _ hg => getF_setF_page _ _ _ _ (hg ▸ h.symm)

theorem segPlay_addCt_page {f : Fld} (n k : Nat) (h : f.page ≠ .seq) : segPlay (addCt s f n k) q = segPlay s q :=
  segPlay_setF_page s q n _ h

/-- Its own fields show what is written. -/
theorem segPlay_setEnt (v : Nat) : segPlay (setF s F.SEQ_STATE_CURENT q v) q = { segPlay s q with ent := v % 2 ^ 15 } := by
  simp (disch := decide) only [segPlay, getF_setF_same, getF_setF_tag, bndOf_setF]
  rfl

theorem segPlay_setPass (v : Nat) : segPlay (setF s F.SEQ_CURPASS_PASS q v) q = { segPlay s q with pass := v % 2 ^ 20 } := by
  simp (disch := decide) only [segPlay, getF_setF_same, getF_setF_tag, bndOf_setF]
  rfl

theorem segPlay_countEntry : segPlay (addCt s F.SEQ_ENTCNT_N q 1) q =
    { segPlay s q with entries := min ((segPlay s q).entries + 1) 0xFFFFFFFF } := by
  simp (disch := decide) only [segPlay, getF_addCt_same, getF_addCt_tag, bndOf_congr (bnds_addCt ..)]
  rfl

theorem segPlay_raise (p : Page) (n b : Nat) : segPlay (raise s p n b) q = segPlay s q :=
  segPlay_congr (bnds_raise ..) fun f hf => getF_raise _ _ _ _ _ _ (by revert f; cases p <;> decide) (by revert f; cases p <;> decide)

theorem segPlay_causeOn (f : Nat) (names : List Nat) : segPlay (causeOn s f names) q = segPlay s q :=
  segPlay_of_page (bnds_causeOn ..) fun _ _ => causeOn_page ..

/-- A write of the binding shows in the word of the pass and in the words issued. -/
theorem segPlay_setBnd (x : Bnd) : segPlay (setBnd s q x) q = { segPlay s q with off := x.off, vwi := x.vwi } := by
  simp [segPlay]

theorem segPlay_setBnd_off {x : Bnd} (hv : x.vwi = (bndOf s q).vwi) :
    segPlay (setBnd s q x) q = { segPlay s q with off := x.off } := by
  rw [segPlay_setBnd, hv]
  rfl

theorem segPlay_setBnd_keep {x : Bnd} (ho : x.off = (bndOf s q).off) (hv : x.vwi = (bndOf s q).vwi) :
    segPlay (setBnd s q x) q = segPlay s q := by
  rw [segPlay_setBnd, ho, hv]
  rfl

theorem segPlay_setB (b : Nat) {x y : Fld} (v : Nat) (hx : ∀ g ∈ segFlds, g.tag ≠ x.tag) (hy : ∀ g ∈ segFlds, g.tag ≠ y.tag) :
    segPlay (setB s b x y v) q = segPlay s q := by
  unfold setB
  split
  · exact segPlay_setF _ _ _ _ hx
  · exact segPlay_setF _ _ _ _ hy

theorem segPlay_setIssuing (b : Nat) (v : Bool) : segPlay (setIssuing s b v) q = segPlay s q :=
  segPlay_setB _ _ _ _ (by decide) (by decide)

theorem segPlay_setCause (b sq me : Nat) : segPlay (setCause s b sq me) q = segPlay s q := by
  unfold setCause
  split
  · exact segPlay_setF _ _ _ _ (by decide)
  · exact segPlay_setF _ _ _ _ (by decide)

/-! The run ends (R60, R61, R170, R172, R207). -/

theorem segPlay_toStopping (b p : Nat) (abort : Bool) : segPlay (toStopping s b p abort) q = segPlay s q :=
  segPlay_of_page (bnds_toStopping ..) fun _ hf => by simp [toStopping_page, hf]

theorem segPlay_endIssue (sq me : Nat) (abort : Bool) : segPlay (endIssue s q sq me abort) q = segPlay s q := by
  unfold endIssue
  extract_lets mem s0 s1 _ s2
  have h1 : segPlay s1 q = segPlay s q := by
    simp only [s1, s0, segPlay_ite, segPlay_setF_page _ _ _ _ (show F.MCE_STATE_WAITING.page ≠ .seq by decide), segPlay_setIssuing,
      segPlay_setCause, ite_self]
  rw [segPlay_setF_page _ _ _ _ (by simp), segPlay_forAll _ _ (fun _ _ => segPlay_toStopping ..),
    segPlay_setBnd_keep _ _ (by rfl) (by rfl), h1]

theorem segPlay_stopFault (sq me : Nat) : segPlay (stopFault s q sq me) q = segPlay s q := by
  unfold stopFault
  simp only [segPlay_causeOn, segPlay_ite, segPlay_raise, segPlay_endIssue, ite_self]

theorem segPlay_vmStop (code : Nat) : segPlay (vmStop s q code) q = segPlay s q := by
  unfold vmStop
  extract_lets mem s1 s2 s3 _ s4 s5
  have h2 : segPlay s2 q = segPlay s q := by
    refine (segPlay_forAll _ _ (fun _ _ => ?_) _).trans ?_
    · rw [segPlay_raise, segPlay_setF_page _ _ _ _ (by simp)]
    · rw [segPlay_raise, segPlay_setF_page _ _ _ _ (by simp)]
  have h4 : segPlay s4 q = segPlay s q := by
    have h3 : segPlay s3 q = segPlay s q := by simp only [s3, segPlay_ite, segPlay_causeOn, h2, ite_self]
    simp only [s4]
    split
    · exact (segPlay_setBnd_keep _ _ (by rfl) (by rfl)).trans h3
    · exact h3
  rw [segPlay_stopFault]
  simp only [s5, segPlay_ite, segPlay_setF_page _ _ _ _ (show F.MCE_STOPINFO_FADDR.page ≠ .seq by decide), h4, ite_self]

theorem segPlay_wordStop (va : Nat) (cp : Bool) (code : Nat) : segPlay (wordStop s q va cp code) q = segPlay s q := by
  unfold wordStop
  rw [segPlay_vmStop]
  split
  · exact segPlay_setBnd_keep _ _ (by rfl) (by rfl)
  · split
    · exact segPlay_addCt_page _ _ _ _ (by simp)
    · rfl

/-! The path, the window and the overlay (R174, R182, R187, R188). -/

theorem segPlay_leadRegained : segPlay (leadRegained s q) q = segPlay s q := by
  unfold leadRegained
  split
  · exact segPlay_setBnd_keep _ _ (by rfl) (by rfl)
  · split
    · exact segPlay_setBnd_keep _ _ (by rfl) (by rfl)
    · rfl

theorem segPlay_fetched (ws : List (Nat × Bool)) (found : List EccErr) : segPlay (fetched s q ws found) q = segPlay s q :=
  (segPlay_setBnd_keep _ _ (by rfl) (by rfl)).trans <|
    segPlay_of_page (eccErrs_read ..).bnds fun _ hf => by simp [eccErrs_page, hf]

theorem segPlay_jumpLead (fixed : Bool) : segPlay (jumpLead s q fixed) q = segPlay s q := by
  unfold jumpLead
  split
  · rw [segPlay_leadRegained, segPlay_fetched, segPlay_setBnd_keep _ _ (by rfl) (by rfl)]
  · exact segPlay_setBnd_keep _ _ (by rfl) (by rfl)

theorem segPlay_lockSpan (x : Span) : segPlay (lockSpan s q x) q = segPlay s q := by
  unfold lockSpan
  split
  · rfl
  · split
    · exact segPlay_setBnd_keep _ _ (by rfl) (by rfl)
    · exact segPlay_addCt_page _ _ _ _ (by simp)

theorem segPlay_takeOvl (f vwi : Nat) (acc : List (BitVec 192)) : segPlay (takeOvl f s q vwi acc).1 q = segPlay s q := by
  induction f generalizing s acc with
  | zero => rfl
  | succ f ih =>
    unfold takeOvl
    extract_lets y a e s1
    have h1 : segPlay s1 q = segPlay s q := segPlay_setBnd_keep _ _ (by rfl) (by rfl)
    split
    · rfl
    split
    · rfl
    split
    · rw [ih, h1]
    split
    · rw [ih, segPlay_raise, segPlay_addCt_page _ _ _ _ (by simp), h1]
    · rw [ih, segPlay_setBnd_keep _ _ (by rfl) (by rfl), h1]

/-! A word issues, and what follows it (R197, R205). -/

theorem segPlay_insertIdle (n : Nat) : segPlay (insertIdle s q n) q = segPlay s q := by
  unfold insertIdle
  split
  · rfl
  · rw [segPlay_addCt_page _ _ _ _ (by simp), segPlay_setBnd_keep _ _ (by rfl) (by rfl)]
    exact segPlay_forAll _ _ (fun _ _ => segPlay_of_page (bnds_setPark ..) fun _ hf => by simp [setPark_page, hf]) _

theorem segPlay_afterWord (streamed safe thr : Bool) : segPlay (afterWord s q streamed safe thr) q = segPlay s q := by
  unfold afterWord
  extract_lets y n low s1 since per k _ s2 _
  have h1 : segPlay s1 q = segPlay s q := by
    simp only [s1, segPlay_ite, segPlay_addCt_page _ _ _ _ (show (F.MEM_URCNT_N q).page ≠ .seq by simp), ite_self]
  have h2 : segPlay s2 q = segPlay s q := (segPlay_setBnd_keep _ _ (by rfl) (by rfl)).trans h1
  split
  · exact (segPlay_setBnd_keep _ _ (by rfl) (by rfl)).trans h2
  · rw [segPlay_ite, segPlay_vmStop, segPlay_leadRegained, segPlay_insertIdle, ite_self, h2]

/-- A word that issues is counted, and moves nothing else (R197). -/
theorem segPlay_issueWord (w : WordOp) :
    segPlay (issueWord s q w) q = { segPlay s q with vwi := (segPlay s q).vwi + 1 } := by
  unfold issueWord
  extract_lets y a cp per mem t streamed s1 s2 s3 s4 g o d s5 s6 s7 z act
  have h1 : segPlay s1 q = segPlay s q := by
    simp only [s1]
    split
    · rfl
    · exact segPlay_forAll _ _ (fun _ _ => segPlay_of_page (bnds_firstWord ..) fun _ hf => by simp [firstWord_page, hf]) _
  have h2 : segPlay s2 q = segPlay s q := by
    simp only [s2]
    split
    · exact (segPlay_forAll _ _ (fun _ _ => segPlay_of_page (bnds_muteStarts ..) fun _ _ => muteStarts_page ..) _).trans h1
    · exact h1
  have h3 : segPlay s3 q = segPlay s q := by
    refine (segPlay_forAll _ _ (fun _ _ => ?_) _).trans h2
    split
    · exact segPlay_of_page (bnds_gateOpen ..) fun _ _ => gateOpen_page ..
    · exact segPlay_of_page (bnds_gateClose ..) fun _ _ => gateClose_page ..
  have h4 : segPlay s4 q = segPlay s q :=
    (segPlay_forAll _ _ (fun _ _ => segPlay_of_page (bnds_pushLset ..) fun _ hf => by simp [pushLset_page, hf]) _).trans h3
  have ho : segPlay o.1 q = segPlay s q := (segPlay_takeOvl ..).trans ((segPlay_setBnd_keep _ _ (by rfl) (by rfl)).trans h4)
  have hd : segPlay d q = segPlay s q := by
    refine (segPlay_forAll _ _ (fun _ _ => segPlay_forAll _ _ (fun _ _ => ?_) _) _).trans ho
    exact segPlay_of_page (bnds_dueDeskew ..) fun _ hf => by simp [dueDeskew_page, hf]
  have h5 : segPlay s5 q = segPlay s q :=
    (segPlay_forAll _ _ (fun _ _ => segPlay_of_page (bnds_playWord ..) fun _ hf => by simp [playWord_page, hf]) _).trans hd
  have h6 : segPlay s6 q = segPlay s q := by
    refine (segPlay_forAll _ _ (fun _ _ => ?_) _).trans h5
    rw [segPlay_setF_page _ _ _ _ (by simp), segPlay_setF_page _ _ _ _ (by simp)]
  have h7 : segPlay s7 q = segPlay s q := (segPlay_setBnd_keep _ _ (by rfl) (by rfl)).trans h6
  have hoff : z.off = (segPlay s q).off := congrArg SegPlay.off h7
  rw [segPlay_setIssuing, segPlay_setBnd, h7, ← hoff]
  rfl

end

end Sys2Proof.Machine
end

section
/-! SEGMENT_FETCH and SEGMENT_WORD_ISSUE: the entry that is entered, the word that issues, the entry that may not be played (R197 to
R200, R207). -/

namespace Sys2Proof.Machine

section
variable (s : State) (q : Nat)

/-! An entry is entered (R174, R198, R200, R202). -/

theorem segPlay_clearLatch (code : Nat) : segPlay (clearLatch s q code) q = segPlay s q := by
  unfold clearLatch
  split
  · exact segPlay_setB _ _ _ _ (by decide) (by decide)
  split
  · rw [segPlay_setB _ _ _ _ (by decide) (by decide), segPlay_setBnd_keep _ _ (by rfl) (by rfl)]
  split
  · exact segPlay_setB _ _ _ _ (by decide) (by decide)
  · rfl

/-- The entry that is entered is the one in play, at its first word and with no pass over; it is counted. -/
theorem segPlay_enterEntry (e jc : Nat) : segPlay (enterEntry s q e jc) q =
    { ent := e % 2 ^ 15, pass := 0, entries := min ((segPlay s q).entries + 1) 0xFFFFFFFF, off := 0, vwi := (segPlay s q).vwi } := by
  unfold enterEntry
  extract_lets v s0 s1 sU s2 s3 _ s4 _
  have h1 : segPlay s1 q = segPlay s q := by
    simp only [s1]
    split
    · rfl
    · split
      · exact (segPlay_clearLatch ..).trans (segPlay_setF _ _ _ _ (by decide))
      · exact segPlay_setF _ _ _ _ (by decide)
  have h2 : segPlay s2 q = segPlay s q := by
    have hu : segPlay sU q = segPlay s q := (segPlay_setBnd_keep _ _ (by rfl) (by rfl)).trans h1
    simp only [s2, segPlay_ite, segPlay_jumpLead, hu, ite_self]
  have h3 : segPlay s3 q = { segPlay s q with
      ent := e % 2 ^ 15, pass := 0, entries := min ((segPlay s q).entries + 1) 0xFFFFFFFF } := by
    simp only [s3, segPlay_countEntry, segPlay_setPass, segPlay_setEnt, h2, Nat.zero_mod]
  have h4 : segPlay s4 q = { segPlay s3 q with off := 0 } := segPlay_setBnd_off _ _ (by rfl)
  have hlock : segPlay (if sgRpt v = 1 then s4 else lockSpan s4 q { spanAt s4 q (sgVaddr v) (sgLen v)
      (compact s (bndAnchor s q) (sgTset v)) with seen := some [], keep := decide (sgRpt v = 0) }) q = segPlay s4 q := by
    rw [segPlay_ite, segPlay_lockSpan, ite_self]
  rw [hlock, h4, h3]

/-! A word of the entry in play (R197, R198). -/

/-- The entry in play, as the table has it. -/
def segNow : Nat := seg s (segPlay s q).ent

/-- Why the next word of the entry in play may not issue (R170, R172, R185). -/
def segWordStop : Option Nat :=
  issueStop s q (sgVaddr (segNow s q) + (segPlay s q).off) (compact s (bndAnchor s q) (sgTset (segNow s q)))

/-- Where the sequencer plays after one more word: at the next word of the pass, or at the first with one more pass over. -/
def segNext : SegPlay :=
  { segPlay s q with
    pass := if (segPlay s q).off + 1 < sgLen (segNow s q) then (segPlay s q).pass else min ((segPlay s q).pass + 1) 0xFFFFF
    off := if (segPlay s q).off + 1 < sgLen (segNow s q) then (segPlay s q).off + 1 else 0
    vwi := (segPlay s q).vwi + 1 }

/-- A word that may not issue stops the run where it is. -/
theorem segPlay_segWord_stopped {code : Nat} (h : segWordStop s q = some code) : segPlay (segWord s q) q = segPlay s q := by
  unfold segWord
  extract_lets
  split
  · exact segPlay_wordStop ..
  · next hnone => exact absurd (h.symm.trans hnone) (Option.some_ne_none _)

theorem segPlay_segWord_issued (h : segWordStop s q = none) : segPlay (segWord s q) q = segNext s q := by
  unfold segWord
  extract_lets e v y va cp streamed fin s1 s2 _ pass s3 ended to' _ s4
  have h2 : segPlay s2 q = { segPlay s q with vwi := (segPlay s q).vwi + 1 } := by
    rw [← segPlay_issueWord]
    simp only [s2]
    split
    · exact segPlay_forAll _ _ (fun _ _ => segPlay_of_page (bnds_pushStaged ..) fun _ hf => by simp [pushStaged_page, hf]) _
    · rfl
  have h3 : segPlay s3 q = { segPlay s2 q with pass := min pass 0xFFFFF } := by
    have hlt : min pass 0xFFFFF < 2 ^ 20 := by omega
    refine (segPlay_setBnd_keep _ _ (by rfl) (by rfl)).trans ?_
    rw [segPlay_setPass]
    exact congrArg (fun n => { segPlay s2 q with pass := n }) (Nat.mod_eq_of_lt hlt)
  have h4 : segPlay s4 q = { segPlay s3 q with off := 0 } := segPlay_setBnd_off _ _ (by rfl)
  rw [show issueStop s q va cp = none from h]
  unfold segNext
  by_cases hlt : (segPlay s q).off + 1 < sgLen (segNow s q)
  · refine Eq.trans (congrArg (segPlay · q) (if_pos hlt)) ?_
    rw [segPlay_afterWord, segPlay_setBnd_off _ _ (by rfl), h2, if_pos hlt, if_pos hlt]
    rfl
  · refine Eq.trans (congrArg (segPlay · q) (if_neg hlt)) ?_
    rw [segPlay_ite, segPlay_endIssue, segPlay_afterWord, ite_self, h4, h3, h2, if_neg hlt, if_neg hlt]
    rfl

/-- A word leaves the entry in play, and counts no entry. -/
theorem segPlay_segWord_entry : (segPlay (segWord s q) q).ent = (segPlay s q).ent ∧
    (segPlay (segWord s q) q).entries = (segPlay s q).entries := by
  cases h : segWordStop s q with
  | some code => rw [segPlay_segWord_stopped s q h]; exact ⟨rfl, rfl⟩
  | none =>
    rw [segPlay_segWord_issued s q h]; exact ⟨rfl, rfl⟩

/-! The stop of the run by an entry that may not be played (R199, R200, R207). -/

theorem rsOf_stopFault (sq me p : Nat) : rsOf (stopFault s q sq me) p = if p ∈ bndMem s q then .stopping else rsOf s p := by
  rw [← rsOf_endIssue s q sq me true]
  unfold stopFault
  exact rsOf_congr (by simp only [causeOn_page, getF_ite, raise_rs, ite_self])

/-- The cause given for a sequencer shows in STATE. -/
theorem stopCause_endIssue_seq {sq : Nat} (me : Nat) (abort : Bool) (hq : q < 16) (hsq : sq < 8) :
    getF (endIssue s q sq me abort) F.SEQ_STATE_STOPCAUSE q = sq := by
  have hstop (u : State) (n : Nat) : getF (toStopping u q n abort) F.SEQ_STATE_STOPCAUSE q = getF u F.SEQ_STATE_STOPCAUSE q :=
    toStopping_page u q n abort (by decide) (by decide) (by decide) (by decide) (by decide) (by decide)
  unfold endIssue
  extract_lets mem s0 s1 _ s2
  have hset : getF s2 F.SEQ_STATE_STOPCAUSE q = sq % 2 ^ 3 := by
    simp (disch := decide) only [s2, s1, s0, hq, if_true, getF_setBnd, setIssuing, setB, setCause, getF_setF_tag, getF_setF_same]
    rfl
  rw [setF_page _ _ _ _ (by simp), forAll_page hstop, hset]
  exact Nat.mod_eq_of_lt hsq

theorem stopCause_stopFault {sq : Nat} (me : Nat) (hq : q < 16) (hsq : sq < 8) :
    getF (stopFault s q sq me) F.SEQ_STATE_STOPCAUSE q = sq := by
  unfold stopFault
  rw [causeOn_page, if_pos hq, getF_raise _ _ _ _ _ _ (by decide) (by decide), stopCause_endIssue_seq s q me true hq hsq]

/-- The causes of such a stop are 4, 5 and 7. -/
theorem entryStop_lt {e c : Nat} (h : entryStop s q e = some c) : c < 8 := by
  unfold entryStop at h
  split at h
  · cases h; decide
  split at h
  · cases h; decide
  split at h
  · cases h; decide
  · cases h

end

/-! The commands. -/

section
variable {q : Fin 16} {s : State}

/-- The entry that arrives joins those that are ready (R199). -/
theorem exec_segmentFetch {e : BitVec 15} (hres : reserved s q.val = true) (hin : inRange s q.val e.toNat = true)
    (hwant : e.toNat ∈ wanted s (entryOf s q.val)) (hnew : e.toNat ∉ (bndOf s q.val).ready) :
    exec (.segmentFetch q e) s =
      .next (setBnd (cycle s) q.val { bndOf s q.val with ready := e.toNat :: (bndOf s q.val).ready }) := by
  refine congrArg Host.Outcome.next (if_pos ?_)
  have hc : reserved (cycle s) q.val = true ∧ inRange (cycle s) q.val e.toNat = true ∧
      e.toNat ∈ wanted (cycle s) (entryOf (cycle s) q.val) := ⟨hres, hin, hwant⟩
  simp [hc, hnew]

variable (hmay : mayIssue s q.val = true)
include hmay

theorem exec_segmentWordIssue_next (hgoto : (bndOf s q.val).goto = none) :
    exec (.segmentWordIssue q) s = .next (segWord (cycle s) q.val) := by
  show execSegmentWordIssue q s = _
  simp [execSegmentWordIssue, show mayIssue (cycle s) q.val = true from hmay, hgoto]

theorem exec_segmentWordIssue_stop {n jc c : Nat} (hgoto : (bndOf s q.val).goto = some (n, jc)) (hstop : entryStop s q.val n = some c) :
    exec (.segmentWordIssue q) s = .next (stopFault (cycle s) q.val c 0) := by
  show execSegmentWordIssue q s = _
  simp [execSegmentWordIssue, show mayIssue (cycle s) q.val = true from hmay, hgoto,
    show entryStop (cycle s) q.val n = some c from hstop]

theorem exec_segmentWordIssue_enter {n jc : Nat} (hgoto : (bndOf s q.val).goto = some (n, jc)) (hgo : entryStop s q.val n = none) :
    exec (.segmentWordIssue q) s = .next (segWord (enterEntry (cycle s) q.val n jc) q.val) := by
  show execSegmentWordIssue q s = _
  simp [execSegmentWordIssue, show mayIssue (cycle s) q.val = true from hmay, hgoto,
    show entryStop (cycle s) q.val n = none from hgo]

end

/-- Settles O16: a fetched entry by `exec_segmentFetch`; a word by `segPlay_segWord_issued`, which says where the sequencer plays after
it; an entry that may not be played by the stop fault's run states and cause; one that is entered by `segPlay_enterEntry`, and its
first word leaves CURENT and ENTCNT (`segPlay_segWord_entry`). -/
theorem segmentIssue : Obligations.SegmentIssue := by
  unfold Obligations.SegmentIssue
  intro q entry s k y e v
  refine ⟨fun hres hin hwant hnew => ?_, fun hmay hgoto _ hissue => ?_,
    fun hmay n jc hgoto => ⟨fun c hstop => ?_, fun hgo hn => ?_⟩⟩
  · exact ⟨_, exec_segmentFetch hres hin hwant hnew, by rw [bndOf_setBnd_same], fun _ _ _ => rfl⟩
  · have hplay : segPlay (segWord (cycle s) k) k = segNext s k := segPlay_segWord_issued (cycle s) k hissue
    exact ⟨_, exec_segmentWordIssue_next hmay hgoto, congrArg SegPlay.vwi hplay, congrArg SegPlay.off hplay,
      congrArg SegPlay.ent hplay, congrArg SegPlay.pass hplay⟩
  · exact ⟨_, exec_segmentWordIssue_stop hmay hgoto hstop, stopCause_stopFault _ _ 0 q.isLt (entryStop_lt s k hstop),
      rsOf_stopFault (cycle s) k c 0⟩
  · obtain ⟨hent, hcount⟩ := segPlay_segWord_entry (enterEntry (cycle s) k n jc) k
    rw [segPlay_enterEntry] at hent hcount
    exact ⟨_, exec_segmentWordIssue_enter hmay hgoto hgo, hent.trans (Nat.mod_eq_of_lt hn), hcount⟩

end Sys2Proof.Machine
end

section
/-! LCLR and CHECK are written by changing one field of SEQCTL or ENGCTL (R202, R232): HFLAG beside it is written with what it reads. -/

namespace Sys2Proof.Machine

/-- The word that the register store holds for SEQCTL.HFLAG, read as wide as a register. -/
def hflagWord : Fld := { F.SEQ_SEQCTL_HFLAG with w := 32 }

/-- The module has started up, and its store holds 2 under SEQCTL.HFLAG of sequencer 0, more than the 1 bit of the field. -/
def wideHflag : State := setF (setF { State.reset with pwr := { aux := true } } F.DEV_STATE_BOOT 0 4) hflagWord 0 2

theorem wideHflag_ready : mayWrite wideHflag .mp .seq 0 0x040 = true ∧
    getB wideHflag 0 F.SEQ_SEQCTL_LCLR F.MCE_ENGCTL_LCLR = 0 ∧ getF wideHflag hflagWord 0 = 2 := by decide +kernel

theorem hflagWord_key : ∀ f ∈ [F.SEQ_COND_LATCH, F.SEQ_COND_FAIL_ANY, F.SEQ_COND_FAIL_ALL], hflagWord.key 0 ≠ f.key 0 := by decide

/-- The write of LCLR stores HFLAG anew, cut to its 1 bit. -/
theorem lclr_wideHflag : Completes (exec (.lclr .mp 0) wideHflag) fun t => getF t hflagWord 0 = 0 := ⟨_, rfl, by decide +kernel⟩

/-- Refutes O17 by its clause on LCLR: in `wideHflag` the word stored under SEQCTL.HFLAG is wider than the field, and the write of LCLR
stores the field anew in its 1 bit, where `SameBut` has every word of the store but those of the latches stay, read at any width. -/
theorem not_latchesAndCrc : ¬ Obligations.LatchesAndCrc := by
  unfold Obligations.LatchesAndCrc
  intro h
  obtain ⟨hlclr, -⟩ := h .mp 0 0 wideHflag
  obtain ⟨hmay, hidle, hwide⟩ := wideHflag_ready
  obtain ⟨t, ht, -, -, -, -, hsame⟩ := hlclr hmay hidle
  obtain ⟨u, hu, hcut⟩ := lclr_wideHflag
  rw [hu, Host.Outcome.next.injEq] at ht
  subst ht
  have hkept := hsame hflagWord 0 (by simpa using hflagWord_key)
  rw [hcut, hwide] at hkept
  exact absurd hkept (by decide)

end Sys2Proof.Machine
end

section
/-! The counters and the loop stack of a microcode engine (R223, R224, R226): what a load of a counter and a BEGIN read back as, and what
they leave. -/

namespace Sys2Proof.Machine

/-! Operations of an engine that is ready. -/

section
variable {m : Fin 4} {s0 s : State} (hready : engReady (cycle s0) m.val = some s)
include hready

/-- An operation that meets no fault is done in the state in which the engine goes on. -/
theorem engStep_completes {f : State → EngRes} {t : State} {P : State → Prop} (hf : f s = .ok t) (hP : P t) :
    Completes (.next (engStep (cycle s0) m.val f)) P := ⟨_, congrArg _ (engStep_ok hready hf), hP⟩

theorem engAct_completes {f : State → State} {P : State → Prop} (hP : P (f s)) :
    Completes (.next (engAct (cycle s0) m.val f)) P := ⟨_, congrArg _ (engAct_of f hready), hP⟩

end

section
variable (s : State) (m : Nat)

/-! Counters. -/

theorem cnt_lt (k : Nat) : getF s (F.MCE_CNT_C k) m < 2 ^ 32 := Nat.mod_lt _ (Nat.two_pow_pos _)

theorem lreg_lt (k : Nat) : getF s (F.MCE_LREG_N k) m < 2 ^ 32 := Nat.mod_lt _ (Nat.two_pow_pos _)

theorem cnt_setCnt (k : Nat) {v : Nat} (hv : v < 2 ^ 32) : getF (setCnt s m k v) (F.MCE_CNT_C k) m = v :=
  (getF_setF_same ..).trans (Nat.mod_eq_of_lt hv)

theorem setCnt_sameBut (k v : Nat) : SameBut [(F.MCE_CNT_C k, m)] s (setCnt s m k v) := (SameBut.refl _ s).setF _ _ _ (by simp)

/-- The counters stand apart from the stack level. -/
theorem cnt_tag_ne_lsp : ∀ k < 8, (F.MCE_CNT_C k).tag ≠ F.MCE_STATE_LSP.tag := by decide

/-! The loop stack. -/

theorem loops_setLoops (l : List LoopLv) : (bndOf (setLoops s m l) (16 + m)).loops = l :=
  congrArg Bnd.loops (bndOf_setBnd_same ..)

theorem lsp_setLoops {l : List LoopLv} (h : l.length < 16) : getF (setLoops s m l) F.MCE_STATE_LSP m = l.length :=
  (getF_setF_same ..).trans (Nat.mod_eq_of_lt h)

theorem getF_setLoops (l : List LoopLv) {f : Fld} (n : Nat) (h : f.tag ≠ F.MCE_STATE_LSP.tag) : getF (setLoops s m l) f n = getF s f n :=
  getF_setF_tag _ _ _ _ h

theorem SameBut.setLoops {l : List (Fld × Nat)} {s t : State} (h : SameBut l s t) (m : Nat) (x : List LoopLv)
    (hm : (F.MCE_STATE_LSP, m) ∈ l) : SameBut l s (setLoops t m x) := (h.of_regs rfl).setF _ _ _ hm

/-! A lock that is asked for (R174). -/

theorem lockSpan_loops (b : Nat) (x : Span) : (bndOf (lockSpan s b x) b).loops = (bndOf s b).loops := by
  unfold lockSpan
  split
  · rfl
  · split
    · rw [bndOf_setBnd_same]
    · rfl

theorem SameBut.lockSpan {l : List (Fld × Nat)} {s t : State} (h : SameBut l s t) (b : Nat) (x : Span)
    (hm : (F.MEM_LOCKMISS_N b, 0) ∈ l) : SameBut l s (lockSpan t b x) := by
  unfold Machine.lockSpan
  split
  · exact h
  · split
    · exact h.of_regs rfl
    · exact h.setF _ _ _ hm

/-! BEGIN. -/

/-- What a BEGIN that loads counter `k` with `n` makes: the counter is loaded, the level `l` pushed, and a lock may be missed. -/
def Begun (k n : Nat) (l : LoopLv) (t : State) : Prop :=
  getF t (F.MCE_CNT_C k) m = n ∧ (bndOf t (16 + m)).loops = (bndOf s (16 + m)).loops ++ [l] ∧
    getF t F.MCE_STATE_LSP m = (bndOf s (16 + m)).loops.length + 1 ∧
    SameBut [(F.MCE_CNT_C k, m), (F.MCE_STATE_LSP, m), (F.MEM_LOCKMISS_N (16 + m), 0)] s t

variable {s m}

theorem Begun.push {k n : Nat} (l : LoopLv) (hk : k < 8) (hn : n < 2 ^ 32) (hl : (bndOf s (16 + m)).loops.length < 8) :
    Begun s m k n l (setLoops (setCnt s m k n) m ((bndOf s (16 + m)).loops ++ [l])) :=
  ⟨(getF_setLoops _ _ _ _ (cnt_tag_ne_lsp k hk)).trans (cnt_setCnt s m k hn), loops_setLoops ..,
    (lsp_setLoops _ _ (by simp; omega)).trans (by simp), ((setCnt_sameBut s m k n).mono (by simp)).setLoops m _ (by simp)⟩

theorem Begun.lock {k n : Nat} {l : LoopLv} {t : State} (h : Begun s m k n l t) (x : Span) :
    Begun s m k n l (lockSpan t (16 + m) x) := by
  obtain ⟨hcount, hloops, hlevel, hframe⟩ := h
  exact ⟨(lockSpan_page t (16 + m) x (by simp)).trans hcount, (lockSpan_loops ..).trans hloops,
    (lockSpan_page t (16 + m) x (by simp)).trans hlevel, hframe.lockSpan _ _ (by simp)⟩

/-- A BEGIN with fewer than eight levels: the counter is loaded and a level pushed, whether its span is locked or not. -/
theorem lopBegin_begun {k : BitVec 3} {n : Nat} {nxt : BitVec 14} (restore : Bool) (hn : n < 2 ^ 32)
    (hl : (bndOf s (16 + m)).loops.length < 8) :
    ∃ t, lopBegin s m k.toNat n nxt.toNat restore = .ok t ∧
      Begun s m k.toNat n { start := nxt, cnt := k, va := BitVec.ofNat 40 (engVa s m), restore := restore } t := by
  have hpush := Begun.push { start := nxt, cnt := k, va := BitVec.ofNat 40 (engVa s m), restore := restore } k.isLt hn hl
  refine ⟨_, if_neg (Nat.not_le.mpr hl), ?_⟩
  simp only [BitVec.ofNat_toNat, BitVec.setWidth_eq]
  split
  · exact hpush.lock _
  · exact hpush

end

/-- Settles O18: the four counter operations by `cnt_setCnt`, the four BEGIN forms by `lopBegin_begun`. -/
theorem engineCountersAndBegins : Obligations.EngineCountersAndBegins := by
  unfold Obligations.EngineCountersAndBegins
  constructor
  · intro m lsel imm s0 s hready k c
    have hset {v : Nat} (hv : v < 2 ^ 32) : getF (setCnt s m k v) (F.MCE_CNT_C k) m = v ∧
        SameBut [(F.MCE_CNT_C k, m.val)] s (setCnt s m k v) ∧ RegsOnly s (setCnt s m k v) :=
      ⟨cnt_setCnt s m k hv, setCnt_sameBut s m k v, rfl⟩
    have hc : c < 2 ^ 32 := cnt_lt s m k
    simp only [List.forall_mem_cons, List.not_mem_nil, false_implies, implies_true, and_true]
    exact ⟨engStep_completes hready rfl (hset (by omega)), engStep_completes hready rfl (hset (lreg_lt s m k)),
      engStep_completes hready rfl (hset (Nat.lt_of_le_of_lt (Nat.sub_le ..) hc)),
      engStep_completes hready rfl (hset (Nat.lt_of_le_of_lt (Nat.min_le_right ..) (by decide)))⟩
  · intro m lsel imm nxt s0 s hready hl k old r
    have hbegin (restore : Bool) {n : Nat} (hn : n < 2 ^ 32) {f : State → EngRes} (hf : f s = lopBegin s m k n nxt.toNat restore) :
        Completes (.next (engStep (cycle s0) m.val f))
          (Begun s m k n { start := nxt, cnt := lsel, va := BitVec.ofNat 40 (engVa s m), restore := restore }) :=
      let ⟨_, ht, hbegun⟩ := lopBegin_begun restore hn hl
      engStep_completes hready (hf.trans ht) hbegun
    have himm : imm.toNat < 2 ^ 32 := by omega
    simp only [List.forall_mem_cons, List.not_mem_nil, false_implies, implies_true, and_true]
    exact ⟨hbegin true himm rfl, hbegin false himm rfl, hbegin true (lreg_lt s m k) rfl, hbegin false (lreg_lt s m k) rfl⟩

end Sys2Proof.Machine
end

section
/-! A jump of an engine to a vector address that a stack has saved fetches the first words there (R178, R182), and a bad word among them
is counted and reported on the MEM page (R171, R172). -/

namespace Sys2Proof.Machine

/-- The level of the loop stack of `badTarget`: it restores vector address 0. -/
def restoringLevel : LoopLv := { start := 0, cnt := 0, va := 0, restore := true }

/-- Engine 0 plays to polder 0 from the first 64 bytes of DRAM, where a 64-bit word is bad; vector address 0 is saved in the level of its
loop stack and in its return stack. -/
def badTarget : State :=
  let regs := [(F.MCE_STATE_RESERVED, 0, 1), (F.POL_STATE_RSTATE, 0, RS.running.code), (F.MEM_VBASE_HI_BASE 16, 0, 4),
    (F.MEM_VLIMIT_HI_LIM 16, 0, 4), (F.MEM_VLIMIT_LO_LIM 16, 0, 1)].foldl (fun s x => setF s x.1 x.2.1 x.2.2) State.reset
  setBnd (setPol { regs with dramBad := [dramLo] } 0 { bind := some 16 }) 16 { noct := 1, loops := [restoringLevel], calls := [(0, 0)] }

theorem badTarget_ready : engReady (cycle badTarget) 0 = some badTarget := engReady_of (by decide +kernel) rfl

theorem badTarget_uncounted : getF badTarget F.MEM_ECCUE_N 0 = 0 := by decide +kernel

/-- The error counter is none of the fields of an engine. -/
theorem eccue_key : ∀ f ∈ [F.MCE_CNT_C 0, F.MCE_STATE_LSP, F.MCE_STATE_RSP, F.MCE_STATE_UPC, F.MCE_VA_LO_VA, F.MCE_VA_HI_VA],
    F.MEM_ECCUE_N.key 0 ≠ f.key 0 := by decide

/-- A command from `badTarget` that has counted the error changes another field than those of its engine. -/
theorem not_sameBut_of_counted {t : State} {l : List (Fld × Nat)} (hcount : getF t F.MEM_ECCUE_N 0 = 1)
    (hl : ∀ x ∈ l, x ∈ [F.MCE_CNT_C 0, F.MCE_STATE_LSP, F.MCE_STATE_RSP, F.MCE_STATE_UPC, F.MCE_VA_LO_VA, F.MCE_VA_HI_VA].map (·, 0)) :
    ¬ SameBut l badTarget t := by
  intro hsame
  have hkept : getF t F.MEM_ECCUE_N 0 = getF badTarget F.MEM_ECCUE_N 0 := by
    refine hsame _ _ fun x hx => ?_
    obtain ⟨f, hf, rfl⟩ := List.mem_map.mp (hl x hx)
    exact eccue_key f hf
  rw [hcount, badTarget_uncounted] at hkept
  exact absurd hkept (by decide)

/-- The jump back to the saved vector address counts the error. -/
theorem loopTest_badTarget : Completes (exec (.loopTest 0 0) badTarget) fun t => getF t F.MEM_ECCUE_N 0 = 1 :=
  ⟨_, rfl, by decide +kernel⟩

/-- So does the return with RETVA. -/
theorem ret_badTarget : Completes (exec (.ret 0 true) badTarget) fun t => getF t F.MEM_ECCUE_N 0 = 1 := ⟨_, rfl, by decide +kernel⟩

/-- Refutes O19: in `badTarget` the counter reads 0 and the level restores its vector address, so LOOP_TEST jumps back, and the fetch of
the words there meets the bad one and counts it in MEM.ECCUE, which the statement's frame leaves out. -/
theorem not_engineLoopTest : ¬ Obligations.EngineLoopTest := by
  unfold Obligations.EngineLoopTest
  intro h
  obtain ⟨t, ht, -, -, -, hsame⟩ := h 0 0 badTarget badTarget [] restoringLevel badTarget_ready rfl
  obtain ⟨u, hu, hcount⟩ := loopTest_badTarget
  rw [hu, Host.Outcome.next.injEq] at ht
  subst ht
  exact not_sameBut_of_counted hcount (by simp [restoringLevel]) hsame

/-- Refutes O20 by its clause on RETURN: in `badTarget` the return stack holds vector address 0, and RETURN with RETVA jumps there; the
bad word that the jump fetches is counted in MEM.ECCUE, which the clause's frame leaves out. -/
theorem not_engineStacksAndStops : ¬ Obligations.EngineStacksAndStops := by
  unfold Obligations.EngineStacksAndStops
  intro h
  obtain ⟨hstacks, -⟩ := h
  obtain ⟨-, -, hret⟩ := hstacks 0 badTarget badTarget badTarget_ready
  obtain ⟨t, ht, -, -, -, hsame⟩ := hret [] 0 0 true rfl
  obtain ⟨u, hu, hcount⟩ := ret_badTarget
  rw [hu, Host.Outcome.next.injEq] at ht
  subst ht
  exact not_sameBut_of_counted hcount (by simp) hsame

end Sys2Proof.Machine
end

section
/-! The latches that a branch consumes (R202, R218), and where it leads (R221, R222). -/

namespace Sys2Proof.Machine

/-! One bit of a number. -/

theorem add_two_pow_of_clear {v k : Nat} (h : v.testBit k = false) : v + 2 ^ k = v ||| 2 ^ k := by
  have hmod : v % 2 ^ (k + 1) = v % 2 ^ k := by
    have hbit : v / 2 ^ k % 2 = 0 := by simpa [Nat.testBit_eq_decide_div_mod_eq] using h
    rw [Nat.mod_pow_succ, hbit, Nat.mul_zero, Nat.add_zero]
  have hlow : v % 2 ^ (k + 1) < 2 ^ k := hmod ▸ Nat.mod_lt _ (Nat.two_pow_pos k)
  have hv : 2 ^ (k + 1) * (v / 2 ^ (k + 1)) + v % 2 ^ (k + 1) = v := Nat.div_add_mod ..
  have hpart : 2 ^ k ||| v % 2 ^ (k + 1) = 2 ^ k + v % 2 ^ (k + 1) := by simpa using (Nat.two_pow_add_eq_or_of_lt hlow 1).symm
  calc v + 2 ^ k = 2 ^ (k + 1) * (v / 2 ^ (k + 1)) + (2 ^ k + v % 2 ^ (k + 1)) := by omega
    _ = 2 ^ (k + 1) * (v / 2 ^ (k + 1)) ||| (2 ^ k ||| v % 2 ^ (k + 1)) := by
      rw [hpart, Nat.two_pow_add_eq_or_of_lt (by have := Nat.two_pow_succ k; omega)]
    _ = v ||| 2 ^ k := by
      rw [Nat.or_comm (2 ^ k), ← Nat.or_assoc, ← Nat.two_pow_add_eq_or_of_lt (Nat.mod_lt _ (Nat.two_pow_pos _)), hv]

theorem testBit_add_two_pow {v k : Nat} (h : v.testBit k = false) (j : Nat) :
    (v + 2 ^ k).testBit j = (v.testBit j || decide (j = k)) := by
  rw [add_two_pow_of_clear h, Nat.testBit_or, Nat.testBit_two_pow, decide_eq_decide.mpr eq_comm]

theorem testBit_sub_two_pow {v k : Nat} (h : v.testBit k = true) (j : Nat) :
    (v - 2 ^ k).testBit j = (v.testBit j && decide (j ≠ k)) := by
  have hv : 2 ^ k + (v - 2 ^ k) = v := Nat.add_sub_cancel' (Nat.ge_two_pow_of_testBit h)
  have hclear : (v - 2 ^ k).testBit k = false := by
    rw [← hv, Nat.testBit_two_pow_add_eq] at h
    simpa using h
  have hj := testBit_add_two_pow hclear j
  rw [Nat.add_comm, hv] at hj
  by_cases hjk : j = k
  · simp [hjk, hclear]
  · simp [hj, hjk]

section
variable (s : State) (m : Nat)

/-! Latches. -/

/-- The fields of an engine that hold its latches (R202). -/
def latchFlds : List (Fld × Nat) := [(F.MCE_COND_LATCH, m), (F.MCE_COND_FAIL_ANY, m), (F.MCE_COND_FAIL_ALL, m)]

/-- The codes that can be those of latches: of CMAP, FAIL_ANY and FAIL_ALL. -/
def latchCode (c : Nat) : Prop := c = 17 ∨ c = 18 ∨ (1 ≤ c ∧ c ≤ 15)

/-- What the latch of code `c` holds. -/
def latchVal (c : Nat) : Bool :=
  if c = 17 then isSet s F.MCE_COND_FAIL_ANY m else if c = 18 then isSet s F.MCE_COND_FAIL_ALL m
  else (getF s F.MCE_COND_LATCH m).testBit (c - 1)

theorem getB_engine (fs fm : Fld) : getB s (16 + m) fs fm = getF s fm m := by simp [getB]

theorem setB_engine (fs fm : Fld) (v : Nat) : setB s (16 + m) fs fm v = setF s fm m v := by simp [setB]

variable {s m}

theorem latchCode_of {c : Nat} (h : isLatch s m c = true) : latchCode c := by
  simp only [isLatch, Bool.or_eq_true, Bool.and_eq_true, beq_iff_eq, decide_eq_true_eq] at h
  unfold latchCode
  omega

theorem engCond_latch {c : Nat} (h : isLatch s m c = true) : engCond s m c = latchVal s m c := by
  rcases latchCode_of h with rfl | rfl | ⟨h1, h15⟩
  · simp [engCond, condOf, latchVal, getB_engine, isSet]
  · simp [engCond, condOf, latchVal, getB_engine, isSet]
  · have hmode : cmapMode s (16 + m) c = true := by simpa [isLatch, h1, h15, show c ≠ 17 by omega, show c ≠ 18 by omega] using h
    simp [engCond, condOf, latchVal, getB_engine, hmode, h15, show c < 20 by omega, show c ≠ 0 by omega, show c ≠ 17 by omega,
      show c ≠ 18 by omega]

/-- The latch of CMAP entry `d` clears. -/
theorem clearLatch_cmap {d : Nat} (h1 : 1 ≤ d) (h15 : d ≤ 15) : clearLatch s (16 + m) d =
    setF s F.MCE_COND_LATCH m (if (getF s F.MCE_COND_LATCH m).testBit (d - 1) then getF s F.MCE_COND_LATCH m - 2 ^ (d - 1)
      else getF s F.MCE_COND_LATCH m) := by
  simp [clearLatch, setB_engine, getB_engine, h1, h15, show d ≠ 17 by omega, show d ≠ 18 by omega]

theorem testBit_clearLatch {d j : Nat} (h1 : 1 ≤ d) (h15 : d ≤ 15) (hj : j < 15) :
    (getF (clearLatch s (16 + m) d) F.MCE_COND_LATCH m).testBit j = ((getF s F.MCE_COND_LATCH m).testBit j && decide (j ≠ d - 1)) := by
  have hw : j < F.MCE_COND_LATCH.w.val := hj
  rw [clearLatch_cmap h1 h15, getF_setF_same, Nat.testBit_mod_two_pow, decide_eq_true hw, Bool.true_and]
  split
  · next hset => exact testBit_sub_two_pow hset j
  · next hclear =>
    by_cases hjd : j = d - 1
    · simp [hjd, hclear]
    · simp [hjd]

/-- The latch that clears holds 0, every other what it held. -/
theorem latchVal_clearLatch {c d : Nat} (hc : latchCode c) (hd : latchCode d) :
    latchVal (clearLatch s (16 + m) d) m c = (latchVal s m c && decide (c ≠ d)) := by
  rcases hd with rfl | rfl | ⟨h1, h15⟩
  · simp only [clearLatch, setB_engine, if_true, latchVal]
    split
    · simp [isSet, *]
    · simp (disch := decide) only [isSet, getF_setF_tag]
      simp [*]
  · simp only [clearLatch, setB_engine, latchVal]
    split
    · simp (disch := decide) [isSet, getF_setF_tag, *]
    · split
      · simp [isSet, *]
      · simp (disch := decide) [getF_setF_tag, *]
  · simp only [latchVal]
    split
    · rw [clearLatch_cmap h1 h15]
      simp (disch := decide) only [isSet, getF_setF_tag]
      simp [show c ≠ d by omega]
    split
    · rw [clearLatch_cmap h1 h15]
      simp (disch := decide) only [isSet, getF_setF_tag]
      simp [show c ≠ d by omega]
    · rw [testBit_clearLatch h1 h15 (by unfold latchCode at hc; omega), decide_eq_decide.mpr]
      unfold latchCode at hc
      omega

theorem SameBut.clearLatch {l : List (Fld × Nat)} {t : State} (h : SameBut l s t) (c : Nat) (hl : ∀ x ∈ latchFlds m, x ∈ l) :
    SameBut l s (clearLatch t (16 + m) c) := by
  unfold Machine.clearLatch
  simp only [setB_engine]
  split
  · exact h.setF _ _ _ (hl _ (by simp [latchFlds]))
  split
  · exact (h.of_regs rfl).setF _ _ _ (hl _ (by simp [latchFlds]))
  split
  · exact h.setF _ _ _ (hl _ (by simp [latchFlds]))
  · exact h

/-! Latches that are consumed. -/

/-- What is a latch is read from CMAP alone. -/
theorem isLatch_congr {t : State} (h : ∀ k < 16, getF t (F.MCE_CMAP_MODE k) m = getF s (F.MCE_CMAP_MODE k) m) (c : Nat) :
    isLatch t m c = isLatch s m c := by
  by_cases hc : c < 16
  · simp [isLatch, cmapMode, isSet, h c hc]
  · simp [isLatch, show ¬ c ≤ 15 by omega]

theorem isLatch_setF {f : Fld} (n v : Nat) (h : ∀ k < 16, (F.MCE_CMAP_MODE k).tag ≠ f.tag) (c : Nat) :
    isLatch (setF s f n v) m c = isLatch s m c := isLatch_congr (fun k hk => getF_setF_tag _ _ _ _ (h k hk)) c

theorem isLatch_clearLatch (d c : Nat) : isLatch (clearLatch s (16 + m) d) m c = isLatch s m c := by
  refine isLatch_congr (fun k hk => ?_) c
  have hkey : ∀ k < 16, ∀ f ∈ [F.MCE_COND_LATCH, F.MCE_COND_FAIL_ANY, F.MCE_COND_FAIL_ALL], (F.MCE_CMAP_MODE k).tag ≠ f.tag := by
    decide
  refine (SameBut.refl _ s).clearLatch d (fun _ h => h) _ _ fun x hx => tag_key ?_
  revert x
  simpa [latchFlds] using hkey k hk

theorem isLatch_consume (d c : Nat) : isLatch (consume s m d) m c = isLatch s m c := by
  unfold consume
  split
  · exact isLatch_clearLatch d c
  · rfl

/-- A latch that is consumed reads 0 from then on, every other as it did. -/
theorem engCond_consume {c : Nat} (hc : isLatch s m c = true) (d : Nat) :
    engCond (consume s m d) m c = (engCond s m c && decide (c ≠ d)) := by
  rw [engCond_latch ((isLatch_consume d c).trans hc), engCond_latch hc]
  unfold consume
  split
  · next hd => exact latchVal_clearLatch (latchCode_of hc) (latchCode_of hd)
  · next hd => simp [show c ≠ d from fun h => hd (h ▸ hc)]

variable (s m) in
/-- The latches of the conditions that were sampled as 1 are consumed, in their order. -/
def consumes (cs : List (Nat × Bool)) : State := cs.foldl (fun s c => if c.2 then consume s m c.1 else s) s

theorem isLatch_consumes (cs : List (Nat × Bool)) (c : Nat) : isLatch (consumes s m cs) m c = isLatch s m c := by
  refine List.foldlRecOn (motive := fun t => isLatch t m c = isLatch s m c) cs _ rfl fun t ht x _ => ?_
  split
  · exact (isLatch_consume ..).trans ht
  · exact ht

theorem engCond_consumes {c : Nat} (hc : isLatch s m c = true) (cs : List (Nat × Bool)) :
    engCond (consumes s m cs) m c = (engCond s m c && decide ((c, true) ∉ cs)) := by
  induction cs generalizing s with
  | nil => simp [consumes]
  | cons x cs ih =>
    obtain ⟨d, v⟩ := x
    cases v with
    | false => exact (ih hc).trans (by simp)
    | true =>
      refine (ih ((isLatch_consume d c).trans hc)).trans ?_
      rw [engCond_consume hc]
      simp [Bool.and_assoc]

theorem SameBut.consumes {l : List (Fld × Nat)} {t : State} (h : SameBut l s t) (cs : List (Nat × Bool))
    (hl : ∀ x ∈ latchFlds m, x ∈ l) : SameBut l s (consumes t m cs) := by
  refine List.foldlRecOn cs _ h fun u hu x _ => ?_
  split
  · unfold consume
    split
    · exact hu.clearLatch _ hl
    · exact hu
  · exact hu

/-! Branches. -/

/-- The target of a branch over the sampled conditions `cs` (R221). -/
def branchTarget (nxt : Nat) (cs : List (Nat × Bool)) : Nat :=
  (cs.zipIdx.map (fun x => if x.1.2 then 2 ^ x.2 else 0)).foldl (· ||| ·) nxt

theorem branch_eq (nxt : Nat) (cs : List (Nat × Bool)) : branch s m nxt cs = consumes (setUpc s m (branchTarget nxt cs)) m cs := rfl

variable (m) in
/-- The fields that a branch writes. -/
def branchFlds : List (Fld × Nat) := (F.MCE_STATE_UPC, m) :: latchFlds m

theorem engUpc_branch {nxt : Nat} {cs : List (Nat × Bool)} (h : branchTarget nxt cs < 2 ^ 14) :
    engUpc (branch s m nxt cs) m = branchTarget nxt cs := by
  have hkey : ∀ f ∈ [F.MCE_COND_LATCH, F.MCE_COND_FAIL_ANY, F.MCE_COND_FAIL_ALL], F.MCE_STATE_UPC.tag ≠ f.tag := by decide
  refine ((SameBut.refl (latchFlds m) _).consumes cs (fun _ h => h) _ _ fun x hx => tag_key ?_).trans (engUpc_setUpc _ _ _ h)
  revert x
  simpa [latchFlds] using hkey

theorem branch_sameBut (nxt : Nat) (cs : List (Nat × Bool)) : SameBut (branchFlds m) s (branch s m nxt cs) :=
  ((SameBut.refl _ s).setF _ _ _ (by simp [branchFlds])).consumes cs fun _ h => List.mem_cons_of_mem _ h

/-- A latch that a branch has sampled as 1 is consumed. -/
theorem engCond_branch {nxt : Nat} {cs : List (Nat × Bool)} {c : Nat} (hl : isLatch s m c = true) (hc : (c, true) ∈ cs) :
    engCond (branch s m nxt cs) m c = false := by
  have hset : isLatch (setUpc s m (branchTarget nxt cs)) m c = true := (isLatch_setF m _ (by decide) c).trans hl
  rw [branch_eq, engCond_consumes hset]
  simp [hc]

end

/-- Settles O21: `engUpc_branch` gives the target, `engCond_branch` the latches consumed, over the conditions that each form samples. -/
theorem engineBranches : Obligations.EngineBranches := by
  unfold Obligations.EngineBranches
  intro m nxt b0 b1 b2 b3 s0 s hready code c
  have hbit (b : BitVec 4) {j : Nat} (hj : j < 4) : c b j < 2 ^ 14 := by
    simp only [c]
    split
    · exact Nat.pow_lt_pow_right (by decide) (by omega)
    · decide
  have hbranch (bs : List (BitVec 4)) {o : Nat} (ho : o < 2 ^ 14)
      (hto : branchTarget nxt.toNat (sampleBcs s m (bs.map BitVec.toNat)) = nxt.toNat ||| o) :
      Completes (.next (engAct (cycle s0) m.val fun s => branch s m nxt.toNat (sampleBcs s m (bs.map BitVec.toNat)))) fun t =>
        engUpc t m = nxt.toNat ||| o ∧
        (∀ b ∈ bs, engCond s m (code b) = true → isLatch s m (code b) = true → engCond t m (code b) = false) ∧
        SameBut (branchFlds m) s t := by
    have hlt : nxt.toNat ||| o < 2 ^ 14 := Nat.or_lt_two_pow nxt.isLt ho
    refine engAct_completes hready ⟨(engUpc_branch (hto ▸ hlt)).trans hto, fun b hb hcond hlatch => engCond_branch hlatch ?_,
      branch_sameBut _ _⟩
    exact List.mem_map.mpr ⟨b.toNat, List.mem_map_of_mem hb, congrArg (Prod.mk _) hcond⟩
  have h0 := hbit b0 (j := 0) (by decide)
  have h1 := hbit b1 (j := 1) (by decide)
  have h2 := hbit b2 (j := 2) (by decide)
  have h3 := hbit b3 (j := 3) (by decide)
  intro x hx
  simp only [List.mem_cons, List.not_mem_nil, or_false] at hx
  obtain rfl | rfl | rfl | rfl | rfl := hx
  · exact hbranch [] (o := 0) (by decide) (Nat.or_zero _).symm
  · exact hbranch [b0] h0 rfl
  · exact hbranch [b0, b1] (Nat.or_lt_two_pow h0 h1) (Nat.or_assoc ..)
  · exact hbranch [b0, b1, b2] (Nat.or_lt_two_pow (Nat.or_lt_two_pow h0 h1) h2)
      (show nxt.toNat ||| c b0 0 ||| c b1 1 ||| c b2 2 = _ by simp only [Nat.or_assoc])
  · exact hbranch [b0, b1, b2, b3] (Nat.or_lt_two_pow (Nat.or_lt_two_pow (Nat.or_lt_two_pow h0 h1) h2) h3)
      (show nxt.toNat ||| c b0 0 ||| c b1 1 ||| c b2 2 ||| c b3 3 = _ by simp only [Nat.or_assoc])

end Sys2Proof.Machine
end

section
/-! Flags, event lines and capture gates of a microcode engine (R214 to R216, R238). -/

namespace Sys2Proof.Machine

/-! Events that set out one after another (R296). -/

theorem forAll_launch (e : Nat → Ev) (l : List Nat) (s : State) :
    forAll l s (fun s p => launch s (e p)) = { s with rtr := { s.rtr with flight := s.rtr.flight ++ l.map e } } := by
  induction l generalizing s with
  | nil => simp [forAll]
  | cons p l ih => exact (ih (launch s (e p))).trans (by simp [launch])

section
variable (s : State) (m : Nat)

/-! Flags (R216). -/

/-- FLAGS in which flag `k`, which is not `v`, has become `v`. -/
def flagsWith (k : Nat) (v : Bool) : Nat :=
  if v then getF s F.MCE_COND_FLAGS m + 2 ^ k else getF s F.MCE_COND_FLAGS m - 2 ^ k

/-- The events that a change of flag `k` sends to the router: one for each member where it is F0. -/
def flagEvents (k : Nat) (v : Bool) (t : Stamp) : List Ev :=
  if k = 0 then (bndMem s (16 + m)).map (fun p => { src := BitVec.ofNat 12 (0x640 + p), pol := v, stamp := t }) else []

variable {s m} {k : Nat} {v : Bool}

theorem testBit_flagsWith (h : getFlag s m k ≠ v) (j : Nat) :
    (flagsWith s m k v).testBit j = if j = k then v else getFlag s m j := by
  unfold getFlag at h
  cases v with
  | true =>
    have hclear : (getF s F.MCE_COND_FLAGS m).testBit k = false := by simpa using h
    refine (testBit_add_two_pow hclear j).trans ?_
    split <;> simp [*, getFlag]
  | false =>
    have hset : (getF s F.MCE_COND_FLAGS m).testBit k = true := by simpa using h
    refine (testBit_sub_two_pow hset j).trans ?_
    split <;> simp [*, getFlag]

theorem setFlag_same (h : getFlag s m k = v) (t : Stamp) : setFlag s m k v t = s := if_pos h

theorem setFlag_change (h : getFlag s m k ≠ v) (t : Stamp) : setFlag s m k v t =
    { setF s F.MCE_COND_FLAGS m (flagsWith s m k v) with
      rtr := { s.rtr with flight := s.rtr.flight ++ flagEvents s m k v t } } := by
  refine (if_neg h).trans ?_
  by_cases hk : k = 0
  · rw [if_pos hk, flagEvents, if_pos hk, forAll_launch]
    rfl
  · rw [if_neg hk, flagEvents, if_neg hk, List.append_nil]
    rfl

theorem getFlag_setFlag {j : Nat} (hj : j < 4) (t : Stamp) :
    getFlag (setFlag s m k v t) m j = if j = k then v else getFlag s m j := by
  by_cases h : getFlag s m k = v
  · rw [setFlag_same h]
    split
    · next hjk => exact hjk ▸ h
    · rfl
  · have hw : j < F.MCE_COND_FLAGS.w.val := hj
    rw [setFlag_change h, ← testBit_flagsWith h]
    refine (congrArg (Nat.testBit · j) (getF_setF_same ..)).trans ?_
    rw [Nat.testBit_mod_two_pow, decide_eq_true hw, Bool.true_and]

theorem flight_setFlag (t : Stamp) : (setFlag s m k v t).rtr.flight =
    s.rtr.flight ++ if k = 0 ∧ v ≠ getFlag s m k then
      (bndMem s (16 + m)).map (fun p => { src := BitVec.ofNat 12 (0x640 + p), pol := v, stamp := t }) else [] := by
  by_cases h : getFlag s m k = v
  · rw [setFlag_same h, if_neg fun hk => hk.2 h.symm, List.append_nil]
  · rw [setFlag_change h]
    simp [flagEvents, Ne.symm h]

theorem setFlag_sameBut (t : Stamp) : SameBut [(F.MCE_COND_FLAGS, m)] s (setFlag s m k v t) := by
  by_cases h : getFlag s m k = v
  · rw [setFlag_same h]
    exact .refl _ s
  · rw [setFlag_change h]
    exact ((SameBut.refl _ s).setF _ _ _ (by simp)).of_regs rfl

end

/-! Operations on the units of the members, one after another. -/

/-- The operation makes the acquisition unit that it names what `f` makes of it, and changes nothing else. -/
def UnitOp (f : AcqU → AcqU) (g : State → Nat → State) : Prop :=
  ∀ s p, (∃ a, g s p = { s with acqs := a }) ∧ ∀ q, acqOf (g s p) q = if q = p then f (acqOf s p) else acqOf s q

theorem unitOp_setAcq (f : AcqU → AcqU) : UnitOp f (fun s p => setAcq s p (f (acqOf s p))) := by
  refine fun s p => ⟨⟨_, rfl⟩, fun q => ?_⟩
  split
  · next hq => rw [hq, acqOf_setAcq_same]
  · next hq => exact acqOf_setAcq_ne s _ hq

/-- The operation under a condition on the unit. -/
theorem UnitOp.unless {f : AcqU → AcqU} {g : State → Nat → State} (h : UnitOp f g) (c : AcqU → Bool) :
    UnitOp (fun u => if c u then u else f u) (fun s p => if c (acqOf s p) then s else g s p) := by
  intro s p
  cases hc : c (acqOf s p) with
  | true => exact ⟨⟨s.acqs, by simp only [hc, if_true]⟩, fun q => by simp only [hc, if_true]; split <;> simp [*]⟩
  | false => simpa only [hc, Bool.false_eq_true, if_false] using h s p

/-- Units that `f` leaves as they are need not be written. -/
theorem unitOp_of_fixed {f : AcqU → AcqU} {c : AcqU → Bool} (hf : ∀ u, c u = true → f u = u) :
    UnitOp f (fun s p => if c (acqOf s p) then s else setAcq s p (f (acqOf s p))) := by
  have hcond : (fun u => if c u then u else f u) = f := funext fun u => by
    split
    · next hc => exact (hf u hc).symm
    · rfl
  have h := (unitOp_setAcq f).unless c
  rwa [hcond] at h

theorem UnitOp.comp {f f' : AcqU → AcqU} {g g' : State → Nat → State} (h : UnitOp f g) (h' : UnitOp f' g') :
    UnitOp (fun u => f' (f u)) (fun s p => g' (g s p) p) := by
  intro s p
  obtain ⟨⟨a, ha⟩, hg⟩ := h s p
  obtain ⟨⟨b, hb⟩, hg'⟩ := h' (g s p) p
  refine ⟨⟨b, hb.trans (by rw [ha])⟩, fun q => (hg' q).trans ?_⟩
  split
  · rw [hg, if_pos rfl]
  · next hq => rw [hg, if_neg hq]

theorem UnitOp.forAll_frame {f : AcqU → AcqU} {g : State → Nat → State} (h : UnitOp f g) (l : List Nat) (s : State) :
    ∃ a, forAll l s g = { s with acqs := a } := by
  refine forAll_keeps (I := fun t => ∃ a, t = { s with acqs := a }) (fun t p ⟨a, ht⟩ => ?_) l ⟨s.acqs, rfl⟩
  obtain ⟨b, hb⟩ := (h t p).1
  exact ⟨b, hb.trans (ht ▸ rfl)⟩

theorem UnitOp.forAll_unit {f : AcqU → AcqU} {g : State → Nat → State} (h : UnitOp f g) {l : List Nat} (hl : l.Nodup) (s : State)
    (q : Nat) : acqOf (forAll l s g) q = if q ∈ l then f (acqOf s q) else acqOf s q := by
  induction l generalizing s with
  | nil => rfl
  | cons p l ih =>
    obtain ⟨hp, hl⟩ := List.nodup_cons.mp hl
    refine (ih hl (g s p)).trans ?_
    rw [(h s p).2 q]
    by_cases hq : q = p
    · simp [hq, hp]
    · simp [hq]

/-! Capture gates (R214, R238). -/

/-- The unit with its gate open, from `t` where it was closed. -/
def gateOpened (t : Stamp) (u : AcqU) : AcqU := { u with gate := some (u.gate.getD t) }

/-- The unit with its gate closed, at `t` where it was open. -/
def gateClosed (t : Stamp) (u : AcqU) : AcqU := { u with gate := none, gates := u.gates ++ (u.gate.map (fun o => (o, t))).toList }

/-- The unit whose gate has been open from `t` to `te` where it was closed. -/
def gateForWord (t te : Stamp) (u : AcqU) : AcqU := match u.gate with
  | some _ => u
  | none => { u with gates := u.gates ++ [(t, te)] }

theorem gateOpened_of_open {t : Stamp} {u : AcqU} (h : u.gate.isSome = true) : gateOpened t u = u := by
  cases u with
  | mk _ _ _ _ _ gate => cases gate with
    | none => cases h
    | some o => rfl

theorem gateClosed_of_closed {t : Stamp} {u : AcqU} (h : u.gate.isNone = true) : gateClosed t u = u := by
  cases u with
  | mk _ _ _ _ _ gate => cases gate with
    | none => simp [gateClosed]
    | some o => cases h

theorem gateForWord_eq (t te : Stamp) (u : AcqU) : gateForWord t te u =
    if u.gate.isSome then u else gateClosed te (gateOpened t u) := by
  cases u with
  | mk _ _ _ _ _ gate => cases gate <;> rfl

theorem gateOpen_eq (s : State) (p : Nat) (t : Stamp) :
    gateOpen s p t = if (acqOf s p).gate.isSome then s else setAcq s p (gateOpened t (acqOf s p)) := by
  unfold gateOpen gateOpened
  generalize acqOf s p = u
  cases u with
  | mk _ _ _ _ _ gate => cases gate <;> rfl

theorem gateClose_eq (s : State) (p : Nat) (t : Stamp) :
    gateClose s p t = if (acqOf s p).gate.isNone then s else setAcq s p (gateClosed t (acqOf s p)) := by
  unfold gateClose gateClosed
  generalize acqOf s p = u
  cases u with
  | mk _ _ _ _ _ gate => cases gate <;> rfl

theorem unitOp_gateOpen (t : Stamp) : UnitOp (gateOpened t) (fun s p => gateOpen s p t) := by
  simp only [gateOpen_eq]
  exact unitOp_of_fixed fun _ => gateOpened_of_open

theorem unitOp_gateClose (t : Stamp) : UnitOp (gateClosed t) (fun s p => gateClose s p t) := by
  simp only [gateClose_eq]
  exact unitOp_of_fixed fun _ => gateClosed_of_closed

theorem unitOp_gateWord (t te : Stamp) : UnitOp (gateForWord t te)
    (fun s p => if (acqOf s p).gate.isSome then s else gateClose (gateOpen s p t) p te) := by
  rw [show gateForWord t te = _ from funext (gateForWord_eq t te)]
  exact ((unitOp_gateOpen t).comp (unitOp_gateClose te)).unless fun u => u.gate.isSome

/-- Settles O22: the flags by `getFlag_setFlag` and `flight_setFlag`, the event lines by what their commands launch, the gates by
`UnitOp.forAll_unit` over the members. -/
theorem engineFlagsEventsGates : Obligations.EngineFlagsEventsGates := by
  unfold Obligations.EngineFlagsEventsGates
  refine ⟨?_, ?_, ?_⟩
  · intro m k st s0 s hready old
    have hflag (v : Bool) {f : State → State} (hf : f s = setFlag s m k v st) : Completes (.next (engAct (cycle s0) m.val f)) fun t =>
        getFlag t m k = v ∧ (∀ j : Fin 4, j ≠ k → getFlag t m j = getFlag s m j) ∧
        t.rtr.flight = s.rtr.flight ++ (if k = 0 ∧ v ≠ old then
          (bndMem s (16 + m.val)).map (fun p => { src := BitVec.ofNat 12 (0x640 + p), pol := v, stamp := st }) else []) ∧
        SameBut [(F.MCE_COND_FLAGS, m.val)] s t := by
      refine engAct_completes hready (hf ▸ ⟨?_, fun j hj => ?_, ?_, setFlag_sameBut st⟩)
      · rw [getFlag_setFlag k.isLt, if_pos rfl]
      · rw [getFlag_setFlag j.isLt, if_neg (Fin.val_ne_of_ne hj)]
      · rw [flight_setFlag]
        simp only [Fin.val_eq_zero_iff]
        rfl
    simp only [List.forall_mem_cons, List.not_mem_nil, false_implies, implies_true, and_true]
    exact ⟨hflag true rfl, hflag false rfl, hflag (!old) rfl⟩
  · intro m i code st s0 s hready ev
    simp only [List.forall_mem_cons, List.not_mem_nil, false_implies, implies_true, and_true]
    exact ⟨engAct_completes hready rfl, engAct_completes hready rfl, engAct_completes hready rfl⟩
  · intro m st te s0 s hready mem frame
    have hmem : mem.Nodup := List.nodup_range.filter _
    have hgate {f : AcqU → AcqU} {g : State → Nat → State} (h : UnitOp f g) :
        Completes (.next (engAct (cycle s0) m.val fun s => forAll (bndMem s (16 + m.val)) s g)) fun t =>
          frame t ∧ ∀ p ∈ mem, acqOf t p = f (acqOf s p) := by
      obtain ⟨a, ha⟩ := h.forAll_frame mem s
      refine engAct_completes hready ⟨⟨fun p hp => (h.forAll_unit hmem s p).trans (if_neg hp), ?_⟩,
        fun p hp => (h.forAll_unit hmem s p).trans (if_pos hp)⟩
      exact ha.trans (by rw [show forAll (bndMem s (16 + m.val)) s g = _ from ha])
    exact ⟨hgate (unitOp_gateOpen st), hgate (unitOp_gateClose st), hgate (unitOp_gateWord st te)⟩

end Sys2Proof.Machine
end

section
/-! What the forming of a record leaves of a unit and of a stream: the record that is open, and RSEQ, which only a record taken counts
(R252). -/

namespace Sys2Proof.Machine

/-- `φ` sees nothing of the granules that records fill: of a stream only RSEQ, nothing of the pool, the free values taken and the records
dropped, and of a unit only its open record. -/
structure OffGranules {α : Type} (φ : State → α) : Prop where
  strm : ∀ s k x, x.rseq = (strmOf s k).rseq → φ (setStrm s k x) = φ s
  pool : ∀ s m, φ { s with pool := m } = φ s
  free : ∀ s n, φ { s with free := n } = φ s
  unit : ∀ s p x, x.rcd = (acqOf s p).rcd → φ (setAcq s p x) = φ s
  drop : ∀ s k, φ (addCt (raise s .slu 0 E.SLU_DROP) (F.SLU_X3_DROPCNT k) 0 1) = φ s

namespace OffGranules

variable {α : Type} {φ : State → α} (H : OffGranules φ)
include H

theorem handOff (s : State) (k : Nat) (flush : Bool) : φ (handOff s k flush) = φ s := by
  simp only [Machine.handOff]
  split
  · rfl
  · exact H.strm _ _ _ (by rfl)

theorem retain (s : State) (k : Nat) : φ (retain s k) = φ s := by
  simp only [Machine.retain]
  split
  · rfl
  · split
    · exact H.strm _ _ _ (by rfl)
    · exact H.handOff ..

theorem padOut (s : State) (k : Nat) : φ (padOut s k) = φ s := by
  simp only [Machine.padOut]
  split
  · rfl
  · exact H.strm _ _ _ (by rfl)

theorem grant (s : State) (k : Nat) : φ (grant s k) = φ s := (H.strm _ _ _ (by rfl)).trans (H.free ..)

theorem reuse (s : State) (k : Nat) : φ (reuse s k) = φ s :=
  (H.unit _ _ _ (by rfl)).trans ((H.pool ..).trans (H.strm _ _ _ (by rfl)))

theorem dropRec (s : State) (k : Nat) : φ (dropRec s k) = φ s := (H.strm _ _ _ (by rfl)).trans (H.drop ..)

theorem putWords (s : State) (k : Nat) (ws : List (BitVec 64)) : φ (putWords s k ws) = φ s := by
  unfold Machine.putWords
  extract_lets ret apart fits app s1 s2
  have happ (t : State) : φ (app t) = φ t := by
    simp only [app]
    split
    · exact H.strm _ _ _ (by rfl)
    · rfl
  have h1 : φ s1 = φ s := by simp only [s1, apply_ite φ, H.retain, H.handOff, H.padOut, ite_self]
  simp only [s2, apply_ite φ, happ, H.grant, H.reuse, H.dropRec, h1, ite_self]

/-- Of a record that is formed `φ` sees only that the stream has counted it. -/
theorem appendRec (s : State) (k : Nat) (r : Record) : φ (appendRec s k r) = φ (takeSeq s k) := by
  unfold Machine.appendRec
  simp only [apply_ite φ, H.putWords, ite_self]

end OffGranules

/-! A record that a trigger opens (R241, R244, R248, R264). -/

/-- `φ` sees nothing of what the claim of the items before a trigger writes: besides the granules, RSEQ, the mask tests and the log of
the fail records. -/
structure OffClaims {α : Type} (φ : State → α) : Prop extends OffGranules φ where
  seq : ∀ s k, φ (takeSeq s k) = φ s
  mask : ∀ s p n, φ (raise (addCt s F.ACQ_MASKVIOL_N p n) .acq p E.ACQ_MASK_VIOL) = φ s
  flog : ∀ s p n, φ (addCt s F.POL_FLOGCNT_N p n) = φ s
  pol : ∀ s p x, φ (setPol s p x) = φ s

namespace OffClaims

variable {α : Type} {φ : State → α} (H : OffClaims φ)
include H

theorem record (s : State) (k : Nat) (r : Record) : φ (Machine.appendRec s k r) = φ s := (H.appendRec ..).trans (H.seq ..)

theorem putItem (s : State) (p src : Nat) (r : Record) (t : Stamp) : φ (putItem s p src r t) = φ s := by
  unfold Machine.putItem
  simp (disch := rfl) only [apply_ite φ, H.record, H.unit, H.seq, ite_self]

theorem noteMask (s : State) (p n : Nat) (t0 : Stamp) : φ (noteMask s p n t0) = φ s := by
  unfold Machine.noteMask
  simp (disch := rfl) only [apply_ite φ, H.unit, H.mask, ite_self]

theorem claimConvs (s : State) (p : Nat) (ts : List Stamp) (o c : Stamp) : φ (claimConvs s p ts o c) = φ s :=
  (List.foldlRecOn (motive := fun t => φ t = φ _) _ _ rfl fun _ ht _ _ => (H.noteMask ..).trans ht).trans (H.unit _ _ _ (by rfl))

theorem countFlog (s : State) (p n : Nat) : φ (countFlog s p n) = φ s := by
  unfold Machine.countFlog
  simp only [apply_ite φ, H.pol, H.flog, ite_self]

theorem queueGran (s : State) (k : Nat) (g : Gran) : φ (queueGran k s g) = φ s := H.strm _ _ _ (by rfl)

theorem claim (s : State) (p j : Nat) (w : OpenRec) (kind : TrigKind) : φ (claim s p j w kind) = φ s := by
  unfold Machine.claim
  extract_lets k s1 x ts late cl0 fs okc cl s2 s3 s4 y s5 u s6 s7
  have h2 : φ s2 = φ s := (H.pool ..).trans ((H.strm _ _ _ (by rfl)).trans (H.retain ..))
  have h4 : φ s4 = φ s := (H.record ..).trans (by simp only [s3, apply_ite φ, H.reuse, h2, ite_self])
  have h5 : φ s5 = φ s := by
    simp only [s5]
    split
    · exact h4
    · refine (List.foldlRecOn (motive := fun t => φ t = φ s) _ _ ?_ fun _ ht _ _ => (H.queueGran ..).trans ht)
      exact (H.handOff ..).trans ((H.strm _ _ _ (by rfl)).trans h4)
  have h7 : φ s7 = φ s := by simp (disch := rfl) only [s7, s6, apply_ite φ, H.claimConvs, H.unit, h5, ite_self]
  simp (disch := rfl) only [apply_ite φ, H.countFlog, H.unit, h7, ite_self]

end OffClaims

end Sys2Proof.Machine
end

section
/-! TRIG and MARK (R214, R239, R241, R253). -/

namespace Sys2Proof.Machine

/-! What the claim of a trigger and the forming of records leave. -/

theorem acqOf_congr {s t : State} (h : t.acqs = s.acqs) (p : Nat) : acqOf t p = acqOf s p := by unfold acqOf; rw [h]

theorem rcd_setAcq {s : State} {k : Nat} {x : AcqU} (h : x.rcd = (acqOf s k).rcd) (p : Nat) :
    (acqOf (setAcq s k x) p).rcd = (acqOf s p).rcd := by
  by_cases hp : p = k
  · rw [hp, acqOf_setAcq_same, h]
  · rw [acqOf_setAcq_ne s x hp]

theorem rcd_raise (s : State) (q : Page) (n b p : Nat) : (acqOf (raise s q n b) p).rcd = (acqOf s p).rcd :=
  congrArg AcqU.rcd (acqOf_congr (raise_acqs ..) p)

theorem offClaims_rcd (p : Nat) : OffClaims fun s => (acqOf s p).rcd where
  strm _ _ _ _ := rfl
  pool _ _ := rfl
  free _ _ := rfl
  unit _ _ _ h := rcd_setAcq h p
  drop s _ := rcd_raise s ..
  seq _ _ := rfl
  mask _ _ _ := rcd_raise ..
  flog _ _ _ := rfl
  pol _ _ _ := rfl

theorem offClaims_reccnt (p : Nat) : OffClaims fun s => getF s F.ACQ_RECCNT_N p where
  strm _ _ _ _ := rfl
  pool _ _ := rfl
  free _ _ := rfl
  unit _ _ _ _ := rfl
  drop s k := (addCt_page _ _ _ _ (by simp)).trans (raise_page s _ _ _ (by simp))
  seq _ _ := rfl
  mask _ _ _ := (getF_raise _ _ _ _ _ _ (by decide) (by decide)).trans (getF_addCt_tag _ _ _ _ (by decide))
  flog _ _ _ := addCt_page _ _ _ _ (by simp)
  pol _ _ _ := rfl

theorem rseq_setStrm {s : State} {k : Nat} {x : Strm} (h : x.rseq = (strmOf s k).rseq) (j : Nat) :
    (strmOf (setStrm s k x) j).rseq = (strmOf s j).rseq := by
  by_cases hj : j = k
  · rw [hj, strmOf_setStrm_same, h]
  · rw [strmOf_setStrm_ne s x hj]

theorem strms_raise (s : State) (p : Page) (n b : Nat) : (raise s p n b).strms = s.strms := by
  have hc (t : State) : (countEvt t p n).strms = t.strms := by unfold countEvt; split <;> rfl
  rcases raise_cases s p n b with e | e
  · rw [e, hc]; rfl
  · rw [e]; unfold report; split <;> exact hc _

theorem offGranules_rseq (j : Nat) : OffGranules fun s => (strmOf s j).rseq where
  strm _ _ _ h := rseq_setStrm h j
  pool _ _ := rfl
  free _ _ := rfl
  unit _ _ _ _ := rfl
  drop s k := by
    show (Store.get (raise s .slu 0 E.SLU_DROP).strms {} j).rseq = _
    rw [strms_raise]
    rfl

/-! A trigger that is accepted. -/

/-- What an accepted trigger at `t` has made of the unit of polder `p` (R241). -/
structure Accepted (s : State) (p : Nat) (t : Stamp) (u : State) : Prop where
  open' : getF u F.ACQ_STATE_ASTATE p = 4
  rcd : (acqOf u p).rcd.map (·.t) = some t
  count : getF u F.ACQ_RECCNT_N p = min (getF s F.ACQ_RECCNT_N p + 1) 0xFFFFFFFF
  last : get64 u F.ACQ_LASTT_LO_T F.ACQ_LASTT_HI_T p = t
  evt : (getF u (F.EVT .acq) p).testBit E.ACQ_TRIG_ACC = true

theorem accept_accepted (s : State) (p : Nat) (t : Stamp) (kind : TrigKind) : Accepted s p t (accept s p t kind) := by
  unfold accept
  extract_lets pre post w u cut s1 s2 s3 _ s3' s4 s5
  have hclaims {α : Type} {φ : State → α} (H : OffClaims φ) : φ s3 = φ s1 :=
    (forAll_same (fun _ _ => H.claim ..) _ s2).trans
      (List.foldlRecOn (motive := fun t => φ t = φ s1) _ _ rfl fun _ ht _ _ => (H.putItem ..).trans ht)
  have hrcd : (acqOf s3' p).rcd = some w := by
    have h3 : (acqOf s3 p).rcd = some w := (hclaims (offClaims_rcd p)).trans (by simp [s1])
    exact (rcd_setAcq (by rfl) p).trans h3
  have hcount : getF s3' F.ACQ_RECCNT_N p = getF s F.ACQ_RECCNT_N p := hclaims (offClaims_reccnt p)
  refine ⟨?_, ?_, ?_, ?_, evt_raise _ _ _ _ (by decide)⟩
  · simp (disch := decide) only [getF_launch, s5, s4, getF_raise, set64, getF_setF_tag, getF_addCt_tag, setAstate, getF_setF_same]
    rfl
  · rw [show (acqOf (launch (launch s5 _) _) p).rcd = (acqOf s5 p).rcd from rfl, rcd_raise]
    exact congrArg (Option.map (·.t)) hrcd
  · simp (disch := decide) only [getF_launch, s5, s4, getF_raise, set64, getF_setF_tag, getF_addCt_same, setAstate, hcount]
    rfl
  · have hstamp (f : Fld) (h : f.tag ≠ (F.EVT .acq).tag) (h' : f.tag ≠ (F.EVT_SEQ .acq).tag) : getF s5 f p = getF s4 f p :=
      getF_raise _ _ _ _ _ _ h h'
    simp (disch := decide) only [get64, getF_launch, hstamp]
    exact get64_set64 _ _ _ rfl rfl (by decide)

/-- A trigger that the sequencer offers to a unit in NORMAL or SINGLE mode (R241): accepted by a unit that waits beyond its fill and whose
run does not end earlier, else ignored. -/
theorem trigger_sequencer {s : State} {p : Nat} (hen : getF s F.ACQ_ACQCTL_EN p = 1) (hmode : getF s F.ACQ_ACQCTL_MODE p ∈ [0, 2])
    (t : Stamp) (vwi : Nat) : trigger s p t .sequencer vwi =
      if waiting s p = true ∧ earlier t (fillEnd s p) = false ∧ beforeEnd (acqOf s p) t = true then accept s p t .sequencer
      else ignoreTrig s p := by
  have hacq : acqEn s p = true := by simp [acqEn, isSet, hen]
  obtain ⟨hnotAuto, hnotStreaming⟩ : getF s F.ACQ_ACQCTL_MODE p ≠ 1 ∧ getF s F.ACQ_ACQCTL_MODE p ≠ 3 := by
    simp only [List.mem_cons, List.not_mem_nil, or_false] at hmode
    omega
  have hstream : streaming s p = false := by simp [streaming, streamSet, hnotStreaming]
  unfold trigger
  rw [if_neg (by simp [hacq]), if_neg (by simp [hstream])]
  extract_lets s1
  have hs1 : s1 = s := if_neg (by simp [hnotAuto])
  rw [hs1]
  exact if_congr (by simp [and_assoc]) rfl rfl

/-! A MARK (R253). -/

/-- RSEQ of stream `k` after one record in each of the streams of polder `p` and the sources `l`. -/
theorem rseq_forAll_appendRec {p : Nat} {r : Record} {l : List Nat} (hl : l.Nodup) (h4 : ∀ j ∈ l, j < 4) (s : State) (k : Nat) :
    (strmOf (forAll l s fun s j => appendRec s (4 * p + j) r) k).rseq =
      if k / 4 = p ∧ k % 4 ∈ l then (strmOf s k).rseq + 1 else (strmOf s k).rseq := by
  induction l generalizing s with
  | nil => simp [forAll]
  | cons j l ih =>
    obtain ⟨hj, hl⟩ := List.nodup_cons.mp hl
    have hj4 : j < 4 := h4 j (by simp)
    have hone : (strmOf (appendRec s (4 * p + j) r) k).rseq = if k = 4 * p + j then (strmOf s k).rseq + 1 else (strmOf s k).rseq := by
      rw [(offGranules_rseq k).appendRec]
      split
      · next hk => rw [hk, takeSeq, strmOf_setStrm_same]
      · next hk => rw [takeSeq, strmOf_setStrm_ne _ _ hk]
    refine (ih hl (fun i hi => h4 i (List.mem_cons_of_mem _ hi)) _).trans ?_
    rw [hone]
    have hdiv : k = 4 * p + j ↔ k / 4 = p ∧ k % 4 = j := by omega
    by_cases hp : k / 4 = p
    · by_cases hkj : k % 4 = j
      · simp [hdiv, hp, hkj, hj]
      · simp [hdiv, hp, hkj]
    · simp [hdiv, hp]

theorem rseq_markAll {s : State} {p : Nat} (hen : getF s F.ACQ_ACQCTL_EN p = 1) {cause : Nat} (hc : cause ≠ 6) (t : Stamp)
    (src : Option Nat) (vwi k : Nat) : (strmOf (markAll s p cause t src vwi) k).rseq =
      if k / 4 = p ∧ frameOf s p (k % 4) ≠ 0 then (strmOf s k).rseq + 1 else (strmOf s k).rseq := by
  have hacq : acqEn s p = true := by simp [acqEn, isSet, hen]
  unfold markAll
  simp only [hacq, Bool.not_true, Bool.false_eq_true, if_false, hc]
  rw [srcsWith, rseq_forAll_appendRec (List.nodup_range.filter _) (fun j hj => List.mem_range.mp (List.mem_of_mem_filter hj))]
  simp [Nat.mod_lt]

/-- Settles O23: an accepted trigger by `accept_accepted`, an ignored one counts in TRIGIGN, a MARK by `rseq_markAll`. -/
theorem engineTrigMark : Obligations.EngineTrigMark := by
  unfold Obligations.EngineTrigMark
  intro m p st s0 s hready hmem hen
  constructor
  · intro hstrig hmode
    have hcap : capTrig s (16 + m.val) st = trigger s p st .sequencer (vwiOf s p) := by
      simp [capTrig, hmem, forAll, isSet, hstrig]
    refine engAct_completes hready ?_
    rw [hcap, trigger_sequencer hen hmode]
    split
    · obtain ⟨hopen, hrcd, hcount, hlast, hevt⟩ := accept_accepted s p st .sequencer
      exact ⟨hopen, hrcd, hcount, hlast, hevt⟩
    · unfold ignoreTrig
      refine ⟨?_, evt_raise _ _ _ _ (by decide), (raise_acqs ..).trans rfl, (strms_raise ..).trans rfl⟩
      rw [getF_raise _ _ _ _ _ _ (by decide) (by decide)]
      exact getF_addCt_same ..
  · refine engAct_completes hready fun k => ?_
    rw [capMark, hmem]
    exact rseq_markAll hen (by decide) st none _ k

end Sys2Proof.Machine
end

section
/-! A vector word that an engine issues (R212, R228): what the issue leaves of the engine's registers, and where VA goes. -/

namespace Sys2Proof.Machine

/-! The engine's page stays through the issue, but for ISSUING; no underrun is declared by the issue itself (R182). -/

section
variable (s : State) (b : Nat)

theorem getF_issueWord_mce (w : WordOp) {f : Fld} (n : Nat) (hp : f.page = .mce) (hf : f.tag ≠ F.MCE_STATE_ISSUING.tag) :
    getF (issueWord s b w) f n = getF s f n := by
  unfold issueWord
  extract_lets y a cp per mem t streamed s1 s2 s3 s4 g o d s5 s6 s7 z act
  have h1 : getF s1 f n = getF s f n := by
    simp only [s1, getF_ite, forAll_page fun u p => firstWord_page (fl := f) (mm := n) u p t (by simp [hp]) (by simp [hp])
      (by simp [hp]) (by simp [hp]), ite_self]
  have h2 : getF s2 f n = getF s f n := by
    simp only [s2, getF_ite, forAll_page fun u p => muteStarts_page (fl := f) (mm := n) u p (· == 5) t, h1, ite_self]
  have h3 : getF s3 f n = getF s f n :=
    (forAll_page (fun _ _ => by simp only [getF_ite, gateOpen_page, gateClose_page, ite_self]) _ _).trans h2
  have h4 : getF s4 f n = getF s f n := (forAll_page (fun _ _ => pushLset_page _ _ _ (by simp [hp]) (by simp [hp])) _ _).trans h3
  have ho : getF o.1 f n = getF s f n := (takeOvl_page _ _ _ _ _ (by simp [hp])).trans ((growCredit_page ..).trans h4)
  have hd : getF d f n = getF s f n :=
    (forAll_page (fun _ _ => forAll_page (fun _ _ => dueDeskew_page _ _ (by simp [hp])) _ _) _ _).trans ho
  have h5 : getF s5 f n = getF s f n :=
    (forAll_page (fun _ _ => playWord_page _ _ _ _ _ _ _ _ _ _ (by simp [hp])) _ _).trans hd
  have h6 : getF s6 f n = getF s f n :=
    (forAll_page (fun _ _ => (setF_page _ _ _ _ (by simp [hp])).trans (setF_page _ _ _ _ (by simp [hp]))) _ _).trans h5
  have h7 : getF s7 f n = getF s f n := (noteSeen_page ..).trans h6
  unfold setIssuing setB
  split
  · exact (setF_page _ _ _ _ (by simp [hp])).trans h7
  · exact (getF_setF_tag _ _ _ _ hf).trans h7

theorem since_takeOvl (f vwi : Nat) (acc : List (BitVec 192)) :
    (bndOf (takeOvl f s b vwi acc).1 b).since = (bndOf s b).since := by
  induction f generalizing s acc with
  | zero => rfl
  | succ f ih =>
    unfold takeOvl
    extract_lets y a e s1
    have h1 : (bndOf s1 b).since = (bndOf s b).since := by simp only [s1, bndOf_setBnd_same, y]
    split
    · rfl
    split
    · rfl
    split
    · rw [ih, h1]
    split
    · rw [ih, bndOf_congr (bnds_raise ..), bndOf_congr (bnds_addCt ..), h1]
    · rw [ih, bndOf_setBnd_same, h1]

theorem since_issueWord (w : WordOp) : (bndOf (issueWord s b w) b).since = (bndOf s b).since := by
  unfold issueWord
  extract_lets y a cp per mem t streamed s1 s2 s3 s4 g o d s5 s6 s7 z act
  have h4 : s4.bnds = s.bnds := by simp [s4, s3, s2, s1]
  have hg : (bndOf g b).since = (bndOf s b).since := by
    refine (congrArg Bnd.since (bndOf_setBnd_same ..)).trans ?_
    show (bndOf s4 b).since = _
    rw [bndOf_congr h4]
  have hd : d.bnds = o.1.bnds := bnds_forAll (fun _ _ => bnds_forAll (fun _ _ => bnds_dueDeskew ..) _ _) _ _
  have h5 : s5.bnds = d.bnds := bnds_forAll (fun _ _ => bnds_playWord ..) _ _
  have h6 : s6.bnds = s5.bnds := bnds_forAll (fun _ _ => by rfl) _ _
  have hz : z.since = (bndOf s b).since := by
    refine (congrArg Bnd.since (bndOf_setBnd_same ..)).trans ?_
    rw [bndOf_congr (h6.trans (h5.trans hd)), since_takeOvl, hg]
  rw [setIssuing, bndOf_congr (bnds_setB ..), bndOf_setBnd_same]
  exact hz

variable {s b}

/-- With no underrun declared, what follows a word writes no page of an engine: the run does not stop (R183, R185). -/
theorem getF_afterWord_mce (h : (bndOf s b).since = none) (streamed safe thr : Bool) {f : Fld} (n : Nat) (hp : f.page = .mce) :
    getF (afterWord s b streamed safe thr) f n = getF s f n := by
  unfold afterWord
  extract_lets y k low s1 since per i _ s2 _
  have hk : k = none := by simp only [k, y, h]
  have h1 : getF s1 f n = getF s f n := by
    simp only [s1, getF_ite, addCt_page _ _ _ _ (show f.page ≠ (F.MEM_URCNT_N b).page by simp [hp]), ite_self]
  have h2 : getF s2 f n = getF s f n := h1
  split
  · exact h2
  · rw [hk]
    exact (leadRegained_page ..).trans ((insertIdle_page _ _ _ (by simp [hp]) (by simp [hp])).trans h2)

theorem since_leadRegained (h : (bndOf s b).since = none) : (bndOf (leadRegained s b) b).since = none := by
  unfold leadRegained
  extract_lets y
  split
  · rw [bndOf_setBnd_same]
    simp only [y, h, ite_self]
  split
  · rw [bndOf_setBnd_same]
    exact h
  · exact h

/-- A jump does not declare an underrun (R178, R182). -/
theorem since_jumpLead (h : (bndOf s b).since = none) (fixed : Bool) : (bndOf (jumpLead s b fixed) b).since = none := by
  unfold jumpLead
  extract_lets y ws
  split
  · apply since_leadRegained
    unfold fetched
    extract_lets ue s1
    rw [bndOf_setBnd_same]
    show (bndOf s1 b).since = none
    rw [bndOf_congr (eccErrs_read ..).bnds, bndOf_setBnd_same]
    exact h
  · rw [bndOf_setBnd_same]
    exact h

theorem vwi_issueWord (w : WordOp) : (bndOf (issueWord s b w) b).vwi = (bndOf s b).vwi + 1 :=
  congrArg SegPlay.vwi (segPlay_issueWord s b w)

theorem vwi_jumpLead (fixed : Bool) : (bndOf (jumpLead s b fixed) b).vwi = (bndOf s b).vwi :=
  congrArg SegPlay.vwi (segPlay_jumpLead s b fixed)

theorem vwi_afterWord (streamed safe thr : Bool) : (bndOf (afterWord s b streamed safe thr) b).vwi = (bndOf s b).vwi :=
  congrArg SegPlay.vwi (segPlay_afterWord s b streamed safe thr)

end

/-! The vector address (R228). -/

section
variable (s : State) (m : Nat)

theorem engVa_lt : engVa s m < 2 ^ 40 := by
  have hlo : getF s F.MCE_VA_LO_VA m < 2 ^ 32 := Nat.mod_lt _ (Nat.two_pow_pos _)
  have hhi : getF s F.MCE_VA_HI_VA m < 2 ^ 8 := Nat.mod_lt _ (Nat.two_pow_pos _)
  unfold engVa
  omega

theorem engUpc_setVa (v : Nat) : engUpc (setVa s m v) m = engUpc s m :=
  (engUpc_setF _ _ _ _ _ (by decide)).trans (engUpc_setF _ _ _ _ _ (by decide))

theorem engVa_congr {s t : State}
    (h : ∀ f : Fld, f.page = .mce → f.tag ≠ F.MCE_STATE_ISSUING.tag → getF t f m = getF s f m) : engVa t m = engVa s m := by
  unfold engVa
  rw [h _ rfl (by decide), h _ rfl (by decide)]

theorem vopDo_lt (vop imm k : Nat) : (vopDo s m vop imm k).2 < 2 ^ 40 := by
  have hva := engVa_lt s m
  have hvtt : vtt s m (imm % 4096) < 2 ^ 40 := Nat.mod_lt _ (Nat.two_pow_pos _)
  have hmod (x : Nat) : x % 2 ^ 40 < 2 ^ 40 := Nat.mod_lt _ (Nat.two_pow_pos _)
  unfold vopDo
  split <;> simp only [hva, hvtt, hmod]

end

section
variable (s : State) (m vop imm k tset lset : Nat)

/-- The state from which an engine issues the word at `a`: another address than VA is a jump of the path (R178). -/
def atTarget (a : Nat) : State :=
  if a = engVa s m then s else jumpLead (setVa s m a) (16 + m) (vop == 2 || vop == 3)

theorem atTarget_keeps (a : Nat) : (bndOf (atTarget s m vop a) (16 + m)).vwi = (bndOf s (16 + m)).vwi ∧
    engUpc (atTarget s m vop a) m = engUpc s m ∧
    ((bndOf s (16 + m)).since = none → (bndOf (atTarget s m vop a) (16 + m)).since = none) := by
  unfold atTarget
  split
  · exact ⟨rfl, rfl, id⟩
  · exact ⟨vwi_jumpLead .., (jumpLead_page _ _ _ (by decide)).trans (engUpc_setVa ..), fun h =>
      since_jumpLead (s := setVa s m a) h _⟩

variable {s m vop imm k tset}

/-- A word that can issue is issued, and VA goes to the next address (R212, R228). -/
theorem engIssue_issued (h : wordIssues s m vop (vopDo s m vop imm k).1 tset = true) : ∃ s1,
    engIssue s m vop imm k tset lset 0 = (setVa s1 m (vopDo s m vop imm k).2, true) ∧
    (bndOf s1 (16 + m)).vwi = (bndOf s (16 + m)).vwi + 1 ∧ engUpc s1 m = engUpc s m ∧
    ((bndOf s (16 + m)).since = none → (bndOf s1 (16 + m)).since = none) := by
  obtain ⟨hvwi, hupc, hsince⟩ := atTarget_keeps s m vop (vopDo s m vop imm k).1
  have hgo : issueStop (atTarget s m vop (vopDo s m vop imm k).1) (16 + m) (vopDo s m vop imm k).1
      (compact s (bndAnchor s (16 + m)) tset) = none := Option.isNone_iff_eq_none.1 h
  unfold engIssue
  simp only [← atTarget.eq_def, hgo]
  refine ⟨_, rfl, ?_, ?_, fun hs => ?_⟩
  · rw [bndOf_setBnd_same]
    exact (vwi_issueWord _).trans (congrArg (· + 1) hvwi)
  · exact (getF_issueWord_mce _ _ _ _ rfl (by decide)).trans hupc
  · rw [bndOf_setBnd_same]
    exact (since_issueWord ..).trans (hsince hs)

end

/-- The issue of a VOP: the word counts, UPC stands, VA is the address after the word (R212, R228). -/
theorem engVop_issued {m : Fin 4} {s0 s : State} (hready : engReady (cycle s0) m.val = some s)
    (hs : (bndOf s (16 + m.val)).since = none) {vop imm k tset : Nat} (h : wordIssues s m.val vop (vopDo s m.val vop imm k).1 tset = true) :
    Completes (.next (engVop (cycle s0) m.val vop imm k tset)) fun t =>
      engVa t m.val = (vopDo s m.val vop imm k).2 ∧ (bndOf t (16 + m.val)).vwi = (bndOf s (16 + m.val)).vwi + 1 ∧
      engUpc t m.val = engUpc s m.val := by
  refine engAct_completes hready ?_
  extract_lets b w streamed i
  obtain ⟨s1, hi, hvwi, hupc, hsince⟩ := engIssue_issued (mwLset (mword s m.val (engUpc s m.val))) h
  simp only [i, hi, if_true]
  have hnone : (bndOf (setVa s1 m.val w.2) b).since = none := hsince hs
  refine ⟨?_, ?_, ?_⟩
  · rw [engVa_congr m.val fun f hf _ => getF_afterWord_mce hnone _ _ _ _ hf]
    exact engVa_setVa _ _ _ (vopDo_lt ..)
  · exact (vwi_afterWord ..).trans hvwi
  · exact (getF_afterWord_mce hnone _ _ _ _ rfl).trans ((engUpc_setVa ..).trans hupc)

/-- Settles O24: each VOP is one issue, which `vopDo` gives the word and the next address. -/
theorem engineVectorAddress : Obligations.EngineVectorAddress := by
  unfold Obligations.EngineVectorAddress
  intro m tset imm lsel s0 s hready hs va w tgt rel ix x hx h
  simp only [List.mem_cons, List.not_mem_nil, or_false] at hx
  obtain rfl | rfl | rfl | rfl | rfl | rfl | rfl := hx
  · exact engVop_issued hready hs (vop := 0) (imm := 0) (k := 0) h
  · exact engVop_issued hready hs (vop := 1) (imm := 0) (k := 0) h
  · exact engVop_issued hready hs (vop := 2) (k := 0) h
  · exact engVop_issued hready hs (vop := 3) (k := 0) h
  · exact engVop_issued hready hs (vop := 4) (imm := 0) (k := 0) h
  · exact engVop_issued hready hs (vop := 5) (k := 0) h
  · exact engVop_issued hready hs (vop := 6) h

end Sys2Proof.Machine
end

section
/-! A word with a parity error after the end of a test: only a stop that neither the end of the test nor a fault of the engine has caused
keeps a word from executing (R229, R231, R233). -/

namespace Sys2Proof.Machine

/-- Polder 0 stops, for engine 0 has ended its test (STOPCAUSE 1); microword 0, at which the engine stands, has a parity error. -/
def testEnded : State :=
  let regs := [(F.MCE_STATE_RESERVED, 0, 1), (F.POL_STATE_RSTATE, 0, RS.stopping.code),
    (F.MCE_STOPINFO_STOPCAUSE, 0, 1)].foldl (fun s x => setF s x.1 x.2.1 x.2.2) State.reset
  setWide (setPol regs 0 { bind := some 16 }) .mce 0 1 0 1

theorem testEnded_meets : engReady (cycle testEnded) 0 = none ∧ reserved testEnded 16 = true ∧ bndMem testEnded 16 = [0] ∧
    rsOf testEnded 0 = .stopping ∧ wordFault testEnded 0 = some 4 ∧ getF testEnded F.MCE_CSPARERR_N 0 = 0 := by decide +kernel

/-- The parity error is not counted. -/
theorem microwordIssue_testEnded : Completes (exec (.microwordIssue 0) testEnded) fun t => getF t F.MCE_CSPARERR_N 0 = 0 :=
  ⟨_, rfl, by decide +kernel⟩

/-- Refutes O25 by its last clause, which asks for no cause of the stop: in `testEnded` the test has ended, no word was about to execute,
and the parity error at UPC is not counted. -/
theorem not_engineMicroword : ¬ Obligations.EngineMicroword := by
  unfold Obligations.EngineMicroword
  intro h
  obtain ⟨-, hparity⟩ := h
  obtain ⟨hready, hres, hmem, hrs, hfault, hnone⟩ := testEnded_meets
  obtain ⟨t, ht, -, -, hcount, -⟩ := hparity 0 testEnded hready hres (by rw [Fin.val_zero, hmem]; simp)
    (by rw [Fin.val_zero, hmem]; simpa using hrs) rfl hfault
  obtain ⟨u, hu, hzero⟩ := microwordIssue_testEnded
  rw [hu, Host.Outcome.next.injEq] at ht
  subst ht
  rw [Fin.val_zero, hzero, hnone] at hcount
  exact absurd hcount (by decide)

end Sys2Proof.Machine
end

section
/-! What the records of one stream leave alone (R244, R251, R252, R262, R264): an observation that sees neither the stream nor the pool,
and of the stream's unit only A and the open record, is the same after every operation that forms records for the stream. -/

namespace Sys2Proof.Machine

/-- `φ` sees nothing of what records write that are formed for stream `k`: the stream, the pool, the free values taken, the records
dropped, and of the unit whatever is neither the stamp at which it armed nor its open record. -/
structure OffStream {α : Type} (k : Nat) (φ : State → α) : Prop where
  strm : ∀ s x, φ (setStrm s k x) = φ s
  pool : ∀ s m, φ { s with pool := m } = φ s
  free : ∀ s n, φ { s with free := n } = φ s
  unit : ∀ s x, x.arm = (acqOf s (strmPol k)).arm → x.rcd = (acqOf s (strmPol k)).rcd → φ (setAcq s (strmPol k) x) = φ s
  drop : ∀ s, φ (addCt (raise s .slu 0 E.SLU_DROP) (F.SLU_X3_DROPCNT k) 0 1) = φ s

theorem strmPol_stream {p j : Nat} (hj : j < 4) : strmPol (4 * p + j) = p := by unfold strmPol; omega

namespace OffStream

variable {α : Type} {k : Nat} {φ : State → α} (H : OffStream k φ)
include H

theorem handOff (s : State) (flush : Bool) : φ (handOff s k flush) = φ s := by
  simp only [Machine.handOff]
  split
  · rfl
  · exact H.strm ..

theorem retain (s : State) : φ (retain s k) = φ s := by
  simp only [Machine.retain]
  split
  · rfl
  · rw [apply_ite φ, H.strm, H.handOff, ite_self]

theorem padOut (s : State) : φ (padOut s k) = φ s := by
  simp only [Machine.padOut]
  split
  · rfl
  · exact H.strm ..

theorem grant (s : State) : φ (grant s k) = φ s := (H.strm ..).trans (H.free ..)

theorem reuse (s : State) : φ (reuse s k) = φ s := (H.unit _ _ (by rfl) (by rfl)).trans ((H.pool ..).trans (H.strm ..))

theorem dropRec (s : State) : φ (dropRec s k) = φ s := (H.strm ..).trans (H.drop ..)

theorem takeSeq (s : State) : φ (takeSeq s k) = φ s := H.strm ..

theorem putWords (s : State) (ws : List (BitVec 64)) : φ (putWords s k ws) = φ s := by
  unfold Machine.putWords
  extract_lets ret apart fits app s1 s2
  have happ (t : State) : φ (app t) = φ t := by
    simp only [app]
    split
    · exact H.strm ..
    · rfl
  have h1 : φ s1 = φ s := by simp only [s1, apply_ite φ, H.retain, H.handOff, H.padOut, ite_self]
  simp only [s2, apply_ite φ, happ, H.grant, H.reuse, H.dropRec, h1, ite_self]

theorem appendRec (s : State) (r : Record) : φ (appendRec s k r) = φ s := by
  simp only [Machine.appendRec, apply_ite φ, H.putWords, H.takeSeq, ite_self]

theorem appendFlush (s : State) (r : Record) : φ (appendFlush s k r) = φ s := by
  simp only [Machine.appendFlush, apply_ite φ, H.handOff, H.appendRec, H.retain, ite_self]

theorem cutStrm (s : State) (c : Stamp) : φ (cutStrm s k c) = φ s := H.strm ..

end OffStream

/-- An item of a source of polder `p` (R236, R241). -/
theorem OffStream.putItem {α : Type} {φ : State → α} {p src : Nat} (H : OffStream (4 * p + src) φ) (hsrc : src < 4) (s : State)
    (r : Record) (t : Stamp) : φ (putItem s p src r t) = φ s := by
  have hunit (s : State) (x : AcqU) := strmPol_stream (p := p) hsrc ▸ H.unit s x
  unfold Machine.putItem
  simp (disch := rfl) only [apply_ite φ, H.appendRec, hunit, H.takeSeq, ite_self]

/-- The gathered samples of a polder become records (R254). -/
theorem OffStream.flushScopes {α : Type} {φ : State → α} {p : Nat} (H : OffStream (4 * p + 3) φ) (s : State) :
    φ (flushScopes s p) = φ s := by
  have hunit (s : State) (x : AcqU) := strmPol_stream (p := p) (j := 3) (by decide) ▸ H.unit s x
  refine forAll_same (fun s o => ?_) _ s
  unfold flushScope
  simp (disch := rfl) only [apply_ite φ, H.putItem (by decide), hunit, ite_self]

/-! Observations of that kind: the events on their way, A and the open record of a unit, a field of another register. -/

theorem raise_flight (s : State) (p : Page) (n b : Nat) : (raise s p n b).rtr.flight = s.rtr.flight := by
  have hc (t : State) : (countEvt t p n).rtr.flight = t.rtr.flight := by unfold countEvt; split <;> rfl
  rcases raise_cases s p n b with e | e
  · rw [e, hc]; rfl
  · rw [e]; unfold report; split <;> exact hc _

theorem offStream_flight (k : Nat) : OffStream k fun s => s.rtr.flight where
  strm _ _ := rfl
  pool _ _ := rfl
  free _ _ := rfl
  unit _ _ _ _ := rfl
  drop s := raise_flight s ..

/-- A unit's A and its open record. -/
def armRcd (p : Nat) (s : State) : Stamp × Option OpenRec := ((acqOf s p).arm, (acqOf s p).rcd)

theorem armRcd_congr {s t : State} (h : t.acqs = s.acqs) (p : Nat) : armRcd p t = armRcd p s := by
  unfold armRcd
  rw [acqOf_congr h]

theorem offStream_armRcd (p k : Nat) : OffStream k (armRcd p) where
  strm _ _ := rfl
  pool _ _ := rfl
  free _ _ := rfl
  unit s x harm hrcd := by
    unfold armRcd
    by_cases hp : p = strmPol k
    · rw [hp, acqOf_setAcq_same, harm, hrcd]
    · rw [acqOf_setAcq_ne s x hp]
  drop s := armRcd_congr (raise_acqs s ..) p

theorem offStream_getF {f : Fld} {n k : Nat} (he : f.tag ≠ (F.EVT .slu).tag) (hs : f.tag ≠ (F.EVT_SEQ .slu).tag)
    (hd : f.key n ≠ (F.SLU_X3_DROPCNT k).key 0) : OffStream k fun s => getF s f n where
  strm _ _ := rfl
  pool _ _ := rfl
  free _ _ := rfl
  unit _ _ _ _ := rfl
  drop _ := (getF_setF_ne _ _ hd).trans (getF_raise _ _ _ _ _ _ he hs)

theorem offStream_page {f : Fld} (n k : Nat) (h : f.page ≠ .slu) : OffStream k fun s => getF s f n where
  strm _ _ := rfl
  pool _ _ := rfl
  free _ _ := rfl
  unit _ _ _ _ := rfl
  drop _ := (addCt_page _ _ _ _ h).trans (raise_page _ _ _ _ h)

end Sys2Proof.Machine
end

section
/-! The count at the stamp of a happening (R300), and the deassertion that a record orders at its close (R245). -/

namespace Sys2Proof.Machine

/-- The state in which a command has begun and finds the count at `b`. -/
def begunAt (s : State) (b : BitVec 64) : State := { s with cyc := [], bdn := b }

theorem reach_cycle (s : State) (t : Stamp) : ∃ b, reach (cycle s) t = begunAt s b := by
  unfold reach
  split
  · exact ⟨_, rfl⟩
  · exact ⟨s.bdn, rfl⟩

theorem closeEvent_acqs (s : State) (p : Nat) (c : Stamp) : (closeEvent s p c).acqs = s.acqs := by
  unfold closeEvent
  split <;> rfl

theorem getF_closeEvent (s : State) (p : Nat) (c : Stamp) (f : Fld) (n : Nat) : getF (closeEvent s p c) f n = getF s f n := by
  unfold closeEvent
  split <;> rfl

/-- No deassertion of the source of unit `p` that `c` precedes is on its way. -/
def NoneAfter (p : Nat) (c : Stamp) (l : List Ev) : Prop :=
  ∀ e ∈ l, e.src.toNat = 0x680 + p → e.pol = false → earlier c e.stamp = false

theorem closeEvent_flight {s : State} {p : Nat} {c : Stamp} (h : NoneAfter p c s.rtr.flight) :
    (closeEvent s p c).rtr.flight = s.rtr.flight := by
  unfold closeEvent
  split
  · rfl
  · refine (List.map_congr_left fun e he => if_neg ?_).trans (List.map_id _)
    rintro ⟨hsrc, hpol, hearlier⟩
    exact absurd hearlier (by simp [h e he hsrc hpol])

end Sys2Proof.Machine
end

section
/-! RECORD_COMPLETE (R245, R247). -/

namespace Sys2Proof.Machine

/-- What the end of an open record of polder `p` at stamp `c` brings about (R245). -/
structure RecordEnded (s : State) (p : Nat) (c : Stamp) (t : State) : Prop where
  unit : armRcd p t = ((acqOf s p).arm, none)
  evt : (getF t (F.EVT .acq) p).testBit E.ACQ_REC_DONE = true
  flight : NoneAfter p c s.rtr.flight → t.rtr.flight = s.rtr.flight
  pre : getF t F.ACQ_PRE_T p = getF s F.ACQ_PRE_T p

/-- The TAILs leave what no stream's records touch; then REC_DONE is set, the source deasserts and the unit has no open record. -/
theorem closeRec_ended {s : State} {p : Nat} {w : OpenRec} (h : (acqOf s p).rcd = some w) (cause : Nat) (c : Stamp) :
    RecordEnded s p c (closeRec s p cause c) := by
  unfold closeRec
  simp -zeta only [h]
  extract_lets s1 s2 s3 u
  have htails {α : Type} {φ : State → α} (H : ∀ k, OffStream k φ) : φ s1 = φ s := by
    refine (forAll_same (fun t j => ?_) _ _).trans ((H _).flushScopes s)
    rw [(H _).appendFlush, apply_ite φ, (H _).cutStrm, ite_self]
  have hflight : s2.rtr.flight = s.rtr.flight := (raise_flight ..).trans (htails offStream_flight)
  have hunit : armRcd p s3 = armRcd p s :=
    (armRcd_congr ((closeEvent_acqs ..).trans (raise_acqs ..)) p).trans (htails (offStream_armRcd p))
  have harm : u.arm = (acqOf s p).arm := congrArg Prod.fst hunit
  refine ⟨?_, ?_, fun hn => ?_, ?_⟩
  · simp only [armRcd, setAstate, acqOf_setF, acqOf_setAcq_same, harm]
  · have hevt : (getF s3 (F.EVT .acq) p).testBit E.ACQ_REC_DONE = true := by
      rw [getF_closeEvent]
      exact evt_raise _ _ _ _ (by decide)
    rwa [setAstate, getF_setF_tag _ _ _ _ (by decide)]
  · exact (closeEvent_flight (hflight ▸ hn)).trans hflight
  · rw [setAstate, getF_setF_tag _ _ _ _ (by decide)]
    refine (getF_closeEvent ..).trans ((getF_raise _ _ _ _ _ _ (by decide) (by decide)).trans ?_)
    exact htails fun k => offStream_page p k (by decide)

/-- What the end of record `w` at the close of its window makes of the unit of polder `p` (R241, R245). -/
structure Completed (s : State) (p : Nat) (w : OpenRec) (t : State) : Prop where
  rcd : (acqOf t p).rcd = none
  evt : (getF t (F.EVT .acq) p).testBit E.ACQ_REC_DONE = true
  flight : NoneAfter p w.closeS s.rtr.flight → t.rtr.flight = s.rtr.flight
  astate : getF t F.ACQ_STATE_ASTATE p = if getF s F.ACQ_ACQCTL_MODE p = 2 then 5 else if getF s F.ACQ_PRE_T p = 0 then 3 else 2
  arm : (acqOf t p).arm = if getF s F.ACQ_ACQCTL_MODE p = 2 then (acqOf s p).arm else w.closeS

/-- The words of records that waited for the end of the open one (R241). -/
theorem putLate_same {α : Type} {φ : State → α} (H : ∀ k, OffStream k φ) (p : Nat) (l : List (Nat × List (BitVec 64))) (s : State) :
    φ (l.foldl (fun s x => putWords s (4 * p + x.1) x.2) s) = φ s :=
  List.foldlRecOn (motive := fun t => φ t = φ s) _ _ rfl fun t ht _ _ => ((H _).putWords t _).trans ht

theorem completeRec_completed {s : State} {p : Nat} {w : OpenRec} (h : (acqOf s p).rcd = some w) :
    Completed s p w (completeRec s p) := by
  obtain ⟨hunit, hevt, hflight, hpre⟩ := closeRec_ended h 0 w.closeS
  obtain ⟨harm, hrcd⟩ := Prod.mk.inj hunit
  unfold completeRec
  simp -zeta only [h]
  extract_lets s1 late u s2
  have hevt2 (v : Nat) : (getF (setAstate s2 p v) (F.EVT .acq) p).testBit E.ACQ_REC_DONE = true := by
    rw [setAstate, getF_setF_tag _ _ _ _ (by decide)]
    exact hevt
  have hpre2 : getF s2 F.ACQ_PRE_T p = getF s F.ACQ_PRE_T p := hpre
  split
  · next hsingle =>
    refine ⟨?_, hevt2 5, hflight, ?_, ?_⟩
    · simpa [setAstate, s2] using hrcd
    · simp [setAstate, hsingle]
    · simpa [setAstate, s2, hsingle] using harm
  · next hagain =>
    have hastate : getF (armUnit s2 p w.closeS) F.ACQ_STATE_ASTATE p = if getF s F.ACQ_PRE_T p = 0 then 3 else 2 := by
      rw [armUnit, setAstate, getF_setF_same, hpre2]
      split <;> rfl
    have harmed : armRcd p (armUnit s2 p w.closeS) = (w.closeS, none) := by simp [armRcd, armUnit, setAstate]
    obtain ⟨harm', hrcd'⟩ := Prod.mk.inj ((putLate_same (offStream_armRcd p) p late _).trans harmed)
    refine ⟨hrcd', ?_, fun hn => (putLate_same offStream_flight ..).trans (hflight hn), ?_, ?_⟩
    · rw [putLate_same (φ := fun t => getF t (F.EVT .acq) p) fun k => offStream_page p k (by decide)]
      exact hevt2 _
    · rw [putLate_same (φ := fun t => getF t F.ACQ_STATE_ASTATE p) fun k => offStream_page p k (by decide), hastate, if_neg hagain]
    · rw [harm', if_neg hagain]

/-- A record that the end of the run cuts is left to that end (R247). -/
theorem recordComplete_cut {s : State} {p : Fin 64} {w : OpenRec} (h : (acqOf s p.val).rcd = some w)
    (hbefore : beforeEnd (acqOf s p.val) w.closeS = false) (hend : (acqOf s p.val).endS ≠ some w.closeS) :
    exec (.recordComplete p) s = .next (cycle s) := by
  unfold exec execRecordComplete
  simp [show acqOf (cycle s) p.val = acqOf s p.val from rfl, h, hbefore, hend]

/-- A record whose window closes by the end of the run is complete (R245). -/
theorem recordComplete_completed {s : State} {p : Fin 64} {w : OpenRec} (h : (acqOf s p.val).rcd = some w)
    (hclose : beforeEnd (acqOf s p.val) w.closeS = true ∨ (acqOf s p.val).endS = some w.closeS) :
    Completes (exec (.recordComplete p) s) (Completed s p.val w) := by
  obtain ⟨b, hb⟩ := reach_cycle s (w.closeS + ticks 4000)
  refine ⟨completeRec (begunAt s b) p.val, ?_, { completeRec_completed (s := begunAt s b) h with }⟩
  unfold exec execRecordComplete
  simp [show acqOf (cycle s) p.val = acqOf s p.val from rfl, h, hclose, hb]

end Sys2Proof.Machine
end

section
/-! AUTO_TIMEOUT (R242): the forced record, what it leaves alone, and the source that asserts at F + ATO (R245). -/

namespace Sys2Proof.Machine

/-- `φ` sees nothing of what an accepted trigger of unit `p` writes but the events that set out (R241). -/
structure OffAccept {α : Type} (p : Nat) (φ : State → α) : Prop extends OffClaims φ where
  acq : ∀ s x, φ (setAcq s p x) = φ s
  field : ∀ s, ∀ f ∈ [F.ACQ_STATE_ASTATE, F.ACQ_RECCNT_N, F.ACQ_LASTT_LO_T, F.ACQ_LASTT_HI_T], ∀ v, φ (setF s f p v) = φ s
  acc : ∀ s, φ (raise s .acq p E.ACQ_TRIG_ACC) = φ s

/-- The assertion of the source of unit `p` at `t`, and its deassertion at the close `c` of the window or an earlier end of the run. -/
def recordEvents (p : Nat) (t c : Stamp) (endS : Option Stamp) : List Ev :=
  [{ src := BitVec.ofNat 12 (0x680 + p), pol := true, stamp := t },
    { src := BitVec.ofNat 12 (0x680 + p), pol := false,
      stamp := match endS with | some e => if earlier e c then e else c | none => c }]

/-- An accepted trigger sends its two events after writing what `OffAccept` does not see (R241, R245). -/
theorem accept_launches (s : State) (p : Nat) (t : Stamp) (kind : TrigKind) :
    ∃ u, (∀ {α : Type} {φ : State → α}, OffAccept p φ → φ u = φ s) ∧ accept s p t kind =
      (recordEvents p t (t + ticks (Nat.max 1 (getF s F.ACQ_POST_T p))) (acqOf s p).endS).foldl launch u := by
  unfold accept
  extract_lets pre post w u cut s1 s2 s3 _ s3' s4 s5
  refine ⟨s5, fun {α φ} H => ?_, rfl⟩
  have hclaims : φ s3 = φ s1 :=
    (forAll_same (fun _ _ => H.claim ..) _ s2).trans
      (List.foldlRecOn (motive := fun t => φ t = φ s1) _ _ rfl fun _ ht _ _ => (H.putItem ..).trans ht)
  have hfields : φ s4 = φ s3' := by simp [s4, set64, addCt, setAstate, H.field]
  exact (H.acc _).trans (hfields.trans ((H.acq ..).trans (hclaims.trans (H.acq ..))))

theorem offAccept_flight (p : Nat) : OffAccept p fun s => s.rtr.flight where
  strm _ _ _ _ := rfl
  pool _ _ := rfl
  free _ _ := rfl
  unit _ _ _ _ := rfl
  drop s _ := raise_flight s ..
  seq _ _ := rfl
  mask _ _ _ := raise_flight ..
  flog _ _ _ := rfl
  pol _ _ _ := rfl
  acq _ _ := rfl
  field _ _ _ _ := rfl
  acc _ := raise_flight ..

theorem offAccept_forcedcnt (p n : Nat) : OffAccept p fun s => getF s F.ACQ_FORCEDCNT_N n where
  strm _ _ _ _ := rfl
  pool _ _ := rfl
  free _ _ := rfl
  unit _ _ _ _ := rfl
  drop _ _ := (addCt_page _ _ _ _ (by simp)).trans (raise_page _ _ _ _ (by simp))
  seq _ _ := rfl
  mask _ _ _ := (getF_raise _ _ _ _ _ _ (by decide) (by decide)).trans (getF_addCt_tag _ _ _ _ (by decide))
  flog _ _ _ := addCt_page _ _ _ _ (by simp)
  pol _ _ _ := rfl
  acq _ _ := rfl
  field _ f hf _ := getF_setF_tag _ _ _ _ (by revert f; decide)
  acc _ := getF_raise _ _ _ _ _ _ (by decide) (by decide)

theorem offAccept_forcedEvt (p n : Nat) : OffAccept p fun s => (getF s (F.EVT .acq) n).testBit E.ACQ_FORCED where
  strm _ _ _ _ := rfl
  pool _ _ := rfl
  free _ _ := rfl
  unit _ _ _ _ := rfl
  drop _ _ := congrArg (Nat.testBit · _) ((addCt_page _ _ _ _ (by simp)).trans (raise_page _ _ _ _ (by simp)))
  seq _ _ := rfl
  mask _ _ _ := (evt_raise_other _ _ _ _ (by decide) (by decide)).trans
    (congrArg (Nat.testBit · _) (getF_addCt_tag _ _ _ _ (by decide)))
  flog _ _ _ := congrArg (Nat.testBit · _) (addCt_page _ _ _ _ (by simp))
  pol _ _ _ := rfl
  acq _ _ := rfl
  field _ f hf _ := congrArg (Nat.testBit · _) (getF_setF_tag _ _ _ _ (by revert f; decide))
  acc _ := evt_raise_other _ _ _ _ (by decide) (by decide)

/-! The two events of a forced record. -/

theorem ticks_toNat {n : Nat} (h : n < 2 ^ 32) : (ticks n).toNat = 1024 * n := by
  rw [ticks, BitVec.toNat_ofNat, Nat.mod_eq_of_lt (by omega)]

/-- Of a window that opens before an end of the run and lasts less than half an epoch, the end precedes the close unless the close
precedes the end or is the end (R300). -/
theorem earlier_close {f e d : Stamp} (hfe : earlier f e = true) (hd : d.toNat < 2 ^ 62) :
    (if earlier e (f + d) then e else f + d) = if earlier (f + d) e then f + d else e := by
  have hspan : (e - f).toNat < 2 ^ 63 := by
    simp only [earlier, Bool.and_eq_true, decide_eq_true_eq] at hfe
    exact hfe.2
  have hend : earlier e (f + d) = true ↔ (e - f).toNat < d.toNat := by
    simp only [earlier, Bool.and_eq_true, decide_eq_true_eq]
    bv_omega
  have hclose : earlier (f + d) e = true ↔ d.toNat < (e - f).toNat := by
    simp only [earlier, Bool.and_eq_true, decide_eq_true_eq]
    bv_omega
  simp only [hend, hclose]
  rcases Nat.lt_trichotomy d.toNat (e - f).toNat with h | h | h
  · rw [if_neg (by omega), if_pos h]
  · have heq : f + d = e := by bv_omega
    simp [heq]
  · rw [if_pos h, if_neg (by omega)]

/-- What the forced trigger at `f` makes of the unit of polder `p` (R241, R242), whose window closes at `c`. -/
structure Forced (s : State) (p : Nat) (f c : Stamp) (t : State) : Prop where
  flight : t.rtr.flight = s.rtr.flight ++ recordEvents p f c (acqOf s p).endS
  opened : Accepted s p f t
  count : getF t F.ACQ_FORCEDCNT_N p = min (getF s F.ACQ_FORCEDCNT_N p + 1) 0xFFFFFFFF
  evt : (getF t (F.EVT .acq) p).testBit E.ACQ_FORCED = true

theorem forceTrig_forced {s : State} {p : Nat} (hwait : waiting s p = true) (hmode : getF s F.ACQ_ACQCTL_MODE p = 1) :
    let f := fillEnd s p + ticks (atoTicks s p)
    beforeEnd (acqOf s p) f = true →
      Forced s p f (f + ticks (Nat.max 1 (getF s F.ACQ_POST_T p))) (forceTrig s p) := by
  intro f hbefore
  let s1 := raise (addCt s F.ACQ_FORCEDCNT_N p 1) .acq p E.ACQ_FORCED
  have hforce : forceTrig s p = accept s1 p f .forced := if_pos (by simp [hwait, hmode, f, hbefore])
  have hunit : acqOf s1 p = acqOf s p := acqOf_congr (raise_acqs ..) p
  have hfield {g : Fld} (hg : g.tag ∉ [(F.EVT .acq).tag, (F.EVT_SEQ .acq).tag, F.ACQ_FORCEDCNT_N.tag]) : getF s1 g p = getF s g p := by
    simp only [List.mem_cons, List.not_mem_nil, or_false, not_or] at hg
    exact (getF_raise _ _ _ _ _ _ hg.1 hg.2.1).trans (getF_addCt_tag _ _ _ _ hg.2.2)
  obtain ⟨u, hu, hlaunch⟩ := accept_launches s1 p f .forced
  obtain ⟨hopen, hrcd, hcount, hlast, hevt⟩ := accept_accepted s1 p f .forced
  rw [hforce]
  refine ⟨?_, ⟨hopen, hrcd, hcount.trans (by rw [hfield (by decide)]), hlast, hevt⟩, ?_, ?_⟩
  · have hflight : u.rtr.flight = s.rtr.flight := (hu (offAccept_flight p)).trans (raise_flight ..)
    rw [hlaunch, hunit, hfield (by decide)]
    show (u.rtr.flight ++ [_]) ++ [_] = _
    rw [hflight, List.append_assoc]
    rfl
  · rw [hlaunch]
    refine (hu (offAccept_forcedcnt p p)).trans ((getF_raise _ _ _ _ _ _ (by decide) (by decide)).trans ?_)
    exact getF_addCt_same ..
  · rw [hlaunch]
    exact (hu (offAccept_forcedEvt p p)).trans (evt_raise _ _ _ _ (by decide))

theorem autoTimeout_forced {s : State} {p : Fin 64} (hwait : waiting s p.val = true) (hmode : getF s F.ACQ_ACQCTL_MODE p.val = 1) :
    let f := fillEnd s p.val + ticks (atoTicks s p.val)
    beforeEnd (acqOf s p.val) f = true →
      Completes (exec (.autoTimeout p) s) (Forced s p.val f (f + ticks (Nat.max 1 (getF s F.ACQ_POST_T p.val)))) := by
  intro f hbefore
  obtain ⟨b, hb⟩ := reach_cycle s f
  obtain ⟨hflight, ⟨hopen, hrcd, hcount, hlast, hevt⟩, hforced, hfevt⟩ := forceTrig_forced (s := begunAt s b) hwait hmode hbefore
  refine ⟨forceTrig (begunAt s b) p.val, ?_, hflight, ⟨hopen, hrcd, hcount, hlast, hevt⟩, hforced, hfevt⟩
  rw [← hb]
  exact congrArg Host.Outcome.next (if_pos (by
    simp [show waiting (cycle s) p.val = true from hwait, show getF (cycle s) F.ACQ_ACQCTL_MODE p.val = 1 from hmode]))

/-- The deassertion at the close of the window or the earlier end of the run (R245). -/
theorem recordEvents_forced {s : State} {p k : Nat} {f : Stamp} (hbefore : beforeEnd (acqOf s k) f = true) :
    let c := f + ticks (Nat.max 1 (getF s F.ACQ_POST_T k))
    recordEvents p f c (acqOf s k).endS = [{ src := BitVec.ofNat 12 (0x680 + p), pol := true, stamp := f },
      { src := BitVec.ofNat 12 (0x680 + p), pol := false,
        stamp := if beforeEnd (acqOf s k) c then c else (acqOf s k).endS.getD c }] := by
  intro c
  unfold beforeEnd at hbefore ⊢
  unfold recordEvents
  cases he : (acqOf s k).endS with
  | none => simp
  | some e =>
    have hpost : getF s F.ACQ_POST_T k < 2 ^ 32 := Nat.mod_lt _ (Nat.two_pow_pos _)
    have hmax : Nat.max 1 (getF s F.ACQ_POST_T k) < 2 ^ 32 := Nat.max_lt.mpr ⟨by decide, hpost⟩
    simp only [he] at hbefore
    have hc := earlier_close hbefore (d := ticks (Nat.max 1 (getF s F.ACQ_POST_T k))) (by rw [ticks_toNat hmax]; omega)
    simp only [Option.getD_some]
    rw [← hc]

end Sys2Proof.Machine
end

section
/-! STREAM_ENABLE reaches ACQCTL with MODE 3, EN as written and the trigger bits as they read (R40, R246). -/

namespace Sys2Proof.Machine

/-! Writes whose effect decides what becomes of the value. -/

/-- A field without privilege that Embankment mode refuses, and whose accepted value only the effect of its register uses. -/
abbrev Effective (f : Fld) : Prop :=
  f.ty = .rw ∧ f.priv = false ∧ embankOk f = false ∧ custom f = true ∧ f.off ≠ (F.FORCE f.page).off

/-- A write to a register of such fields that nothing refuses is accepted whole and only takes its effect (R42). -/
theorem hostWrite_effective {s : State} {i : Initiator} {p : Page} {n off : Nat} (h : mayWrite s i p n off = true) (hoff : 0x040 ≤ off)
    (hpmu : pmuReg p off = false) (hf : ∀ f ∈ pageFields p n off, Effective f)
    (hl : isSet s F.FLT_STATE_EMBANK 0 = false → ∀ f ∈ pageFields p n off, lockedF s f n = false) (v : Nat) :
    hostWrite (cycle s) i p n off v = pageWrite (cycle s) i p n off v
      ((pageFields p n off).map fun f => (f, bits v f.lo f.w.val)) (fun f => getF s f n) := by
  have hj (f : Fld) (hm : f ∈ pageFields p n off) (mixed : Bool) (x : Nat) :
      judge (cycle s) i f n (runlockedF (cycle s) f n) mixed x = { ok := some x } := by
    obtain ⟨hrw, hpriv, hk, -, hforce⟩ := hf f hm
    obtain ⟨hobs, hemb, hrun⟩ := mayWrite_field h hm hk
    rw [show runlockedF (cycle s) f n = false from hrun]
    exact judge_rw hrw hpriv (.inl hforce) hobs (hl hemb f hm) mixed x
  have hstored (x : Fld → Nat) : ((pageFields p n off).map fun f => (f, x f)).foldl (fun s x => storeF s n x) (cycle s) = cycle s :=
    List.foldlRecOn (motive := fun t => t = cycle s) _ _ rfl fun t ht y hy => by
      obtain ⟨f, hm, rfl⟩ := List.mem_map.mp hy
      obtain ⟨-, -, -, hcustom, -⟩ := hf f hm
      rw [ht, storeF, if_pos (.inr hcustom)]
  have htaken (x : Fld → Nat) : takenFields ((pageFields p n off).map fun f => (f, { ok := some (x f) })) =
      (pageFields p n off).map fun f => (f, x f) := by
    simp [takenFields, List.filterMap_map]
  unfold hostWrite pageWriteReq
  rw [show servedPage (cycle s) p n off = .yes from servedPage_of_mayWrite h]
  show writeReg (cycle s) i p n off v = _
  rw [writeReg_taken (js := (pageFields p n off).map fun f => (f, { ok := some (bits v f.lo f.w.val) })) hoff hpmu
    (List.map_congr_left fun f hm => by rw [hj f hm]) (by simp), htaken, hstored]
  rfl

/-! Fields of ACQCTL in one word. -/

theorem pageFields_acqctl (p : Nat) : pageFields .acq p 0x040 =
    [F.ACQ_ACQCTL_EN, F.ACQ_ACQCTL_MODE, F.ACQ_ACQCTL_STRIG, F.ACQ_ACQCTL_RTRIG] := rfl

/-- ACQCTL as it reads, with MODE 3 and EN as given. -/
def acqctlStream (s : State) (p : Nat) (en : Bool) : Nat :=
  b2n en + 6 + 8 * getF s F.ACQ_ACQCTL_STRIG p + 16 * getF s F.ACQ_ACQCTL_RTRIG p

theorem fieldsWord_acqctl (s : State) (i : Initiator) (p : Nat) : fieldsWord s i p (pageFields .acq p 0x040) =
    getF s F.ACQ_ACQCTL_EN p + 2 * getF s F.ACQ_ACQCTL_MODE p + 8 * getF s F.ACQ_ACQCTL_STRIG p +
      16 * getF s F.ACQ_ACQCTL_RTRIG p := by
  rw [pageFields_acqctl]
  show 2 ^ 0 * getF s F.ACQ_ACQCTL_EN p + (2 ^ 1 * getF s F.ACQ_ACQCTL_MODE p +
    (2 ^ 3 * getF s F.ACQ_ACQCTL_STRIG p + (2 ^ 4 * getF s F.ACQ_ACQCTL_RTRIG p + 0))) = _
  omega

theorem setBits_acqctl (s : State) (i : Initiator) (p : Nat) (en : Bool) :
    setBits (setBits (fieldsWord s i p (pageFields .acq p 0x040)) 0 1 (b2n en)) 1 2 3 = acqctlStream s p en := by
  have hen : getF s F.ACQ_ACQCTL_EN p < 2 := Nat.mod_lt _ (by decide)
  have hmode : getF s F.ACQ_ACQCTL_MODE p < 4 := Nat.mod_lt _ (by decide)
  have hb : b2n en ≤ 1 := b2n_le_one en
  rw [fieldsWord_acqctl]
  unfold setBits bits acqctlStream
  omega

theorem bits_acqctlStream (s : State) (p : Nat) (en : Bool) :
    (acqctlStream s p en).testBit 0 = en ∧ bits (acqctlStream s p en) 1 2 = 3 ∧
      (acqctlStream s p en).testBit 3 = isSet s F.ACQ_ACQCTL_STRIG p ∧
      (acqctlStream s p en).testBit 4 = isSet s F.ACQ_ACQCTL_RTRIG p := by
  have hstrig : getF s F.ACQ_ACQCTL_STRIG p < 2 := Nat.mod_lt _ (by decide)
  have hrtrig : getF s F.ACQ_ACQCTL_RTRIG p < 2 := Nat.mod_lt _ (by decide)
  have hb : b2n en ≤ 1 := b2n_le_one en
  have hen : en = true ↔ b2n en = 1 := by cases en <;> decide
  simp only [Nat.testBit_eq_decide_div_mod_eq, bits, acqctlStream, isSet]
  refine ⟨Bool.eq_iff_iff.mpr ?_, by omega, Bool.eq_iff_iff.mpr ?_, Bool.eq_iff_iff.mpr ?_⟩
  all_goals
    simp only [decide_eq_true_eq, bne_iff_ne, hen]
    omega

/-- The write of ACQCTL is accepted whole (R63). -/
theorem exec_streamEnable {s : State} {i : Initiator} {p : Fin 64} (en : Bool) (h : mayWrite s i .acq p.val 0x040 = true) :
    exec (.streamEnable i p en) s =
      .next (acqctlSet (cycle s) p.val en 3 (isSet s F.ACQ_ACQCTL_STRIG p.val) (isSet s F.ACQ_ACQCTL_RTRIG p.val)) := by
  have hattrs : ∀ f ∈ pageFields .acq p.val 0x040, Effective f ∧ f.page = .acq := by
    rw [pageFields_acqctl]
    decide
  let v := acqctlStream s p.val en
  have hw : hostWrite (cycle s) i .acq p.val 0x040 v =
      acqctlSet (cycle s) p.val (v.testBit 0) (bits v 1 2) (v.testBit 3) (v.testBit 4) :=
    hostWrite_effective h (by decide) (by decide) (fun f hf => (hattrs f hf).1)
      (fun hemb f hf => by simp [lockedF, (hattrs f hf).2, hemb]) v
  obtain ⟨hbit0, hmode, hbit3, hbit4⟩ := bits_acqctlStream s p.val en
  rw [hbit0, hmode, hbit3, hbit4] at hw
  rw [← hw]
  exact congrArg (fun v => Host.Outcome.next (hostWrite (cycle s) i .acq p.val 0x040 v)) (setBits_acqctl (cycle s) i p.val en)

end Sys2Proof.Machine
end

section
/-! Streaming starts with the thinning factors and the sequence numbers of the polder's streams at 0 (R252, R263, R269). -/

namespace Sys2Proof.Machine

theorem dflog_key {j k : Nat} (h : j ≠ k) : (F.SLU_X3_DFLOG j).key 0 ≠ (F.SLU_X3_DFLOG k).key 0 := by
  simp only [Fld.key, fldKey]
  omega

theorem dflog_lt (s : State) (k : Nat) : dflog s k < 16 := Nat.mod_lt _ (Nat.two_pow_pos 4)

theorem dflog_tags (k : Nat) : (F.SLU_X3_DFLOG k).tag ≠ (F.EVT .slu).tag ∧ (F.SLU_X3_DFLOG k).tag ≠ (F.EVT_SEQ .slu).tag := by
  simp only [Fld.tag, fldKey, Page.code]
  omega

theorem offStream_dflog (j k : Nat) : OffStream k fun s => dflog s j :=
  offStream_getF (dflog_tags j).1 (dflog_tags j).2 (by simp only [Fld.key, fldKey]; omega)

theorem dflog_setDflog (s : State) (k d j : Nat) : dflog (setDflog s k d) j = if j = k then d % 16 else dflog s j := by
  unfold setDflog
  split
  · next hd =>
    split
    · next hj => rw [hj, ← hd, Nat.mod_eq_of_lt (dflog_lt s k)]
    · rfl
  · by_cases hj : j = k
    · rw [if_pos hj, hj]
      exact getF_setF_same ..
    · have hclosed : dflog (if retaining s k then retain s k else handOff s k true) j = dflog s j := by
        rw [apply_ite (dflog · j), (offStream_dflog j k).retain, (offStream_dflog j k).handOff, ite_self]
      rw [if_neg hj, ← hclosed]
      exact getF_setF_ne _ _ (dflog_key hj)

theorem dflog_clearDflog (s : State) (p : Nat) {j : Nat} (hj : j < 4) : dflog (clearDflog s p) (4 * p + j) = 0 := by
  have hone (t : State) (k : Nat) : dflog (setStrm (setDflog t k 0) k { strmOf (setDflog t k 0) k with low := 0 }) (4 * p + j) =
      if 4 * p + j = k then 0 else dflog t (4 * p + j) := dflog_setDflog ..
  refine forAll_reaches (I := fun _ => True) (P := fun t => dflog t (4 * p + j) = 0) (n := 4 * p + j) (fun _ _ _ => trivial)
    (fun t _ => ?_) (fun t k ht => ?_) (List.mem_map_of_mem (List.mem_range.mpr hj)) trivial
  · rw [hone, if_pos rfl]
  · rw [hone, ht, ite_self]

theorem restartStreams_cleared (s : State) (p : Nat) {j : Nat} (hj : j < 4) :
    (strmOf (restartStreams s p) (4 * p + j)).rseq = 0 ∧ dflog (restartStreams s p) (4 * p + j) = 0 := by
  constructor
  · refine forAll_reaches (I := fun _ => True) (P := fun t => (strmOf t (4 * p + j)).rseq = 0) (n := 4 * p + j)
      (fun _ _ _ => trivial) (fun t _ => ?_) (fun t k ht => ?_) (List.mem_map_of_mem (List.mem_range.mpr hj)) trivial
    · rw [strmOf_setStrm_same]
    · by_cases hk : 4 * p + j = k
      · rw [hk, strmOf_setStrm_same]
      · rwa [strmOf_setStrm_ne _ _ hk]
  · unfold restartStreams dflog
    rw [forAll_page fun _ _ => getF_setStrm ..]
    exact dflog_clearDflog s p hj

/-- What a write of ACQCTL with MODE 3 makes of the unit and the streams of polder `p` (R246, R252, R256). -/
structure StreamSet (s : State) (p : Nat) (en : Bool) (t : State) : Prop where
  enabled : getF t F.ACQ_ACQCTL_EN p = b2n en
  mode : getF t F.ACQ_ACQCTL_MODE p = 3
  astate : getF t F.ACQ_STATE_ASTATE p = if en then 7 else 0
  strig : getF t F.ACQ_ACQCTL_STRIG p = getF s F.ACQ_ACQCTL_STRIG p
  rtrig : getF t F.ACQ_ACQCTL_RTRIG p = getF s F.ACQ_ACQCTL_RTRIG p
  fresh : en = true → getF s F.ACQ_ACQCTL_EN p = 0 → ∀ j < 4, (strmOf t (4 * p + j)).rseq = 0 ∧ dflog t (4 * p + j) = 0

theorem b2n_isSet {s : State} {f : Fld} {n : Nat} (hw : f.w = 1) : b2n (isSet s f n) % 2 ^ f.w.val = getF s f n := by
  have hlt : getF s f n < 2 ^ f.w.val := Nat.mod_lt _ (Nat.two_pow_pos _)
  rw [hw] at hlt ⊢
  have h2 : getF s f n = 0 ∨ getF s f n = 1 := by
    change getF s f n < 2 at hlt
    omega
  rcases h2 with h | h <;> simp [isSet, h, b2n]

theorem acqctlSet_stream (s : State) (p : Nat) (en : Bool) :
    StreamSet s p en (acqctlSet s p en 3 (isSet s F.ACQ_ACQCTL_STRIG p) (isSet s F.ACQ_ACQCTL_RTRIG p)) := by
  unfold acqctlSet
  extract_lets stream s1 old s2 s3
  have hstream : stream = en := by simp [stream]
  have hkeep {f : Fld} (hf : f.tag ≠ F.ACQ_STATE_ASTATE.tag) (hp : f.page = .acq) (v : Nat) :
      getF (setAstate s3 p v) f p = getF s2 f p := by
    refine (getF_setF_tag _ _ _ _ hf).trans ?_
    simp only [s3, getF_ite, restartStreams_page (fl := f) _ _ (by simp [hp]), ite_self]
  refine ⟨?_, ?_, ?_, ?_, ?_, fun hen hold j hj => ?_⟩
  · rw [hkeep (by decide) rfl]
    simp (disch := decide) only [s2, getF_setF_tag, getF_setF_same]
    cases en <;> rfl
  · rw [hkeep (by decide) rfl]
    simp (disch := decide) only [s2, getF_setF_tag, getF_setF_same]
    rfl
  · rw [setAstate, getF_setF_same, hstream]
    cases en <;> rfl
  · rw [hkeep (by decide) rfl]
    simp (disch := decide) only [s2, getF_setF_tag, getF_setF_same]
    exact b2n_isSet rfl
  · rw [hkeep (by decide) rfl, getF_setF_same]
    exact b2n_isSet rfl
  · have hs3 : s3 = restartStreams s2 p := if_pos (by simp [hstream, hen, old, isSet, hold])
    obtain ⟨hrseq, hdflog⟩ := restartStreams_cleared s2 p hj
    unfold dflog at hdflog ⊢
    rw [hs3, setAstate, strmOf_setF, getF_setF_page _ _ _ _ (by simp)]
    exact ⟨hrseq, hdflog⟩

end Sys2Proof.Machine
end

section
/-! PRE_TRIGGER_FILL_END, SCOPE_SAMPLE (R241, R254), and the timers of the acquisition unit together. -/

namespace Sys2Proof.Machine

theorem preTriggerFillEnd_ready {s : State} {p : Fin 64} (h : getF s F.ACQ_STATE_ASTATE p.val = 2) :
    Completes (exec (.preTriggerFillEnd p) s) fun t =>
      getF t F.ACQ_STATE_ASTATE p.val = 3 ∧ SameBut [(F.ACQ_STATE_ASTATE, p.val)] s t := by
  obtain ⟨b, hb⟩ := reach_cycle s (fillEnd s p.val)
  refine ⟨setAstate (begunAt s b) p.val 3, ?_, getF_setF_same .., ?_⟩
  · rw [← hb]
    exact congrArg Host.Outcome.next (if_pos (by simp [h]))
  · exact SameBut.setF (t := begunAt s b) (SameBut.refl _ s) _ _ _ (by simp)

/-! The pin scope. -/

section
variable {s : State} {o : Fin 64} {q : Nat} {t0 : Stamp} (ho : owner s o.val = some q) (hp : 2 ≤ pstate s (8 * o.val))
  (ha : admits s q 3 t0 = true) (ht : t0.toNat % (1024 * 2 ^ scopeIv s q) = 0)
include ho hp ha ht

/-- The sample of an octet that may gather one is counted lost, or joins the samples of its polder (R19, R254). -/
theorem exec_scopeSample (lost : Bool) : exec (.scopeSample o t0 lost) s = .next
    (if lost then raise (addCt (cycle s) F.OCT_SCOPELOST_N o.val 1) .oct o.val E.OCT_SCOPE_LOST
      else scopeSample (cycle s) q o.val t0 (BitVec.ofNat 8
        (if isSet s F.ACQ_SRCCFG_SCOPESEL q then getF s F.OCT_COND_CMPL o.val else getF s F.OCT_COND_CMPH o.val))) := by
  unfold exec execScopeSample
  have hgo : ¬ (pstate s (8 * o.val) < 2 ∨ (!admits s q 3 t0) = true ∨ t0.toNat % (1024 * 2 ^ scopeIv s q) ≠ 0) := by
    simp [Nat.not_lt.mpr hp, ha, ht]
  simp only [show owner (cycle s) o.val = some q from ho]
  exact congrArg Host.Outcome.next (if_neg hgo)

theorem scopeSample_counted : Completes (exec (.scopeSample o t0 true) s) fun t =>
    getF t F.OCT_SCOPELOST_N o.val = min (getF s F.OCT_SCOPELOST_N o.val + 1) 0xFFFFFFFF ∧
    (getF t (F.EVT .oct) o.val).testBit E.OCT_SCOPE_LOST = true ∧ t.acqs = s.acqs ∧
    SameBut [(F.OCT_SCOPELOST_N, o.val), (F.EVT .oct, o.val), (F.EVT_SEQ .oct, o.val)] s t := by
  refine ⟨_, exec_scopeSample ho hp ha ht true, ?_, evt_raise _ _ _ _ (by decide), raise_acqs .., ?_⟩
  · exact (getF_raise _ _ _ _ _ _ (by decide) (by decide)).trans (getF_addCt_same ..)
  · exact (SameBut.setF (t := cycle s) (SameBut.refl _ s) _ _ _ (by simp)).raise _ _ _ (by simp) (by simp)

end

/-- The samples of an octet after one at `t0` that begins or continues them, at the interval `iv` where it begins them (R254). -/
def joined (a : ScopeAcc) (t0 : Stamp) (iv : Nat) (b : Byte) : ScopeAcc :=
  if a.samples = [] then { start := t0, iv := iv, samples := [b] } else { a with samples := a.samples ++ [b] }

/-- Outside a record a sample that begins or continues the samples of its octet only joins them, below the length of a record. -/
theorem scopeSample_joined {s : State} {q : Nat} (o : Nat) {t0 : Stamp} (b : Byte) (hrcd : (acqOf s q).rcd = none) :
    let h := (octsOf s q).idxOf o
    let a := Store.get (acqOf s q).scope {} h
    a.samples.length < 383 → (a.samples = [] ∨ t0 = a.start + ticks (a.samples.length * 2 ^ a.iv)) →
      scopeSample s q o t0 b =
        setAcq s q { acqOf s q with scope := Store.put (acqOf s q).scope {} h (joined a t0 (scopeIv s q) b) } := by
  intro h a hlen hnext
  unfold scopeSample
  extract_lets gap cross s1 u a1 a2 s2
  have hgap : gap = false := by
    rcases hnext with hn | hn
    · simp [gap, hn]
    · simp [gap, ← hn]
  have hcross : cross = false := by simp [cross, hrcd]
  have hs1 : s1 = s := if_neg (by simp [hgap, hcross, show ¬ 384 ≤ a.samples.length by omega])
  have ha2 : a2 = joined a t0 (scopeIv s q) b := by
    simp only [a2, a1, u, hs1, List.isEmpty_iff]
    rfl
  have hroom : ¬ 384 ≤ a2.samples.length := by
    rw [ha2, joined]
    split
    · simp
    · simp only [List.length_append, List.length_singleton]
      omega
  rw [if_neg hroom]
  simp only [s2, u, hs1, ha2]
  rfl

theorem scopeSample_gathered {s : State} {o : Fin 64} {q : Nat} {t0 : Stamp} (ho : owner s o.val = some q)
    (hp : 2 ≤ pstate s (8 * o.val)) (ha : admits s q 3 t0 = true) (ht : t0.toNat % (1024 * 2 ^ scopeIv s q) = 0)
    (hrcd : (acqOf s q).rcd = none) :
    let h := (octsOf s q).idxOf o.val
    let a := Store.get (acqOf s q).scope {} h
    let v := if isSet s F.ACQ_SRCCFG_SCOPESEL q then getF s F.OCT_COND_CMPL o.val else getF s F.OCT_COND_CMPH o.val
    a.samples.length < 383 → (a.samples = [] ∨ t0 = a.start + ticks (a.samples.length * 2 ^ a.iv)) →
      Completes (exec (.scopeSample o t0 false) s) fun t =>
        Store.get (acqOf t q).scope {} h = joined a t0 (scopeIv s q) (BitVec.ofNat 8 v) ∧ SameBut [] s t := by
  intro h a v hlen hnext
  refine ⟨_, exec_scopeSample ho hp ha ht false, ?_⟩
  rw [if_neg (by decide), scopeSample_joined (s := cycle s) o.val _ hrcd hlen hnext]
  refine ⟨?_, (SameBut.refl _ s).of_regs rfl⟩
  rw [acqOf_setAcq_same]
  exact Store.get_put_same ..

/-- Settles O37: the forced record by `accept_accepted` and what `OffAccept` does not see of it, its close by `earlier_close`; the end of
a record by what `OffStream` says of the TAILs and of the records that waited; a sample by `scopeSample_joined`. -/
theorem acquisitionTimers : Obligations.AcquisitionTimers := by
  unfold Obligations.AcquisitionTimers
  intro i p en o t0 s k u
  refine ⟨preTriggerFillEnd_ready, ?_, fun w hw hbefore hend => ⟨_, recordComplete_cut hw hbefore hend, rfl⟩, fun w hw hclose => ?_,
    fun hwrite _ => ?_, fun q ho hp ha ht => ⟨scopeSample_counted ho hp ha ht, fun hrcd => ?_⟩⟩
  · intro f c hwait hmode hbefore
    obtain ⟨t, ht, hflight, ⟨hopen, hrcd, hcount, hlast, -⟩, hforced, hevt⟩ := autoTimeout_forced hwait hmode hbefore
    exact ⟨t, ht, hflight.trans (congrArg _ (recordEvents_forced hbefore)), hrcd, hopen, hlast, hforced, hcount, hevt⟩
  · obtain ⟨t, ht, hrcd, hevt, hflight, hastate, harm⟩ := recordComplete_completed hw hclose
    exact ⟨t, ht, hrcd, hevt, hflight, hastate, harm⟩
  · obtain ⟨hen, hmode, hastate, hstrig, hrtrig, hfresh⟩ := acqctlSet_stream (cycle s) k en
    exact ⟨_, exec_streamEnable en hwrite, hen, hmode, hastate, hstrig, hrtrig, hfresh⟩
  · exact scopeSample_gathered ho hp ha ht hrcd

end Sys2Proof.Machine
end

section
/-! RETENTION_EXPIRY and GRANULE_FLUSH_TIMEOUT (R244, R264). -/

namespace Sys2Proof.Machine

/-- The granule holds an item stamped at `t` or later (R244). -/
def Gran.keptAt (t : Stamp) (g : Gran) : Bool := (splitRecs 62 g.words).any fun r => itemRec r && !earlier (recLast r) t

/-- The stream without the retained granules all of whose items are stamped before `t`. -/
def Strm.expired (t : Stamp) (x : Strm) : Strm := { x with retained := x.retained.filter (Gran.keptAt t) }

theorem expire_expired {s : State} {p j : Nat} (h : retaining s (4 * p + j) = true) (t : Stamp) :
    strmOf (expire s p j t) (4 * p + j) = (strmOf s (4 * p + j)).expired t ∧ (expire s p j t).regs = s.regs := by
  have hstrm : strmOf (setStrm s (4 * p + j) ((strmOf s (4 * p + j)).expired t)) (4 * p + j) = (strmOf s (4 * p + j)).expired t :=
    strmOf_setStrm_same ..
  unfold expire
  rw [if_pos h]
  split
  · exact ⟨hstrm, rfl⟩
  · split
    · exact ⟨hstrm, rfl⟩
    · exact ⟨hstrm, rfl⟩

theorem retentionExpiry_expired {s : State} {p : Fin 64} {src : Fin 4} (t0 : Stamp) (h : retaining s (4 * p.val + src.val) = true) :
    Completes (exec (.retentionExpiry p src t0) s) fun t =>
      strmOf t (4 * p.val + src.val) = (strmOf s (4 * p.val + src.val)).expired t0 ∧ SameBut [] s t := by
  obtain ⟨b, hb⟩ := reach_cycle s (t0 + ticks (getF s F.ACQ_PRE_T p.val + 6400))
  obtain ⟨hstrm, hregs⟩ := expire_expired (s := begunAt s b) h t0
  refine ⟨expire (begunAt s b) p.val src.val t0, ?_, hstrm, (SameBut.refl _ s).of_regs hregs⟩
  rw [← hb]
  exact congrArg Host.Outcome.next (if_pos h)

/-- The stream whose FILLING granule `g` has been handed to drain (R264). -/
def Strm.handed (x : Strm) (g : Gran) (flush : Bool) : Strm :=
  { x with fill := none, queue := x.queue ++ [{ g with gst := .queued, flush := flush, gseq := x.gseq }], gseq := x.gseq + 1,
           closed := x.closed + 512 }

theorem handOff_handed {s : State} {k : Nat} {g : Gran} (h : (strmOf s k).fill = some g) (flush : Bool) :
    handOff s k flush = setStrm s k ((strmOf s k).handed g flush) := by
  simp only [handOff, h]
  rfl

theorem granuleFlushTimeout_handed {s : State} {k : Fin 256} {g : Gran} (h : (strmOf s k.val).fill = some g)
    (hr : (retaining s k.val && g.hasItem) = false) : Completes (exec (.granuleFlushTimeout k) s) fun t =>
      strmOf t k.val = (strmOf s k.val).handed g true ∧ SameBut [] s t := by
  obtain ⟨b, hb⟩ := reach_cycle s (g.opened + ticks (1600 * Nat.max 1 (getF s F.SLU_SLUCTL_FLUSHT 0)))
  have hhand := handOff_handed (s := begunAt s b) h true
  refine ⟨handOff (begunAt s b) k.val true, ?_, ?_, ?_⟩
  · rw [← hb]
    unfold exec execGranuleFlushTimeout
    simp only [show (strmOf (cycle s) k.val).fill = some g from h]
    exact congrArg Host.Outcome.next (if_neg (by simp [show (retaining (cycle s) k.val && g.hasItem) = false from hr]))
  · rw [hhand, strmOf_setStrm_same]
    rfl
  · rw [hhand]
    exact (SameBut.refl _ s).of_regs rfl

end Sys2Proof.Machine
end

section
/-! SPILLRD_WRITE (R267, R273). -/

namespace Sys2Proof.Machine

theorem pageFields_spillrd : pageFields .slu 0 0x064 = [F.SLU_SPILLRD_LO_A] ∧ pageFields .slu 0 0x068 = [F.SLU_SPILLRD_HI_A] := by
  decide +kernel

/-- The write of either half of SPILLRD reaches the pointer (R63). -/
theorem exec_spillrdWrite {s : State} {i : Initiator} {hi : Bool} (v : Word)
    (h : mayWrite s i .slu 0 (if hi then 0x068 else 0x064) = true) :
    exec (.spillrdWrite i hi v) s = .next (spillrdSet (cycle s) hi v.toNat) := by
  obtain ⟨hlo, hhi⟩ := pageFields_spillrd
  refine congrArg Host.Outcome.next ?_
  cases hi
  · refine (hostWrite_effective h (by decide) (by decide) (by simp only [Bool.false_eq_true, if_false, hlo]; decide)
      (fun hemb => by simp [hlo, lockedF, hemb]) v.toNat).trans ?_
    simp only [Bool.false_eq_true, if_false, hlo]
    rfl
  · refine (hostWrite_effective h (by decide) (by decide) (by simp only [if_true, hhi]; decide)
      (fun hemb => by simp [hhi, lockedF, hemb]) v.toNat).trans ?_
    simp only [if_true, hhi]
    rfl

/-- The read pointer that a write of one half of SPILLRD makes. -/
def spillrdTo (s : State) (hi : Bool) (v : Word) : Nat :=
  if hi then 512 * getF s F.SLU_SPILLRD_LO_A 0 + 2 ^ 32 * (v.toNat % 256)
  else 512 * (v.toNat / 512) + 2 ^ 32 * getF s F.SLU_SPILLRD_HI_A 0

/-- The state in which that half of SPILLRD has been stored. -/
def spillrdStored (s : State) (hi : Bool) (v : Word) : State :=
  if hi then setF s F.SLU_SPILLRD_HI_A 0 (bits v.toNat 0 8) else setF s F.SLU_SPILLRD_LO_A 0 (bits v.toNat 9 23)

theorem getF_spillrdStored (s : State) (hi : Bool) (v : Word) {f : Fld} (n : Nat)
    (h : f.tag ∉ [F.SLU_SPILLRD_LO_A.tag, F.SLU_SPILLRD_HI_A.tag]) : getF (spillrdStored s hi v) f n = getF s f n := by
  simp only [List.mem_cons, List.not_mem_nil, or_false, not_or] at h
  unfold spillrdStored
  rw [getF_ite, getF_setF_tag _ _ _ _ h.2, getF_setF_tag _ _ _ _ h.1, ite_self]

theorem spillRd_spillrdStored (s : State) (hi : Bool) (v : Word) : spillRd (spillrdStored s hi v) = spillrdTo s hi v := by
  have hv : v.toNat < 2 ^ 32 := v.isLt
  cases hi
  all_goals
    simp (disch := decide) only [spillRd, spillrdStored, spillrdTo, Bool.false_eq_true, if_false, if_true, getF_setF_same, getF_setF_tag,
      bits]
  · show 512 * (v.toNat / 2 ^ 9 % 2 ^ 23 % 2 ^ 23) + _ = _
    omega
  · show _ + 2 ^ 32 * (v.toNat / 2 ^ 0 % 2 ^ 8 % 2 ^ 8) = _
    omega

/-- The ring becomes full as the read pointer comes to stand behind the write pointer (R273). -/
theorem becomesFull_spillrdStored (s : State) (hi : Bool) (v : Word) :
    (!spillFull s && spillFull (spillrdStored s hi v)) = true ↔
      spillFull s = false ∧ spillNext s (spillWr s) = spillrdTo s hi v := by
  have hnext : spillNext (spillrdStored s hi v) (spillWr (spillrdStored s hi v)) = spillNext s (spillWr s) := by
    have hlim : spillLim (spillrdStored s hi v) = spillLim s := by simp (disch := decide) only [spillLim, getF_spillrdStored]
    have hbase : spillBase (spillrdStored s hi v) = spillBase s := by simp (disch := decide) only [spillBase, getF_spillrdStored]
    have hwr : spillWr (spillrdStored s hi v) = spillWr s := by simp (disch := decide) only [spillWr, getF_spillrdStored]
    rw [spillNext, hlim, hbase, hwr, spillNext]
  rw [spillFull, spillFull, hnext, spillRd_spillrdStored]
  simp

theorem spillrdStored_sameBut (s : State) (hi : Bool) (v : Word) :
    SameBut [(F.SLU_SPILLRD_LO_A, 0), (F.SLU_SPILLRD_HI_A, 0)] s (spillrdStored s hi v) := by
  cases hi
  · exact (SameBut.refl _ s).setF _ _ _ (by simp)
  · exact (SameBut.refl _ s).setF _ _ _ (by simp)

theorem spillrdSet_eq (s : State) (hi : Bool) (v : Word) : spillrdSet s hi v.toNat =
    if spillBase s ≤ spillrdTo s hi v ∧ spillrdTo s hi v < spillLim s then
      raiseIf (!spillFull s && spillFull (spillrdStored s hi v)) (spillrdStored s hi v) .slu 0 E.SLU_SPILL_FULL
    else raise s .slu 0 E.SLU_SPILLRD_ERR := by
  rw [← spillRd_spillrdStored]
  rfl

/-- What a write of SPILLRD to `a` inside the ring brings about, `full` where the ring becomes full by it (R267, R273). -/
structure SpillrdTaken (s : State) (a : Nat) (full : Prop) (t : State) : Prop where
  rd : spillRd t = a
  evt : full → (getF t (F.EVT .slu) 0).testBit E.SLU_SPILL_FULL = true
  frame : SameBut [(F.SLU_SPILLRD_LO_A, 0), (F.SLU_SPILLRD_HI_A, 0), (F.EVT .slu, 0), (F.EVT_SEQ .slu, 0)] s t
  quiet : ¬ full → SameBut [(F.SLU_SPILLRD_LO_A, 0), (F.SLU_SPILLRD_HI_A, 0)] s t

theorem spillrdSet_taken {s : State} {hi : Bool} {v : Word} (h : spillBase s ≤ spillrdTo s hi v ∧ spillrdTo s hi v < spillLim s) :
    SpillrdTaken s (spillrdTo s hi v) (spillFull s = false ∧ spillNext s (spillWr s) = spillrdTo s hi v)
      (spillrdSet s hi v.toNat) := by
  have hrd := spillRd_spillrdStored s hi v
  have hframe := spillrdStored_sameBut s hi v
  rw [spillrdSet_eq, if_pos h, ← becomesFull_spillrdStored]
  by_cases hfull : (!spillFull s && spillFull (spillrdStored s hi v)) = true
  · rw [raiseIf, if_pos hfull]
    refine ⟨?_, fun _ => evt_raise _ _ _ _ (by decide), (hframe.mono (by simp)).raise _ _ _ (by simp) (by simp), absurd hfull⟩
    unfold spillRd at hrd ⊢
    rwa [getF_raise _ _ _ _ _ _ (by decide) (by decide), getF_raise _ _ _ _ _ _ (by decide) (by decide)]
  · rw [raiseIf, if_neg hfull]
    exact ⟨hrd, fun hf => absurd hf hfull, hframe.mono (by simp), fun _ => hframe⟩

end Sys2Proof.Machine
end

section
/-! SPILLWAY_EVALUATION (R268, R269): the evaluation of one stream leaves what the others are judged by, and what it has made of its own
stands to the end of the command. -/

namespace Sys2Proof.Machine

/-- One stream at an evaluation: judged with SPW_EN, else only its interval restarts (R269). -/
def spwStep (z s : State) (k : Nat) : State := if cfgSpwEn s k then spwEval z s k else setStrm s k { strmOf s k with closed := 0 }

/-! What the evaluation of stream `j` leaves. -/

theorem steps_tags (k : Nat) :
    (F.SLU_X3_SPWSTEPS k).tag ≠ (F.EVT .slu).tag ∧ (F.SLU_X3_SPWSTEPS k).tag ≠ (F.EVT_SEQ .slu).tag := by
  simp only [Fld.tag, fldKey, Page.code]
  omega

/-- `φ` sees nothing of what the evaluation of stream `j` writes: its records, its factor and the count of its steps with SPW_STEP. -/
structure OffEval {α : Type} (j : Nat) (φ : State → α) : Prop extends OffStream j φ where
  factor : ∀ s d, φ (setF s (F.SLU_X3_DFLOG j) 0 d) = φ s
  step : ∀ s, φ (addCt (raise s .slu 0 E.SLU_SPW_STEP) (F.SLU_X3_SPWSTEPS j) 0 1) = φ s

theorem stream_eq (j : Nat) (h : strmSrc j = 3) : 4 * strmPol j + 3 = j := by
  unfold strmSrc at h
  unfold strmPol
  omega

/-- The samples of the polder become records where the stream is that of the pin scope (R272). -/
theorem OffStream.flushOwn {α : Type} {φ : State → α} {j : Nat} (H : OffStream j φ) (s : State) :
    φ (if strmSrc j = 3 then Machine.flushScopes s (strmPol j) else s) = φ s := by
  split
  · next h => exact OffStream.flushScopes (p := strmPol j) (by rwa [stream_eq j h]) s
  · rfl

theorem OffStream.setDflog {α : Type} {φ : State → α} {j : Nat} (H : OffStream j φ)
    (hfactor : ∀ s d, φ (setF s (F.SLU_X3_DFLOG j) 0 d) = φ s) (s : State) (d : Nat) : φ (setDflog s j d) = φ s := by
  unfold Machine.setDflog
  rw [apply_ite φ, hfactor, apply_ite φ, H.retain, H.handOff, ite_self, ite_self]

theorem OffEval.spwStep {α : Type} {φ : State → α} {j : Nat} (H : OffEval j φ) (z s : State) : φ (spwStep z s j) = φ s := by
  unfold Machine.spwStep
  split
  · unfold spwEval
    extract_lets r x s0 s1
    have h0 : φ s0 = φ s := H.strm ..
    split
    · exact h0
    · exact (H.step _).trans ((H.setDflog H.factor ..).trans ((H.flushOwn s0).trans h0))
  · exact H.strm ..

theorem strmOf_congr {s t : State} (h : t.strms = s.strms) (k : Nat) : strmOf t k = strmOf s k := by unfold strmOf; rw [h]

theorem raise_wide (s : State) (p : Page) (n b : Nat) : (raise s p n b).wide = s.wide := by
  obtain ⟨-, -, -, -, -, -, h, -⟩ := raise_parts s p n b
  exact h

theorem offEval_strm {j k : Nat} (h : k ≠ j) : OffEval j fun s => strmOf s k where
  strm s x := strmOf_setStrm_ne s x h
  pool _ _ := rfl
  free _ _ := rfl
  unit _ _ _ _ := rfl
  drop s := strmOf_congr (strms_raise s ..) k
  factor _ _ := rfl
  step s := strmOf_congr (strms_raise s ..) k

theorem offEval_wide (j : Nat) : OffEval j State.wide where
  strm _ _ := rfl
  pool _ _ := rfl
  free _ _ := rfl
  unit _ _ _ _ := rfl
  drop s := raise_wide s ..
  factor _ _ := rfl
  step s := raise_wide s ..

theorem offEval_getF {f : Fld} {n j : Nat} (he : f.tag ≠ (F.EVT .slu).tag) (hs : f.tag ≠ (F.EVT_SEQ .slu).tag)
    (h : ∀ g ∈ [F.SLU_X3_DROPCNT j, F.SLU_X3_DFLOG j, F.SLU_X3_SPWSTEPS j], f.key n ≠ g.key 0) : OffEval j fun s => getF s f n where
  toOffStream := offStream_getF he hs (h _ (by simp))
  factor _ _ := getF_setF_ne _ _ (h _ (by simp))
  step _ := (getF_setF_ne _ _ (h _ (by simp))).trans (getF_raise _ _ _ _ _ _ he hs)

theorem offEval_dflog {j k : Nat} (h : k ≠ j) : OffEval j fun s => dflog s k :=
  offEval_getF (dflog_tags k).1 (dflog_tags k).2
    (by simp only [List.forall_mem_cons, List.not_mem_nil, false_implies, implies_true, and_true, Fld.key, fldKey]; omega)

theorem offEval_steps {j k : Nat} (h : k ≠ j) : OffEval j fun s => getF s (F.SLU_X3_SPWSTEPS k) 0 :=
  offEval_getF (steps_tags k).1 (steps_tags k).2
    (by simp only [List.forall_mem_cons, List.not_mem_nil, false_implies, implies_true, and_true, Fld.key, fldKey]; omega)

theorem offEval_rlxn (j : Nat) : OffEval j fun s => getF s F.SLU_SLUCTL_RLXN 0 :=
  offEval_getF (by decide) (by decide)
    (by simp only [List.forall_mem_cons, List.not_mem_nil, false_implies, implies_true, and_true, Fld.key, fldKey]; omega)

/-- No evaluation takes SPW_STEP back. -/
theorem spwStep_evt {z s : State} {j : Nat} (h : (getF s (F.EVT .slu) 0).testBit E.SLU_SPW_STEP = true) :
    (getF (spwStep z s j) (F.EVT .slu) 0).testBit E.SLU_SPW_STEP = true := by
  unfold spwStep
  split
  · unfold spwEval
    extract_lets r y s0 s1
    split
    · exact h
    · rw [getF_addCt_tag _ _ _ _ (steps_tags j).1.symm]
      exact evt_raise _ _ _ _ (by decide)
  · exact h

/-! One stream judged. -/

/-- What stream `k` is judged by, and the count of its steps, are in `u` as in `z`. -/
structure SpwSame (k : Nat) (z u : State) : Prop where
  strm : strmOf u k = strmOf z k
  dflog : dflog u k = dflog z k
  steps : getF u (F.SLU_X3_SPWSTEPS k) 0 = getF z (F.SLU_X3_SPWSTEPS k) 0
  rlxn : getF u F.SLU_SLUCTL_RLXN 0 = getF z F.SLU_SLUCTL_RLXN 0
  wide : u.wide = z.wide

theorem SpwSame.other {j k : Nat} {z u : State} (h : SpwSame k z u) (hj : k ≠ j) : SpwSame k z (spwStep z u j) where
  strm := ((offEval_strm hj).spwStep ..).trans h.strm
  dflog := ((offEval_dflog hj).spwStep ..).trans h.dflog
  steps := ((offEval_steps hj).spwStep ..).trans h.steps
  rlxn := ((offEval_rlxn j).spwStep ..).trans h.rlxn
  wide := ((offEval_wide j).spwStep ..).trans h.wide

theorem spwNext_congr {k : Nat} {z u : State} (h : SpwSame k z u) : spwNext z u k = spwNext z z k := by
  unfold spwNext held cfgHwm cfgLwm cfgCap cfgDfmax wideF getWide
  rw [h.strm, h.dflog, h.rlxn, h.wide]

theorem cfgSpwEn_congr {k : Nat} {z u : State} (h : SpwSame k z u) : cfgSpwEn u k = cfgSpwEn z k := by
  unfold cfgSpwEn wideF getWide
  rw [h.wide]

/-- The factor of stream `k` after the evaluation in `z`. -/
def nextFactor (z : State) (k : Nat) : Nat := if cfgSpwEn z k then (spwNext z z k).2 else dflog z k

/-- Stream `k` has its factor after the evaluation, and a change of it has been counted (R269). -/
def SpwJudged (k : Nat) (z t : State) : Prop :=
  dflog t k = nextFactor z k ∧ (nextFactor z k ≠ dflog z k → (getF t (F.EVT .slu) 0).testBit E.SLU_SPW_STEP = true ∧
    getF t (F.SLU_X3_SPWSTEPS k) 0 = min (getF z (F.SLU_X3_SPWSTEPS k) 0 + 1) (2 ^ (F.SLU_X3_SPWSTEPS k).w.val - 1))

theorem SpwJudged.other {j k : Nat} {z t : State} (h : SpwJudged k z t) (hj : k ≠ j) : SpwJudged k z (spwStep z t j) := by
  obtain ⟨hfactor, hstep⟩ := h
  refine ⟨((offEval_dflog hj).spwStep ..).trans hfactor, fun hne => ?_⟩
  obtain ⟨hevt, hcount⟩ := hstep hne
  exact ⟨spwStep_evt hevt, ((offEval_steps hj).spwStep ..).trans hcount⟩

/-- R269 as its cases: the factor rises, falls or stays. -/
theorem spwNext_factor (z s : State) (k : Nat) : (spwNext z s k).2 =
    if (shareTimesW z k < sumWeights z k * (strmOf s k).closed * 10 ∧ cfgHwm s k * cfgCap s k < held s k * 16) ∧
      dflog s k < cfgDfmax s k then dflog s k + 1
    else if max 1 (getF s F.SLU_SLUCTL_RLXN 0) ≤ (if held s k * 16 < cfgLwm s k * cfgCap s k then (strmOf s k).low + 1 else 0)
      then dflog s k - 1
    else dflog s k := by
  unfold spwNext
  simp only [Bool.and_eq_true, decide_eq_true_eq, gt_iff_lt, apply_ite Prod.snd]

theorem spwNext_lt (z s : State) (k : Nat) : (spwNext z s k).2 < 16 := by
  have hdf := dflog_lt s k
  have hmax : cfgDfmax s k ≤ 8 := Nat.min_le_left ..
  rw [spwNext_factor]
  split_ifs <;> omega

theorem steps_key (j k : Nat) : (F.SLU_X3_DFLOG k).key 0 ≠ (F.SLU_X3_SPWSTEPS j).key 0 := by
  simp only [Fld.key, fldKey]
  omega

theorem offStream_steps (k : Nat) : OffStream k fun s => getF s (F.SLU_X3_SPWSTEPS k) 0 :=
  offStream_getF (steps_tags k).1 (steps_tags k).2 (by simp only [Fld.key, fldKey]; omega)

theorem spwStep_judged {k : Nat} {z u : State} (h : SpwSame k z u) : SpwJudged k z (spwStep z u k) := by
  unfold spwStep SpwJudged nextFactor
  rw [cfgSpwEn_congr h]
  split
  · unfold spwEval
    rw [spwNext_congr h, h.dflog]
    extract_lets r x s0 s1
    split
    · next hsame => exact ⟨h.dflog.trans hsame.symm, fun hne => absurd hsame hne⟩
    · have hsteps : getF (setDflog s1 k r.2) (F.SLU_X3_SPWSTEPS k) 0 = getF z (F.SLU_X3_SPWSTEPS k) 0 :=
        ((offStream_steps k).setDflog (fun _ _ => getF_setF_ne _ _ (steps_key k k).symm) ..).trans
          (((offStream_steps k).flushOwn s0).trans h.steps)
      refine ⟨?_, fun _ => ⟨?_, ?_⟩⟩
      · refine (getF_setF_ne _ _ (steps_key k k)).trans ((getF_raise _ _ _ _ _ _ (dflog_tags k).1 (dflog_tags k).2).trans ?_)
        refine (dflog_setDflog ..).trans ?_
        rw [if_pos rfl, Nat.mod_eq_of_lt (spwNext_lt ..)]
      · rw [getF_addCt_tag _ _ _ _ (steps_tags k).1.symm]
        exact evt_raise _ _ _ _ (by decide)
      · rw [getF_addCt_same, getF_raise _ _ _ _ _ _ (steps_tags k).1 (steps_tags k).2, hsteps]
  · exact ⟨h.dflog, fun hne => absurd rfl hne⟩

/-- Of a list without repetitions, what holds up to stream `k`, what its evaluation brings about and what the others leave of that. -/
theorem forAll_once {I P : State → Prop} {g : State → Nat → State} {k : Nat} (hI : ∀ s j, k ≠ j → I s → I (g s j))
    (hset : ∀ s, I s → P (g s k)) (hkeep : ∀ s j, k ≠ j → P s → P (g s j)) {l : List Nat} (hl : l.Nodup) (hk : k ∈ l) {s : State}
    (hs : I s) : P (forAll l s g) := by
  induction l generalizing s with
  | nil => cases hk
  | cons j l ih =>
    obtain ⟨hj, hl⟩ := List.nodup_cons.mp hl
    by_cases hjk : k = j
    · subst hjk
      exact List.foldlRecOn (motive := P) l g (hset s hs) fun t ht j hjl => hkeep t j (fun e => hj (e ▸ hjl)) ht
    · exact ih hl ((List.mem_cons.mp hk).resolve_left hjk) (hI s j hjk hs)

theorem spillwayEvaluation_judged (k : Fin 256) (s : State) : Completes (exec .spillwayEvaluation s) (SpwJudged k.val s) := by
  obtain ⟨b, hb⟩ := reach_cycle s (evalStamp (cycle s))
  refine ⟨forAll (List.range 256) (begunAt s b) (spwStep (begunAt s b)), ?_, ?_⟩
  · rw [← hb]
    rfl
  · exact forAll_once (I := SpwSame k.val (begunAt s b)) (P := SpwJudged k.val (begunAt s b)) (fun _ _ hj h => h.other hj)
      (fun _ h => spwStep_judged h) (fun _ _ hj h => h.other hj) List.nodup_range (List.mem_range.mpr k.isLt) ⟨rfl, rfl, rfl, rfl, rfl⟩

end Sys2Proof.Machine
end

section
/-! The commands of the pool together: retention, flush, Spillway, SPILLRD. -/

namespace Sys2Proof.Machine

/-- Settles O38: the evaluation by `forAll_once`, for a stream is judged by what the evaluations of the others leave (`SpwSame.other`);
retention by `expire_expired`, the flush by `handOff_handed`, the pointer by `spillrdSet_taken`. -/
theorem poolCommands : Obligations.PoolCommands := by
  unfold Obligations.PoolCommands
  intro i p src t0 k hi v s
  refine ⟨?_, fun g hg hr => ?_, ?_, ?_⟩
  · intro j hr
    obtain ⟨t, ht, hstrm, hframe⟩ := retentionExpiry_expired t0 hr
    exact ⟨t, ht, congrArg Strm.retained hstrm, (congrArg Strm.fill hstrm).trans rfl, hframe, (congrArg Strm.queue hstrm).trans rfl⟩
  · obtain ⟨t, ht, hstrm, hframe⟩ := granuleFlushTimeout_handed hg hr
    exact ⟨t, ht, congrArg Strm.fill hstrm, congrArg Strm.gseq hstrm, congrArg Strm.queue hstrm, hframe⟩
  · obtain ⟨t, ht, hfactor, hstep⟩ := spillwayEvaluation_judged k s
    refine ⟨t, ht, ?_, fun hne => hstep (hfactor ▸ hne)⟩
    rw [hfactor, nextFactor, spwNext_factor]
    cases cfgSpwEn s k.val <;> rfl
  · intro hw a
    refine ⟨fun hin => ?_, fun hout => ?_⟩
    · obtain ⟨hrd, hevt, hframe, hquiet⟩ := spillrdSet_taken (s := cycle s) hin
      exact ⟨_, exec_spillrdWrite v hw, hrd, hevt, hframe, hquiet⟩
    · refine ⟨_, exec_spillrdWrite v hw, ?_⟩
      rw [(spillrdSet_eq (cycle s) hi v).trans (if_neg hout)]
      exact ⟨evt_raise _ _ _ _ (by decide), SameBut.raise (t := cycle s) (SameBut.refl _ s) _ _ _ (by simp) (by simp)⟩

end Sys2Proof.Machine
end
